-- ==== Sys2Proof/Word.lean ====
section
/-! DEFINITION. The plainest data of the links: bytes and 32-bit values (R193, R195). -/

namespace Sys2Proof

/-- One byte of a frame (R193). -/
abbrev Byte := BitVec 8

/-- A 32-bit value: a reference, a tag, an entry order (R42). -/
abbrev Word := BitVec 32

end Sys2Proof
end

