-- ==== Sys2Proof/Config.lean ====
section
/-! DEFINITION. The figures the manual fixes for every NL-812: capacities, fixed limits and reset defaults.
The manual leaves no computed value undefined, so no free value stands here (INVENTORY.md, What the manual leaves open). -/

namespace Sys2Proof.Config

/-- Cells of all configured aisles together (R4). -/
def cellCapacity : Nat := 32768
/-- Slots kept back from order-link entry (R40). -/
def slotReserve : Nat := 8
/-- Places of a notice queue (R199). -/
def queueCapacity : Nat := 32
/-- Records one FETCH returns at most (R200). -/
def fetchLimit : Nat := 4
/-- Replies that may wait on a link's transmit list (R196). -/
def replyLimit : Nat := 4
/-- Entries of the wave table (R163). -/
def waveCapacity : Nat := 16
/-- Jobs one selection considers at most (R73). -/
def windowSize : Nat := 32
/-- Stores of a window that are paired (R75). -/
def pairStores : Nat := 4
/-- The bound at which times, keys and scores saturate (R32, R77). -/
def timeBound : Nat := 16777215
/-- tGAP, the silence at which a frame is discarded (R194). -/
def tGap : Nat := 5
/-- Milliseconds between two aging ticks in TIME mode (R63). -/
def agingTick : Nat := 100
/-- The fixed part of a step deadline (R143). -/
def deadlineSlack : Nat := 10000
/-- Bytes of payload a fault report carries at most (R182). -/
def faultPayload : Nat := 16
/-- The largest payload of a frame (R193). -/
def maxPayload : Nat := 63

/-- Quota of each order link after power-on (R41). -/
def quotaDefault : Nat := 124
/-- Aging start count after power-on (R65). -/
def startCountDefault : Nat := 600
/-- Aging weight after power-on (R65). -/
def weightDefault : Nat := 1000
/-- tPAIR after power-on (R89). -/
def tPairDefault : Nat := 4000
/-- Waste after power-on (R23, R89). -/
def wasteDefault : Nat := 5000
/-- tOFFER after power-on (R149). -/
def tOfferDefault : Nat := 2000
/-- tPARK after power-on (R149). -/
def tParkDefault : Nat := 120000
/-- tBACKOFF after power-on (R149). -/
def tBackoffDefault : Nat := 30000
/-- Deadline factor F after power-on (R149). -/
def factorDefault : Nat := 200
/-- Strike limit after power-on (R149). -/
def strikeLimitDefault : Nat := 3

end Sys2Proof.Config
end

