-- ==== Sys2Proof/Syntax.lean ====
section
/-! DEFINITION. The commands of the NL-812: one constructor of `Instr` for each row of spec/opcode_table.json, and the
names (links, aisles, cranes, cells, handles, fault kinds) that their operands use. A frame's operand is its payload,
byte for byte as R195, R203 and R204 lay it out; `Decode.lean` reads it. -/

namespace Sys2Proof

/-- The two order links (00_scope.md, Links and lines). -/
inductive OrderLink where
  | o0 | o1
  deriving DecidableEq, Repr

/-- Aisles A0 to A7. -/
abbrev AisleId := Fin 8

/-- A crane is named by its link, C0 to C11 (R125). -/
abbrev CraneId := Fin 12

/-- The fifteen serial links (R192). -/
inductive Link where
  | order (l : OrderLink)
  | station
  | crane (c : CraneId)
  deriving DecidableEq, Repr

/-- The source of a fault: a link, or INTERNAL (R182). -/
inductive FaultSource where
  | link (l : Link)
  | internal
  deriving DecidableEq, Repr

/-- FRONT or REAR: the end of an aisle, and the role of a crane (R125). -/
inductive End where
  | front | rear
  deriving DecidableEq, Repr

/-- The side of a cell (Conventions, Cells). -/
inductive Side where
  | left | right
  deriving DecidableEq, Repr

/-- The depth of a cell: N (near) or D (deep). -/
inductive Depth where
  | near | deep
  deriving DecidableEq, Repr

/-- A cell named by aisle, side, bay, level and depth (Conventions, Cells; R195). -/
structure CellAddr where
  aisle : AisleId
  side : Side
  bay : Nat
  level : Nat
  depth : Depth
  deriving DecidableEq, Repr

/-- The name of a job: its slot and the generation the slot carried when the job took it (R37). -/
structure Handle where
  slot : Fin 256
  gen : Fin 16
  deriving DecidableEq, Repr

/-- A height class, 0..3: a fit class, a load class, and an urgency class (R12, R42). -/
abbrev Class := Fin 4

/-- The fourteen fault kinds, in the order of R181. -/
inductive FaultKind where
  | linkFrame | staleMessage | foreignReport | craneRetired | stepOverdue | parkTimeout | craneFault
  | craneRestart | doubleOccupancy | emptyRetrieval | stationProtocol | dockOrder | loadRejected | railBreach
  deriving DecidableEq, Repr

/-- What a block hands to the Fault Log (R182). -/
structure FaultReport where
  kind : FaultKind
  source : FaultSource
  aisle : Option AisleId
  job : Option Handle
  payload : List Byte
  deriving DecidableEq, Repr

/-- The levels of the pins that a release of reset samples: the two rate straps (R192) and the eight GATE lines
(R178); `true` is high. -/
structure PinLevels where
  rate1 : Bool
  rate0 : Bool
  gates : Vector Bool 8
  deriving DecidableEq, Repr

/-- The commands and events of the part, one constructor per row of spec/opcode_table.json. -/
inductive Instr where
  -- pins
  | powerOn (pins : PinLevels)
  | pinReset (pins : PinLevels)
  | gateChange (aisle : AisleId) (high : Bool)
  -- link layer
  | frameDiscarded (link : Link) (afterType : List Byte)
  | tgapExpiry (link : Link)
  | frameSent (link : Link) (moreParts : Bool)
  -- order commands
  | enterStore (link : OrderLink) (payload : List Byte)
  | enterRetrieve (link : OrderLink) (payload : List Byte)
  | cancel (link : OrderLink) (payload : List Byte)
  | resolve (link : OrderLink) (payload : List Byte)
  | setCell (link : OrderLink) (payload : List Byte)
  | setRun (link : OrderLink) (payload : List Byte)
  | loadProfile (link : OrderLink) (payload : List Byte)
  | mapCrane (link : OrderLink) (payload : List Byte)
  | service (link : OrderLink) (payload : List Byte)
  | holdAisle (link : OrderLink) (payload : List Byte)
  | releaseAisle (link : OrderLink) (payload : List Byte)
  | openWave (link : OrderLink) (payload : List Byte)
  | closeWave (link : OrderLink) (payload : List Byte)
  | setPolicy (link : OrderLink) (payload : List Byte)
  | setFaultControl (link : OrderLink) (payload : List Byte)
  | clearFault (link : OrderLink) (payload : List Byte)
  | clearAisleFault (link : OrderLink) (payload : List Byte)
  | queryJob (link : OrderLink) (payload : List Byte)
  | queryPool (link : OrderLink) (payload : List Byte)
  | queryCell (link : OrderLink) (payload : List Byte)
  | queryAisle (link : OrderLink) (payload : List Byte)
  | queryCrane (link : OrderLink) (payload : List Byte)
  | queryWave (link : OrderLink) (payload : List Byte)
  | queryFaults (link : OrderLink) (payload : List Byte)
  | fetch (link : OrderLink) (payload : List Byte)
  | restart (link : OrderLink) (payload : List Byte)
  -- a restart taking effect
  | restartSoft
  | restartHard
  -- station commands
  | arrive (payload : List Byte)
  | outputFree (payload : List Byte)
  | dockTaken (payload : List Byte)
  -- crane messages
  | hello (crane : CraneId) (payload : List Byte)
  | ask (crane : CraneId) (payload : List Byte)
  | accept (crane : CraneId) (payload : List Byte)
  | refuse (crane : CraneId) (payload : List Byte)
  | picked (crane : CraneId) (payload : List Byte)
  | dropped (crane : CraneId) (payload : List Byte)
  | cellOccupied (crane : CraneId) (payload : List Byte)
  | cellEmpty (crane : CraneId) (payload : List Byte)
  | pos (crane : CraneId) (payload : List Byte)
  | cleared (crane : CraneId) (payload : List Byte)
  | parked (crane : CraneId) (payload : List Byte)
  | late (crane : CraneId) (payload : List Byte)
  | fault (crane : CraneId) (payload : List Byte)
  | recovered (crane : CraneId) (payload : List Byte)
  -- timers
  | offerTimerExpiry (crane : CraneId)
  | holdBackExpiry (crane : CraneId)
  | parkTimerExpiry (crane : CraneId)
  | backoffExpiry (crane : CraneId)
  | stepDeadlineExpiry (crane : CraneId)
  | agingStep
  -- events between the blocks
  | selection (crane : CraneId)
  | preemptionCheck (job : Handle)
  | slotSearch (job : Handle)
  | relocationRequest (job : Handle)
  | reEvaluation (job : Handle)
  | storeHandOver (job : Handle) (source : OrderLink) (payload : List Byte)
  | closingWaitPlacement (link : OrderLink)
  | faultReport (report : FaultReport)
  | faultSourceSet (aisle : AisleId)
  | faultSourceClear (aisle : AisleId)
  | byteReceived (link : Link) (byte : Byte)
  | agingCounterTick
  deriving DecidableEq, Repr

end Sys2Proof
end

