-- ==== Sys2Proof/WellFormed.lean ====
section
/-! DEFINITION. The checks on a command that its type does not make: a payload fits a frame (R193) and a fault's
payload fits its report (R182). -/

namespace Sys2Proof

/-- A payload of 0 to 63 bytes fits one frame (R193). -/
def payloadFits (p : List Byte) : Bool := p.length ≤ Config.maxPayload

/-- A fault report's payload is of 0 to 16 bytes (R182). -/
def faultPayloadFits (p : List Byte) : Bool := p.length ≤ Config.faultPayload

/-- A command as the links and blocks can form it. -/
def Instr.wellFormed : Instr → Bool
  | .powerOn _ => true
  | .pinReset _ => true
  | .gateChange _ _ => true
  | .frameDiscarded _ p => faultPayloadFits p
  | .tgapExpiry _ => true
  | .frameSent _ _ => true
  | .enterStore _ p => payloadFits p
  | .enterRetrieve _ p => payloadFits p
  | .cancel _ p => payloadFits p
  | .resolve _ p => payloadFits p
  | .setCell _ p => payloadFits p
  | .setRun _ p => payloadFits p
  | .loadProfile _ p => payloadFits p
  | .mapCrane _ p => payloadFits p
  | .service _ p => payloadFits p
  | .holdAisle _ p => payloadFits p
  | .releaseAisle _ p => payloadFits p
  | .openWave _ p => payloadFits p
  | .closeWave _ p => payloadFits p
  | .setPolicy _ p => payloadFits p
  | .setFaultControl _ p => payloadFits p
  | .clearFault _ p => payloadFits p
  | .clearAisleFault _ p => payloadFits p
  | .queryJob _ p => payloadFits p
  | .queryPool _ p => payloadFits p
  | .queryCell _ p => payloadFits p
  | .queryAisle _ p => payloadFits p
  | .queryCrane _ p => payloadFits p
  | .queryWave _ p => payloadFits p
  | .queryFaults _ p => payloadFits p
  | .fetch _ p => payloadFits p
  | .restart _ p => payloadFits p
  | .restartSoft => true
  | .restartHard => true
  | .arrive p => payloadFits p
  | .outputFree p => payloadFits p
  | .dockTaken p => payloadFits p
  | .hello _ p => payloadFits p
  | .ask _ p => payloadFits p
  | .accept _ p => payloadFits p
  | .refuse _ p => payloadFits p
  | .picked _ p => payloadFits p
  | .dropped _ p => payloadFits p
  | .cellOccupied _ p => payloadFits p
  | .cellEmpty _ p => payloadFits p
  | .pos _ p => payloadFits p
  | .cleared _ p => payloadFits p
  | .parked _ p => payloadFits p
  | .late _ p => payloadFits p
  | .fault _ p => payloadFits p
  | .recovered _ p => payloadFits p
  | .offerTimerExpiry _ => true
  | .holdBackExpiry _ => true
  | .parkTimerExpiry _ => true
  | .backoffExpiry _ => true
  | .stepDeadlineExpiry _ => true
  | .agingStep => true
  | .selection _ => true
  | .preemptionCheck _ => true
  | .slotSearch _ => true
  | .relocationRequest _ => true
  | .reEvaluation _ => true
  | .storeHandOver _ _ p => payloadFits p
  | .closingWaitPlacement _ => true
  | .faultReport r => faultPayloadFits r.payload
  | .faultSourceSet _ => true
  | .faultSourceClear _ => true
  | .byteReceived _ _ => true
  | .agingCounterTick => true

end Sys2Proof
end

