-- ==== Sys2Proof/Decode.lean ====
section
/-! DEFINITION. The coding of frames and fields (R193, R195, R203, R204), read and written: field readers and writers,
the payload readers of every message the part receives with their encoders, CRC and framing, and the type codes. No row
of spec/opcode_table.json has bits, so `decodeTableWord` answers none. -/

namespace Sys2Proof

/-- The command a table word spells. The table gives no row any bits, so no word spells a command. -/
def decodeTableWord (_nbits _w : Nat) : Option Instr := none

/-! ## Type codes (R203) -/

namespace Code

def enterStore : Byte := 0x01
def enterRetrieve : Byte := 0x02
def cancel : Byte := 0x03
def resolve : Byte := 0x04
def setCell : Byte := 0x05
def setRun : Byte := 0x06
def loadProfile : Byte := 0x07
def mapCrane : Byte := 0x08
def service : Byte := 0x09
def holdAisle : Byte := 0x0A
def releaseAisle : Byte := 0x0B
def openWave : Byte := 0x0C
def closeWave : Byte := 0x0D
def setPolicy : Byte := 0x0E
def setFaultControl : Byte := 0x0F
def clearFault : Byte := 0x10
def clearAisleFault : Byte := 0x11
def queryJob : Byte := 0x12
def queryCell : Byte := 0x13
def queryAisle : Byte := 0x14
def queryCrane : Byte := 0x15
def queryWave : Byte := 0x16
def queryPool : Byte := 0x17
def queryFaults : Byte := 0x18
def fetch : Byte := 0x19
def restart : Byte := 0x1A
def reply : Byte := 0x20
def arrive : Byte := 0x30
def outputFree : Byte := 0x31
def dockTaken : Byte := 0x32
def taken : Byte := 0x38
def reject : Byte := 0x39
def hello : Byte := 0x40
def ask : Byte := 0x41
def accept : Byte := 0x42
def refuse : Byte := 0x43
def picked : Byte := 0x44
def dropped : Byte := 0x45
def cellOccupied : Byte := 0x46
def cellEmpty : Byte := 0x47
def pos : Byte := 0x48
def cleared : Byte := 0x49
def parked : Byte := 0x4A
def late : Byte := 0x4B
def fault : Byte := 0x4C
def recovered : Byte := 0x4D
def offer : Byte := 0x50
def redirect : Byte := 0x51
def withdraw : Byte := 0x52
def newDrop : Byte := 0x53
def standby : Byte := 0x54
def clear : Byte := 0x55
def park : Byte := 0x56
def resume : Byte := 0x57

end Code

/-- The order command a type byte names (R203). -/
def decodeOrder (l : OrderLink) (t : Byte) (p : List Byte) : Option Instr :=
  match t.toNat with
  | 0x01 => some (.enterStore l p)
  | 0x02 => some (.enterRetrieve l p)
  | 0x03 => some (.cancel l p)
  | 0x04 => some (.resolve l p)
  | 0x05 => some (.setCell l p)
  | 0x06 => some (.setRun l p)
  | 0x07 => some (.loadProfile l p)
  | 0x08 => some (.mapCrane l p)
  | 0x09 => some (.service l p)
  | 0x0A => some (.holdAisle l p)
  | 0x0B => some (.releaseAisle l p)
  | 0x0C => some (.openWave l p)
  | 0x0D => some (.closeWave l p)
  | 0x0E => some (.setPolicy l p)
  | 0x0F => some (.setFaultControl l p)
  | 0x10 => some (.clearFault l p)
  | 0x11 => some (.clearAisleFault l p)
  | 0x12 => some (.queryJob l p)
  | 0x13 => some (.queryCell l p)
  | 0x14 => some (.queryAisle l p)
  | 0x15 => some (.queryCrane l p)
  | 0x16 => some (.queryWave l p)
  | 0x17 => some (.queryPool l p)
  | 0x18 => some (.queryFaults l p)
  | 0x19 => some (.fetch l p)
  | 0x1A => some (.restart l p)
  | _ => none

/-- The station command a type byte names (R203). -/
def decodeStation (t : Byte) (p : List Byte) : Option Instr :=
  match t.toNat with
  | 0x30 => some (.arrive p)
  | 0x31 => some (.outputFree p)
  | 0x32 => some (.dockTaken p)
  | _ => none

/-- The crane message a type byte names (R203). -/
def decodeCrane (c : CraneId) (t : Byte) (p : List Byte) : Option Instr :=
  match t.toNat with
  | 0x40 => some (.hello c p)
  | 0x41 => some (.ask c p)
  | 0x42 => some (.accept c p)
  | 0x43 => some (.refuse c p)
  | 0x44 => some (.picked c p)
  | 0x45 => some (.dropped c p)
  | 0x46 => some (.cellOccupied c p)
  | 0x47 => some (.cellEmpty c p)
  | 0x48 => some (.pos c p)
  | 0x49 => some (.cleared c p)
  | 0x4A => some (.parked c p)
  | 0x4B => some (.late c p)
  | 0x4C => some (.fault c p)
  | 0x4D => some (.recovered c p)
  | _ => none

/-- The command a good frame of type `t` carries inward on a link, or none where the link does not carry the type
inward (R194 check 4, R203). -/
def decodeFrame (k : Link) (t : Byte) (p : List Byte) : Option Instr :=
  match k with
  | .order l => decodeOrder l t p
  | .station => decodeStation t p
  | .crane c => decodeCrane c t p

/-- The link, type byte and payload of a command that arrives as a frame; none for the other rows. -/
def encodeFrame (i : Instr) : Option (Link × Byte × List Byte) :=
  match i with
  | .enterStore l p => some (.order l, Code.enterStore, p)
  | .enterRetrieve l p => some (.order l, Code.enterRetrieve, p)
  | .cancel l p => some (.order l, Code.cancel, p)
  | .resolve l p => some (.order l, Code.resolve, p)
  | .setCell l p => some (.order l, Code.setCell, p)
  | .setRun l p => some (.order l, Code.setRun, p)
  | .loadProfile l p => some (.order l, Code.loadProfile, p)
  | .mapCrane l p => some (.order l, Code.mapCrane, p)
  | .service l p => some (.order l, Code.service, p)
  | .holdAisle l p => some (.order l, Code.holdAisle, p)
  | .releaseAisle l p => some (.order l, Code.releaseAisle, p)
  | .openWave l p => some (.order l, Code.openWave, p)
  | .closeWave l p => some (.order l, Code.closeWave, p)
  | .setPolicy l p => some (.order l, Code.setPolicy, p)
  | .setFaultControl l p => some (.order l, Code.setFaultControl, p)
  | .clearFault l p => some (.order l, Code.clearFault, p)
  | .clearAisleFault l p => some (.order l, Code.clearAisleFault, p)
  | .queryJob l p => some (.order l, Code.queryJob, p)
  | .queryPool l p => some (.order l, Code.queryPool, p)
  | .queryCell l p => some (.order l, Code.queryCell, p)
  | .queryAisle l p => some (.order l, Code.queryAisle, p)
  | .queryCrane l p => some (.order l, Code.queryCrane, p)
  | .queryWave l p => some (.order l, Code.queryWave, p)
  | .queryFaults l p => some (.order l, Code.queryFaults, p)
  | .fetch l p => some (.order l, Code.fetch, p)
  | .restart l p => some (.order l, Code.restart, p)
  | .arrive p => some (.station, Code.arrive, p)
  | .outputFree p => some (.station, Code.outputFree, p)
  | .dockTaken p => some (.station, Code.dockTaken, p)
  | .hello c p => some (.crane c, Code.hello, p)
  | .ask c p => some (.crane c, Code.ask, p)
  | .accept c p => some (.crane c, Code.accept, p)
  | .refuse c p => some (.crane c, Code.refuse, p)
  | .picked c p => some (.crane c, Code.picked, p)
  | .dropped c p => some (.crane c, Code.dropped, p)
  | .cellOccupied c p => some (.crane c, Code.cellOccupied, p)
  | .cellEmpty c p => some (.crane c, Code.cellEmpty, p)
  | .pos c p => some (.crane c, Code.pos, p)
  | .cleared c p => some (.crane c, Code.cleared, p)
  | .parked c p => some (.crane c, Code.parked, p)
  | .late c p => some (.crane c, Code.late, p)
  | .fault c p => some (.crane c, Code.fault, p)
  | .recovered c p => some (.crane c, Code.recovered, p)
  | .powerOn _ | .pinReset _ | .gateChange _ _ | .frameDiscarded _ _ | .tgapExpiry _ | .frameSent _ _
  | .restartSoft | .restartHard | .offerTimerExpiry _ | .holdBackExpiry _ | .parkTimerExpiry _
  | .backoffExpiry _ | .stepDeadlineExpiry _ | .agingStep | .selection _ | .preemptionCheck _ | .slotSearch _
  | .relocationRequest _ | .reEvaluation _ | .storeHandOver _ _ _ | .closingWaitPlacement _ | .faultReport _
  | .faultSourceSet _ | .faultSourceClear _ | .byteReceived _ _ | .agingCounterTick => none

/-! ## Framing and CRC (R193) -/

/-- One bit of the CRC with polynomial 0x1021, most significant bit first (R193). -/
def crcBit (c : BitVec 16) : BitVec 16 := if c.msb then (c <<< 1) ^^^ 0x1021 else c <<< 1

/-- One byte of the CRC (R193). -/
def crcByte (c : BitVec 16) (b : Byte) : BitVec 16 :=
  let x := c ^^^ (b.setWidth 16 <<< 8)
  crcBit (crcBit (crcBit (crcBit (crcBit (crcBit (crcBit (crcBit x)))))))

/-- The CRC-16 of a list of bytes: initial value 0xFFFF, no final inversion (R193). -/
def crc16 (bs : List Byte) : BitVec 16 := bs.foldl crcByte 0xFFFF

/-- The two CRC bytes of a list of bytes, high byte first (R193). -/
def crcBytes (bs : List Byte) : List Byte :=
  [(crc16 bs >>> 8).setWidth 8, (crc16 bs).setWidth 8]

/-- The start byte of a frame (R193). -/
def startByte : Byte := 0xC5

/-- Length, type and payload: what the CRC covers (R193). -/
def frameBody (t : Byte) (p : List Byte) : List Byte := BitVec.ofNat 8 (p.length + 1) :: t :: p

/-- The bytes of a whole frame after its type byte: payload and CRC (R182, R193). -/
def frameTail (t : Byte) (p : List Byte) : List Byte := p ++ crcBytes (frameBody t p)

/-- A frame's bytes in order (R193). -/
def frameBytes (t : Byte) (p : List Byte) : List Byte :=
  startByte :: (frameBody t p ++ crcBytes (frameBody t p))

/-! ## Fields (R195) -/

/-- The byte at an offset of a payload. -/
def byteAt (p : List Byte) (i : Nat) : Nat := (p.getD i 0).toNat

/-- The two-byte field at an offset, high byte first (R193). -/
def be16At (p : List Byte) (i : Nat) : Nat := byteAt p i * 256 + byteAt p (i + 1)

/-- The four-byte field at an offset, high byte first (R193). -/
def be32At (p : List Byte) (i : Nat) : Nat := be16At p i * 65536 + be16At p (i + 2)

/-- A one-byte field. -/
def u8 (n : Nat) : List Byte := [BitVec.ofNat 8 n]

/-- A two-byte field, high byte first. -/
def u16 (n : Nat) : List Byte := [BitVec.ofNat 8 (n / 256), BitVec.ofNat 8 n]

/-- A four-byte field, high byte first. -/
def u32 (n : Nat) : List Byte := u16 (n / 65536) ++ u16 n

/-- The value of an absent one-byte field (R204). -/
def absentByte : Nat := 0xFF

/-- An aisle number, or none outside 0..7. -/
def aisleOf (n : Nat) : Option AisleId := if h : n < 8 then some ⟨n, h⟩ else none

/-- A crane link, or none outside 0..11. -/
def craneOf (n : Nat) : Option CraneId := if h : n < 12 then some ⟨n, h⟩ else none

/-- A class, or none outside 0..3. -/
def classOf (n : Nat) : Option Class := if h : n < 4 then some ⟨n, h⟩ else none

/-- An end code: FRONT 0, REAR 1 (R195). -/
def endOf (n : Nat) : Option End :=
  match n with
  | 0 => some .front
  | 1 => some .rear
  | _ => none

/-- A side code: L 0, R 1 (R195). -/
def sideOf (n : Nat) : Option Side :=
  match n with
  | 0 => some .left
  | 1 => some .right
  | _ => none

/-- A depth code: N 0, D 1 (R195). -/
def depthOf (n : Nat) : Option Depth :=
  match n with
  | 0 => some .near
  | 1 => some .deep
  | _ => none

/-- A flag field: 0 or 1. -/
def flagOf (n : Nat) : Option Bool :=
  match n with
  | 0 => some false
  | 1 => some true
  | _ => none

def End.code : End → Nat
  | .front => 0
  | .rear => 1

def Side.code : Side → Nat
  | .left => 0
  | .right => 1

def Depth.code : Depth → Nat
  | .near => 0
  | .deep => 1

/-- The job handle at an offset: slot, then generation, which must be at most 15 (R39, R195). -/
def handleAt (p : List Byte) (i : Nat) : Option Handle :=
  if h : byteAt p (i + 1) < 16 then some { slot := Fin.ofNat 256 (byteAt p i), gen := ⟨byteAt p (i + 1), h⟩ }
  else none

/-- A handle's two bytes (R195). -/
def encodeHandle (h : Handle) : List Byte := u8 h.slot.val ++ u8 h.gen.val

/-- An optional handle's two bytes: 0xFF 0xFF where it is absent (R195). -/
def encodeHandle? (h : Option Handle) : List Byte :=
  match h with
  | some h => encodeHandle h
  | none => [0xFF, 0xFF]

/-- The cell at an offset: aisle in the upper three bits, then the side, then the depth; bay; level. The lowest three
bits of the first byte are ignored (R195). -/
def cellAt (p : List Byte) (i : Nat) : CellAddr where
  aisle := Fin.ofNat 8 (byteAt p i / 32)
  side := if byteAt p i / 16 % 2 = 0 then .left else .right
  depth := if byteAt p i / 8 % 2 = 0 then .near else .deep
  bay := byteAt p (i + 1)
  level := byteAt p (i + 2)

/-- The cell that an absent cell's three zero bytes read as (R195): bay 0 is not a cell. -/
def absentCell : CellAddr := { aisle := 0, side := .left, bay := 0, level := 0, depth := .near }

/-- A cell field that may be absent (R195). -/
def cellAt? (p : List Byte) (i : Nat) : Option CellAddr :=
  if cellAt p i = absentCell then none else some (cellAt p i)

/-- A cell's three bytes (R195). -/
def encodeCell (c : CellAddr) : List Byte :=
  u8 (c.aisle.val * 32 + c.side.code * 16 + c.depth.code * 8) ++ u8 c.bay ++ u8 c.level

/-- An optional cell's three bytes (R195). -/
def encodeCell? (c : Option CellAddr) : List Byte :=
  match c with
  | some c => encodeCell c
  | none => [0, 0, 0]

/-! ## Payloads (R203, R204)

A reader answers none where the length, or a field the length depends on, is wrong: the command is then refused with
BAD_FIELD, or the crane's message discarded (R195, R126). Range checks that a chapter orders among others are left to
the chapter's rule. -/

/-- The fields of ENTER STORE (R43, R204). -/
structure EnterStoreFields where
  reference : Word
  tag : Word
  cls : Nat
  aisle : Nat
  end_ : Nat
  destination : Option CellAddr
  redirectAllowed : Nat
  deriving DecidableEq, Repr

def decodeEnterStore (p : List Byte) : Option EnterStoreFields :=
  if p.length = 15 then
    some { reference := BitVec.ofNat 32 (be32At p 0), tag := BitVec.ofNat 32 (be32At p 4), cls := byteAt p 8,
           aisle := byteAt p 9, end_ := byteAt p 10, destination := cellAt? p 11, redirectAllowed := byteAt p 14 }
  else none

def encodeEnterStore (f : EnterStoreFields) : List Byte :=
  u32 f.reference.toNat ++ u32 f.tag.toNat ++ u8 f.cls ++ u8 f.aisle ++ u8 f.end_ ++ encodeCell? f.destination
    ++ u8 f.redirectAllowed

/-- The fields of ENTER RETRIEVE (R45, R203). A wave id of 0 is no wave. -/
structure EnterRetrieveFields where
  reference : Word
  cls : Nat
  aisle : Nat
  end_ : Nat
  wave : Nat
  seq : Nat
  candidates : List CellAddr
  deriving DecidableEq, Repr

/-- `c` cells in a row from an offset. -/
def cellsAt (p : List Byte) (i : Nat) : Nat → List CellAddr
  | 0 => []
  | c + 1 => cellAt p i :: cellsAt p (i + 3) c

/-- The candidate count, 1..4, is tested before the length (R203). -/
def decodeEnterRetrieve (p : List Byte) : Option EnterRetrieveFields :=
  let c := byteAt p 7
  if 1 ≤ c ∧ c ≤ 4 ∧ p.length = 11 + 3 * c then
    some { reference := BitVec.ofNat 32 (be32At p 0), cls := byteAt p 4, aisle := byteAt p 5, end_ := byteAt p 6,
           wave := byteAt p 8, seq := be16At p 9, candidates := cellsAt p 11 c }
  else none

def encodeEnterRetrieve (f : EnterRetrieveFields) : List Byte :=
  u32 f.reference.toNat ++ u8 f.cls ++ u8 f.aisle ++ u8 f.end_ ++ u8 f.candidates.length ++ u8 f.wave ++ u16 f.seq
    ++ f.candidates.flatMap encodeCell

/-- The fields of RESOLVE (R61, R204), the handle read apart. -/
structure ResolveFields where
  disposition : Nat
  loadClass : Nat
  deriving DecidableEq, Repr

/-- The fields of SET CELL (R17, R204). -/
structure SetCellFields where
  cell : CellAddr
  state : Nat
  loadClass : Nat
  deriving DecidableEq, Repr

def decodeSetCell (p : List Byte) : Option SetCellFields :=
  if p.length = 5 then some { cell := cellAt p 0, state := byteAt p 3, loadClass := byteAt p 4 } else none

def encodeSetCell (f : SetCellFields) : List Byte := encodeCell f.cell ++ u8 f.state ++ u8 f.loadClass

/-- The fields of SET RUN (R18, R204). -/
structure SetRunFields where
  aisle : Nat
  side : Nat
  level : Nat
  depth : Nat
  firstBay : Nat
  count : Nat
  state : Nat
  deriving DecidableEq, Repr

def decodeSetRun (p : List Byte) : Option SetRunFields :=
  if p.length = 7 then
    some { aisle := byteAt p 0, side := byteAt p 1, level := byteAt p 2, depth := byteAt p 3, firstBay := byteAt p 4,
           count := byteAt p 5, state := byteAt p 6 }
  else none

def encodeSetRun (f : SetRunFields) : List Byte :=
  u8 f.aisle ++ u8 f.side ++ u8 f.level ++ u8 f.depth ++ u8 f.firstBay ++ u8 f.count ++ u8 f.state

/-- The fields of LOAD PROFILE (R1, R204). -/
structure LoadProfileFields where
  aisle : Nat
  kind : Nat
  bays : Nat
  levels : Nat
  depth : Nat
  classCount : Nat
  limit0 : Nat
  limit1 : Nat
  limit2 : Nat
  limit3 : Nat
  weightMin : Nat
  weightMax : Nat
  px : Nat
  vx : Nat
  ax : Nat
  py : Nat
  vy : Nat
  ay : Nat
  hStation : Nat
  hNear : Nat
  hDeep : Nat
  gap : Nat
  window : Nat
  classTable : List Class
  deriving DecidableEq, Repr

/-- The level class table's entry for level `l` (from 1): two bits, levels 1 to 4 in the first byte from its lowest
bits and so on (R204). The table starts at offset 38. -/
def classAt (p : List Byte) (l : Nat) : Class :=
  Fin.ofNat 4 (byteAt p (38 + (l - 1) / 4) / 4 ^ ((l - 1) % 4))

/-- The number of levels, 1..40, is tested before the length (R204). -/
def decodeLoadProfile (p : List Byte) : Option LoadProfileFields :=
  let n := byteAt p 3
  if 1 ≤ n ∧ n ≤ 40 ∧ p.length = 38 + (n + 3) / 4 then
    some { aisle := byteAt p 0, kind := byteAt p 1, bays := byteAt p 2, levels := n, depth := byteAt p 4,
           classCount := byteAt p 5, limit0 := be16At p 6, limit1 := be16At p 8, limit2 := be16At p 10,
           limit3 := be16At p 12, weightMin := be16At p 14, weightMax := be16At p 16, px := be16At p 18,
           vx := be16At p 20, ax := be16At p 22, py := be16At p 24, vy := be16At p 26, ay := be16At p 28,
           hStation := be16At p 30, hNear := be16At p 32, hDeep := be16At p 34, gap := byteAt p 36,
           window := byteAt p 37, classTable := (List.range n).map fun i => classAt p (i + 1) }
  else none

/-- The bytes of a level class table, four levels a byte, unused bits 0 (R204). -/
def encodeClasses : List Class → List Byte
  | [] => []
  | [a] => u8 a.val
  | [a, b] => u8 (a.val + b.val * 4)
  | [a, b, c] => u8 (a.val + b.val * 4 + c.val * 16)
  | a :: b :: c :: d :: rest => u8 (a.val + b.val * 4 + c.val * 16 + d.val * 64) ++ encodeClasses rest

def encodeLoadProfile (f : LoadProfileFields) : List Byte :=
  u8 f.aisle ++ u8 f.kind ++ u8 f.bays ++ u8 f.levels ++ u8 f.depth ++ u8 f.classCount ++ u16 f.limit0
    ++ u16 f.limit1 ++ u16 f.limit2 ++ u16 f.limit3 ++ u16 f.weightMin ++ u16 f.weightMax ++ u16 f.px ++ u16 f.vx
    ++ u16 f.ax ++ u16 f.py ++ u16 f.vy ++ u16 f.ay ++ u16 f.hStation ++ u16 f.hNear ++ u16 f.hDeep ++ u8 f.gap
    ++ u8 f.window ++ encodeClasses f.classTable

/-- The fields of ARRIVE (R154, R204). -/
structure ArriveFields where
  aisle : Nat
  end_ : Nat
  tag : Word
  height : Nat
  weight : Nat
  deriving DecidableEq, Repr

def decodeArrive (p : List Byte) : Option ArriveFields :=
  if p.length = 10 then
    some { aisle := byteAt p 0, end_ := byteAt p 1, tag := BitVec.ofNat 32 (be32At p 2), height := be16At p 6,
           weight := be16At p 8 }
  else none

def encodeArrive (f : ArriveFields) : List Byte :=
  u8 f.aisle ++ u8 f.end_ ++ u32 f.tag.toNat ++ u16 f.height ++ u16 f.weight

/-- The setting entries of SET POLICY, each a setting number and a four-byte value (R202). -/
def policyEntries (p : List Byte) : List (Nat × Nat) :=
  match p with
  | n :: a :: b :: c :: d :: rest => (n.toNat, be32At [a, b, c, d] 0) :: policyEntries rest
  | _ => []

/-- SET POLICY carries 1 to 12 entries: its length is a multiple of 5 from 5 to 60 (R202). -/
def decodeSetPolicy (p : List Byte) : Option (List (Nat × Nat)) :=
  if 5 ≤ p.length ∧ p.length ≤ 60 ∧ p.length % 5 = 0 then some (policyEntries p) else none

def encodeSetPolicy (es : List (Nat × Nat)) : List Byte := es.flatMap fun e => u8 e.1 ++ u32 e.2

/-- CLEAR FAULT's kind numbers: a count 0..14, then that many bytes; the count is tested before the length (R204). -/
def decodeClearFault (p : List Byte) : Option (List Nat) :=
  let k := byteAt p 0
  if 1 ≤ p.length ∧ k ≤ 14 ∧ p.length = 1 + k then some ((p.drop 1).map (·.toNat)) else none

/-- A command or message that carries one job handle and nothing else. -/
def decodeHandle (p : List Byte) : Option Handle := if p.length = 2 then handleAt p 0 else none

end Sys2Proof
end

