-- ==== Sys2Proof/Machine/State.lean ====
section
/-! DEFINITION. The state of the NL-812, block by block as 00_scope.md names the blocks, the outcomes' reasons, and
the state right after power-on. INVENTORY.md lists every field with the rule that names it. -/

namespace Sys2Proof.Machine

/-- One value for each order link. -/
structure PerLink (α : Type) where
  o0 : α
  o1 : α
  deriving DecidableEq, Repr

/-- One value for each end of an aisle. -/
structure PerEnd (α : Type) where
  front : α
  rear : α
  deriving DecidableEq, Repr

/-! ## Cell Map (CMP) -/

/-- SINGLE or TANDEM (section 1.1). -/
inductive AisleKind where
  | single | tandem
  deriving DecidableEq, Repr

/-- The geometry fields of a profile (section 1.1). `doubleDeep` is depth 2. -/
structure Geometry where
  kind : AisleKind
  bays : Nat
  levels : Nat
  doubleDeep : Bool
  classTable : List Class
  deriving DecidableEq, Repr

/-- The operating fields of a profile (section 1.1). -/
structure Operating where
  classCount : Nat
  limit0 : Nat
  limit1 : Nat
  limit2 : Nat
  limit3 : Nat
  weightMin : Nat
  weightMax : Nat
  px : Nat
  vx : Nat
  ax : Nat
  py : Nat
  vy : Nat
  ay : Nat
  hStation : Nat
  hNear : Nat
  hDeep : Nat
  gap : Nat
  window : Nat
  deriving DecidableEq, Repr

/-- An aisle profile (R1). -/
structure Profile where
  geo : Geometry
  op : Operating
  deriving DecidableEq, Repr

/-- A pending profile: operating fields loaded and not yet applied, and the link that loaded them (R8). -/
structure PendingProfile where
  op : Operating
  link : OrderLink
  deriving DecidableEq, Repr

/-- The six states of a cell with the fields present in each (R11). -/
inductive CellState where
  | unknown
  | empty
  | full (load : Class)
  | inReserved (job : Handle)
  | outReserved (job : Handle) (load : Class)
  | blocked
  deriving DecidableEq, Repr

/-- One cell record (R11). -/
structure Cell where
  state : CellState
  conflict : Bool
  deriving DecidableEq, Repr

/-- The record of a cell no entry lists: as R6 creates it. -/
def Cell.initial : Cell := { state := .unknown, conflict := false }

/-- One aisle at the Cell Map: its current profile, its pending profile, and its cell records by offset (R5). -/
structure Aisle where
  profile : Option Profile
  pendingProfile : Option PendingProfile
  cells : List (Nat × Cell)
  deriving DecidableEq, Repr

/-- The state of the Cell Map. -/
structure CellMap where
  aisles : Vector Aisle 8
  deriving DecidableEq, Repr

/-! ## Job Pool (JPL) -/

/-- The kind of a job (R42). -/
inductive JobKind where
  | store | retrieve | relocate
  deriving DecidableEq, Repr

/-- The origin of a job (R42). -/
inductive Origin where
  | order (l : OrderLink)
  | internal
  deriving DecidableEq, Repr

/-- The end a job names (R42): FRONT, REAR, or EITHER for a retrieve. -/
inductive JobEnd where
  | front | rear | either
  deriving DecidableEq, Repr

/-- The six states of a job (section 3.5). -/
inductive JobState where
  | pending | ready | offered | enRoute | loaded | closing
  deriving DecidableEq, Repr

/-- The six reasons of a PENDING job (R42). -/
inductive PendingReason where
  | noPallet | noSpace | noCandidate | relocating | noRelocSpace | waveWindow
  deriving DecidableEq, Repr

/-- Why a load is rejected (R42). -/
inductive RejectReason where
  | height | weightHigh | weightLow | noFit
  deriving DecidableEq, Repr

/-- The outcome of a CLOSING job (R42). -/
inductive JobOutcome where
  | done | cancelled | rejectedLoad (reason : RejectReason) | noStock | manual
  deriving DecidableEq, Repr

/-- The load fields of a store (R42); no height class after a rejection by HEIGHT (R157). -/
structure Load where
  height : Nat
  weight : Nat
  cls : Option Class
  deriving DecidableEq, Repr

/-- A retrieve's wave id and sequence number (R42). -/
structure WaveRef where
  id : Nat
  seq : Nat
  deriving DecidableEq, Repr

/-- A crane link and a unit number (R42). -/
structure UnitRef where
  crane : CraneId
  number : BitVec 8
  deriving DecidableEq, Repr

/-- A crane's finding (R101). -/
inductive Finding where
  | occupied | empty
  deriving DecidableEq, Repr

/-- The three severities, lowest first (R181). -/
inductive Severity where
  | note | aisle | halt
  deriving DecidableEq, Repr

/-- The four hold sources of an aisle (R169). -/
structure HoldSources where
  gate : Bool
  o0 : Bool
  o1 : Bool
  fault : Bool
  deriving DecidableEq, Repr

/-- The seven kinds of notice with their fields (R199, R203). -/
inductive Notice where
  | jobClosed (job : Handle) (reference : Word) (kind : JobKind) (outcome : JobOutcome) (overdue : Bool)
      (cell : Option CellAddr)
  | palletMoved (job served : Handle) (outcome : JobOutcome) (moved : Bool) (source : CellAddr)
      (target : Option CellAddr)
  | cellConflict (cell : CellAddr) (finding : Finding) (state : CellState) (job : Handle) (crane : CraneId)
  | storeRedirected (job : Handle) (reference : Word) (givenUp : CellAddr) (newCell : Option CellAddr)
  | holdGranted (aisle : AisleId) (sources : HoldSources)
  | profileApplied (aisle : AisleId)
  | fault (kind : FaultKind) (severity : Severity) (captured : Bool) (source : FaultSource)
      (aisle : Option AisleId) (job : Option Handle) (further : Nat)
  deriving DecidableEq, Repr

/-- One job record (R42). A field the table of R42 does not give the job's kind stands at `none`, `[]`, 0 or
`false`. `chosen` is a store's drop cell, a retrieve's pick cell, a relocation's source; `target` a relocation's
target; `carried` the load class a pick handed over (R51, R62). -/
structure Job where
  handle : Handle
  kind : JobKind
  origin : Origin
  served : Option Handle
  reference : Word
  tag : Word
  cls : Class
  aisle : AisleId
  end_ : JobEnd
  destination : Option CellAddr
  redirectAllowed : Bool
  candidates : List CellAddr
  wave : Option WaveRef
  chosen : Option CellAddr
  target : Option CellAddr
  load : Option Load
  carried : Option Class
  age : Nat
  entryOrder : Word
  state : JobState
  reason : Option PendingReason
  unit : Option UnitRef
  promised : Option UnitRef
  partner : Option Handle
  waitsFor : Option Handle
  stranded : Bool
  overdue : Bool
  outcome : Option JobOutcome
  notice : Option Notice
  owed : List OrderLink
  deriving DecidableEq, Repr

/-- One slot: its generation and the live job it holds, if any (R37). -/
structure Slot where
  gen : Fin 16
  job : Option Job
  deriving DecidableEq, Repr

/-- The mode of the aging timer (R63). -/
inductive AgingMode where
  | time | events
  deriving DecidableEq, Repr

/-- The state of the Job Pool. -/
structure JobPool where
  slots : Vector Slot 256
  freeList : List (Fin 256)
  live : PerLink Nat
  quota : PerLink Nat
  agingMode : AgingMode
  startCount : Nat
  weight : Nat
  counter : Nat
  entryOrder : Word
  closingWait : PerLink (List Handle)
  deriving DecidableEq, Repr

/-! ## Allotment Engine (ALE) -/

/-- A crane's hold-back timer (its expiry) and held-back flag (R80). -/
structure HoldBack where
  timer : Option Nat
  heldBack : Bool
  deriving DecidableEq, Repr

/-- The state of the Allotment Engine (R89, R80). -/
structure Allotment where
  pairing : Bool
  preemption : Bool
  tPair : Nat
  offsets : Vector Nat 4
  waste : Nat
  holdBack : Vector HoldBack 12
  deriving DecidableEq, Repr

/-! ## Crane Tracker (CRT) -/

/-- The eleven states of a crane (R128). -/
inductive CraneState where
  | absent | idle | waiting | offered | working | clearing | parking | parked | backoff | faulted | outOfService
  deriving DecidableEq, Repr

/-- A PICK or a DROP (R129). -/
inductive Action where
  | pick | drop
  deriving DecidableEq, Repr

/-- The place of a step: a cell, or an input or output station (R129). -/
inductive Place where
  | cell (c : CellAddr)
  | station (aisle : AisleId) (output : Bool) (end_ : End)
  deriving DecidableEq, Repr

/-- One step of a unit (R129). -/
structure Step where
  action : Action
  place : Place
  job : Handle
  deriving DecidableEq, Repr

/-- A crane's current unit: its number, its jobs, its steps in order, and the number of its current step,
counted from 1 (R129). -/
structure WorkUnit where
  number : BitVec 8
  jobs : List Handle
  steps : List Step
  current : Nat
  deriving DecidableEq, Repr

/-- An outstanding redirect (R86). -/
structure Redirect where
  number : BitVec 8
  steps : List Step
  job : Handle
  deriving DecidableEq, Repr

/-- A running step deadline: the step it runs for and its expiry (R127, R143). -/
structure Deadline where
  step : Nat
  expiry : Nat
  deriving DecidableEq, Repr

/-- One crane record (R127). Timers hold their expiry on `State.now`. -/
structure Crane where
  mapping : Option (AisleId × End)
  state : CraneState
  bay : Nat
  level : Nat
  known : Bool
  unitCounter : BitVec 8
  unit : Option WorkUnit
  deadline : Option Deadline
  offerTimer : Option Nat
  redirect : Option Redirect
  strikes : Nat
  backoffTimer : Option Nat
  parkTimer : Option Nat
  leaveService : Bool
  lastRefusal : Option Nat
  lastFault : Option Nat
  deriving DecidableEq, Repr

/-- While a crane is CLEARING: its clear target and whether it returns to WAITING (else to IDLE) (R109, R120). -/
structure ClearRecord where
  target : Nat
  toWaiting : Bool
  deriving DecidableEq, Repr

/-- A range of bays (R109). -/
structure Interval where
  lo : Nat
  hi : Nat
  deriving DecidableEq, Repr

/-- One entry of the rail interval table (R109). -/
structure RailEntry where
  granted : Interval
  claim : Option Interval
  clear : Option ClearRecord
  deriving DecidableEq, Repr

/-- RETIRE or BACKOFF (R138). -/
inductive RefusalPolicy where
  | retire | backoff
  deriving DecidableEq, Repr

/-- The state of the Crane Tracker (R127, R109, R149). -/
structure Tracker where
  cranes : Vector Crane 12
  rail : Vector (Option (PerEnd RailEntry)) 8
  tOffer : Nat
  tPark : Nat
  tBackoff : Nat
  factor : Nat
  strikeLimit : Nat
  policy : RefusalPolicy
  deriving DecidableEq, Repr

/-! ## Station and Wave Unit (SWU) -/

/-- A pallet at an input station (R153). -/
structure Pallet where
  tag : Word
  height : Nat
  weight : Nat
  deriving DecidableEq, Repr

/-- An input station record (R153). -/
inductive InputRecord where
  | empty
  | unclaimed (pallet : Pallet)
  | matched (pallet : Pallet) (store : Handle)
  deriving DecidableEq, Repr

/-- An output credit record (R160). -/
structure Credit where
  reportedFree : Nat
  inFlight : Nat
  deriving DecidableEq, Repr

/-- A held entry of the wave table (R163). -/
structure Wave where
  id : Nat
  isOpen : Bool
  window : Nat
  firstSeq : Nat
  takenThrough : Nat
  live : Nat
  deriving DecidableEq, Repr

/-- The state of the Station and Wave Unit. `waves` lists the held entries, oldest opened first. -/
structure Stations where
  inputs : Vector (PerEnd InputRecord) 8
  credits : Vector (PerEnd Credit) 8
  waves : List Wave
  deriving DecidableEq, Repr

/-! ## Aisle Control (AIC) -/

/-- The hold state of an aisle (R171). -/
inductive HoldState where
  | unconfigured | isOpen | draining | held
  deriving DecidableEq, Repr

/-- One aisle at the Aisle Control: its sources, its hold state, and the level of its GACK line (R169, R171). The gate
source is the filtered level of GATEa being low. -/
structure AisleHold where
  sources : HoldSources
  state : HoldState
  gack : Bool
  deriving DecidableEq, Repr

/-- The state of the Aisle Control. `parkOwed` marks the cranes of the park-owed sets (R171). -/
structure AisleControl where
  holds : Vector AisleHold 8
  parkOwed : Vector Bool 12
  deriving DecidableEq, Repr

/-! ## Fault Log (FLG) -/

/-- Status flag, mask and severity of one fault kind (R181). -/
structure FaultControl where
  flag : Bool
  masked : Bool
  severity : Severity
  deriving DecidableEq, Repr

/-- The fault hold record of an aisle (R185). -/
structure FaultHold where
  isSet : Bool
  kinds : List FaultKind
  deriving DecidableEq, Repr

/-- The state of the Fault Log (R181). The capture is the report it was filled from (R183). -/
structure FaultLog where
  kinds : Vector FaultControl 14
  capture : Option FaultReport
  further : Nat
  holds : Vector FaultHold 8
  halt : Bool
  deriving DecidableEq, Repr

/-! ## Link Interface Units (LIU) -/

/-- The four line rates (R192). -/
inductive LineRate where
  | r57600 | r115200 | r230400 | r460800
  deriving DecidableEq, Repr

/-- A receiver: hunting, or in a frame with the bytes received after 0xC5 and the time of the last byte (R194). -/
inductive Receiver where
  | hunting
  | inFrame (bytes : List Byte) (lastAt : Nat)
  deriving DecidableEq, Repr

/-- The results of a reply (R203). -/
inductive Result where
  | ok | badField | noAisle | badCell | busy | tooLarge | poolFull | quota | dupTag | cellNotEmpty | cellTaken
  | badWave | dupSeq | noSuchJob | notOwner | tooLate | notStranded | notMapped | noStation | stationBusy
  | tableFull | outOfOrder
  deriving DecidableEq, Repr

/-- The kind of a restart (R201). -/
inductive RestartKind where
  | soft | hard
  deriving DecidableEq, Repr

/-- The result of CLEAR AISLE FAULT (R189). -/
inductive AisleFaultResult where
  | notSet | cleared | retained
  deriving DecidableEq, Repr

/-- The verdict of a load check (R154, R157, R158). -/
inductive Verdict where
  | passed
  | rejected (reason : RejectReason)
  deriving DecidableEq, Repr

/-- QUERY POOL's answer (R64, R198). -/
structure PoolReport where
  free : Nat
  pending : Nat
  ready : Nat
  offered : Nat
  enRoute : Nat
  loaded : Nat
  closing : Nat
  relocations : Nat
  live : PerLink Nat
  quota : PerLink Nat
  closingWait : PerLink Nat
  active : PerLink Bool
  agingMode : AgingMode
  startCount : Nat
  weight : Nat
  counter : Nat
  entryOrder : Word
  deriving DecidableEq, Repr

/-- QUERY CELL's answer (R20). -/
structure CellReport where
  number : Nat
  state : CellState
  fit : Class
  conflict : Bool
  deriving DecidableEq, Repr

/-- The number of an aisle's cells in each state (R20). -/
structure CellCounts where
  unknown : Nat
  empty : Nat
  full : Nat
  inReserved : Nat
  outReserved : Nat
  blocked : Nat
  conflict : Nat
  deriving DecidableEq, Repr

/-- An output station as QUERY AISLE reports it (R167). -/
structure CreditReport where
  reportedFree : Nat
  inFlight : Nat
  available : Nat
  deriving DecidableEq, Repr

/-- QUERY AISLE's answer (R20, R167, R171); a station that does not exist is absent. -/
structure AisleReport where
  profile : Option Profile
  pendingProfile : Option PendingProfile
  base : Nat
  count : Nat
  cells : CellCounts
  hold : HoldState
  sources : HoldSources
  gack : Bool
  parkOwed : List CraneId
  inputs : PerEnd (Option InputRecord)
  outputs : PerEnd (Option CreditReport)
  deriving DecidableEq, Repr

/-- QUERY CRANE's answer (R150): the record, the times that remain, and the rail entry of a tandem crane. -/
structure CraneReport where
  mapping : Option (AisleId × End)
  state : CraneState
  bay : Nat
  level : Nat
  known : Bool
  unitCounter : BitVec 8
  unit : Option WorkUnit
  deadlineLeft : Option Nat
  offerLeft : Option Nat
  redirect : Option Redirect
  strikes : Nat
  backoffLeft : Option Nat
  parkLeft : Option Nat
  leaveService : Bool
  lastRefusal : Option Nat
  lastFault : Option Nat
  holdBackLeft : Option Nat
  heldBack : Bool
  rail : Option RailEntry
  deriving DecidableEq, Repr

/-- QUERY FAULTS's answer (R190). -/
structure FaultsReport where
  kinds : Vector FaultControl 14
  capture : Option FaultReport
  further : Nat
  halt : Bool
  holds : Vector FaultHold 8
  deriving DecidableEq, Repr

/-- The data of a reply, as named fields (00_scope.md, Scope of this manual; R196). -/
inductive ReplyData where
  | nothing
  | entered (job : Handle) (state : JobState) (reason : Option PendingReason) (outcome : Option JobOutcome)
      (candidates : Option Nat)
  | cancelled (was : JobState)
  | resolved (declined : Bool)
  | runSet (cellsSet skipped : Nat)
  | profileLoaded (geometryPath applied : Bool) (baseCount : Option (Nat × Nat))
  | mapped (previous : Option (AisleId × End))
  | serviced (state : CraneState)
  | hold (state : HoldState) (sources : HoldSources)
  | waveClosed (live : Nat)
  | policy (settings : List (Nat × Nat))
  | faultControl (masked : Bool) (severity : Severity)
  | faultsCleared (flags : List Bool) (captureCleared : Bool)
  | aisleFault (result : AisleFaultResult)
  | job (record : Job)
  | pool (report : PoolReport)
  | cell (report : CellReport)
  | aisle (report : AisleReport)
  | crane (report : CraneReport)
  | wave (entry : Wave)
  | waves (held : List (Nat × Bool)) (free : Nat)
  | faults (report : FaultsReport)
  | fetched (returned left : Nat) (records : List Notice)
  | restart (kind : RestartKind)
  | arrived (occupancy : InputRecord) (verdict : Option (Handle × Verdict))
  | credit (available : Nat)
  | dockTaken (takenThrough : Nat)
  deriving DecidableEq, Repr

/-- A reply: the type of the command answered, its result, the CLAMPED flag, the number of the part now at the
head, and its data (R196, R197). -/
structure Reply where
  command : Byte
  result : Result
  clamped : Bool
  part : Nat
  data : ReplyData
  deriving DecidableEq, Repr

/-- The frames the part forms (R196, R203, R204, section 7.4, chapter 8). -/
inductive Message where
  | reply (r : Reply)
  | taken (aisle : AisleId) (end_ : End) (tag : Word)
  | reject (aisle : AisleId) (end_ : End) (tag : Word) (reason : RejectReason)
  | offer (number : BitVec 8) (steps : List Step)
  | redirect (number : BitVec 8) (steps : List Step)
  | withdraw (number : BitVec 8) (keep : Nat)
  | newDrop (job : Handle) (cell : CellAddr)
  | standby
  | clear (bay : Nat)
  | park
  | resume
  deriving DecidableEq, Repr

/-- A RESTART taken and not yet in effect: the sending link and the kind (R201). -/
structure RestartPending where
  link : OrderLink
  kind : RestartKind
  deriving DecidableEq, Repr

/-- The state of the Link Interface Units. `rx`, `tx` and `finishing` are indexed O0, O1, S, C0..C11. `finishing` is the
frame that a restart found being sent and lets complete, its transmit list emptied all the same (R201 steps 3 and 4). -/
structure Links where
  rate : LineRate
  rx : Vector Receiver 15
  tx : Vector (List Message) 15
  finishing : Vector (Option Message) 15
  active : PerLink Bool
  queue : PerLink (List Notice)
  lastFetched : PerLink (List Notice)
  attn : PerLink Bool
  restarting : Option RestartPending
  deriving DecidableEq, Repr

/-! ## The whole part -/

/-- The state of the NL-812: its nine blocks (the Motion Estimator keeps none, R23), and the model's own clock, list
of raised events and queue of waiting commands. -/
structure State where
  liu : Links
  jpl : JobPool
  cmp : CellMap
  ale : Allotment
  crt : Tracker
  swu : Stations
  aic : AisleControl
  flg : FaultLog
  now : Nat
  events : List Instr
  pending : List Instr
  deriving DecidableEq, Repr

/-- Reasons a step stops with a fault: none. No rule of the manual stops the part; its own fault kinds are records in
the Fault Log (R183). -/
inductive Fault where
  deriving DecidableEq, Repr

/-- Reasons a command is refused a meaning. -/
inductive Refusal where
  /-- Raised by `exec` for a row of the opcode table that has no meaning yet: safe, since nothing is claimed of it.
  No arm raises it. -/
  | notModelled (mnemonic : String)
  deriving DecidableEq, Repr

/-! ## Reset values -/

/-- An empty slot of generation 0 (R37). -/
def Slot.initial : Slot := { gen := 0, job := none }

/-- The Job Pool at power-on, pin reset and RESTART HARD (R37, R65). -/
def JobPool.initial : JobPool where
  slots := Vector.replicate 256 Slot.initial
  freeList := List.finRange 256
  live := { o0 := 0, o1 := 0 }
  quota := { o0 := Config.quotaDefault, o1 := Config.quotaDefault }
  agingMode := .time
  startCount := Config.startCountDefault
  weight := Config.weightDefault
  counter := Config.startCountDefault
  entryOrder := 0
  closingWait := { o0 := [], o1 := [] }

/-- An unconfigured aisle at the Cell Map (R21). -/
def Aisle.initial : Aisle := { profile := none, pendingProfile := none, cells := [] }

/-- The Cell Map at power-on, pin reset and RESTART HARD (R21). -/
def CellMap.initial : CellMap := { aisles := Vector.replicate 8 Aisle.initial }

/-- The hold-back of a crane after any reset (R90). -/
def HoldBack.initial : HoldBack := { timer := none, heldBack := false }

/-- The Allotment Engine at power-on, pin reset and RESTART HARD (R89, R90). -/
def Allotment.initial : Allotment where
  pairing := true
  preemption := true
  tPair := Config.tPairDefault
  offsets := #v[0, 15000, 45000, 120000]
  waste := Config.wasteDefault
  holdBack := Vector.replicate 12 HoldBack.initial

/-- A crane record at power-on, pin reset and RESTART HARD (R151). The bay and level behind the clear known flag:
DESIGN CHOICE 0 (log entry 7). -/
def Crane.initial : Crane where
  mapping := none
  state := .absent
  bay := 0
  level := 0
  known := false
  unitCounter := 0
  unit := none
  deadline := none
  offerTimer := none
  redirect := none
  strikes := 0
  backoffTimer := none
  parkTimer := none
  leaveService := false
  lastRefusal := none
  lastFault := none

/-- The Crane Tracker at power-on, pin reset and RESTART HARD (R124, R149, R151). -/
def Tracker.initial : Tracker where
  cranes := Vector.replicate 12 Crane.initial
  rail := Vector.replicate 8 none
  tOffer := Config.tOfferDefault
  tPark := Config.tParkDefault
  tBackoff := Config.tBackoffDefault
  factor := Config.factorDefault
  strikeLimit := Config.strikeLimitDefault
  policy := .backoff

/-- The Station and Wave Unit after any reset (R168). -/
def Stations.initial : Stations where
  inputs := Vector.replicate 8 { front := .empty, rear := .empty }
  credits := Vector.replicate 8
    { front := { reportedFree := 0, inFlight := 0 }, rear := { reportedFree := 0, inFlight := 0 } }
  waves := []

/-- An aisle at the Aisle Control after power-on, pin reset and RESTART HARD, given the filtered level of its GATE
line (R179): low sets the gate source (R178). -/
def AisleHold.initial (gateHigh : Bool) : AisleHold where
  sources := { gate := !gateHigh, o0 := false, o1 := false, fault := false }
  state := .unconfigured
  gack := false

/-- The Aisle Control after power-on, pin reset and RESTART HARD (R179). -/
def AisleControl.initial (gates : Vector Bool 8) : AisleControl where
  holds := gates.map AisleHold.initial
  parkOwed := Vector.replicate 12 false

/-- A fault kind's flag, mask and severity after power-on (R181, R191), by its number less 1. -/
def FaultControl.initial (n : Nat) : FaultControl where
  flag := false
  masked := n == 12
  severity := if n == 2 || n == 13 then .aisle else .note

/-- The Fault Log after power-on (R191). -/
def FaultLog.initial : FaultLog where
  kinds := Vector.ofFn fun i : Fin 14 => FaultControl.initial i.val
  capture := none
  further := 0
  holds := Vector.replicate 8 { isSet := false, kinds := [] }
  halt := false

/-- The Link Interface Units after a reset, at a given line rate (R192, R198, R200, R201). -/
def Links.initial (rate : LineRate) : Links where
  rate := rate
  rx := Vector.replicate 15 .hunting
  tx := Vector.replicate 15 []
  finishing := Vector.replicate 15 none
  active := { o0 := false, o1 := false }
  queue := { o0 := [], o1 := [] }
  lastFetched := { o0 := [], o1 := [] }
  attn := { o0 := false, o1 := false }
  restarting := none

/-- The whole part after power-on, at a given line rate and given filtered GATE levels (R201). -/
def State.initial (rate : LineRate) (gates : Vector Bool 8) : State where
  liu := Links.initial rate
  jpl := JobPool.initial
  cmp := CellMap.initial
  ale := Allotment.initial
  crt := Tracker.initial
  swu := Stations.initial
  aic := AisleControl.initial gates
  flg := FaultLog.initial
  now := 0
  events := []
  pending := []

/-- The part right after power-on, with both strap lines low (DESIGN CHOICE) and every GATE line high by its pull-up
(DEDUCED): log entry 6. -/
def State.reset : State := State.initial .r57600 (Vector.replicate 8 true)

end Sys2Proof.Machine
end

