-- ==== Sys2Proof/Machine/Ops.lean ====
section
/-! DEFINITION. The named operations every block uses: reading and writing one record of a bank, raising and taking
events, starting selections, raising faults, placing notices, sending frames, and ordering by keys. -/

namespace Sys2Proof.Machine

/-! ## Banks -/

def PerLink.get {α : Type} (p : PerLink α) (l : OrderLink) : α :=
  match l with
  | .o0 => p.o0
  | .o1 => p.o1

def PerLink.set {α : Type} (p : PerLink α) (l : OrderLink) (x : α) : PerLink α :=
  match l with
  | .o0 => { p with o0 := x }
  | .o1 => { p with o1 := x }

def PerEnd.get {α : Type} (p : PerEnd α) (e : End) : α :=
  match e with
  | .front => p.front
  | .rear => p.rear

def PerEnd.set {α : Type} (p : PerEnd α) (e : End) (x : α) : PerEnd α :=
  match e with
  | .front => { p with front := x }
  | .rear => { p with rear := x }

/-- The other end, and the other role of a tandem aisle. -/
def otherEnd (e : End) : End :=
  match e with
  | .front => .rear
  | .rear => .front

/-- A link's place in the banks of receivers and transmit lists, and its source code in a FAULT notice (R203). -/
def linkIndex (k : Link) : Fin 15 :=
  match k with
  | .order .o0 => 0
  | .order .o1 => 1
  | .station => 2
  | .crane c => ⟨c.val + 3, by omega⟩

/-- A fault kind's number less 1 (R181). -/
def kindIndex (k : FaultKind) : Fin 14 :=
  match k with
  | .linkFrame => 0
  | .staleMessage => 1
  | .foreignReport => 2
  | .craneRetired => 3
  | .stepOverdue => 4
  | .parkTimeout => 5
  | .craneFault => 6
  | .craneRestart => 7
  | .doubleOccupancy => 8
  | .emptyRetrieval => 9
  | .stationProtocol => 10
  | .dockOrder => 11
  | .loadRejected => 12
  | .railBreach => 13

/-- The crane record of a link (R127). -/
def State.crane (s : State) (c : CraneId) : Crane := s.crt.cranes[c]

def State.setCrane (s : State) (c : CraneId) (x : Crane) : State :=
  { s with crt := { s.crt with cranes := s.crt.cranes.set c x } }

def State.aisle (s : State) (a : AisleId) : Aisle := s.cmp.aisles[a]

def State.setAisle (s : State) (a : AisleId) (x : Aisle) : State :=
  { s with cmp := { s.cmp with aisles := s.cmp.aisles.set a x } }

def State.hold (s : State) (a : AisleId) : AisleHold := s.aic.holds[a]

def State.setHold (s : State) (a : AisleId) (x : AisleHold) : State :=
  { s with aic := { s.aic with holds := s.aic.holds.set a x } }

/-- Whether a crane stands in its aisle's park-owed set (R171). -/
def State.parkOwed (s : State) (c : CraneId) : Bool := s.aic.parkOwed[c]

def State.setParkOwed (s : State) (c : CraneId) (b : Bool) : State :=
  { s with aic := { s.aic with parkOwed := s.aic.parkOwed.set c b } }

def State.holdBack (s : State) (c : CraneId) : HoldBack := s.ale.holdBack[c]

def State.setHoldBack (s : State) (c : CraneId) (x : HoldBack) : State :=
  { s with ale := { s.ale with holdBack := s.ale.holdBack.set c x } }

/-- The rail interval table's entries of an aisle, if it has a table (R109). -/
def State.rail (s : State) (a : AisleId) : Option (PerEnd RailEntry) := s.crt.rail[a]

def State.setRail (s : State) (a : AisleId) (x : Option (PerEnd RailEntry)) : State :=
  { s with crt := { s.crt with rail := s.crt.rail.set a x } }

def State.input (s : State) (a : AisleId) (e : End) : InputRecord := s.swu.inputs[a].get e

def State.setInput (s : State) (a : AisleId) (e : End) (x : InputRecord) : State :=
  { s with swu := { s.swu with inputs := s.swu.inputs.set a (s.swu.inputs[a].set e x) } }

def State.credit (s : State) (a : AisleId) (e : End) : Credit := s.swu.credits[a].get e

def State.setCredit (s : State) (a : AisleId) (e : End) (x : Credit) : State :=
  { s with swu := { s.swu with credits := s.swu.credits.set a (s.swu.credits[a].set e x) } }

def State.slot (s : State) (i : Fin 256) : Slot := s.jpl.slots[i]

def State.setSlot (s : State) (i : Fin 256) (x : Slot) : State :=
  { s with jpl := { s.jpl with slots := s.jpl.slots.set i x } }

def State.faultKind (s : State) (k : FaultKind) : FaultControl := s.flg.kinds[kindIndex k]

def State.setFaultKind (s : State) (k : FaultKind) (x : FaultControl) : State :=
  { s with flg := { s.flg with kinds := s.flg.kinds.set (kindIndex k) x } }

def State.faultHold (s : State) (a : AisleId) : FaultHold := s.flg.holds[a]

def State.setFaultHold (s : State) (a : AisleId) (x : FaultHold) : State :=
  { s with flg := { s.flg with holds := s.flg.holds.set a x } }

def State.tx (s : State) (k : Link) : List Message := s.liu.tx[linkIndex k]

def State.setTx (s : State) (k : Link) (ms : List Message) : State :=
  { s with liu := { s.liu with tx := s.liu.tx.set (linkIndex k) ms } }

/-- The frame a restart lets complete on a link (R201 step 3). -/
def State.finishing (s : State) (k : Link) : Option Message := s.liu.finishing[linkIndex k]

def State.setFinishing (s : State) (k : Link) (m : Option Message) : State :=
  { s with liu := { s.liu with finishing := s.liu.finishing.set (linkIndex k) m } }

def State.rx (s : State) (k : Link) : Receiver := s.liu.rx[linkIndex k]

def State.setRx (s : State) (k : Link) (r : Receiver) : State :=
  { s with liu := { s.liu with rx := s.liu.rx.set (linkIndex k) r } }

def State.queue (s : State) (l : OrderLink) : List Notice := s.liu.queue.get l

/-- A notice queue is written together with its ATTN line, which is high exactly while it holds a notice (R199). -/
def State.setQueue (s : State) (l : OrderLink) (q : List Notice) : State :=
  { s with liu := { s.liu with queue := s.liu.queue.set l q, attn := s.liu.attn.set l (!q.isEmpty) } }

def State.setClosingWait (s : State) (l : OrderLink) (w : List Handle) : State :=
  { s with jpl := { s.jpl with closingWait := s.jpl.closingWait.set l w } }

/-! ## Ordering by keys -/

/-- Lexicographic order of keys, the lower first. -/
def keyLt : List Nat → List Nat → Bool
  | [], [] => false
  | [], _ :: _ => true
  | _ :: _, [] => false
  | a :: as, b :: bs => if a < b then true else if b < a then false else keyLt as bs

/-- The first element of least key. -/
def minBy {α : Type} (key : α → List Nat) (xs : List α) : Option α :=
  match xs with
  | [] => none
  | x :: xs =>
    match minBy key xs with
    | none => some x
    | some y => if keyLt (key y) (key x) then some y else some x

/-- Insert before the first element of greater key. -/
def insertBy {α : Type} (key : α → List Nat) (x : α) : List α → List α
  | [] => [x]
  | y :: ys => if keyLt (key x) (key y) then x :: y :: ys else y :: insertBy key x ys

/-- Sort by key, keeping the order of equal keys. -/
def sortBy {α : Type} (key : α → List Nat) (xs : List α) : List α :=
  xs.foldl (fun acc x => insertBy key x acc) []

/-- Apply an operation for each element in order. -/
def State.each {α : Type} (s : State) (xs : List α) (f : State → α → State) : State := xs.foldl f s

/-! ## Events (log entries 1 and 2) -/

/-- Raise an event: it joins the tail of the raised events. -/
def State.raise (s : State) (e : Instr) : State := { s with events := s.events ++ [e] }

def State.raiseAll (s : State) (es : List Instr) : State := { s with events := s.events ++ es }

/-- Take an event: its oldest raised occurrence, if any, is spent. -/
def State.take (s : State) (e : Instr) : State := { s with events := s.events.erase e }

/-- The event of a timer that stops or starts anew is no longer owed: no expiry follows (R137). -/
def State.forget (s : State) (e : Instr) : State := { s with events := s.events.filter (· ≠ e) }

/-- The crane of a role in an aisle (R125: at most one). -/
def State.craneAt (s : State) (a : AisleId) (e : End) : Option CraneId :=
  (List.finRange 12).find? fun c => decide ((s.crane c).mapping = some (a, e))

/-- The cranes mapped to an aisle, FRONT first. -/
def State.cranesOf (s : State) (a : AisleId) : List CraneId :=
  (s.craneAt a .front).toList ++ (s.craneAt a .rear).toList

/-- Start a selection for each WAITING crane of an aisle (R68), FRONT before REAR (log entry 50). -/
def State.select (s : State) (a : AisleId) : State :=
  s.raiseAll (((s.cranesOf a).filter fun c => decide ((s.crane c).state = .waiting)).map .selection)

/-- Start a selection for every WAITING crane of every aisle (R68), the lower aisle first (log entry 50). -/
def State.selectAll (s : State) : State := s.each (List.finRange 8) State.select

/-! ## Faults and notices -/

/-- Hand a fault to the Fault Log, an event of its own there (R182). -/
def State.raiseFault (s : State) (k : FaultKind) (src : FaultSource) (a : Option AisleId) (j : Option Handle)
    (p : List Byte) : State :=
  s.raise (.faultReport { kind := k, source := src, aisle := a, job := j, payload := p.take Config.faultPayload })

/-- The aisle of a crane, where it is mapped (R182). -/
def State.craneAisle (s : State) (c : CraneId) : Option AisleId := (s.crane c).mapping.map (·.1)

/-- Whether a notice queue has a free place (R199). -/
def State.hasRoom (s : State) (l : OrderLink) : Bool := (s.queue l).length < Config.queueCapacity

/-- Offer a notice to one link's queue: it joins the tail, or is lost where no place is free (R199). -/
def State.offerNotice (s : State) (l : OrderLink) (n : Notice) : State :=
  if s.hasRoom l then s.setQueue l (s.queue l ++ [n]) else s

/-- The active order links (R198). -/
def State.activeLinks (s : State) : List OrderLink :=
  [OrderLink.o0, OrderLink.o1].filter fun l => s.liu.active.get l

/-- Offer a notice to every active order link (R198). -/
def State.offerActive (s : State) (n : Notice) : State := s.each s.activeLinks fun s l => s.offerNotice l n

/-! ## Frames -/

/-- Place a frame at the tail of a link's transmit list (R193). -/
def State.send (s : State) (k : Link) (m : Message) : State := s.setTx k (s.tx k ++ [m])

/-- Whether a frame of a transmit list is a reply; the parts of one reply are one entry (R197, log entry 8). -/
def isReply (m : Message) : Bool :=
  match m with
  | .reply _ => true
  | _ => false

/-- The replies that wait on a link's transmit list (R196). A reply whose frame a restart lets complete stands on no list
and does not count (R201 steps 3 and 4). -/
def State.waitingReplies (s : State) (k : Link) : Nat := (s.tx k).countP isReply

/-! ## Names that several blocks read -/

/-- An end as a job names it. -/
def jobEnd (e : End) : JobEnd :=
  match e with
  | .front => .front
  | .rear => .rear

/-- Whether a retrieve's end admits a crane's end (R70). -/
def endAdmits (j : JobEnd) (e : End) : Bool := decide (j = jobEnd e) || decide (j = .either)

/-- The current profile of an aisle. -/
def State.profile? (s : State) (a : AisleId) : Option Profile := (s.aisle a).profile

/-- Whether an aisle is configured. -/
def State.configured (s : State) (a : AisleId) : Bool := (s.profile? a).isSome

/-- Whether an aisle is configured TANDEM. -/
def State.isTandem (s : State) (a : AisleId) : Bool :=
  match s.profile? a with
  | some p => decide (p.geo.kind = .tandem)
  | none => false

/-- Whether a station exists: both ends' stations of a configured TANDEM aisle, the front ones of a SINGLE one
(R153, R160). -/
def State.stationExists (s : State) (a : AisleId) (e : End) : Bool :=
  match e with
  | .front => s.configured a
  | .rear => s.isTandem a

/-- The least of a value and a bound, for the saturating counts. -/
def saturate (bound n : Nat) : Nat := min n bound

/-- Clamp to a range (Conventions, Clamped and refused). -/
def clamp (lo hi n : Nat) : Nat := max lo (min hi n)

end Sys2Proof.Machine
end

