-- ==== Sys2Proof/Machine/Geometry.lean ====
section
/-! DEFINITION. Cells by geometry: which cells exist, their offsets and numbers, their fit classes, and points on the
rack (R4, R5, R12, R24). -/

namespace Sys2Proof.Machine

/-- 1 or 2 (section 1.1). -/
def Geometry.depth (g : Geometry) : Nat := if g.doubleDeep then 2 else 1

/-- The cell count of an aisle: 2 × B × L × depth (R4). -/
def Geometry.cellCount (g : Geometry) : Nat := 2 * g.bays * g.levels * g.depth

/-- Whether a cell exists in an aisle's geometry (R17, R43). -/
def Geometry.hasCell (g : Geometry) (c : CellAddr) : Bool :=
  decide (1 ≤ c.bay) && decide (c.bay ≤ g.bays) && decide (1 ≤ c.level) && decide (c.level ≤ g.levels)
    && (decide (c.depth = .near) || g.doubleDeep)

/-- A cell's offset within its aisle: side slowest, then bay, level and depth (R5). -/
def Geometry.offset (g : Geometry) (c : CellAddr) : Nat :=
  ((c.side.code * g.bays + (c.bay - 1)) * g.levels + (c.level - 1)) * g.depth + c.depth.code

/-- The fit class of a level (R12). -/
def Geometry.fit (g : Geometry) (level : Nat) : Class := g.classTable.getD (level - 1) 0

/-- The near cell of a pair (R13). -/
def nearOf (c : CellAddr) : CellAddr := { c with depth := .near }

/-- The deep cell of a pair (R13). -/
def deepOf (c : CellAddr) : CellAddr := { c with depth := .deep }

/-- Every cell of an aisle within a range of bays. -/
def Geometry.cellsIn (g : Geometry) (a : AisleId) (lo hi : Nat) : List CellAddr :=
  [Side.left, Side.right].flatMap fun side =>
    (List.range' lo (hi + 1 - lo)).flatMap fun bay =>
      (List.range' 1 g.levels).flatMap fun level =>
        (if g.doubleDeep then [Depth.near, Depth.deep] else [Depth.near]).map fun depth =>
          { aisle := a, side := side, bay := bay, level := level, depth := depth }

/-- Every cell of an aisle. -/
def Geometry.allCells (g : Geometry) (a : AisleId) : List CellAddr := g.cellsIn a 1 g.bays

/-- The base of an aisle: the cell counts of the configured aisles below it (R5). -/
def State.base (s : State) (a : AisleId) : Nat :=
  (((List.finRange 8).filter (· < a)).map fun b =>
    match s.profile? b with
    | some p => p.geo.cellCount
    | none => 0).sum

/-- A point of an aisle, in pitches (R24). -/
structure Point where
  bay : Nat
  level : Nat
  deriving DecidableEq, Repr

/-- The point of the stations of an end: bay 0 or bay B + 1, level 0 (R24). It is also the park end of a role (R109). -/
def Geometry.stationPoint (g : Geometry) (e : End) : Point :=
  match e with
  | .front => { bay := 0, level := 0 }
  | .rear => { bay := g.bays + 1, level := 0 }

/-- The park end of a role (R109). -/
def Geometry.parkEnd (g : Geometry) (e : End) : Nat := (g.stationPoint e).bay

/-- The point of a cell: its bay and level (R24). -/
def cellPoint (c : CellAddr) : Point := { bay := c.bay, level := c.level }

/-- The point of a place (R24). -/
def Geometry.placePoint (g : Geometry) (p : Place) : Point :=
  match p with
  | .cell c => cellPoint c
  | .station _ _ e => g.stationPoint e

end Sys2Proof.Machine
end

