-- ==== Sys2Proof/Machine/Motion.lean ====
section
/-! DEFINITION. The Motion Estimator (MOE): axis, move, handling, unit and step times, and the keys of the searches
(R25 to R36). It keeps no state (R23). -/

namespace Sys2Proof.Machine

/-- The quotient rounded up to a whole number (R25). -/
def ceilDiv (x y : Nat) : Nat := (x + y - 1) / y

/-- The largest `r + x`, `x` below 2 to the `k`, whose square times `a` is below `n`, given that `r` is such a number. -/
def largestBelow (a n : Nat) : Nat → Nat → Nat
  | 0, r => r
  | k + 1, r =>
    if (r + 2 ^ k) * (r + 2 ^ k) * a < n then largestBelow a n k (r + 2 ^ k) else largestBelow a n k r

/-- The least whole t for which t × t × A is at least 4,000,000 × d, for d above 0 (R25 step 3). -/
def shortTime (d a : Nat) : Nat := largestBelow a (4000000 * d) 32 0 + 1

/-- The axis time of a move of n pitches with pitch P, speed V and acceleration A (R25). -/
def axisTime (n p v a : Nat) : Nat :=
  let d := n * p
  if d = 0 then 0
  else if v * v ≤ d * a then ceilDiv (1000 * d * a + 1000 * (v * v)) (v * a)
  else shortTime d a

/-- The number of pitches between two positions, without sign (R24). -/
def distance (x y : Nat) : Nat := (x - y) + (y - x)

/-- The move time between two points: the greater of the two axis times (R27). -/
def moveTime (o : Operating) (x y : Point) : Nat :=
  max (axisTime (distance x.bay y.bay) o.px o.vx o.ax) (axisTime (distance x.level y.level) o.py o.vy o.ay)

/-- The handling time of a stop (R28). -/
def handling (o : Operating) (p : Place) : Nat :=
  match p with
  | .station _ _ _ => o.hStation
  | .cell c =>
    match c.depth with
    | .near => o.hNear
    | .deep => o.hDeep

/-- The moves and handlings of the stops in order, from a starting point (R30). -/
def stopsTime (p : Profile) (x : Point) : List Place → Nat
  | [] => 0
  | q :: rest =>
    moveTime p.op x (p.geo.placePoint q) + handling p.op q + stopsTime p (p.geo.placePoint q) rest

/-- The closing leg: where the last stop is a cell, the run to the station point of the crane's end (R31). -/
def closingLeg (p : Profile) (e : End) (stops : List Place) : Nat :=
  match stops.getLast? with
  | some (.cell c) => moveTime p.op (cellPoint c) (p.geo.stationPoint e)
  | _ => 0

/-- The unit time t_u (R30, R31), saturating (R32). -/
def unitTime (p : Profile) (x : Point) (e : End) (stops : List Place) : Nat :=
  saturate Config.timeBound (stopsTime p x stops + closingLeg p e stops)

/-- A step estimate (R33), saturating (R32). -/
def stepEstimate (p : Profile) (x : Point) (q : Place) : Nat :=
  saturate Config.timeBound (moveTime p.op x (p.geo.placePoint q) + handling p.op q)

/-- The key of a candidate cell from an origin, for a pallet of a class (R34), saturating (R32). -/
def searchKey (p : Profile) (waste : Nat) (origin : Point) (cls : Class) (c : CellAddr) : Nat :=
  saturate Config.timeBound
    (moveTime p.op origin (cellPoint c) + handling p.op (.cell c) + waste * ((p.geo.fit c.level).val - cls.val))

/-- Depth D comes before depth N (R35, R36). -/
def depthRank (d : Depth) : Nat :=
  match d with
  | .deep => 0
  | .near => 1

/-- The ranking of a slot search for a store of an end: key, then R35's order. -/
def slotRank (p : Profile) (waste : Nat) (origin : Point) (cls : Class) (e : End) (c : CellAddr) : List Nat :=
  [searchKey p waste origin cls c, c.level,
    match e with
    | .front => c.bay
    | .rear => p.geo.bays + 1 - c.bay,
    c.side.code, depthRank c.depth]

/-- The ranking of a relocation target search: key, then R36's order. -/
def targetRank (p : Profile) (waste : Nat) (origin : Point) (cls : Class) (c : CellAddr) : List Nat :=
  [searchKey p waste origin cls c, c.level, distance c.bay origin.bay, c.bay, c.side.code, depthRank c.depth]

end Sys2Proof.Machine
end

