-- ==== Sys2Proof/Machine/Pool.lean ====
section
/-! DEFINITION. The Job Pool's records: finding, changing and listing live jobs, and the re-evaluations the Cell Map
requests for them (R19, R37, R42). -/

namespace Sys2Proof.Machine

/-- The live job a handle names: its slot holds a job and carries the handle's generation (R39). -/
def State.job? (s : State) (h : Handle) : Option Job :=
  if (s.slot h.slot).gen = h.gen then (s.slot h.slot).job else none

/-- Change the record of a live job. -/
def State.updJob (s : State) (h : Handle) (f : Job → Job) : State :=
  match s.job? h with
  | some j => s.setSlot h.slot { gen := h.gen, job := some (f j) }
  | none => s

/-- The live jobs, in slot order. -/
def State.jobs (s : State) : List Job := s.jpl.slots.toList.filterMap (·.job)

/-- The live jobs that pass a test, in order of entry order, lowest first (R94, R166). DESIGN CHOICE, unsafe: of two of
equal entry order (the counter wraps, R42) the one in the lower slot stands first, since neither rule gives a further
test (log entry 71). -/
def State.jobsWhere (s : State) (p : Job → Bool) : List Job :=
  sortBy (fun j => [j.entryOrder.toNat]) (s.jobs.filter p)

/-- Raise one re-evaluation for each live job that passes a test (R19, R94, R166; the order, where
those rules leave it open, is the model's: log entries 13 and 71). -/
def State.reEvaluate (s : State) (p : Job → Bool) : State :=
  s.raiseAll ((s.jobsWhere p).map fun j => .reEvaluation j.handle)

/-- A retrieve that names a cell, or the deep cell behind it, as a candidate (R19). -/
def namesCell (c : CellAddr) (j : Job) : Bool :=
  decide (j.kind = .retrieve)
    && (j.candidates.contains c || (decide (c.depth = .near) && j.candidates.contains (deepOf c)))

/-- A PENDING job of an aisle with one of the given reasons (R19). -/
def pendingWith (a : AisleId) (rs : List PendingReason) (j : Job) : Bool :=
  decide (j.aisle = a) && decide (j.state = .pending)
    && match j.reason with
      | some r => rs.contains r
      | none => false

/-- The re-evaluations drawn by a cell of which a reservation was made or ended; `space` where it also became EMPTY or
FULL (R19 rows 1 to 4). -/
def State.recheckCell (s : State) (c : CellAddr) (space : Bool) : State :=
  s.reEvaluate fun j => namesCell c j || (space && pendingWith c.aisle [.noSpace, .noRelocSpace] j)

/-- The one re-evaluation of an aisle drawn by SET CELL or SET RUN (R19 row 5). -/
def State.recheckAisle (s : State) (a : AisleId) (affected : List CellAddr) : State :=
  s.reEvaluate fun j => pendingWith a [.noSpace, .noCandidate, .noRelocSpace] j
    || (decide (j.aisle = a) && affected.any fun c => namesCell c j)

/-- A job became READY: selections start for its aisle's WAITING cranes (R68), and for a class 0 job a preemption
check (R85). The selections are raised first (log entry 49). -/
def State.becameReady (s : State) (j : Job) : State :=
  let s := s.select j.aisle
  if j.cls = 0 then s.raise (.preemptionCheck j.handle) else s

end Sys2Proof.Machine
end

