-- ==== Sys2Proof/Machine/Cells.lean ====
section
/-! DEFINITION. The Cell Map: the sparse table of cell records in canonical form, the requests other blocks make of it
(R14, R15, R16), the status of a candidate cell (R71), and the cells the searches admit (R13, R83, R92). -/

namespace Sys2Proof.Machine

/-! ## The table -/

/-- The record at an offset; an unlisted cell is as R6 creates it. -/
def tableGet : List (Nat × Cell) → Nat → Cell
  | [], _ => Cell.initial
  | (i, x) :: rest, k => if i = k then x else tableGet rest k

/-- Write the record at an offset, keeping offsets rising and listing no record equal to an unlisted one. -/
def tableSet : List (Nat × Cell) → Nat → Cell → List (Nat × Cell)
  | [], k, x => if x = Cell.initial then [] else [(k, x)]
  | (i, y) :: rest, k, x =>
    if k < i then (if x = Cell.initial then (i, y) :: rest else (k, x) :: (i, y) :: rest)
    else if k = i then (if x = Cell.initial then rest else (k, x) :: rest)
    else (i, y) :: tableSet rest k x

/-- The canonical form: offsets strictly rising, every listed record unlike an unlisted one's. -/
def tableWf : List (Nat × Cell) → Bool
  | [] => true
  | [(_, x)] => decide (x ≠ Cell.initial)
  | (i, x) :: (k, y) :: rest => decide (x ≠ Cell.initial) && decide (i < k) && tableWf ((k, y) :: rest)

/-- The record of a cell; a cell that does not exist reads as an unlisted one. -/
def State.cell (s : State) (c : CellAddr) : Cell :=
  match s.profile? c.aisle with
  | some p => if p.geo.hasCell c then tableGet (s.aisle c.aisle).cells (p.geo.offset c) else Cell.initial
  | none => Cell.initial

/-- Write the record of an existing cell. -/
def State.putCell (s : State) (c : CellAddr) (x : Cell) : State :=
  match s.profile? c.aisle with
  | some p =>
    if p.geo.hasCell c then
      s.setAisle c.aisle { s.aisle c.aisle with cells := tableSet (s.aisle c.aisle).cells (p.geo.offset c) x }
    else s
  | none => s

/-- Change a cell's state and keep its conflict flag. -/
def State.putState (s : State) (c : CellAddr) (x : CellState) : State :=
  s.putCell c { s.cell c with state := x }

/-- The fit class of a cell (R12). -/
def State.fit (s : State) (c : CellAddr) : Class :=
  match s.profile? c.aisle with
  | some p => p.geo.fit c.level
  | none => 0

/-- Whether an aisle is double-deep (R13). -/
def State.isDoubleDeep (s : State) (a : AisleId) : Bool :=
  match s.profile? a with
  | some p => p.geo.doubleDeep
  | none => false

/-- A cell that exists in an aisle (R17, R43): it names the aisle and lies in its geometry. -/
def State.hasCell (s : State) (a : AisleId) (c : CellAddr) : Bool :=
  match s.profile? a with
  | some p => decide (c.aisle = a) && p.geo.hasCell c
  | none => false

/-- IN_RESERVED or OUT_RESERVED. -/
def CellState.isReserved (x : CellState) : Bool :=
  match x with
  | .inReserved _ => true
  | .outReserved _ _ => true
  | _ => false

/-- FULL, of any load class. -/
def CellState.isFull (x : CellState) : Bool :=
  match x with
  | .full _ => true
  | _ => false

/-- The load class of a FULL or OUT_RESERVED cell (R11). -/
def CellState.loadClass (x : CellState) : Option Class :=
  match x with
  | .full k => some k
  | .outReserved _ k => some k
  | _ => none

/-! ## Requests -/

/-- The pair-rule condition of a reservation: a deep cell's near cell is EMPTY; a near cell's deep cell is not reserved
(R13, R14). -/
def State.pairAllows (s : State) (c : CellAddr) : Bool :=
  if s.isDoubleDeep c.aisle then
    match c.depth with
    | .deep => decide ((s.cell (nearOf c)).state = .empty)
    | .near => !(s.cell (deepOf c)).state.isReserved
  else true

/-- A near cell whose deep cell is IN_RESERVED or OUT_RESERVED (R16, R17, R18). -/
def State.frontsReserved (s : State) (c : CellAddr) : Bool :=
  s.isDoubleDeep c.aisle && decide (c.depth = .near) && (s.cell (deepOf c)).state.isReserved

/-- Reserve for drop: accepted when the cell is EMPTY and the pair rule allows it (R14). -/
def State.reserveDrop (s : State) (c : CellAddr) (h : Handle) : Option State :=
  if (s.cell c).state = .empty ∧ s.pairAllows c = true then
    some ((s.putState c (.inReserved h)).recheckCell c false)
  else none

/-- Reserve for pick: accepted when the cell is FULL and the pair rule allows it (R14). -/
def State.reservePick (s : State) (c : CellAddr) (h : Handle) : Option State :=
  match (s.cell c).state with
  | .full k => if s.pairAllows c then some ((s.putState c (.outReserved h k)).recheckCell c false) else none
  | _ => none

/-- Release: IN_RESERVED by the job becomes EMPTY, OUT_RESERVED by the job becomes FULL; declined otherwise (R15). -/
def State.release (s : State) (c : CellAddr) (h : Handle) : State :=
  match (s.cell c).state with
  | .inReserved j => if j = h then (s.putState c .empty).recheckCell c true else s
  | .outReserved j k => if j = h then (s.putState c (.full k)).recheckCell c true else s
  | _ => s

/-- Release a cell a job may hold. -/
def State.release? (s : State) (c : Option CellAddr) (h : Handle) : State :=
  match c with
  | some c => s.release c h
  | none => s

/-- Pick made: OUT_RESERVED by the job becomes EMPTY, and the load class is handed over (R15). -/
def State.pickMade (s : State) (c : CellAddr) (h : Handle) : State × Option Class :=
  match (s.cell c).state with
  | .outReserved j k => if j = h then ((s.putState c .empty).recheckCell c true, some k) else (s, none)
  | _ => (s, none)

/-- The change of record of a drop made: IN_RESERVED by the job becomes FULL with the class carried (R15). -/
def State.dropMade (s : State) (c : CellAddr) (h : Handle) (k : Class) : State :=
  if (s.cell c).state = .inReserved h then s.putState c (.full k) else s

/-- Found occupied: IN_RESERVED by the job becomes FULL with the cell's fit class, conflict flag set (R15). -/
def State.foundOccupied (s : State) (c : CellAddr) (h : Handle) : State :=
  if (s.cell c).state = .inReserved h then
    (s.putCell c { state := .full (s.fit c), conflict := true }).recheckCell c true
  else s

/-- Found empty: OUT_RESERVED by the job becomes EMPTY, conflict flag set (R15). -/
def State.foundEmpty (s : State) (c : CellAddr) (h : Handle) : State :=
  match (s.cell c).state with
  | .outReserved j _ =>
    if j = h then (s.putCell c { state := .empty, conflict := true }).recheckCell c true else s
  | _ => s

/-- Whether a declare-full request is accepted (R16). -/
def State.declareAccepts (s : State) (c : CellAddr) (h : Handle) : Bool :=
  match (s.cell c).state with
  | .inReserved j => decide (j = h)
  | .empty => !s.frontsReserved c
  | _ => false

/-- The change of record of a declare-full request: FULL with the class carried or the fit class, or, where it is
declined, the conflict flag (R16). -/
def State.declareFull (s : State) (c : CellAddr) (h : Handle) (k : Option Class) : State :=
  if s.declareAccepts c h then s.putState c (.full (k.getD (s.fit c)))
  else s.putCell c { s.cell c with conflict := true }

/-! ## Candidate status (R71) -/

/-- AVAILABLE, BLOCKED, TAKEN, GONE or UNSURE. -/
inductive CandidateStatus where
  | available | blocked | taken | gone | unsure
  deriving DecidableEq, Repr

/-- The status of a candidate cell, by the tests of R71 in order. -/
def State.status (s : State) (c : CellAddr) : CandidateStatus :=
  match (s.cell c).state with
  | .empty => .gone
  | .unknown => .unsure
  | .blocked => .unsure
  | .inReserved _ => .taken
  | .outReserved _ _ => .taken
  | .full _ =>
    match c.depth with
    | .near => .available
    | .deep =>
      match (s.cell (nearOf c)).state with
      | .inReserved _ => .taken
      | .outReserved _ _ => .taken
      | .empty => .available
      | .full _ => .blocked
      | .unknown => .unsure
      | .blocked => .unsure

/-! ## Searches -/

/-- The cells a search admits for a pallet of a class: EMPTY, unflagged, of sufficient fit, and by the pair rule
(R13, R83, R92). -/
def State.admits (s : State) (k : Class) (c : CellAddr) : Bool :=
  decide ((s.cell c).state = .empty) && !(s.cell c).conflict && decide (k.val ≤ (s.fit c).val)
    && (!s.isDoubleDeep c.aisle
      || match c.depth with
        | .deep => decide ((s.cell (nearOf c)).state = .empty)
        | .near => (s.cell (deepOf c)).state.isFull || decide ((s.cell (deepOf c)).state = .blocked))

/-- The winner of a slot search from an origin, among the admitted cells that pass a further test (R83). -/
def State.slotWinner (s : State) (a : AisleId) (e : End) (origin : Point) (k : Class) (ok : CellAddr → Bool) :
    Option CellAddr :=
  match s.profile? a with
  | some p =>
    minBy (slotRank p s.ale.waste origin k e) ((p.geo.allCells a).filter fun c => s.admits k c && ok c)
  | none => none

/-- The winner of a relocation target search about a source cell, keyed from an origin, among the admitted cells that
pass a further test (R92). -/
def State.targetWinner (s : State) (source : CellAddr) (origin : Point) (k : Class) (ok : CellAddr → Bool) :
    Option CellAddr :=
  match s.profile? source.aisle with
  | some p =>
    minBy (targetRank p s.ale.waste origin k)
      ((p.geo.cellsIn source.aisle (max 1 (source.bay - p.op.window)) (min p.geo.bays (source.bay + p.op.window))).filter
        fun c => s.admits k c && decide (c ≠ source) && decide (c ≠ deepOf source) && ok c)
  | none => none

end Sys2Proof.Machine
end

