-- ==== Sys2Proof/Machine/Rail.lean ====
section
/-! DEFINITION. The rail interval table of tandem aisles: intervals and the gap (R109, R110), grants and shrinks (R113,
R114), breaches (R116), claims (R122) and the rail check (R111). -/

namespace Sys2Proof.Machine

/-- The hull of two ranges of bays. -/
def Interval.join (x y : Interval) : Interval := { lo := min x.lo y.lo, hi := max x.hi y.hi }

/-- The range of one bay. -/
def Interval.at (b : Nat) : Interval := { lo := b, hi := b }

/-- The hull of a bay and further bays. -/
def hull (b : Nat) (bs : List Nat) : Interval := bs.foldl (fun i x => i.join (.at x)) (.at b)

/-- Whether a bay lies in a range. -/
def Interval.holds (i : Interval) (b : Nat) : Bool := decide (i.lo ≤ b) && decide (b ≤ i.hi)

/-- The effective interval: the granted one widened by the claim (R110). -/
def RailEntry.effective (e : RailEntry) : Interval :=
  match e.claim with
  | some k => e.granted.join k
  | none => e.granted

/-- Whether a proposed interval for the crane of a role keeps the gap against the other crane's interval (R110). -/
def keepsGap (gap : Nat) (role : End) (mine other : Interval) : Bool :=
  match role with
  | .front => decide (mine.hi + gap < other.lo)
  | .rear => decide (other.hi + gap < mine.lo)

/-- The park end of a role in an aisle (R109); 0 where the aisle is not configured. -/
def State.parkEnd (s : State) (a : AisleId) (e : End) : Nat :=
  match s.profile? a with
  | some p => p.geo.parkEnd e
  | none => 0

/-- The point of an end's stations in an aisle (R24). -/
def State.stationPoint (s : State) (a : AisleId) (e : End) : Point := { bay := s.parkEnd a e, level := 0 }

/-- The gap G of an aisle (R110). -/
def State.gap (s : State) (a : AisleId) : Nat :=
  match s.profile? a with
  | some p => p.op.gap
  | none => 0

/-- The point of a place. -/
def State.placePoint (s : State) (q : Place) : Point :=
  match q with
  | .cell c => cellPoint c
  | .station a _ e => s.stationPoint a e

/-- A crane's point: its recorded position, or the station point of its end where it is not known (R30). -/
def State.cranePoint (s : State) (c : CraneId) : Point :=
  if (s.crane c).known then { bay := (s.crane c).bay, level := (s.crane c).level }
  else
    match (s.crane c).mapping with
    | some (a, e) => s.stationPoint a e
    | none => { bay := 0, level := 0 }

/-- A crane's bay: that of its known position, or its park end (R109). -/
def State.craneBay (s : State) (c : CraneId) : Nat := (s.cranePoint c).bay

/-- Record a crane's position with its known flag set (R127). In an unconfigured aisle it is recorded as not known
(R126). -/
def State.setPosition (s : State) (c : CraneId) (x : Point) : State :=
  s.setCrane c { s.crane c with
    bay := x.bay
    level := x.level
    known :=
      match (s.crane c).mapping with
      | some (a, _) => s.configured a
      | none => false }

/-- A crane's entry of the table, in a tandem aisle (R109). -/
def State.entry (s : State) (c : CraneId) : Option RailEntry :=
  match (s.crane c).mapping with
  | some (a, e) => (s.rail a).map (·.get e)
  | none => none

/-- The entry of the other role of a crane's aisle. -/
def State.otherEntry (s : State) (c : CraneId) : Option RailEntry :=
  match (s.crane c).mapping with
  | some (a, e) => (s.rail a).map (·.get (otherEnd e))
  | none => none

/-- Change one entry of an aisle's table, where it has one. -/
def State.updEntry (s : State) (a : AisleId) (e : End) (f : RailEntry → RailEntry) : State :=
  match s.rail a with
  | some r => s.setRail a (some (r.set e (f (r.get e))))
  | none => s

/-- Change a crane's own entry, where its aisle has a table. -/
def State.updOwn (s : State) (c : CraneId) (f : RailEntry → RailEntry) : State :=
  match (s.crane c).mapping with
  | some (a, e) => s.updEntry a e f
  | none => s

/-- Grant a crane an interval: it replaces the granted one (R113). -/
def State.grant (s : State) (c : CraneId) (i : Interval) : State := s.updOwn c fun r => { r with granted := i }

/-- Shrink a crane's interval; a shrink starts selections for the WAITING cranes of the aisle (R114). -/
def State.shrink (s : State) (c : CraneId) (i : Interval) : State :=
  match s.entry c, (s.crane c).mapping with
  | some r, some (a, _) => if r.granted = i then s else (s.grant c i).select a
  | _, _ => s

/-- The end of the claim of a role starts selections for the WAITING cranes of the aisle (R122). -/
def State.endClaim (s : State) (a : AisleId) (e : End) : State :=
  match (s.rail a).bind (fun r => (r.get e).claim) with
  | some _ => (s.updEntry a e fun r => { r with claim := none }).select a
  | none => s

/-- The rail check passes: the two granted intervals keep the gap (R111). An aisle without a table passes. -/
def State.railCheck (s : State) (a : AisleId) : Bool :=
  match s.rail a with
  | some r => keepsGap (s.gap a) .front r.front.granted r.rear.granted
  | none => true

/-- Run the rail check and raise a RAIL_BREACH of source INTERNAL where it fails (R111). -/
def State.checkRail (s : State) (a : AisleId) : State :=
  if s.railCheck a then s else s.raiseFault .railBreach .internal (some a) none []

/-- The steps of a unit not yet ended (R129). -/
def WorkUnit.remaining (u : WorkUnit) : List Step := u.steps.drop (u.current - 1)

/-- The bays of the places of steps. -/
def State.stepBays (s : State) (xs : List Step) : List Nat := xs.map fun x => (s.placePoint x.place).bay

/-- The steps an outstanding redirect adds (R114). -/
def Crane.redirectSteps (x : Crane) : List Step :=
  match x.redirect with
  | some r => r.steps
  | none => []

/-- The steps of a crane's unit not yet ended. -/
def Crane.remaining (x : Crane) : List Step :=
  match x.unit with
  | some u => u.remaining
  | none => []

/-- The hull a report from inside the interval shrinks it to, by the crane's state, with the unit's steps not yet
completed (R114). OFFERED and PARKED stand in no row of R114 and shrink nothing (log entry 16). -/
def State.shrunkHull (s : State) (c : CraneId) (bay : Nat) (steps : List Step) : Option Interval :=
  match (s.crane c).state with
  | .working => some (hull bay (s.stepBays (steps ++ (s.crane c).redirectSteps)))
  | .clearing =>
    match (s.entry c).bind (·.clear) with
    | some k => some (hull bay [k.target])
    | none => none
  | .parking =>
    match (s.crane c).mapping with
    | some (a, e) => some (hull bay [s.parkEnd a e])
    | none => none
  | .idle | .waiting | .backoff | .outOfService => some (.at bay)
  | .absent | .offered | .parked | .faulted => none

/-- A report that carries or implies a bay: inside the granted interval it shrinks it (R114), outside it is a breach
(R116). A FAULTED crane's interval is frozen. -/
def State.railReport (s : State) (c : CraneId) (bay : Nat) (steps : List Step) (job : Option Handle)
    (payload : List Byte) : State :=
  match s.entry c with
  | none => s
  | some r =>
    if r.granted.holds bay then
      match s.shrunkHull c bay steps with
      | some i => s.shrink c i
      | none => s
    else s.raiseFault .railBreach (.link (.crane c)) (s.craneAisle c) job payload

end Sys2Proof.Machine
end

