-- ==== Sys2Proof/Machine/CraneStates.lean ====
section
/-! DEFINITION. Changes of a crane's state and what follows every one of them (R128): its timers, the pending profile's
test (R9), the hold state's test (R171, R174, R175), and PARK (R144). -/

namespace Sys2Proof.Machine

/-! ## Timers. A timer that stops or starts anew leaves no expiry owed. -/

def State.startOfferTimer (s : State) (c : CraneId) : State :=
  (s.setCrane c { s.crane c with offerTimer := some (s.now + s.crt.tOffer) }).forget (.offerTimerExpiry c)

def State.stopOfferTimer (s : State) (c : CraneId) : State :=
  (s.setCrane c { s.crane c with offerTimer := none }).forget (.offerTimerExpiry c)

def State.startParkTimer (s : State) (c : CraneId) : State :=
  (s.setCrane c { s.crane c with parkTimer := some (s.now + s.crt.tPark) }).forget (.parkTimerExpiry c)

def State.stopParkTimer (s : State) (c : CraneId) : State :=
  (s.setCrane c { s.crane c with parkTimer := none }).forget (.parkTimerExpiry c)

def State.startBackoffTimer (s : State) (c : CraneId) : State :=
  (s.setCrane c { s.crane c with backoffTimer := some (s.now + s.crt.tBackoff) }).forget (.backoffExpiry c)

def State.stopBackoffTimer (s : State) (c : CraneId) : State :=
  (s.setCrane c { s.crane c with backoffTimer := none }).forget (.backoffExpiry c)

def State.startHoldBack (s : State) (c : CraneId) : State :=
  (s.setHoldBack c { timer := some (s.now + s.ale.tPair), heldBack := true }).forget (.holdBackExpiry c)

def State.stopHoldBack (s : State) (c : CraneId) : State :=
  (s.setHoldBack c { s.holdBack c with timer := none }).forget (.holdBackExpiry c)

def State.stopDeadline (s : State) (c : CraneId) : State :=
  (s.setCrane c { s.crane c with deadline := none }).forget (.stepDeadlineExpiry c)

/-- Start the deadline of the current step from a start point: the step estimate times F over 100, rounded down, plus
10,000 ms (R143). -/
def State.startDeadline (s : State) (c : CraneId) (start : Point) : State :=
  match (s.crane c).unit with
  | some u =>
    match u.remaining.head?, (s.craneAisle c).bind s.profile? with
    | some x, some p =>
      (s.setCrane c { s.crane c with
        deadline := some { step := u.current,
                           expiry := s.now + (stepEstimate p start x.place * s.crt.factor / 100 + Config.deadlineSlack) } }).forget
        (.stepDeadlineExpiry c)
    | _, _ => s
  | none => s

/-! ## What follows a change of state -/

/-- OFFERED, WORKING or CLEARING: the states that delay a pending profile (R9). -/
def CraneState.busy (x : CraneState) : Bool :=
  match x with
  | .offered | .working | .clearing => true
  | _ => false

/-- PARKED, ABSENT, FAULTED or OUT_OF_SERVICE: at rest (R171). -/
def CraneState.atRest (x : CraneState) : Bool :=
  match x with
  | .parked | .absent | .faulted | .outOfService => true
  | _ => false

/-- The states a set leave-service flag turns into OUT_OF_SERVICE (R128). -/
def CraneState.leaveDiverts (x : CraneState) : Bool :=
  match x with
  | .idle | .waiting | .parking | .parked => true
  | _ => false

/-- The pending profile of an aisle is applied when no crane of the aisle is OFFERED, WORKING or CLEARING (R9); in a
tandem aisle the rail check runs with the new G (R111). -/
def State.testPending (s : State) (a : AisleId) : State :=
  match (s.aisle a).profile, (s.aisle a).pendingProfile with
  | some p, some q =>
    if (s.cranesOf a).any fun c => (s.crane c).state.busy then s
    else
      let s := s.setAisle a { s.aisle a with profile := some { p with op := q.op }, pendingProfile := none }
      let s := s.offerNotice q.link (.profileApplied a)
      let s := s.select a
      s.checkRail a
  | _, _ => s

/-- Whether a hold is in force: any source is set (R169). -/
def HoldSources.any (x : HoldSources) : Bool := x.gate || x.o0 || x.o1 || x.fault

/-- The source of an order link. -/
def HoldSources.link (x : HoldSources) (l : OrderLink) : Bool :=
  match l with
  | .o0 => x.o0
  | .o1 => x.o1

/-- Whether every crane of an aisle is at rest (R171). -/
def State.allRest (s : State) (a : AisleId) : Bool := (s.cranesOf a).all fun c => (s.crane c).state.atRest

/-- Write an aisle's hold state; GACK is asserted exactly while it is HELD (R171). -/
def State.setHoldState (s : State) (a : AisleId) (x : HoldState) : State :=
  s.setHold a { s.hold a with state := x, gack := decide (x = .held) }

/-- Entry to HELD: GACK is asserted and HOLD_GRANTED offered to each order link whose source is set (R175). -/
def State.enterHeld (s : State) (a : AisleId) : State :=
  let s := s.setHoldState a .held
  s.each ([OrderLink.o0, OrderLink.o1].filter (s.hold a).sources.link) fun s l =>
    s.offerNotice l (.holdGranted a (s.hold a).sources)

/-- The hold state of an aisle in which a hold is in force follows its cranes (R174). -/
def State.testHold (s : State) (a : AisleId) : State :=
  match (s.hold a).state with
  | .draining => if s.allRest a then s.enterHeld a else s
  | .held => if s.allRest a then s else s.setHoldState a .draining
  | .isOpen => s
  | .unconfigured => s

/-- A crane leaves WAITING: its hold-back timer stops and its claim ends (R128). -/
def State.leaveWaiting (s : State) (c : CraneId) : State :=
  let s := s.stopHoldBack c
  match (s.crane c).mapping with
  | some (a, e) => s.endClaim a e
  | none => s

/-- The state a crane enters when a rule takes it to one: OUT_OF_SERVICE where its leave-service flag diverts it
(R128). -/
def Crane.destination (x : Crane) (target : CraneState) : CraneState :=
  if x.leaveService && target.leaveDiverts then .outOfService else target

/-- Take a crane to a state, with the effects that follow every change of state (R128, R9, R68, R173, R174). Where one change
draws both, a pending profile is applied before the hold state is tested (log entry 60). -/
def State.enterState (s : State) (c : CraneId) (target : CraneState) : State :=
  let x := s.crane c
  let d := x.destination target
  let s := s.setCrane c { x with state := d, leaveService := x.leaveService && decide (d ≠ .outOfService) }
  let s := if x.state = .waiting ∧ d ≠ .waiting then s.leaveWaiting c else s
  let s := if d = .working ∨ d = .clearing then s else s.setParkOwed c false
  match x.mapping with
  | some (a, _) =>
    let s := if x.state.busy = true ∧ d ≠ x.state then s.testPending a else s
    let s := if d = .idle ∧ x.state ≠ .idle then s.select a else s
    s.testHold a
  | none => s

/-- A crane leaves BACKOFF: its backoff timer stops and its strike count becomes 0 (R139). -/
def State.leaveBackoff (s : State) (c : CraneId) : State :=
  if (s.crane c).state = .backoff then
    (s.stopBackoffTimer c).setCrane c { (s.stopBackoffTimer c).crane c with strikes := 0 }
  else s

/-- What every PARK sent does to the rail: in a tandem aisle the crane's granted interval is widened to its park end
(R113). -/
def State.widenToPark (s : State) (c : CraneId) : State :=
  match s.entry c, (s.crane c).mapping with
  | some r, some (a, e) => s.grant c (r.granted.join (.at (s.parkEnd a e)))
  | _, _ => s

/-- PARK, sent to a crane: its interval is widened to its park end (R113). -/
def State.tellPark (s : State) (c : CraneId) : State := (s.send (.crane c) .park).widenToPark c

/-- The PARK that begins a park: it is sent, and the crane goes to PARKING with its park timer started (R144). A crane
whose leave-service flag is set goes to OUT_OF_SERVICE and is sent nothing (R128, R131, R148; log entry 15). -/
def State.sendPark (s : State) (c : CraneId) : State :=
  let s := s.leaveBackoff c
  if (s.crane c).leaveService then s.enterState c .parking
  else
    let s := s.tellPark c
    let s := s.startParkTimer c
    s.enterState c .parking

/-- The end of a crane's work: to PARKING with PARK where the crane is owed one (R173), otherwise to IDLE, subject to
R128. -/
def State.goIdle (s : State) (c : CraneId) : State :=
  if s.parkOwed c then s.sendPark c else s.enterState c .idle

/-- Whether a crane's aisle is DRAINING or HELD. -/
def State.aisleStopped (s : State) (c : CraneId) : Bool :=
  match s.craneAisle c with
  | some a => decide ((s.hold a).state = .draining) || decide ((s.hold a).state = .held)
  | none => false

/-- To PARKING with PARK where the aisle is DRAINING or HELD, otherwise to IDLE, subject to R128 (R131, R146). -/
def State.goIdleOrPark (s : State) (c : CraneId) : State :=
  if s.aisleStopped c then s.sendPark c else s.enterState c .idle

end Sys2Proof.Machine
end

