-- ==== Sys2Proof/Machine/Units.lean ====
section
/-! DEFINITION. Jobs in and out of a crane's unit: output credits (R160 to R162), the return to READY (R52), the end of
a redirect (R87, R88), withdrawals (R130), the end of a unit (R129) and the falls of an interval (R115). -/

namespace Sys2Proof.Machine

/-! ## Output credits -/

/-- The available credit: reported_free less in_flight, or 0 (R160). -/
def Credit.available (x : Credit) : Nat := x.reportedFree - x.inFlight

/-- One more retrieve bound for the station (R161). -/
def Credit.bind (x : Credit) : Credit := { x with inFlight := x.inFlight + 1 }

/-- One retrieve fewer bound for the station (R161). -/
def Credit.unbind (x : Credit) : Credit := { x with inFlight := x.inFlight - 1 }

/-- A pallet set down at the station: both terms fall by 1, staying at 0 (R162). -/
def Credit.delivered (x : Credit) : Credit := { reportedFree := x.reportedFree - 1, inFlight := x.inFlight - 1 }

/-- Change a credit record; a rise of the available credit starts selections in the aisle (R162, R68). -/
def State.updCredit (s : State) (a : AisleId) (e : End) (f : Credit → Credit) : State :=
  if (s.credit a e).available < (f (s.credit a e)).available then (s.setCredit a e (f (s.credit a e))).select a
  else s.setCredit a e (f (s.credit a e))

/-- Change the credit record of the output station a retrieve on a crane is bound for: that of the crane's end
(R161). A job of another kind is bound for none. -/
def State.updBound (s : State) (c : CraneId) (j : Job) (f : Credit → Credit) : State :=
  match j.kind, (s.crane c).mapping with
  | .retrieve, some (a, e) => s.updCredit a e f
  | _, _ => s

/-! ## Jobs leaving a unit -/

/-- The other job of a pair has its partner field removed when a job leaves the unit (R42, R56). -/
def State.dropPartner (s : State) (j : Job) : State :=
  match j.partner with
  | some q => s.updJob q fun x => { x with partner := none }
  | none => s

/-- The cell a job keeps on leaving a crane: a retrieve gives up its chosen cell (R52). -/
def Job.keptCell (j : Job) : Option CellAddr :=
  match j.kind with
  | .retrieve => none
  | _ => j.chosen

/-- The reservation a job gives up on leaving a crane (R52). -/
def Job.pickCell (j : Job) : Option CellAddr :=
  match j.kind with
  | .retrieve => j.chosen
  | _ => none

/-- A job of a crane's unit returns to READY (R52): crane, unit and partner removed; a retrieve's reservation released
and its chosen cell removed; the station's in-flight count lowered (R161). -/
def State.returnToReady (s : State) (c : CraneId) (h : Handle) : State :=
  match s.job? h with
  | none => s
  | some j =>
    let s := s.dropPartner j
    let s := s.updJob h fun x => { x with state := .ready, unit := none, partner := none, chosen := j.keptCell }
    let s := s.release? j.pickCell h
    let s := s.updBound c j Credit.unbind
    s.becameReady j

/-- The job of a unit that is LOADED, if any (R51). -/
def State.loadedJob (s : State) (u : WorkUnit) : Option Handle :=
  u.jobs.find? fun h =>
    match s.job? h with
    | some j => decide (j.state = .loaded)
    | none => false

/-- The jobs of a crane's unit. -/
def Crane.jobs (x : Crane) : List Handle :=
  match x.unit with
  | some u => u.jobs
  | none => []

/-- The LOADED job on a crane, if any. -/
def State.loadedOn (s : State) (c : CraneId) : Option Handle :=
  match (s.crane c).unit with
  | some u => s.loadedJob u
  | none => none

/-- A unit without a job: the job's steps that have not ended are removed (R129). -/
def WorkUnit.without (u : WorkUnit) (h : Handle) : WorkUnit :=
  { u with
    jobs := u.jobs.filter (· ≠ h)
    steps := u.steps.take (u.current - 1) ++ (u.steps.drop (u.current - 1)).filter (fun x => decide (x.job ≠ h)) }

/-! ## Intervals -/

/-- An interval falls to a hull about the crane's bay (R115, R119). Where the bay lies outside the granted interval,
after a breach, the interval stays as it stands (R116, R119; log entry 32). -/
def State.fall (s : State) (c : CraneId) (bays : List Nat) : State :=
  match s.entry c with
  | some r => if r.granted.holds (s.craneBay c) then s.shrink c (hull (s.craneBay c) bays) else s
  | none => s

/-! ## Redirects -/

/-- An outstanding redirect ends as on LATE for the promised job and its reservation: the promise is removed, a
retrieve's reservation released and its chosen cell removed, its station's count lowered; the offer timer stops
(R87, R88, R161). The job does not become READY anew: no preemption check follows (R85; log entry 18). -/
def State.endRedirect (s : State) (c : CraneId) : State :=
  match (s.crane c).redirect with
  | none => s
  | some r =>
    let s := s.setCrane c { s.crane c with redirect := none }
    let s := s.stopOfferTimer c
    match s.job? r.job with
    | none => s
    | some j =>
      let s := s.updJob r.job fun x => { x with promised := none, chosen := j.keptCell }
      let s := s.release? j.pickCell r.job
      let s := s.updBound c j Credit.unbind
      s.select j.aisle

/-- An outstanding redirect ends and the crane is sent WITHDRAW for the new unit with keep 0 (R88, R130). -/
def State.withdrawRedirect (s : State) (c : CraneId) : State :=
  match (s.crane c).redirect with
  | none => s
  | some r => (s.send (.crane c) (.withdraw r.number 0)).endRedirect c

/-- LATE: the redirect ends and the interval shrinks to the crane's bay and the old unit's remaining steps (R87). -/
def State.late (s : State) (c : CraneId) : State :=
  let s := s.endRedirect c
  s.fall c (s.stepBays (s.crane c).remaining)

/-! ## Withdrawals and the end of a unit -/

/-- WITHDRAW for a crane's unit with a keep count: it is sent, the steps after it are removed, the jobs left without a
step leave the unit, and the deadline stops where the current step is removed (R130). -/
def State.withdraw (s : State) (c : CraneId) (keep : Nat) : State :=
  match (s.crane c).unit with
  | none => s
  | some u =>
    let s := s.send (.crane c) (.withdraw u.number keep)
    let s := s.setCrane c { s.crane c with
      unit := some { u with
        steps := u.steps.take keep
        jobs := u.jobs.filter fun h => (u.steps.take keep).any fun x => decide (x.job = h) } }
    if keep < u.current then s.stopDeadline c else s

/-- The record of a unit that ends (R129 steps 1 to 3): unit, deadline, offer timer and redirect go, and the interval
falls to the crane's bay. -/
def State.endUnit (s : State) (c : CraneId) : State :=
  let s := s.setCrane c { s.crane c with unit := none }
  let s := s.stopDeadline c
  let s := s.stopOfferTimer c
  let s := s.withdrawRedirect c
  s.fall c []

/-- The end of a unit: the crane goes to IDLE without a strike, subject to R128 and to a PARK it is owed (R129,
R173). -/
def State.finishUnit (s : State) (c : CraneId) : State := (s.endUnit c).goIdle c

/-- After a withdrawal: the unit ends where every kept step has ended (R130); where the crane carries a LOADED job the
interval falls to its bay and the kept steps (R115). -/
def State.afterWithdraw (s : State) (c : CraneId) : State :=
  if (s.crane c).remaining = [] then s.finishUnit c
  else if (s.loadedOn c).isSome then s.fall c (s.stepBays (s.crane c).remaining)
  else s

/-- A unit taken back from a crane whose jobs return to READY: the record goes without a WITHDRAW of its own (R131,
R135, R137, R145). -/
def State.giveBack (s : State) (c : CraneId) : State :=
  let js := (s.crane c).jobs
  let s := s.setCrane c { s.crane c with unit := none }
  let s := s.stopDeadline c
  let s := s.stopOfferTimer c
  s.each js fun s h => s.returnToReady c h

end Sys2Proof.Machine
end

