-- ==== Sys2Proof/Machine/Closing.lean ====
section
/-! DEFINITION. The life of a job record at its two ends: creation (R37, R42), closing (R56, R57), the placement of its
closing notice (R58), leaving the pool (R38), the evaluation of a retrieve (R48, R49, R96), and the rewrite of a
relocated pallet (R98). -/

namespace Sys2Proof.Machine

/-! ## Waves -/

/-- The held entry of a wave id (R163). -/
def State.wave? (s : State) (id : Nat) : Option Wave := s.swu.waves.find? fun w => decide (w.id = id)

/-- Change the entry of a wave id. -/
def State.updWave (s : State) (id : Nat) (f : Wave → Wave) : State :=
  { s with swu := { s.swu with waves := s.swu.waves.map fun w => if w.id = id then f w else w } }

/-- Free the entry of a wave id when it is CLOSED and its live count is 0 (R164). -/
def State.freeWave (s : State) (id : Nat) : State :=
  { s with swu := { s.swu with
      waves := s.swu.waves.filter fun w => !(decide (w.id = id) && !w.isOpen && decide (w.live = 0)) } }

/-- One live job of a wave is gone (R38 step 5, R164). -/
def State.waveLeft (s : State) (w : Option WaveRef) : State :=
  match w with
  | some w => (s.updWave w.id fun x => { x with live := x.live - 1 }).freeWave w.id
  | none => s

/-- A retrieve is within its window; a retrieve of no wave always is (R165, R48 step 2). -/
def State.inWindow (s : State) (j : Job) : Bool :=
  match j.wave with
  | none => true
  | some w =>
    match s.wave? w.id with
    | some x => decide (w.seq ≤ x.takenThrough + x.window)
    | none => false

/-! ## Creation -/

/-- A record with no field beyond those every job has (R42). -/
def Job.new (h : Handle) (kind : JobKind) (origin : Origin) (cls : Class) (a : AisleId) (order : Word) : Job where
  handle := h
  kind := kind
  origin := origin
  served := none
  reference := 0
  tag := 0
  cls := cls
  aisle := a
  end_ := .either
  destination := none
  redirectAllowed := false
  candidates := []
  wave := none
  chosen := none
  target := none
  load := none
  carried := none
  age := 0
  entryOrder := order
  state := .pending
  reason := none
  unit := none
  promised := none
  partner := none
  waitsFor := none
  stranded := false
  overdue := false
  outcome := none
  notice := none
  owed := []

/-- The handle the slot at the head of the free list will give (R37, R93). -/
def State.nextHandle (s : State) : Option Handle := s.jpl.freeList.head?.map fun i => { slot := i, gen := (s.slot i).gen }

/-- Change the live count of a job's origin link (R41). -/
def State.countLive (s : State) (o : Origin) (f : Nat → Nat) : State :=
  match o with
  | .order l => { s with jpl := { s.jpl with live := s.jpl.live.set l (f (s.jpl.live.get l)) } }
  | .internal => s

/-- Place a new job in the slot at the head of the free list, taking the next entry order (R37, R42). -/
def State.createJob (s : State) (j : Job) : State :=
  let s := s.setSlot j.handle.slot { gen := j.handle.gen, job := some { j with entryOrder := s.jpl.entryOrder } }
  let s := { s with jpl := { s.jpl with freeList := s.jpl.freeList.drop 1, entryOrder := s.jpl.entryOrder + 1 } }
  s.countLive j.origin (· + 1)

/-! ## Leaving the pool -/

/-- A job leaves the pool (R38). Its tag and its sequence number cease to be taken with its record. The retrieves waiting
with NO_RELOC_SPACE are evaluated lowest entry order first (R94; DESIGN CHOICE, unsafe: of two with equal entry orders the
one in the lower slot first, log entry 71). -/
def State.leavePool (s : State) (h : Handle) : State :=
  match s.job? h with
  | none => s
  | some j =>
    let s := s.setSlot h.slot { gen := h.gen + 1, job := none }
    let s := { s with jpl := { s.jpl with freeList := s.jpl.freeList ++ [h.slot] } }
    let s := s.countLive j.origin (· - 1)
    let s := s.waveLeft j.wave
    s.reEvaluate fun x =>
      decide (x.kind = .retrieve) && decide (x.state = .pending) && decide (x.reason = some .noRelocSpace)

/-! ## Closing notices -/

/-- The cell a closing notice reports: a store's where it was dropped, a retrieve's where it was picked (R58, R203;
log entry 19). -/
def Job.closedCell (j : Job) (o : JobOutcome) : Option CellAddr :=
  match j.kind with
  | .store => if o = .done then j.chosen else none
  | .retrieve => if j.carried.isSome then j.chosen else none
  | .relocate => none

/-- The closing notice of a job (R58). `moved` is a relocation's moved flag. -/
def Job.closingNotice (j : Job) (o : JobOutcome) (moved : Bool) : Notice :=
  match j.kind with
  | .relocate =>
    .palletMoved j.handle (j.served.getD j.handle) o moved (j.chosen.getD absentCell) (if moved then j.target else none)
  | _ => .jobClosed j.handle j.reference j.kind o j.overdue (j.closedCell o)

/-- The links a closing notice is owed on: the issuing link, or, for a relocation, every active order link (R58). -/
def State.owedLinks (s : State) (j : Job) : List OrderLink :=
  match j.origin with
  | .order l => [l]
  | .internal => s.activeLinks

/-- Place a job's closing notice in a link's queue; the link is owed no longer (R58). -/
def State.payNotice (s : State) (h : Handle) (l : OrderLink) (n : Notice) : State :=
  (s.setQueue l (s.queue l ++ [n])).updJob h fun j => { j with owed := j.owed.filter (· ≠ l) }

/-- Offer a job's closing notice to one link: it joins the queue where it finds space; otherwise the job joins the tail
of the link's closing wait list (R58). -/
def State.placeClosing (s : State) (h : Handle) (l : OrderLink) : State :=
  match (s.job? h).bind (·.notice) with
  | some n =>
    if s.hasRoom l then s.payNotice h l n else s.setClosingWait l (s.jpl.closingWait.get l ++ [h])
  | none => s

/-- A job owed nothing leaves the pool (R58). -/
def State.leaveIfPaid (s : State) (h : Handle) : State :=
  match s.job? h with
  | some j => if j.owed = [] then s.leavePool h else s
  | none => s

/-- Offer a closing job's notice for placement on every link owed (R56 step 5, R58). -/
def State.offerClosing (s : State) (h : Handle) : State :=
  match s.job? h with
  | some j => (s.each j.owed fun s l => s.placeClosing h l).leaveIfPaid h
  | none => s

/-! ## Entering CLOSING -/

/-- Steps 1 and 2 of R56: the job takes its outcome, gives up crane, unit, partner and promise, and every reservation
it still holds; its station's credit changes as `credit` says (R161, R162); the notice and the links owed are fixed. -/
def State.closeStart (s : State) (h : Handle) (o : JobOutcome) (moved : Bool) (credit : Credit → Credit) : State :=
  match s.job? h with
  | none => s
  | some j =>
    let s := s.dropPartner j
    let owed := s.owedLinks j
    let s := s.updJob h fun x => { x with
      state := .closing
      reason := none
      unit := none
      partner := none
      promised := none
      outcome := some o
      notice := some (j.closingNotice o moved)
      owed := owed }
    let s := s.release? j.chosen h
    let s := s.release? j.target h
    match j.unit with
    | some u => s.updBound u.crane j credit
    | none => s

/-- The served retrieve no longer waits for its relocation (R56 step 3). -/
def State.clearWaits (s : State) (r : Job) : State :=
  match r.served with
  | some q => s.updJob q fun x => if x.waitsFor = some r.handle then { x with waitsFor := none } else x
  | none => s

/-- The relocation that is cancelled with a retrieve entering CLOSING: the one it waits for, not yet LOADED (R56 step 4,
R57, R99). -/
def State.cancelledWith (s : State) (q : Job) : Option Job :=
  (q.waitsFor.bind s.job?).filter fun r => decide (r.state = .ready ∨ r.state = .offered ∨ r.state = .enRoute)

/-- A relocation enters CLOSING CANCELLED: its unit is withdrawn with keep 0 and its reservations are released (R57, R99).
A redirect promised to it ends with WITHDRAW (log entry 27). -/
def State.cancelRelocation (s : State) (r : Job) : State :=
  let s :=
    match r.promised with
    | some u => s.withdrawRedirect u.crane
    | none => s
  let s :=
    match r.unit with
    | some u => s.withdraw u.crane 0
    | none => s
  (s.closeStart r.handle .cancelled false Credit.unbind).clearWaits r

/-- A retrieve enters CLOSING, and a relocation not yet LOADED that serves it with it (R56 steps 1, 2 and 4). -/
def State.closeRetrieveStart (s : State) (h : Handle) (o : JobOutcome) (credit : Credit → Credit) : State :=
  match s.job? h with
  | none => s
  | some j =>
    match s.cancelledWith j with
    | some r => (s.closeStart h o false credit).cancelRelocation r
    | none => s.closeStart h o false credit

/-- What a retrieve's entry to CLOSING ends with: its notice is offered, then that of the relocation cancelled with it, in
the order in which the two entered CLOSING (R58; log entry 48), whose crane goes to IDLE without a strike (R57). -/
def State.closeRetrieveEnd (s : State) (h : Handle) (cancelled : Option Job) : State :=
  let s := s.offerClosing h
  match cancelled with
  | none => s
  | some r =>
    let s := s.offerClosing r.handle
    match r.unit with
    | some u => s.finishUnit u.crane
    | none => s

/-- A retrieve enters CLOSING (R56, R57). -/
def State.closeRetrieve (s : State) (h : Handle) (o : JobOutcome) (credit : Credit → Credit) : State :=
  (s.closeRetrieveStart h o credit).closeRetrieveEnd h ((s.job? h).bind s.cancelledWith)

/-! ## Evaluation of a retrieve -/

/-- A LOADED relocation's pallet, picked from a cell, is in transit (R96). -/
def State.inTransit (s : State) (c : CellAddr) : Bool :=
  s.jobs.any fun j => decide (j.kind = .relocate) && decide (j.state = .loaded) && decide (j.chosen = some c)

/-- The status an evaluation gives a candidate: that of R71, but TAKEN while the pallet picked there is in transit
(R96). -/
def State.jobStatus (s : State) (c : CellAddr) : CandidateStatus := if s.inTransit c then .taken else s.status c

/-- A job becomes or stays PENDING with a reason. -/
def State.pend (s : State) (h : Handle) (r : PendingReason) : State :=
  s.updJob h fun j => { j with state := .pending, reason := some r }

/-- The candidates an evaluation keeps: those not GONE (R48 step 1). -/
def State.kept (s : State) (j : Job) : List CellAddr := j.candidates.filter fun c => decide (s.jobStatus c ≠ .gone)

/-- Steps 2 to 6 of R48, for a retrieve with a candidate left: `j` is its record, `cs` the candidates kept. DEDUCED,
unsafe: step 3 makes a served retrieve READY through an AVAILABLE candidate (R99) also while its relocation is stranded at
an occupied cell; R105's 'stays PENDING with RELOCATING' is read of a retrieve with none (log entry 68). -/
def State.evaluateKept (s : State) (h : Handle) (j : Job) (cs : List CellAddr) : State :=
  if s.inWindow j = false then s.pend h .waveWindow
  else if cs.any fun c => decide (s.jobStatus c = .available) then
    let t := s.updJob h fun j => { j with state := .ready, reason := none }
    if j.state = .pending then t.becameReady j else t
  else if j.waitsFor.isSome then s.pend h .relocating
  else if cs.any fun c => decide (s.jobStatus c = .blocked) then
    (s.pend h .noCandidate).raise (.relocationRequest h)
  else s.pend h .noCandidate

/-- A job that an evaluation acts on: a PENDING or READY retrieve that is not promised (R49). -/
def Job.isEvaluated (j : Job) : Bool :=
  decide (j.kind = .retrieve) && (decide (j.state = .pending) || decide (j.state = .ready)) && decide (j.promised = none)

/-- A retrieve with the candidates an evaluation keeps (R48 step 1). -/
def State.keepCandidates (s : State) (h : Handle) (cs : List CellAddr) : State :=
  s.updJob h fun j => { j with candidates := cs }

/-- The evaluation of R48. It acts on a PENDING or READY retrieve that is not promised (R49). -/
def State.evaluate (s : State) (h : Handle) : State :=
  match s.job? h with
  | none => s
  | some j =>
    if j.isEvaluated then
      let t := s.keepCandidates h (s.kept j)
      if s.kept j = [] then t.closeRetrieve h .noStock id else t.evaluateKept h j (s.kept j)
    else s

/-! ## Stores and relocations entering CLOSING -/

/-- A store enters CLOSING (R56). -/
def State.closeStore (s : State) (h : Handle) (o : JobOutcome) : State :=
  (s.closeStart h o false id).offerClosing h

/-- The evaluation of a served retrieve at the end of its relocation `r`, whose notice is offered behind it (R56 steps 3
and 5). Where the retrieve closes there, the relocation entered CLOSING first, so that its notice goes first (R58; log
entry 48). -/
def State.evaluateServed (s : State) (q : Handle) (r : Handle) : State :=
  match s.job? q with
  | none => s.offerClosing r
  | some j =>
    if j.isEvaluated = true ∧ s.kept j = [] then
      let t := (s.keepCandidates q []).closeRetrieveStart q .noStock id
      (t.offerClosing r).closeRetrieveEnd q (s.cancelledWith j)
    else (s.evaluate q).offerClosing r

/-- What follows a relocation's entry to CLOSING: its served retrieve no longer waits for it and is evaluated, then its
own notice is offered (R56 steps 3 and 5). -/
def State.endRelocation (s : State) (h : Handle) (r : Job) : State :=
  let s := s.clearWaits r
  match r.served with
  | some q => s.evaluateServed q h
  | none => s.offerClosing h

/-- A relocation enters CLOSING (R56). -/
def State.closeRelocation (s : State) (h : Handle) (o : JobOutcome) (moved : Bool) : State :=
  match s.job? h with
  | none => s
  | some r => (s.closeStart h o moved id).endRelocation h r

/-- A job of any kind enters CLOSING; `credit` is what a retrieve's station's credit does. -/
def State.close (s : State) (h : Handle) (o : JobOutcome) (moved : Bool) (credit : Credit → Credit) : State :=
  match s.job? h with
  | none => s
  | some j =>
    match j.kind with
    | .store => s.closeStore h o
    | .retrieve => s.closeRetrieve h o credit
    | .relocate => s.closeRelocation h o moved

/-! ## The rewrite of a relocated pallet -/

/-- Keep the first occurrence of each cell (R46, R98). -/
def firstsOnly (seen : List CellAddr) : List CellAddr → List CellAddr
  | [] => []
  | c :: cs => if seen.contains c then firstsOnly seen cs else c :: firstsOnly (c :: seen) cs

/-- A job's record with every candidate and fixed cell naming the source rewritten to the target (R98). A store
stranded at the cell has its chosen cell rewritten with it, and a relocation stranded there its target (R105; log entry
21). -/
def Job.rewrite (j : Job) (source target : CellAddr) : Job :=
  let swap := fun c => if c = source then target else c
  if j.state = .closing then j
  else
    match j.kind with
    | .retrieve => { j with candidates := firstsOnly [] (j.candidates.map swap) }
    | .store => { j with chosen := j.chosen.map swap, destination := j.destination.map swap }
    | .relocate => { j with target := j.target.map swap }

/-- A job's record at a rewrite: it stands where the job has the source reserved for its own drop (R98, R105; log entry
47). -/
def State.rewriteJob (s : State) (source target : CellAddr) (j : Job) : Job :=
  if (s.cell source).state = .inReserved j.handle then j else j.rewrite source target

/-- Rewrite every live job not in CLOSING (R98). -/
def State.rewrite (s : State) (source target : CellAddr) : State :=
  { s with jpl := { s.jpl with
      slots := s.jpl.slots.map fun x => { x with job := x.job.map (s.rewriteJob source target) } } }

/-- Rewrite where both cells are recorded. -/
def State.rewrite? (s : State) (source target : Option CellAddr) : State :=
  match source, target with
  | some x, some y => s.rewrite x y
  | _, _ => s

end Sys2Proof.Machine
end

