-- ==== Sys2Proof/Machine/Aisles.lean ====
section
/-! DEFINITION. The Aisle Control: a hold coming into force and its drain (R172), its end (R176, R177), a source set or
cleared (R169), the first geometry load (R178), and what a geometry load does to tables and records (R7). -/

namespace Sys2Proof.Machine

/-- The WITHDRAW of a drain from a crane with a LOADED job: where steps follow that job's drop, WITHDRAW keeps the steps
through it, and the other jobs return to READY (R172). -/
def State.drainLoaded (s : State) (c : CraneId) (h : Handle) : State :=
  match (s.crane c).unit with
  | none => s
  | some u =>
    let keep := u.steps.length - (u.steps.reverse.takeWhile fun x => decide (x.job ≠ h)).length
    if keep < u.steps.length then
      let s := s.withdraw c keep
      let s := s.each (u.jobs.filter (· ≠ h)) fun s q => s.returnToReady c q
      s.fall c (s.stepBays (s.crane c).remaining)
    else s

/-- The treatment of one crane in a drain (R172). -/
def State.drainCrane (s : State) (c : CraneId) : State :=
  match (s.crane c).state with
  | .offered =>
    let js := (s.crane c).jobs
    let s := s.withdraw c 0
    let s := s.each js fun s h => s.returnToReady c h
    (s.endUnit c).sendPark c
  | .working =>
    match s.loadedOn c with
    | none =>
      let s := s.withdrawRedirect c
      let js := (s.crane c).jobs
      let s := s.withdraw c 0
      let s := s.each js fun s h => s.returnToReady c h
      (s.endUnit c).sendPark c
    | some h => ((s.withdrawRedirect c).drainLoaded c h).setParkOwed c true
  | .clearing => s.setParkOwed c true
  | .idle | .waiting | .backoff => s.sendPark c
  | .parking | .parked | .absent | .faulted | .outOfService => s

/-- The drain of an aisle: each crane is treated, FRONT before REAR (log entry 62), then the hold state is tested
(R172). -/
def State.drain (s : State) (a : AisleId) : State :=
  let s := s.setHoldState a .draining
  (s.each (s.cranesOf a) State.drainCrane).testHold a

/-- RESUME to a PARKING or PARKED crane (R177). A PARKING crane's interval falls to its bay also where its leave-service flag
takes it to OUT_OF_SERVICE (log entry 64). -/
def State.resume (s : State) (c : CraneId) : State :=
  match (s.crane c).state with
  | .parked => (s.send (.crane c) .resume).enterState c .idle
  | .parking => (((s.send (.crane c) .resume).stopParkTimer c).fall c []).enterState c .idle
  | _ => s

/-- The end of a hold: the aisle is OPEN, no crane is owed a PARK, parked cranes are resumed, FRONT before REAR (log entry 62),
and selections start (R176). -/
def State.endHold (s : State) (a : AisleId) : State :=
  let s := s.setHoldState a .isOpen
  let s := s.each (s.cranesOf a) fun s c => s.setParkOwed c false
  let s := s.each (s.cranesOf a) State.resume
  s.select a

/-- Write an aisle's sources: the hold comes into force with the first one set and ends with the last one cleared, in a
configured aisle (R169, R172, R176). -/
def State.setSources (s : State) (a : AisleId) (x : HoldSources) : State :=
  let h := s.hold a
  let s := s.setHold a { h with sources := x }
  if h.sources.any = false ∧ x.any = true ∧ h.state = .isOpen then s.drain a
  else if h.sources.any = true ∧ x.any = false ∧ h.state ≠ .unconfigured then s.endHold a
  else s

/-- The sources with an order link's one written. -/
def HoldSources.setLink (x : HoldSources) (l : OrderLink) (b : Bool) : HoldSources :=
  match l with
  | .o0 => { x with o0 := b }
  | .o1 => { x with o1 := b }

/-- The hold state an aisle enters at its first geometry load; an aisle configured before keeps its own (R178, R7). -/
def State.configureHold (s : State) (a : AisleId) : State :=
  match (s.hold a).state with
  | .unconfigured => if (s.hold a).sources.any then s.drain a else s.setHoldState a .isOpen
  | _ => s

/-! ## A geometry load at the other blocks (R7) -/

/-- A crane's position whose bay or level lies beyond a geometry is no longer known (R7). -/
def State.checkPosition (s : State) (g : Geometry) (c : CraneId) : State :=
  if g.bays + 1 < (s.crane c).bay ∨ g.levels < (s.crane c).level then
    s.setCrane c { s.crane c with known := false }
  else s

/-- The entry of a role with no claim and no clear, holding one bay. -/
def RailEntry.at (b : Nat) : RailEntry := { granted := .at b, claim := none, clear := none }

/-- The entry of a role rebuilt: the bay of a mapped crane that is announced and known, else the park end (R7). -/
def State.rebuiltEntry (s : State) (g : Geometry) (a : AisleId) (e : End) : RailEntry :=
  match s.craneAt a e with
  | some c =>
    if (s.crane c).state ≠ .absent ∧ (s.crane c).known = true then .at (s.crane c).bay else .at (g.parkEnd e)
  | none => .at (g.parkEnd e)

/-- Rebuild the table of a re-laid aisle and run the rail check (R7, R111). A SINGLE aisle has no table. -/
def State.rebuildRail (s : State) (a : AisleId) : State :=
  match s.profile? a with
  | some p =>
    let s := s.each (s.cranesOf a) fun s c => s.checkPosition p.geo c
    match p.geo.kind with
    | .tandem =>
      (s.setRail a (some { front := s.rebuiltEntry p.geo a .front, rear := s.rebuiltEntry p.geo a .rear })).checkRail a
    | .single => s.setRail a none
  | none => s

/-- The rear stations of an aisle that is not TANDEM do not exist: the input record is emptied, the reported free count
set to 0 (R7, R153, R160). -/
def State.dropRearStations (s : State) (a : AisleId) : State :=
  if s.isTandem a then s
  else (s.setInput a .rear .empty).setCredit a .rear { s.credit a .rear with reportedFree := 0 }

end Sys2Proof.Machine
end

