-- ==== Sys2Proof/Machine/FaultLog.lean ====
section
/-! DEFINITION. The Fault Log (FLG): taking a fault report (R183 to R185), the halt condition (R186), and the limits of
SET FAULT CONTROL (R181, R187). -/

namespace Sys2Proof.Machine

/-- The fourteen kinds in order (R181). -/
def allKinds : List FaultKind :=
  [.linkFrame, .staleMessage, .foreignReport, .craneRetired, .stepOverdue, .parkTimeout, .craneFault, .craneRestart,
    .doubleOccupancy, .emptyRetrieval, .stationProtocol, .dockOrder, .loadRejected, .railBreach]

/-- The kind of a number 1..14 (R181). -/
def kindOf (n : Nat) : Option FaultKind := if n = 0 then none else allKinds[n - 1]?

/-- A kind that keeps a halt in force: unmasked, of severity HALT, its flag set (R186). -/
def FaultControl.halts (x : FaultControl) : Bool := !x.masked && decide (x.severity = .halt) && x.flag

/-- The halt condition (R186). -/
def State.haltCondition (s : State) : Bool := allKinds.any fun k => (s.faultKind k).halts

/-- Evaluate the halt anew; its end starts selections for every WAITING crane (R186, R68). -/
def State.evaluateHalt (s : State) : State :=
  let t := { s with flg := { s.flg with halt := s.haltCondition } }
  if s.flg.halt = true ∧ s.haltCondition = false then t.selectAll else t

/-- Set an aisle's fault hold for a kind; the first setting is handed to the Aisle Control (R185). -/
def State.setHoldFor (s : State) (a : AisleId) (k : FaultKind) : State :=
  let h := s.faultHold a
  let ks := if h.kinds.contains k then h.kinds else h.kinds ++ [k]
  let s := s.setFaultHold a { isSet := true, kinds := ks }
  if h.isSet then s else s.raise (.faultSourceSet a)

/-- Steps 3 to 6 of R183, for a kind that is not masked. -/
def State.takeUnmasked (s : State) (r : FaultReport) : State :=
  let severity := (s.faultKind r.kind).severity
  let filled := s.flg.capture.isNone
  let s :=
    if filled then { s with flg := { s.flg with capture := some r } }
    else { s with flg := { s.flg with further := saturate 255 (s.flg.further + 1) } }
  let s := s.offerActive (.fault r.kind severity filled r.source r.aisle r.job s.flg.further)
  let s :=
    match r.aisle, severity with
    | some a, .aisle => s.setHoldFor a r.kind
    | some a, .halt => s.setHoldFor a r.kind
    | _, _ => s
  if severity = .halt then s.evaluateHalt else s

/-- Take a fault report (R183). -/
def State.takeFault (s : State) (r : FaultReport) : State :=
  let s := s.setFaultKind r.kind { s.faultKind r.kind with flag := true }
  if (s.faultKind r.kind).masked then s else s.takeUnmasked r

/-- The lowest severity of a kind (R181). -/
def lowestSeverity (k : FaultKind) : Severity :=
  match k with
  | .railBreach => .aisle
  | _ => .note

/-- A kind that may be masked (R181). -/
def maskable (k : FaultKind) : Bool := decide (k ≠ .railBreach)

/-- The order of the severities (R181), and their codes (R203). -/
def Severity.rank : Severity → Nat
  | .note => 0
  | .aisle => 1
  | .halt => 2

/-- A severity held at the kind's lowest (R187). -/
def heldSeverity (k : FaultKind) (x : Severity) : Severity :=
  if x.rank < (lowestSeverity k).rank then lowestSeverity k else x

/-- A mask held clear for a kind that is not maskable (R187). -/
def heldMask (k : FaultKind) (b : Bool) : Bool := b && maskable k

end Sys2Proof.Machine
end

