-- ==== Sys2Proof/Machine/LoadCheck.lean ====
section
/-! DEFINITION. Matching a pallet to its store (R156), the load check (R157, R158) and what the Job Pool makes of its
verdict (R47). -/

namespace Sys2Proof.Machine

/-- The height limits in use, lowest class first (R157). -/
def Operating.limits (o : Operating) : List Nat := [o.limit0, o.limit1, o.limit2, o.limit3].take o.classCount

/-- The smallest class whose limit is at least a height (R157). -/
def heightClass (limits : List Nat) (height : Nat) : Option Class :=
  ([0, 1, 2, 3].filter fun k : Class => decide (k.val < limits.length) && decide (height ≤ limits.getD k.val 0)).head?

/-- The three tests of R157 in order: the reason of the first that fails, or the height class. -/
def loadTest (o : Operating) (height weight : Nat) : Except RejectReason Class :=
  match heightClass o.limits height with
  | none => .error .height
  | some k =>
    if o.weightMax < weight then .error .weightHigh
    else if weight < o.weightMin then .error .weightLow
    else .ok k

/-- A store that qualifies for a match with a pallet at a station (R156). -/
def Job.qualifies (j : Job) (a : AisleId) (e : End) (tag : Word) : Bool :=
  decide (j.kind = .store) && decide (j.state = .pending) && decide (j.reason = some .noPallet) && decide (j.aisle = a)
    && decide (j.end_ = jobEnd e) && decide (j.tag = tag)

/-- The qualifying store, if any; at most one carries a tag (R43, R156). -/
def State.qualifying (s : State) (a : AisleId) (e : End) (tag : Word) : Option Job :=
  s.jobs.find? fun j => j.qualifies a e tag

/-- A rejection completed: the store closes, the station record is emptied, REJECT is sent on link S and LOAD_REJECTED
is raised (R157). -/
def State.rejectLoad (s : State) (j : Job) (a : AisleId) (e : End) (p : Pallet) (r : RejectReason) (src : Link)
    (payload : List Byte) : State :=
  let s := s.closeStore j.handle (.rejectedLoad r)
  let s := s.setInput a e .empty
  let s := s.send .station (.reject a e p.tag r)
  s.raiseFault .loadRejected (.link src) (some a) (some j.handle) payload

/-- A passed store whose slot search is requested (R47): PENDING with no reason until the search is taken (log entry
12). -/
def State.askSlot (s : State) (h : Handle) : State :=
  (s.updJob h fun x => { x with reason := none }).raise (.slotSearch h)

/-- The fixed cell of a store is given up for a slot search: released, the destination ANY, STORE_REDIRECTED sent to
the issuing link (R47, R158). -/
def State.redirectStore (s : State) (j : Job) (c : CellAddr) : State :=
  let s := s.release c j.handle
  let s := s.updJob j.handle fun x => { x with destination := none, chosen := none }
  let s :=
    match j.origin with
    | .order l => s.offerNotice l (.storeRedirected j.handle j.reference c none)
    | .internal => s
  s.askSlot j.handle

/-- The load check of a matched pallet (R157, R158), acted on as R47 gives. A load rejected by its weight keeps its height
class in the record (log entry 54). -/
def State.loadCheck (s : State) (j : Job) (a : AisleId) (e : End) (p : Pallet) (src : Link) (payload : List Byte) :
    State × Verdict :=
  match s.profile? a with
  | none => (s, .passed)
  | some q =>
    match loadTest q.op p.height p.weight with
    | .error r =>
      let cls := if r = .height then none else heightClass q.op.limits p.height
      let s := s.updJob j.handle fun x => { x with load := some { height := p.height, weight := p.weight, cls := cls } }
      (s.rejectLoad j a e p r src payload, .rejected r)
    | .ok k =>
      let s := s.updJob j.handle fun x => { x with
        load := some { height := p.height, weight := p.weight, cls := some k } }
      match j.destination with
      | none => (s.askSlot j.handle, .passed)
      | some c =>
        if k.val ≤ (s.fit c).val then
          ((s.updJob j.handle fun x => { x with state := .ready, reason := none }).becameReady j, .passed)
        else if j.redirectAllowed then (s.redirectStore j c, .passed)
        else (s.rejectLoad j a e p .noFit src payload, .rejected .noFit)

/-- Match an UNCLAIMED record to a store: the record becomes MATCHED and the load check runs (R156). -/
def State.matchStore (s : State) (j : Job) (a : AisleId) (e : End) (p : Pallet) (src : Link) (payload : List Byte) :
    State × Verdict :=
  (s.setInput a e (.matched p j.handle)).loadCheck j a e p src payload

end Sys2Proof.Machine
end

