-- ==== Sys2Proof/Machine/Allot.lean ====
section
/-! DEFINITION. The Allotment Engine: the aisle test (R69), eligibility (R70), the window (R73), units (R74, R75), rail
verdicts (R76, R112), score and ranking (R77, R78), the outcomes of a selection (R79 to R82, R120), preemption (R85,
R86), the slot search (R83) and relocations (R91 to R93). -/

namespace Sys2Proof.Machine

/-! ## Eligibility -/

/-- The aisle test: OPEN, no pending profile, no halt (R69). -/
def State.aisleEligible (s : State) (a : AisleId) : Bool :=
  decide ((s.hold a).state = .isOpen) && (s.aisle a).pendingProfile.isNone && !s.flg.halt

/-- The AVAILABLE candidates of a retrieve, in list order (R72). -/
def State.available (s : State) (j : Job) : List CellAddr :=
  j.candidates.filter fun c => decide (s.status c = .available)

/-- A job is eligible for a crane of an aisle and end (R70). -/
def State.eligible (s : State) (a : AisleId) (e : End) (j : Job) : Bool :=
  decide (j.state = .ready) && j.promised.isNone && decide (j.aisle = a)
    && match j.kind with
      | .store => decide (j.end_ = jobEnd e)
      | .retrieve =>
        endAdmits j.end_ e && !(s.available j).isEmpty && decide (1 ≤ (s.credit a e).available)
      | .relocate => true

/-- The rank of a job by age, the greater first, then by entry order (R73). -/
def Job.ageKey (j : Job) : List Nat := [255 - j.age, j.entryOrder.toNat]

/-- The candidate window: the first 32 eligible jobs (R73). DESIGN CHOICE, unsafe: of two jobs equal in age and in entry
order the one in the lower slot stands first, since R73 gives no further test (log entry 66). -/
def State.window (s : State) (a : AisleId) (e : End) : List Job :=
  (sortBy Job.ageKey (s.jobs.filter (s.eligible a e))).take Config.windowSize

/-! ## Units -/

/-- A unit as formed: its jobs, its steps, the candidate of its retrieve, and its unit time. -/
structure Proposal where
  jobs : List Job
  steps : List Step
  pick : Option CellAddr
  time : Nat
  deriving DecidableEq, Repr

/-- The steps of a store of an end (R29). -/
def storeSteps (a : AisleId) (e : End) (j : Job) : List Step :=
  [{ action := .pick, place := .station a false e, job := j.handle },
   { action := .drop, place := .cell (j.chosen.getD absentCell), job := j.handle }]

/-- The steps of a retrieve from a candidate (R29). -/
def retrieveSteps (a : AisleId) (e : End) (j : Job) (c : CellAddr) : List Step :=
  [{ action := .pick, place := .cell c, job := j.handle },
   { action := .drop, place := .station a true e, job := j.handle }]

/-- The steps of a relocation (R29). -/
def relocateSteps (j : Job) : List Step :=
  [{ action := .pick, place := .cell (j.chosen.getD absentCell), job := j.handle },
   { action := .drop, place := .cell (j.target.getD absentCell), job := j.handle }]

/-- A unit's time from a point, for a crane of an end (R30, R31). -/
def timeOf (p : Profile) (x : Point) (e : End) (steps : List Step) : Nat := unitTime p x e (steps.map (·.place))

/-- The unit of a retrieve, behind a store's steps or none: the AVAILABLE candidate of lowest unit time, the earlier in
the list of equals (R74, R75). -/
def State.withCandidate (s : State) (p : Profile) (x : Point) (a : AisleId) (e : End) (before : List Job)
    (first : List Step) (j : Job) : Option Proposal :=
  minBy (fun u => [u.time]) ((s.available j).map fun c =>
    { jobs := before ++ [j], steps := first ++ retrieveSteps a e j c, pick := some c,
      time := timeOf p x e (first ++ retrieveSteps a e j c) })

/-- The single unit of a job (R74). -/
def State.single (s : State) (p : Profile) (x : Point) (a : AisleId) (e : End) (j : Job) : Option Proposal :=
  match j.kind with
  | .store =>
    some { jobs := [j], steps := storeSteps a e j, pick := none, time := timeOf p x e (storeSteps a e j) }
  | .relocate =>
    some { jobs := [j], steps := relocateSteps j, pick := none, time := timeOf p x e (relocateSteps j) }
  | .retrieve => s.withCandidate p x a e [] [] j

/-- The pair units of a window: each of its first four stores with each of its retrieves (R75). -/
def State.pairs (s : State) (p : Profile) (x : Point) (a : AisleId) (e : End) (w : List Job) : List Proposal :=
  if s.ale.pairing then
    ((w.filter fun j => decide (j.kind = .store)).take Config.pairStores).flatMap fun j =>
      (w.filter fun q => decide (q.kind = .retrieve)).filterMap fun q =>
        s.withCandidate p x a e [j] (storeSteps a e j) q
  else []

/-- Every unit a selection forms (R74, R75). -/
def State.proposals (s : State) (c : CraneId) (p : Profile) (a : AisleId) (e : End) : List Proposal :=
  let w := s.window a e
  w.filterMap (s.single p (s.cranePoint c) a e) ++ s.pairs p (s.cranePoint c) a e w

/-! ## Rail verdicts -/

/-- Clear of the other crane, needing a clear to a target, or dropped (R76). -/
inductive RailVerdict where
  | clear
  | needs (target : Nat)
  | dropped
  deriving DecidableEq, Repr

/-- A unit's hull: the crane's bay and the bay of every stop (R112). -/
def State.unitHull (s : State) (c : CraneId) (steps : List Step) : Interval := hull (s.craneBay c) (s.stepBays steps)

/-- The other crane is one a clear may move: IDLE or WAITING (R112 step 3). -/
def State.otherMovable (s : State) (a : AisleId) (e : End) : Bool :=
  match s.craneAt a (otherEnd e) with
  | some o => decide ((s.crane o).state = .idle) || decide ((s.crane o).state = .waiting)
  | none => false

/-- The clear target for the other crane, inside its bound (R112 step 4). -/
def clearTarget (gap bays : Nat) (e : End) (h : Interval) : RailVerdict :=
  match e with
  | .front => if h.hi + gap + 1 ≤ bays + 1 then .needs (h.hi + gap + 1) else .dropped
  | .rear => if gap + 1 ≤ h.lo then .needs (h.lo - gap - 1) else .dropped

/-- The rail verdict of a hull for the crane of a role (R112). -/
def State.railVerdict (s : State) (p : Profile) (a : AisleId) (e : End) (h : Interval) : RailVerdict :=
  match s.rail a with
  | none => .clear
  | some r =>
    let o := r.get (otherEnd e)
    if keepsGap p.op.gap e h o.effective then .clear
    else if o.claim.isSome then .dropped
    else if !s.otherMovable a e then .dropped
    else clearTarget p.op.gap p.geo.bays e h

/-! ## Score and ranking -/

/-- A job's urgency: its class offset less its age steps times the weight (R77). -/
def State.urgency (s : State) (j : Job) : Int := (s.ale.offsets[j.cls] : Int) - (j.age * s.jpl.weight : Nat)

/-- The least urgency among a unit's jobs (R77). -/
def State.unitUrgency (s : State) (js : List Job) : Int :=
  match js with
  | [] => 0
  | [j] => s.urgency j
  | j :: js => min (s.urgency j) (s.unitUrgency js)

/-- The score of a unit, within 0..16,777,215 (R77). -/
def State.score (s : State) (u : Proposal) : Nat :=
  min Config.timeBound ((u.time / u.jobs.length : Nat) + s.unitUrgency u.jobs).toNat

/-- The oldest job of a unit (R78). DESIGN CHOICE, unsafe: of a pair's two jobs equal in age and in entry order it is the
store, the first of the unit (log entry 67). -/
def oldest (js : List Job) : Option Job := minBy Job.ageKey js

/-- The ranking of a unit: score, then R78's tests. Two pairs share their oldest job exactly when their oldest jobs lie in
one slot, so test 4 decides only behind test 5's slot. -/
def State.unitRank (s : State) (u : Proposal) : List Nat :=
  match oldest u.jobs with
  | none => [s.score u]
  | some j =>
    [s.score u, 255 - j.age, j.entryOrder.toNat, 2 - u.jobs.length, j.handle.slot.val,
      match u.jobs.find? fun q => decide (q.handle ≠ j.handle) with
      | some q => q.entryOrder.toNat
      | none => 0]

/-! ## Outcomes of a selection -/

/-- Stand-by (R69, R82). -/
def State.standby (s : State) (c : CraneId) : State := s.send (.crane c) .standby

/-- The next unit number of a crane, and the counter advanced (R79). -/
def State.advanceCounter (s : State) (c : CraneId) : State :=
  s.setCrane c { s.crane c with unitCounter := (s.crane c).unitCounter + 1 }

/-- Mark one job of a unit OFFERED (R50). -/
def State.markOffered (s : State) (c : CraneId) (n : BitVec 8) (u : Proposal) (j : Job) : State :=
  let s := s.updJob j.handle fun x => { x with
    state := .offered
    unit := some { crane := c, number := n }
    partner := (u.jobs.find? fun q => decide (q.handle ≠ j.handle)).map (·.handle)
    chosen := if x.kind = .retrieve then u.pick else x.chosen }
  s.updBound c j Credit.bind

/-- Reserve the candidate of a unit's retrieve for pick; a unit without a retrieve asks nothing (R79 step 1). -/
def State.reserveUnit (s : State) (u : Proposal) : Option State :=
  match u.pick, u.jobs.getLast? with
  | some x, some j => s.reservePick x j.handle
  | _, _ => some s

/-- The offer of a unit whose reservation stands (R79 steps 2 to 5). DESIGN CHOICE, unsafe: the unit holds current step 1
from the OFFER on, where R129 gives it from the ACCEPT (log entry 73). -/
def State.makeOffer (s : State) (c : CraneId) (u : Proposal) : State :=
  let n := (s.crane c).unitCounter
  let h := s.unitHull c u.steps
  let s := s.each u.jobs fun s j => s.markOffered c n u j
  let s := s.grant c h
  let s := s.stopHoldBack c
  let s := s.advanceCounter c
  let s := s.setCrane c { s.crane c with
    unit := some { number := n, jobs := u.jobs.map (·.handle), steps := u.steps, current := 1 } }
  let s := s.send (.crane c) (.offer n u.steps)
  let s := s.startOfferTimer c
  s.enterState c .offered

/-- Offer a unit; a declined reservation ends the selection and starts a new one (R79). -/
def State.offer (s : State) (c : CraneId) (u : Proposal) : State :=
  match s.reserveUnit u with
  | some t => t.makeOffer c u
  | none => s.raise (.selection c)

/-- A clear: the other crane is sent to the target and the waiting crane takes a claim (R81, R120). -/
def State.makeClear (s : State) (c : CraneId) (a : AisleId) (e : End) (h : Interval) (t : Nat) : State :=
  match s.craneAt a (otherEnd e) with
  | none => s
  | some o =>
    let s := s.stopHoldBack c
    let waiting := decide ((s.crane o).state = .waiting)
    let s := s.updOwn o fun r => { r with
      clear := some { target := t, toWaiting := waiting }, granted := hull (s.craneBay o) [t] }
    let s := s.enterState o .clearing
    let s := s.send (.crane o) (.clear t)
    let s := s.startParkTimer o
    s.updEntry a e fun r => { r with claim := some h }

/-- A single unit of class 2 or 3 (R80). -/
def Proposal.isLoneLow (u : Proposal) : Bool :=
  match u.jobs with
  | [j] => decide (2 ≤ j.cls.val)
  | _ => false

/-- The winner of a selection: the unit of lowest rank among those not dropped (R76, R78). DESIGN CHOICE, unsafe: of units
that R78's tests leave equal (two pairs sharing their oldest job, whose other jobs have equal entry orders) the one formed
first wins (log entry 67). -/
def State.winner (s : State) (c : CraneId) (p : Profile) (a : AisleId) (e : End) : Option Proposal :=
  minBy s.unitRank
    ((s.proposals c p a e).filter fun u => decide (s.railVerdict p a e (s.unitHull c u.steps) ≠ .dropped))

/-- What becomes of a winner that is not held back (R79, R81). The aisle test R81 repeats stands within the event. -/
def State.takeWinner (s : State) (c : CraneId) (p : Profile) (a : AisleId) (e : End) (u : Proposal) : State :=
  match s.railVerdict p a e (s.unitHull c u.steps) with
  | .needs t => s.makeClear c a e (s.unitHull c u.steps) t
  | _ => s.offer c u

/-- Hold-back, by the table of R80: a lone winner of class 2 or 3 begins it, continues it, or passes. -/
def State.decideWinner (s : State) (c : CraneId) (p : Profile) (a : AisleId) (e : End) (u : Proposal) : State :=
  if u.isLoneLow then
    match (s.holdBack c).timer, (s.holdBack c).heldBack with
    | none, false => if s.ale.tPair = 0 then s.takeWinner c p a e u else (s.standby c).startHoldBack c
    | some _, true => s
    | _, _ => s.takeWinner c p a e u
  else s.takeWinner c p a e u

/-- A selection for a crane (R67 to R82). -/
def State.runSelection (s : State) (c : CraneId) : State :=
  match (s.crane c).state, (s.crane c).mapping with
  | .waiting, some (a, e) =>
    match s.profile? a with
    | none => s.standby c
    | some p =>
      if s.aisleEligible a then
        match s.winner c p a e with
        | some u => s.decideWinner c p a e u
        | none => (s.standby c).stopHoldBack c
      else s.standby c
  | _, _ => s

/-! ## Preemption -/

/-- The cranes of a job, FRONT first (R85). -/
def State.jobCranes (s : State) (j : Job) : List CraneId :=
  match j.end_, j.kind with
  | .front, .store => (s.craneAt j.aisle .front).toList
  | .front, .retrieve => (s.craneAt j.aisle .front).toList
  | .rear, .store => (s.craneAt j.aisle .rear).toList
  | .rear, .retrieve => (s.craneAt j.aisle .rear).toList
  | _, _ => s.cranesOf j.aisle

/-- The interval of a redirect: the crane's bay, the old unit's remaining steps and the new unit's steps (R86). -/
def State.redirectHull (s : State) (c : CraneId) (steps : List Step) : Interval :=
  hull (s.craneBay c) (s.stepBays ((s.crane c).remaining ++ steps))

/-- The jobs of a crane's unit are all of class 2 or 3 (R85). -/
def State.lowUnit (s : State) (c : CraneId) : Bool :=
  (s.crane c).jobs.all fun h =>
    match s.job? h with
    | some j => decide (2 ≤ j.cls.val)
    | none => true

/-- The redirect a crane could take for a job, where it is a target (R85). -/
def State.preemptionTarget (s : State) (j : Job) (c : CraneId) : Option (CraneId × Proposal) :=
  match (s.crane c).mapping with
  | none => none
  | some (a, e) =>
    match s.profile? a with
    | none => none
    | some p =>
      if (s.crane c).state = .working ∧ s.loadedOn c = none ∧ s.lowUnit c = true ∧ (s.crane c).redirect = none
          ∧ (s.crane c).leaveService = false ∧ (j.kind ≠ .retrieve ∨ 1 ≤ (s.credit a e).available) then
        match s.single p (s.cranePoint c) a e j with
        | none => none
        | some u =>
          match s.otherEntry c with
          | some o => if keepsGap p.op.gap e (s.redirectHull c u.steps) o.effective then some (c, u) else none
          | none => some (c, u)
      else none

/-- The redirect of a crane to a promised job (R86). -/
def State.makeRedirect (s : State) (c : CraneId) (j : Job) (u : Proposal) : State :=
  match s.reserveUnit u with
  | none => s
  | some s =>
    let n := (s.crane c).unitCounter
    let h := s.redirectHull c u.steps
    let s := s.updJob j.handle fun x => { x with
      promised := some { crane := c, number := n }
      chosen := if x.kind = .retrieve then u.pick else x.chosen }
    let s := s.updBound c j Credit.bind
    let s := s.grant c h
    let s := s.advanceCounter c
    let s := s.setCrane c { s.crane c with redirect := some { number := n, steps := u.steps, job := j.handle } }
    let s := s.send (.crane c) (.redirect n u.steps)
    s.startOfferTimer c

/-- The preemption check for a job (R85). -/
def State.runPreemption (s : State) (h : Handle) : State :=
  match s.job? h with
  | none => s
  | some j =>
    if s.ale.preemption = true ∧ j.state = .ready ∧ j.promised = none ∧ j.cls = 0 ∧ s.aisleEligible j.aisle = true
        ∧ ((s.jobCranes j).all fun c => decide ((s.crane c).state ≠ .waiting)) = true
        ∧ (j.kind ≠ .retrieve ∨ s.available j ≠ []) then
      match minBy (fun t => [t.2.time]) ((s.jobCranes j).filterMap (s.preemptionTarget j)) with
      | some (c, u) => s.makeRedirect c j u
      | none => s
    else s

/-! ## The slot search -/

/-- The end a store names. -/
def Job.storeEnd (j : Job) : End :=
  match j.end_ with
  | .rear => .rear
  | _ => .front

/-- The height class of a store's load. -/
def Job.loadClass (j : Job) : Class := (j.load.bind (·.cls)).getD 0

/-- The slot search for a store to ANY whose load has passed (R83, R47): the winner is reserved and the store becomes
READY; with none it is PENDING with NO_SPACE. A winner is never declined within the event (log entry 28). -/
def State.runSlotSearch (s : State) (h : Handle) : State :=
  match s.job? h with
  | none => s
  | some j =>
    if j.kind = .store ∧ j.state = .pending ∧ j.load ≠ none ∧ j.destination = none
        ∧ (j.reason = none ∨ j.reason = some .noSpace) then
      match s.slotWinner j.aisle j.storeEnd (s.stationPoint j.aisle j.storeEnd) j.loadClass fun _ => true with
      | none => s.pend h .noSpace
      | some c =>
        match s.reserveDrop c h with
        | none => s.pend h .noSpace
        | some s =>
          (s.updJob h fun x => { x with chosen := some c, state := .ready, reason := none }).becameReady j
    else s

/-! ## Relocations -/

/-- The creation of a relocation for a retrieve, with the source reserved for the handle it will take and the target
found (R93). -/
def State.createRelocation (s : State) (j : Job) (h : Handle) (source target : CellAddr) : State :=
  let r := { Job.new h .relocate .internal j.cls j.aisle 0 with
    served := some j.handle
    age := j.age
    chosen := some source
    target := some target
    state := .ready }
  let s := s.createJob r
  let s := s.updJob j.handle fun x => { x with waitsFor := some h, state := .pending, reason := some .relocating }
  s.becameReady r

/-- The target search and the two reservations of R92 and R93, for a BLOCKED candidate's near cell. -/
def State.relocate (s : State) (j : Job) (h : Handle) (source : CellAddr) : State :=
  let k := ((s.cell source).state.loadClass).getD 0
  match s.targetWinner source (cellPoint source) k fun _ => true with
  | none => s.pend j.handle .noRelocSpace
  | some target =>
    match s.reservePick source h with
    | none => s.evaluate j.handle
    | some t =>
      match t.reserveDrop target h with
      | none => (t.release source h).pend j.handle .noRelocSpace
      | some t => t.createRelocation j h source target

/-- A relocation request (R91). -/
def State.runRelocation (s : State) (q : Handle) : State :=
  match s.job? q with
  | none => s
  | some j =>
    if j.kind = .retrieve ∧ j.state = .pending ∧ j.reason = some .noCandidate ∧ j.waitsFor = none
        ∧ s.inWindow j = true then
      match j.candidates.find? fun c => decide (s.status c = .blocked) with
      | none => s
      | some c =>
        match s.nextHandle with
        | none => s.pend q .noRelocSpace
        | some h => s.relocate j h (nearOf c)
    else s

/-- A re-evaluation taken at the Job Pool: a retrieve is evaluated (R48), a store PENDING with NO_SPACE draws a slot
search (R47); any other job is unaffected (R49). -/
def State.reEvaluateJob (s : State) (h : Handle) : State :=
  match s.job? h with
  | none => s
  | some j =>
    match j.kind with
    | .retrieve => s.evaluate h
    | .store => if j.state = .pending ∧ j.reason = some .noSpace then s.raise (.slotSearch h) else s
    | .relocate => s

end Sys2Proof.Machine
end

