-- ==== Sys2Proof/Machine/Commands.lean ====
section
/-! DEFINITION. How a frame is taken: the order and station commands with their reply and its limit (R196 to R198), and
the crane messages with the discards of R126. -/

namespace Sys2Proof.Machine

/-! ## Commands and replies -/

/-- What a command's block answers: the state after its effects, the result, the CLAMPED flag and the data (R196). -/
structure Answer where
  state : State
  result : Result
  clamped : Bool
  data : ReplyData
  deriving DecidableEq, Repr

/-- A refusal: no data (R196). The state is the one given, changed only by a fault the refusal raises. -/
def State.refuse (s : State) (r : Result) : Answer := { state := s, result := r, clamped := false, data := .nothing }

/-- OK with data. -/
def State.ok (s : State) (d : ReplyData) : Answer := { state := s, result := .ok, clamped := false, data := d }

/-- OK with data and the CLAMPED flag. -/
def State.okClamped (s : State) (b : Bool) (d : ReplyData) : Answer :=
  { state := s, result := .ok, clamped := b, data := d }

/-- Place a frame in a link's transmit list behind its first `n` frames. -/
def State.insertTx (s : State) (k : Link) (n : Nat) (m : Message) : State :=
  s.setTx k ((s.tx k).take n ++ m :: (s.tx k).drop n)

/-- The activity flag of an order link is set by a good frame (R198). Link S and the crane links have none. -/
def State.activate (s : State) (k : Link) : State :=
  match k with
  | .order l => { s with liu := { s.liu with active := s.liu.active.set l true } }
  | _ => s

/-- The reply of an answer to a command of a type. -/
def Answer.reply (r : Answer) (code : Byte) : Reply :=
  { command := code, result := r.result, clamped := r.clamped, part := 0, data := r.data }

/-- A command arriving on a link that answers commands (R196): while a restart waits it is discarded in silence (R201);
while four replies wait it is discarded with LINK_FRAME, which carries the bytes of its frame after the type byte (R182; log
entry 23); otherwise its block takes it and its one reply joins the transmit list ahead of the messages the same event
formed for the link. -/
def State.command (s : State) (e : Instr) (k : Link) (code : Byte) (payload : List Byte) (act : State → Answer) :
    State :=
  let s := s.take e
  if s.liu.restarting.isSome then s
  else
    let s := s.activate k
    if Config.replyLimit ≤ s.waitingReplies k then s.raiseFault .linkFrame (.link k) none none (frameTail code payload)
    else
      let r := act s
      r.state.insertTx k (s.tx k).length (.reply (r.reply code))

/-- An order command. -/
def State.orderCommand (s : State) (e : Instr) (l : OrderLink) (code : Byte) (payload : List Byte)
    (act : State → Answer) : State :=
  s.command e (.order l) code payload act

/-- A station command. -/
def State.stationCommand (s : State) (e : Instr) (code : Byte) (payload : List Byte) (act : State → Answer) : State :=
  s.command e .station code payload act

/-- Read a field, or refuse with BAD_FIELD (R195). -/
def State.withField {α : Type} (s : State) (x : Option α) (f : α → Answer) : Answer :=
  match x with
  | some x => f x
  | none => s.refuse .badField

/-! ## Crane messages -/

/-- STALE_MESSAGE with a crane's link as source (R126, R136, R140, R144). -/
def State.stale (s : State) (c : CraneId) (j : Option Handle) (p : List Byte) : State :=
  s.raiseFault .staleMessage (.link (.crane c)) (s.craneAisle c) j p

/-- The handle, where it is that of a live job (R140, R182). -/
def State.liveHandle (s : State) (h : Handle) : Option Handle := if (s.job? h).isSome then some h else none

/-- A message on a crane link, read by `read` as a field and taken by `act`: discarded in silence while a restart waits
(R201); discarded with STALE_MESSAGE on a link with no mapping, from an ABSENT crane where the kind is not HELLO, and
where the read fails (R126). `names` is the job the message names, if any. -/
def State.craneMessage {α : Type} (s : State) (e : Instr) (c : CraneId) (p : List Byte) (hello : Bool)
    (names : Option Handle) (read : State → Option α) (act : State → α → State) : State :=
  let s := s.take e
  if s.liu.restarting.isSome then s
  else if (s.crane c).mapping = none ∨ ((s.crane c).state = .absent ∧ hello = false) then
    s.stale c (names.bind s.liveHandle) p
  else
    match read s with
    | none => s.stale c (names.bind s.liveHandle) p
    | some x => act s x

/-- A position field: bay 0..B+1 and level 0..L of the crane's aisle; unchecked where the aisle is not configured
(R126). -/
def State.readPosition (s : State) (c : CraneId) (p : List Byte) : Option Point :=
  if p.length = 2 then
    match (s.craneAisle c).bind s.profile? with
    | some q =>
      if byteAt p 0 ≤ q.geo.bays + 1 ∧ byteAt p 1 ≤ q.geo.levels then
        some { bay := byteAt p 0, level := byteAt p 1 }
      else none
    | none => some { bay := byteAt p 0, level := byteAt p 1 }
  else none

/-- A unit number field (R126, R204). -/
def readUnit (p : List Byte) : Option (BitVec 8) := if p.length = 1 then p.head? else none

/-- A unit number and a refusal reason 0..15 (R126, R204). -/
def readRefusal (p : List Byte) : Option (BitVec 8 × Nat) :=
  match p with
  | [n, r] => if r.toNat < 16 then some (n, r.toNat) else none
  | _ => none

/-- A payload of no bytes (R204). -/
def readNothing (p : List Byte) : Option Unit := if p = [] then some () else none

end Sys2Proof.Machine
end

