-- ==== Sys2Proof/Machine/Receiver.lean ====
section
/-! DEFINITION. The receivers and transmitters of the links: hunting and framing (R194), discards (R182, R194), and the
frames that leave the transmit lists (R193, R197, R201). -/

namespace Sys2Proof.Machine

/-- The aisle a LINK_FRAME carries: a crane link's crane's (R182). -/
def State.linkAisle (s : State) (k : Link) : Option AisleId :=
  match k with
  | .crane c => s.craneAisle c
  | _ => none

/-- Discard a frame: the receiver hunts and one LINK_FRAME is raised with the bytes received after the type byte
(R194, R182). No silence of the frame is owed an expiry any more. -/
def State.discardFrame (s : State) (k : Link) (afterType : List Byte) : State :=
  ((s.setRx k .hunting).forget (.tgapExpiry k)).raiseFault .linkFrame (.link k) (s.linkAisle k) none afterType

/-- The bytes of a frame received after its type byte, given those after 0xC5: length, type, and so on (R182). -/
def afterType (bytes : List Byte) : List Byte := bytes.drop 2

/-- The bytes after 0xC5 of a whole frame, where its length byte has arrived: length, type, payload, CRC (R193). -/
def frameLength (bytes : List Byte) : Nat := byteAt bytes 0 + 3

/-- A byte examined while hunting: 0xC5 starts a frame (R194). -/
def State.hunt (s : State) (k : Link) (b : Byte) : State :=
  if b = startByte then s.setRx k (.inFrame [] s.now) else s.setRx k .hunting

/-- The checks of R194 on the bytes after 0xC5, `b` among them: the length byte as it arrives, and the CRC and the type
once the frame is whole. A good frame is handed on as the command it spells. -/
def State.checkFrame (s : State) (k : Link) (bytes : List Byte) : State :=
  if byteAt bytes 0 = 0 ∨ 64 < byteAt bytes 0 then s.discardFrame k (afterType bytes)
  else if bytes.length < frameLength bytes then s.setRx k (.inFrame bytes s.now)
  else
    let body := bytes.take (bytes.length - 2)
    if bytes.drop (bytes.length - 2) ≠ crcBytes body then s.discardFrame k (afterType bytes)
    else
      match decodeFrame k (bytes.getD 1 0) (body.drop 2) with
      | some i => (s.setRx k .hunting).raise i
      | none => s.discardFrame k (afterType bytes)

/-- The silence inside a frame has reached tGAP (R194). -/
def State.silent (s : State) (at_ : Nat) : Bool := decide (Config.tGap ≤ s.now - at_)

/-- A byte arrives (R194): it ends the silence that tGAP measures. While a restart waits, every frame is discarded in
silence (R201). -/
def State.receive (s : State) (k : Link) (b : Byte) : State :=
  if s.liu.restarting.isSome then s
  else
    match s.rx k with
    | .hunting => s.hunt k b
    | .inFrame bytes t =>
      if s.silent t then (s.discardFrame k (afterType bytes)).hunt k b
      else (s.forget (.tgapExpiry k)).checkFrame k (bytes ++ [b])

/-- Put an event ahead of the raised ones. -/
def State.raiseFirst (s : State) (e : Instr) : State := { s with events := e :: s.events }

/-- The restart a sent frame completes: the RESTART reply of the restarting link (R201 step 3). -/
def State.restartSent (s : State) (k : Link) (m : Message) : Option RestartKind :=
  match s.liu.restarting, m with
  | some r, .reply y =>
    if k = .order r.link ∧ y.command = Code.restart ∧ y.result = .ok then some r.kind else none
  | _, _ => none

/-- The event of a restart taking effect. -/
def restartEvent (x : RestartKind) : Instr :=
  match x with
  | .soft => .restartSoft
  | .hard => .restartHard

/-- A reply with its next part at the head of the list (R197). -/
def Message.nextPart (m : Message) : Message :=
  match m with
  | .reply r => .reply { r with part := r.part + 1 }
  | _ => m

/-- The data of a reply that may take several parts (R197): QUERY AISLE, QUERY CRANE, QUERY FAULTS, QUERY JOB, QUERY POOL
and QUERY WAVE for ALL. -/
def ReplyData.isLong (d : ReplyData) : Bool :=
  match d with
  | .aisle _ | .crane _ | .faults _ | .job _ | .pool _ | .waves _ _ => true
  | _ => false

/-- A frame after which a further part of the same reply may follow (R197). -/
def Message.mayContinue (m : Message) : Bool :=
  match m with
  | .reply r => r.data.isLong
  | _ => false

/-- The last CRC byte of the head frame of a link's list has been sent: the frame leaves the list, or, where further parts
of the same reply follow, its next part stands at the head (R193, R197). A frame after which no part may follow leaves
whatever the input says (log entry 8). -/
def State.headSent (s : State) (k : Link) (moreParts : Bool) : State :=
  match s.tx k with
  | [] => s
  | m :: ms =>
    if moreParts = true ∧ m.mayContinue = true then s.setTx k (m.nextPart :: ms)
    else
      match s.restartSent k m with
      | some x => (s.setTx k ms).raiseFirst (restartEvent x)
      | none => s.setTx k ms

/-- The last CRC byte of the frame being sent on a link has been sent: of the frame that a restart let complete, after
which no part of the same reply follows (R201 step 3), or else of the head of the list. -/
def State.frameSent (s : State) (k : Link) (moreParts : Bool) : State :=
  match s.finishing k with
  | some _ => s.setFinishing k none
  | none => s.headSent k moreParts

end Sys2Proof.Machine
end

