-- ==== Sys2Proof/Machine/Resets.lean ====
section
/-! DEFINITION. The four kinds of reset (R201), block by block: R21, R22, R65, R66, R90, R124, R151, R152, R168, R179,
R180, R191, R192, R198, R200. -/

namespace Sys2Proof.Machine

/-- The rate the straps select (R192). -/
def strapRate (rate1 rate0 : Bool) : LineRate :=
  match rate1, rate0 with
  | false, false => .r57600
  | false, true => .r115200
  | true, false => .r230400
  | true, true => .r460800

/-- The Fault Log after a pin reset or RESTART HARD: flags, capture and further count kept (R191). -/
def FaultLog.hardReset (x : FaultLog) : FaultLog where
  kinds := Vector.ofFn fun i : Fin 14 => { FaultControl.initial i.val with flag := x.kinds[i].flag }
  capture := x.capture
  further := x.further
  holds := Vector.replicate 8 { isSet := false, kinds := [] }
  halt := false

/-- Every block as RESTART HARD leaves it, at a line rate and GATE levels (R201). The waiting commands and the clock of
the model stand. -/
def State.hardReset (s : State) (rate : LineRate) (gates : Vector Bool 8) : State :=
  { State.initial rate gates with flg := s.flg.hardReset, now := s.now, pending := s.pending }

/-- The filtered GATE levels the sources record (R169). -/
def State.gateLevels (s : State) : Vector Bool 8 := s.aic.holds.map fun h => !h.sources.gate

/-- A power-on reset (R201, R191, R192). -/
def State.powerOn (s : State) (pins : PinLevels) : State :=
  { State.initial (strapRate pins.rate1 pins.rate0) pins.gates with now := s.now, pending := s.pending }

/-- A pin reset (R201, R192). -/
def State.pinReset (s : State) (pins : PinLevels) : State :=
  s.hardReset (strapRate pins.rate1 pins.rate0) pins.gates

/-- The frame being sent on a link when a restart takes effect, which is completed: one that an earlier restart let
complete, or the head of the list (R193; log entry 57); on the sending link the RESTART reply was the last (R201 step 3). -/
def State.frameInFlight (s : State) (i : Fin 15) : Option Message :=
  if (s.liu.restarting.map fun r => linkIndex (.order r.link)) = some i then none
  else s.liu.finishing[i].or s.liu.tx[i].head?

/-- The Link Interface Units at a restart: as after a reset at the rate in force, every transmit list empty, but for the
frames being sent (R192, R201 steps 3 and 4). -/
def State.restartLinks (s : State) : Links := { Links.initial s.liu.rate with finishing := Vector.ofFn s.frameInFlight }

/-- RESTART HARD: the straps are not sampled (R192); the gate sources take the levels at the restart (R179). -/
def State.restartHard (s : State) : State :=
  { s.hardReset s.liu.rate s.gateLevels with liu := s.restartLinks }

/-! ## RESTART SOFT -/

/-- A cell record at RESTART SOFT (R22). -/
def State.softCell (s : State) (x : Cell) : Cell :=
  match x.state with
  | .inReserved h =>
    match s.job? h with
    | some j => if j.state = .loaded then { x with state := .unknown } else { x with state := .empty }
    | none => { x with state := .empty }
  | .outReserved _ k => { x with state := .full k }
  | _ => x

/-- The records of an aisle at RESTART SOFT; a record equal to an unlisted one is listed no longer. -/
def State.softCells (s : State) (t : List (Nat × Cell)) : List (Nat × Cell) :=
  (t.map fun x => (x.1, s.softCell x.2)).filter fun x => decide (x.2 ≠ Cell.initial)

/-- An aisle's profiles at RESTART SOFT: a pending one is applied at once (R22). -/
def Aisle.applied (x : Aisle) : Option Profile :=
  match x.profile, x.pendingProfile with
  | some p, some q => some { p with op := q.op }
  | _, _ => x.profile

/-- The Cell Map at RESTART SOFT (R22). -/
def State.softMap (s : State) : CellMap :=
  { aisles := s.cmp.aisles.map fun x =>
      { profile := x.applied, pendingProfile := none, cells := s.softCells x.cells } }

/-- The Job Pool at RESTART SOFT (R66). -/
def JobPool.softReset (x : JobPool) : JobPool :=
  { x with
    slots := x.slots.map fun y => if y.job.isSome then { gen := y.gen + 1, job := none } else y
    freeList := x.freeList ++ (List.finRange 256).filter fun i => x.slots[i].job.isSome
    live := { o0 := 0, o1 := 0 }
    counter := x.startCount
    closingWait := { o0 := [], o1 := [] } }

/-- A crane record at RESTART SOFT (R152). -/
def Crane.softReset (x : Crane) : Crane :=
  { Crane.initial with
    mapping := x.mapping
    unitCounter := x.unitCounter
    leaveService := x.leaveService || decide (x.state = .outOfService) }

/-- The table of an aisle rebuilt to the park ends (R124). -/
def softRail (x : Aisle) : Option (PerEnd RailEntry) :=
  match x.profile with
  | some p =>
    if p.geo.kind = .tandem then some { front := .at (p.geo.parkEnd .front), rear := .at (p.geo.parkEnd .rear) }
    else none
  | none => none

/-- The Crane Tracker at RESTART SOFT (R124, R152). -/
def Tracker.softReset (x : Tracker) (m : CellMap) : Tracker :=
  { x with cranes := x.cranes.map Crane.softReset, rail := m.aisles.map softRail }

/-- An aisle's hold at RESTART SOFT, with its sources: HELD with any source set, else OPEN; an unconfigured aisle stays
so (R180). -/
def AisleHold.softReset (x : AisleHold) (sources : HoldSources) : AisleHold :=
  if x.state = .unconfigured then { x with sources := sources }
  else if sources.any then { sources := sources, state := .held, gack := true }
  else { sources := sources, state := .isOpen, gack := false }

/-- An aisle's sources at RESTART SOFT: kept; the fault source is the fault hold of the Fault Log, one fact with it
(R180, R185, R191; log entry 20). -/
def State.softSources (s : State) (a : AisleId) : HoldSources :=
  { (s.hold a).sources with fault := (s.faultHold a).isSet }

/-- The Aisle Control at RESTART SOFT (R180). -/
def State.softHolds (s : State) : AisleControl :=
  { holds := Vector.ofFn fun a => (s.hold a).softReset (s.softSources a), parkOwed := Vector.replicate 12 false }

/-- RESTART SOFT (R201): every block's own rule, then the rail check of each tandem aisle (R111, R124) and the halt
evaluated anew (R191). One check is run for an aisle whose pending profile is applied and whose table is rebuilt, each a
row of R111's table (log entry 63); the aisles come in rising order (log entry 62). -/
def State.restartSoft (s : State) : State :=
  let t := { s with
    liu := s.restartLinks
    jpl := s.jpl.softReset
    cmp := s.softMap
    ale := { s.ale with holdBack := Vector.replicate 12 HoldBack.initial }
    crt := s.crt.softReset s.softMap
    swu := Stations.initial
    aic := s.softHolds
    events := [] }
  (t.each (List.finRange 8) State.checkRail).evaluateHalt

end Sys2Proof.Machine
end

