-- ==== Sys2Proof/Machine/JobCommands.lean ====
section
/-! DEFINITION. The order commands on jobs: ENTER STORE, ENTER RETRIEVE, CANCEL, RESOLVE, QUERY JOB, QUERY POOL (R39 to
R46, R59 to R62, R64, R147). -/

namespace Sys2Proof.Machine

/-! ## Entering -/

/-- An aisle number that names a configured aisle (R43, R45 check 1). -/
def State.configuredAisle (s : State) (n : Nat) : Option AisleId := (aisleOf n).filter s.configured

/-- An end a store may name: REAR only in a TANDEM aisle (R43 check 2). -/
def State.storeEndOf (s : State) (a : AisleId) (n : Nat) : Option End := (endOf n).filter (s.stationExists a)

/-- An end a retrieve may name (R45 check 2). -/
def State.retrieveEndOf (s : State) (a : AisleId) (n : Nat) : Option JobEnd :=
  match n with
  | 0 => some .front
  | 1 => if s.isTandem a then some .rear else none
  | 2 => some .either
  | _ => none

/-- A class, clamped to 3 (R43, R45). -/
def clampClass (n : Nat) : Class := Fin.ofNat 4 (min n 3)

/-- POOL_FULL, then QUOTA (R40, R41, R43 check 3). -/
def State.poolRefusal (s : State) (l : OrderLink) : Option Result :=
  if s.jpl.freeList.length ≤ Config.slotReserve then some .poolFull
  else if s.jpl.quota.get l ≤ s.jpl.live.get l then some .quota
  else none

/-- A live store carries a tag (R43 check 4). -/
def State.tagTaken (s : State) (tag : Word) : Bool :=
  s.jobs.any fun j => decide (j.kind = .store) && decide (j.tag = tag)

/-- The refusal of a fixed store cell (R43 checks 5 to 7). -/
def State.fixedRefusal (s : State) (a : AisleId) (c : Option CellAddr) : Option Result :=
  match c with
  | none => none
  | some c =>
    if s.hasCell a c = false then some .badCell
    else if (s.cell c).state ≠ .empty then some .cellNotEmpty
    else if s.pairAllows c = false then some .cellTaken
    else none

/-- The first reason of a list of refusals in order. -/
def firstRefusal : List (Option Result) → Option Result
  | [] => none
  | some r :: _ => some r
  | none :: rest => firstRefusal rest

/-- The refusals of an ENTER STORE from check 3 on (R43). -/
def State.storeRefusal (s : State) (l : OrderLink) (f : EnterStoreFields) (a : AisleId) : Option Result :=
  firstRefusal [s.poolRefusal l, if s.tagTaken f.tag then some .dupTag else none, s.fixedRefusal a f.destination]

/-- The record of a store at entry (R42, R44). -/
def storeRecord (h : Handle) (l : OrderLink) (f : EnterStoreFields) (a : AisleId) (e : End) (r : Bool) : Job :=
  { Job.new h .store (.order l) (clampClass f.cls) a 0 with
    reference := f.reference
    tag := f.tag
    end_ := jobEnd e
    destination := f.destination
    redirectAllowed := r
    chosen := f.destination
    reason := some .noPallet }

/-- Reserve a store's fixed cell for drop (R44). -/
def State.reserveFixed (s : State) (c : Option CellAddr) (h : Handle) : State :=
  match c with
  | some c => (s.reserveDrop c h).getD s
  | none => s

/-- The creation of a store (R44). -/
def State.createStore (s : State) (l : OrderLink) (f : EnterStoreFields) (a : AisleId) (e : End) (r : Bool)
    (p : List Byte) : Answer :=
  match s.nextHandle with
  | none => s.refuse .poolFull
  | some h =>
    let s := s.createJob (storeRecord h l f a e r)
    let s := s.reserveFixed f.destination h
    let s := s.raise (.storeHandOver h l p)
    s.okClamped (decide (3 < f.cls)) (.entered h .pending (some .noPallet) none none)

/-- ENTER STORE (R43, R44). -/
def State.enterStore (s : State) (l : OrderLink) (p : List Byte) : Answer :=
  s.withField (decodeEnterStore p) fun f =>
    match s.configuredAisle f.aisle with
    | none => s.refuse .noAisle
    | some a =>
      s.withField (s.storeEndOf a f.end_) fun e =>
        s.withField (flagOf f.redirectAllowed) fun r =>
          match s.storeRefusal l f a with
          | some x => s.refuse x
          | none => s.createStore l f a e r p

def execEnterStore (l : OrderLink) (p : List Byte) (s : State) : Host.Outcome State Fault Refusal :=
  .next (s.orderCommand (.enterStore l p) l Code.enterStore p fun s => s.enterStore l p)

/-- The wave checks of an ENTER RETRIEVE: BAD_WAVE, then DUP_SEQ (R45 checks 5 and 6). -/
def State.waveRefusal (s : State) (f : EnterRetrieveFields) : Option Result :=
  if f.wave = 0 then none
  else
    match s.wave? f.wave with
    | none => some .badWave
    | some w =>
      if w.isOpen = false ∨ f.seq < w.firstSeq ∨ 4095 < f.seq ∨ f.seq ≤ w.takenThrough then some .badWave
      else if s.jobs.any fun j => decide (j.wave = some { id := f.wave, seq := f.seq }) then some .dupSeq
      else none

/-- The refusals of an ENTER RETRIEVE from check 3 on (R45). -/
def State.retrieveRefusal (s : State) (l : OrderLink) (f : EnterRetrieveFields) (a : AisleId) : Option Result :=
  firstRefusal [s.poolRefusal l, if f.candidates.all (s.hasCell a) then none else some .badCell, s.waveRefusal f]

/-- The record of a retrieve at entry: the candidates without repeats (R42, R46). It waits with NO_CANDIDATE until its
evaluation in the same event. -/
def retrieveRecord (h : Handle) (l : OrderLink) (f : EnterRetrieveFields) (a : AisleId) (e : JobEnd) : Job :=
  { Job.new h .retrieve (.order l) (clampClass f.cls) a 0 with
    reference := f.reference
    end_ := e
    candidates := firstsOnly [] f.candidates
    wave := if f.wave = 0 then none else some { id := f.wave, seq := f.seq }
    reason := some .noCandidate }

/-- A wave has one more live job (R46, R164). -/
def State.waveEntered (s : State) (w : Option WaveRef) : State :=
  match w with
  | some w => s.updWave w.id fun x => { x with live := x.live + 1 }
  | none => s

/-- The data of an ENTER RETRIEVE's reply: the state the evaluation left (R46). `n` is the number of candidates kept
after the repeats are dropped (log entry 11). A job that has already left the pool closed with NO_STOCK. -/
def State.enteredData (s : State) (h : Handle) (n : Nat) : ReplyData :=
  match s.job? h with
  | some j => .entered h j.state j.reason j.outcome (some n)
  | none => .entered h .closing none (some .noStock) (some n)

/-- The creation of a retrieve and its one evaluation (R46). -/
def State.createRetrieve (s : State) (l : OrderLink) (f : EnterRetrieveFields) (a : AisleId) (e : JobEnd) : Answer :=
  match s.nextHandle with
  | none => s.refuse .poolFull
  | some h =>
    let j := retrieveRecord h l f a e
    let s := (s.createJob j).waveEntered j.wave
    let s := s.evaluate h
    s.okClamped (decide (3 < f.cls)) (s.enteredData h j.candidates.length)

/-- A payload that reaches its candidate count and gives one outside 1..4 (R45 check 2, R203). -/
def badCandidateCount (p : List Byte) : Bool := decide (8 ≤ p.length) && (decide (byteAt p 7 = 0) || decide (4 < byteAt p 7))

/-- ENTER RETRIEVE (R45, R46). A count outside 1..4 is refused at its place, check 2, so behind the aisle's, and before the
payload's length (R203; log entry 9). -/
def State.enterRetrieve (s : State) (l : OrderLink) (p : List Byte) : Answer :=
  if badCandidateCount p then
    match s.configuredAisle (byteAt p 5) with
    | none => s.refuse .noAisle
    | some _ => s.refuse .badField
  else
    s.withField (decodeEnterRetrieve p) fun f =>
      match s.configuredAisle f.aisle with
      | none => s.refuse .noAisle
      | some a =>
        s.withField (s.retrieveEndOf a f.end_) fun e =>
          match s.retrieveRefusal l f a with
          | some x => s.refuse x
          | none => s.createRetrieve l f a e

def execEnterRetrieve (l : OrderLink) (p : List Byte) (s : State) : Host.Outcome State Fault Refusal :=
  .next (s.orderCommand (.enterRetrieve l p) l Code.enterRetrieve p fun s => s.enterRetrieve l p)

/-! ## CANCEL -/

/-- A live job not in CLOSING (R59, R61 check 1). -/
def State.openJob? (s : State) (h : Handle) : Option Job :=
  match s.job? h with
  | some j => if j.state = .closing then none else some j
  | none => none

/-- A redirect stands in the way of a CANCEL: the job is promised to one, or one is outstanding on its crane (R59
check 4, R86). -/
def State.redirectBlocks (s : State) (j : Job) : Bool :=
  j.promised.isSome
    || match j.unit with
      | some u => (s.crane u.crane).redirect.isSome
      | none => false

/-- The number of steps of a unit before a job's first one. -/
def WorkUnit.before (u : WorkUnit) (h : Handle) : Nat := (u.steps.takeWhile fun x => decide (x.job ≠ h)).length

/-- The keep count of a CANCEL's withdrawal (R60): an offer is withdrawn whole; a unit at work keeps the steps before
the job's own. -/
def State.cancelKeep (s : State) (c : CraneId) (u : WorkUnit) (h : Handle) : Nat :=
  match (s.crane c).state with
  | .offered => 0
  | _ => u.before h

/-- The withdrawal of a cancelled job from its crane (R60): WITHDRAW with the keep count, and the other jobs left
without a step return to READY. -/
def State.withdrawJob (s : State) (c : CraneId) (h : Handle) : State :=
  match (s.crane c).unit with
  | none => s
  | some u =>
    let keep := s.cancelKeep c u h
    let s := s.withdraw c keep
    s.each (u.jobs.filter fun q => decide (q ≠ h) && !(u.steps.take keep).any fun x => decide (x.job = q))
      fun s q => s.returnToReady c q

/-- A pallet matched to a store that is cancelled stands UNCLAIMED again (R159). -/
def State.unmatch (s : State) (j : Job) : State :=
  match s.input j.aisle j.storeEnd with
  | .matched p h => if h = j.handle ∧ j.kind = .store then s.setInput j.aisle j.storeEnd (.unclaimed p) else s
  | _ => s

/-- The effects of an accepted CANCEL (R60). -/
def State.cancelJob (s : State) (j : Job) : State :=
  let s := s.unmatch j
  match j.unit with
  | none => s.close j.handle .cancelled false Credit.unbind
  | some u =>
    let s := s.withdrawJob u.crane j.handle
    let s := s.close j.handle .cancelled false Credit.unbind
    s.afterWithdraw u.crane

/-- CANCEL (R59, R60). -/
def State.cancel (s : State) (l : OrderLink) (p : List Byte) : Answer :=
  s.withField (decodeHandle p) fun h =>
    match s.openJob? h with
    | none => s.refuse .noSuchJob
    | some j =>
      if j.origin ≠ .order l then s.refuse .notOwner
      else if j.state = .loaded then s.refuse .tooLate
      else if s.redirectBlocks j then s.refuse .busy
      else (s.cancelJob j).ok (.cancelled j.state)

def execCancel (l : OrderLink) (p : List Byte) (s : State) : Host.Outcome State Fault Refusal :=
  .next (s.orderCommand (.cancel l p) l Code.cancel p fun s => s.cancel l p)

/-! ## RESOLVE -/

/-- Where the pallet of a stranded job stands (R61). -/
inductive Disposition where
  | atSource | atDestination | removed
  deriving DecidableEq, Repr

/-- A disposition code (R195). -/
def dispositionOf (n : Nat) : Option Disposition :=
  match n with
  | 0 => some .atSource
  | 1 => some .atDestination
  | 2 => some .removed
  | _ => none

/-- A load class that may be absent: `none` where the byte is out of range (R61, R204). -/
def optionalClass (n : Nat) : Option (Option Class) :=
  if n = absentByte then some none else (classOf n).map some

/-- The cell a disposition declares full, with the class the table of R62 names. -/
def Job.declares (j : Job) (d : Disposition) : Option CellAddr × Option Class :=
  match j.kind, d with
  | .store, .atDestination => (j.chosen, j.load.bind (·.cls))
  | .retrieve, .atSource => (j.chosen, j.carried)
  | .relocate, .atSource => (j.chosen, j.carried)
  | .relocate, .atDestination => (j.target, j.carried)
  | _, _ => (none, none)

/-- The declare-full request of a RESOLVE, and whether it was declined (R62, R16). -/
def State.declare (s : State) (j : Job) (d : Disposition) (k : Option Class) : State × Bool :=
  match j.declares d with
  | (some c, k') => (s.declareFull c j.handle (k.or k'), !s.declareAccepts c j.handle)
  | (none, _) => (s, false)

/-- The re-evaluations drawn by a cell that a declare-full made FULL (R19); a declined one draws none. -/
def State.recheckDeclared (s : State) (j : Job) (d : Disposition) (declined : Bool) : State :=
  match (j.declares d).1, declined with
  | some c, false => s.recheckCell c true
  | _, _ => s

/-- What a resolved retrieve's station's credit does (R161, R162). -/
def Disposition.credit (d : Disposition) : Credit → Credit :=
  match d with
  | .atDestination => Credit.delivered
  | _ => Credit.unbind

/-- The rewrite of a relocation resolved at its destination (R98). -/
def State.resolveRewrite (s : State) (j : Job) (d : Disposition) : State :=
  if j.kind = .relocate ∧ d = .atDestination then s.rewrite? j.chosen j.target else s

/-- The crane of a resolved job: WITHDRAW with keep 0 was sent; a WORKING crane's unit ends, another's is removed
(R147). -/
def State.resolveCrane (s : State) (c : CraneId) : State :=
  if (s.crane c).state = .working then s.finishUnit c else s.setCrane c { s.crane c with unit := none }

/-- The effects of an accepted RESOLVE (R62, R98, R147). The re-evaluations of the cell declared find the rewritten
fields (R98; order: log entry 35). -/
def State.resolveJob (s : State) (j : Job) (d : Disposition) (k : Option Class) : State × Bool :=
  let r := s.declare j d k
  let s := (r.1.resolveRewrite j d).recheckDeclared j d r.2
  match j.unit with
  | none => (s.close j.handle .manual false d.credit, r.2)
  | some u =>
    let s := s.withdraw u.crane 0
    let s := s.close j.handle .manual false d.credit
    (s.resolveCrane u.crane, r.2)

/-- RESOLVE (R61, R62). -/
def State.resolve (s : State) (p : List Byte) : Answer :=
  if p.length ≠ 4 then s.refuse .badField
  else
    s.withField (handleAt p 0) fun h =>
      match s.openJob? h with
      | none => s.refuse .noSuchJob
      | some j =>
        s.withField (dispositionOf (byteAt p 2)) fun d =>
          s.withField (optionalClass (byteAt p 3)) fun k =>
            if j.state = .loaded ∧ j.stranded = true then
              (s.resolveJob j d k).1.ok (.resolved (s.resolveJob j d k).2)
            else s.refuse .notStranded

def execResolve (l : OrderLink) (p : List Byte) (s : State) : Host.Outcome State Fault Refusal :=
  .next (s.orderCommand (.resolve l p) l Code.resolve p fun s => s.resolve p)

/-! ## Queries -/

/-- QUERY JOB: every present field of the record (R39, R64). -/
def State.queryJob (s : State) (p : List Byte) : Answer :=
  s.withField (decodeHandle p) fun h =>
    match s.job? h with
    | some j => s.ok (.job j)
    | none => s.refuse .noSuchJob

def execQueryJob (l : OrderLink) (p : List Byte) (s : State) : Host.Outcome State Fault Refusal :=
  .next (s.orderCommand (.queryJob l p) l Code.queryJob p fun s => s.queryJob p)

/-- The number of live jobs in a state. -/
def State.countJobs (s : State) (x : JobState) : Nat := s.jobs.countP fun j => decide (j.state = x)

/-- QUERY POOL's data (R64, R198). -/
def State.poolReport (s : State) : PoolReport where
  free := s.jpl.freeList.length
  pending := s.countJobs .pending
  ready := s.countJobs .ready
  offered := s.countJobs .offered
  enRoute := s.countJobs .enRoute
  loaded := s.countJobs .loaded
  closing := s.countJobs .closing
  relocations := s.jobs.countP fun j => decide (j.kind = .relocate)
  live := s.jpl.live
  quota := s.jpl.quota
  closingWait := { o0 := s.jpl.closingWait.o0.length, o1 := s.jpl.closingWait.o1.length }
  active := s.liu.active
  agingMode := s.jpl.agingMode
  startCount := s.jpl.startCount
  weight := s.jpl.weight
  counter := s.jpl.counter
  entryOrder := s.jpl.entryOrder

/-- QUERY POOL carries no field (R64). -/
def State.queryPool (s : State) (p : List Byte) : Answer :=
  if p = [] then s.ok (.pool s.poolReport) else s.refuse .badField

def execQueryPool (l : OrderLink) (p : List Byte) (s : State) : Host.Outcome State Fault Refusal :=
  .next (s.orderCommand (.queryPool l p) l Code.queryPool p fun s => s.queryPool p)

end Sys2Proof.Machine
end

