-- ==== Sys2Proof/Machine/CellCommands.lean ====
section
/-! DEFINITION. The order commands of the Cell Map: SET CELL, SET RUN, LOAD PROFILE, QUERY CELL, QUERY AISLE (R1 to R9,
R17, R18, R20, R167, R171). -/

namespace Sys2Proof.Machine

/-! ## SET CELL and SET RUN -/

/-- The states an order computer may set (R17, R18). -/
inductive SetState where
  | empty | full | blocked
  deriving DecidableEq, Repr

/-- The code of a settable state (R195). -/
def setStateOf (n : Nat) : Option SetState :=
  match n with
  | 0 => some .empty
  | 1 => some .full
  | 2 => some .blocked
  | _ => none

/-- The record a cell takes, its conflict flag clear: a FULL cell the class given or its fit class (R17, R18). -/
def SetState.record (x : SetState) (k : Class) : Cell :=
  match x with
  | .empty => { state := .empty, conflict := false }
  | .full => { state := .full k, conflict := false }
  | .blocked => { state := .blocked, conflict := false }

/-- A cell that is reserved, or is the near cell of a reserved deep cell, is not touched (R17, R18). -/
def State.isTaken (s : State) (c : CellAddr) : Bool := (s.cell c).state.isReserved || s.frontsReserved c

/-- SET CELL (R17). -/
def State.setCell (s : State) (p : List Byte) : Answer :=
  s.withField (decodeSetCell p) fun f =>
    if s.configured f.cell.aisle = false then s.refuse .noAisle
    else
      s.withField (setStateOf f.state) fun x =>
        s.withField (optionalClass f.loadClass) fun k =>
          if s.hasCell f.cell.aisle f.cell = false then s.refuse .badCell
          else if s.isTaken f.cell then s.refuse .cellTaken
          else
            let s := s.putCell f.cell (x.record (k.getD (s.fit f.cell)))
            (s.recheckAisle f.cell.aisle [f.cell]).ok .nothing

def execSetCell (l : OrderLink) (p : List Byte) (s : State) : Host.Outcome State Fault Refusal :=
  .next (s.orderCommand (.setCell l p) l Code.setCell p fun s => s.setCell p)

/-- The cells of a run's clamped range of bays (R18). -/
def runCells (a : AisleId) (side : Side) (level : Nat) (depth : Depth) (lo hi : Nat) : List CellAddr :=
  (List.range' lo (hi + 1 - lo)).map fun b => { aisle := a, side := side, bay := b, level := level, depth := depth }

/-- Set the cells of a run that are not taken (R18). -/
def State.putRun (s : State) (x : SetState) (cs : List CellAddr) : State :=
  s.each cs fun s c => s.putCell c (x.record (s.fit c))

/-- The effect and the reply of a run over its bays `lo..hi` (R18). -/
def State.applyRun (s : State) (a : AisleId) (side : Side) (level : Nat) (depth : Depth) (lo hi : Nat) (x : SetState)
    (clamped : Bool) : Answer :=
  let cs := runCells a side level depth lo hi
  let free := cs.filter fun c => !s.isTaken c
  let t := (s.putRun x free).recheckAisle a free
  t.okClamped clamped (.runSet free.length (cs.length - free.length))

/-- SET RUN (R18). A side or depth code beyond its list is refused with BAD_FIELD (R195, log entry 10). -/
def State.setRun (s : State) (p : List Byte) : Answer :=
  s.withField (decodeSetRun p) fun f =>
    match s.configuredAisle f.aisle with
    | none => s.refuse .noAisle
    | some a =>
      s.withField (setStateOf f.state) fun x =>
        s.withField (sideOf f.side) fun side =>
          s.withField (depthOf f.depth) fun depth =>
            match s.profile? a with
            | none => s.refuse .noAisle
            | some q =>
              let n := clamp 1 120 f.count
              let last := f.firstBay + n - 1
              let lo := max 1 f.firstBay
              let hi := min q.geo.bays last
              if f.level < 1 ∨ q.geo.levels < f.level ∨ (depth = .deep ∧ q.geo.doubleDeep = false) ∨ hi < lo then
                s.refuse .badCell
              else
                s.applyRun a side f.level depth lo hi x
                  (decide (n ≠ f.count) || decide (lo ≠ f.firstBay) || decide (hi ≠ last))

def execSetRun (l : OrderLink) (p : List Byte) (s : State) : Host.Outcome State Fault Refusal :=
  .next (s.orderCommand (.setRun l p) l Code.setRun p fun s => s.setRun p)

/-! ## LOAD PROFILE -/

/-- The kind code of a profile (R195). -/
def kindOfCode (n : Nat) : Option AisleKind :=
  match n with
  | 0 => some .single
  | 1 => some .tandem
  | _ => none

/-- The depth field of a profile: 1 or 2 (section 1.1). `true` is double-deep. -/
def depthField (n : Nat) : Option Bool :=
  match n with
  | 1 => some false
  | 2 => some true
  | _ => none

/-- The geometry fields a command carries, where they lie in their ranges (R1 checks 1 and 2). -/
def loadGeometry (f : LoadProfileFields) : Option Geometry :=
  match kindOfCode f.kind, depthField f.depth with
  | some k, some d =>
    if 1 ≤ f.bays ∧ f.bays ≤ 120 ∧ 1 ≤ f.levels ∧ f.levels ≤ 40 ∧ 1 ≤ f.classCount ∧ f.classCount ≤ 4
        ∧ f.classTable.length = f.levels ∧ (f.classTable.all fun x => decide (x.val < f.classCount)) = true then
      some { kind := k, bays := f.bays, levels := f.levels, doubleDeep := d, classTable := f.classTable }
    else none
  | _, _ => none

/-- The operating fields as given. -/
def loadOperating (f : LoadProfileFields) : Operating where
  classCount := f.classCount
  limit0 := f.limit0
  limit1 := f.limit1
  limit2 := f.limit2
  limit3 := f.limit3
  weightMin := f.weightMin
  weightMax := f.weightMax
  px := f.px
  vx := f.vx
  ax := f.ax
  py := f.py
  vy := f.vy
  ay := f.ay
  hStation := f.hStation
  hNear := f.hNear
  hDeep := f.hDeep
  gap := f.gap
  window := f.window

/-- The operating fields clamped to their ranges (R1 check 3). -/
def Operating.clamped (o : Operating) : Operating where
  classCount := o.classCount
  limit0 := clamp 500 3000 o.limit0
  limit1 := clamp 500 3000 o.limit1
  limit2 := clamp 500 3000 o.limit2
  limit3 := clamp 500 3000 o.limit3
  weightMin := clamp 0 500 o.weightMin
  weightMax := clamp 100 3000 o.weightMax
  px := clamp 500 4000 o.px
  vx := clamp 500 6000 o.vx
  ax := clamp 100 2000 o.ax
  py := clamp 300 3000 o.py
  vy := clamp 200 3000 o.vy
  ay := clamp 100 2000 o.ay
  hStation := clamp 500 30000 o.hStation
  hNear := clamp 500 30000 o.hNear
  hDeep := clamp 500 30000 o.hDeep
  gap := clamp 1 8 o.gap
  window := clamp 1 32 o.window

/-- Each number below the next. -/
def increasing : List Nat → Bool
  | x :: y :: rest => decide (x < y) && increasing (y :: rest)
  | _ => true

/-- The limits in use rise strictly and the weight range is not empty (R1 check 3). -/
def Operating.consistent (o : Operating) : Bool := increasing o.limits && decide (o.weightMin ≤ o.weightMax)

/-- The aisles of number `a` and above. -/
def aislesFrom (a : AisleId) : List AisleId := (List.finRange 8).filter fun b => decide (a ≤ b)

/-- ABSENT, IDLE, OUT_OF_SERVICE or PARKED: the states a geometry load allows (R3). -/
def CraneState.quiet (x : CraneState) : Bool :=
  match x with
  | .absent | .idle | .outOfService | .parked => true
  | _ => false

/-- A condition of R3 that refuses a geometry load. A WAITING crane refuses it, though R178 speaks of one when an aisle is
first configured (log entry 58). -/
def State.geometryBusy (s : State) (a : AisleId) (g : Geometry) : Bool :=
  ((aislesFrom a).any fun b =>
      (s.jobs.any fun j => decide (j.aisle = b)) || (s.cranesOf b).any fun c => !(s.crane c).state.quiet)
    || (decide (g.kind = .single) && (s.craneAt a .rear).isSome)

/-- The sum of the cell counts of the configured aisles, with one aisle at a new geometry (R4). -/
def State.totalCells (s : State) (a : AisleId) (g : Geometry) : Nat :=
  ((List.finRange 8).map fun b =>
    if b = a then g.cellCount
    else
      match s.profile? b with
      | some p => p.geo.cellCount
      | none => 0).sum

/-- Cells, geometry and operating fields of a geometry load: aisle `a` takes the profile, and every cell of it and of
each configured aisle above is UNKNOWN with its flag clear (R6). -/
def State.relay (s : State) (a : AisleId) (q : Profile) : State :=
  let s := s.setAisle a { profile := some q, pendingProfile := none, cells := [] }
  s.each (aislesFrom a) fun s b => s.setAisle b { s.aisle b with cells := [] }

/-- A geometry load taking effect (R6, R7, R178). PROFILE_APPLIED is offered before a HOLD_GRANTED that the same load draws
(log entry 59). -/
def State.geometryLoad (s : State) (l : OrderLink) (a : AisleId) (q : Profile) : State :=
  let s := s.relay a q
  let s := s.offerNotice l (.profileApplied a)
  let s := s.each (aislesFrom a) State.rebuildRail
  let s := s.dropRearStations a
  s.configureHold a

/-- The operating path: the load is held pending and applied at once where no crane delays it (R8, R9). -/
def State.operatingLoad (s : State) (l : OrderLink) (a : AisleId) (o : Operating) : State :=
  (s.setAisle a { s.aisle a with pendingProfile := some { op := o, link := l } }).testPending a

/-- The path a load takes: GEOMETRY where the aisle is unconfigured or a geometry field differs (R2). -/
def State.takesGeometryPath (s : State) (a : AisleId) (g : Geometry) : Bool :=
  match s.profile? a with
  | some p => decide (p.geo ≠ g)
  | none => true

/-- The load of a profile that has passed checks 1 to 3 (R1 check 4, R2). -/
def State.applyLoad (s : State) (l : OrderLink) (a : AisleId) (q : Profile) (clamped : Bool) : Answer :=
  if s.takesGeometryPath a q.geo then
    if s.geometryBusy a q.geo then s.refuse .busy
    else if Config.cellCapacity < s.totalCells a q.geo then s.refuse .tooLarge
    else
      let s := s.geometryLoad l a q
      s.okClamped clamped (.profileLoaded true true (some (s.base a, q.geo.cellCount)))
  else
    let s := s.operatingLoad l a q.op
    s.okClamped clamped (.profileLoaded false (s.aisle a).pendingProfile.isNone none)

/-- LOAD PROFILE (R1). -/
def State.loadProfile (s : State) (l : OrderLink) (p : List Byte) : Answer :=
  s.withField (decodeLoadProfile p) fun f =>
    s.withField (aisleOf f.aisle) fun a =>
      s.withField (loadGeometry f) fun g =>
        if (loadOperating f).clamped.consistent then
          s.applyLoad l a { geo := g, op := (loadOperating f).clamped } (decide ((loadOperating f).clamped ≠ loadOperating f))
        else s.refuse .badField

def execLoadProfile (l : OrderLink) (p : List Byte) (s : State) : Host.Outcome State Fault Refusal :=
  .next (s.orderCommand (.loadProfile l p) l Code.loadProfile p fun s => s.loadProfile l p)

/-! ## Queries -/

/-- QUERY CELL's data (R20). -/
def State.cellReport (s : State) (p : Profile) (c : CellAddr) : CellReport where
  number := s.base c.aisle + p.geo.offset c
  state := (s.cell c).state
  fit := s.fit c
  conflict := (s.cell c).conflict

/-- QUERY CELL (R20). -/
def State.queryCell (s : State) (p : List Byte) : Answer :=
  if p.length ≠ 3 then s.refuse .badField
  else
    match s.profile? (cellAt p 0).aisle with
    | none => s.refuse .noAisle
    | some q => if q.geo.hasCell (cellAt p 0) then s.ok (.cell (s.cellReport q (cellAt p 0))) else s.refuse .badCell

def execQueryCell (l : OrderLink) (p : List Byte) (s : State) : Host.Outcome State Fault Refusal :=
  .next (s.orderCommand (.queryCell l p) l Code.queryCell p fun s => s.queryCell p)

/-- The number of an aisle's cells that pass a test (R20). The unlisted ones are alike, so they are counted together. -/
def Aisle.countCells (x : Aisle) (test : Cell → Bool) : Nat :=
  let total :=
    match x.profile with
    | some p => p.geo.cellCount
    | none => 0
  let listed := x.cells.filter fun y => decide (y.1 < total)
  (listed.countP fun y => test y.2) + (if test Cell.initial then total - listed.length else 0)

/-- The counts of an aisle's cells in each state (R20). -/
def Aisle.counts (x : Aisle) : CellCounts where
  unknown := x.countCells fun y => decide (y.state = .unknown)
  empty := x.countCells fun y => decide (y.state = .empty)
  full := x.countCells fun y => y.state.isFull
  inReserved := x.countCells fun y =>
    match y.state with
    | .inReserved _ => true
    | _ => false
  outReserved := x.countCells fun y =>
    match y.state with
    | .outReserved _ _ => true
    | _ => false
  blocked := x.countCells fun y => decide (y.state = .blocked)
  conflict := x.countCells fun y => y.conflict

/-- A credit as QUERY AISLE reports it (R167). -/
def Credit.report (x : Credit) : CreditReport where
  reportedFree := x.reportedFree
  inFlight := x.inFlight
  available := x.available

/-- A station's record where the station exists (R167). -/
def State.ifStation {α : Type} (s : State) (a : AisleId) (e : End) (x : α) : Option α :=
  if s.stationExists a e then some x else none

/-- QUERY AISLE's data (R20, R167, R171). -/
def State.aisleReport (s : State) (a : AisleId) : AisleReport where
  profile := s.profile? a
  pendingProfile := (s.aisle a).pendingProfile
  base := if s.configured a then s.base a else 0
  count :=
    match s.profile? a with
    | some p => p.geo.cellCount
    | none => 0
  cells := (s.aisle a).counts
  hold := (s.hold a).state
  sources := (s.hold a).sources
  gack := (s.hold a).gack
  parkOwed := (s.cranesOf a).filter s.parkOwed
  inputs := { front := s.ifStation a .front (s.input a .front), rear := s.ifStation a .rear (s.input a .rear) }
  outputs :=
    { front := s.ifStation a .front (s.credit a .front).report, rear := s.ifStation a .rear (s.credit a .rear).report }

/-- A command that carries one aisle number. -/
def readAisle (p : List Byte) : Option AisleId := if p.length = 1 then aisleOf (byteAt p 0) else none

/-- QUERY AISLE (R20). -/
def State.queryAisle (s : State) (p : List Byte) : Answer :=
  s.withField (readAisle p) fun a => s.ok (.aisle (s.aisleReport a))

def execQueryAisle (l : OrderLink) (p : List Byte) (s : State) : Host.Outcome State Fault Refusal :=
  .next (s.orderCommand (.queryAisle l p) l Code.queryAisle p fun s => s.queryAisle p)

end Sys2Proof.Machine
end

