-- ==== Sys2Proof/Machine/CraneCommands.lean ====
section
/-! DEFINITION. The order commands on cranes: MAP CRANE, SERVICE, QUERY CRANE (R109, R125, R148, R150). -/

namespace Sys2Proof.Machine

/-! ## MAP CRANE -/

/-- The mapping fields of MAP CRANE: an aisle with a role, or NONE with the role ignored (R125, R204). -/
def readMapping (p : List Byte) : Option (CraneId × Option (AisleId × End)) :=
  if p.length ≠ 3 then none
  else
    match craneOf (byteAt p 0) with
    | none => none
    | some c =>
      if byteAt p 1 = absentByte then some (c, none)
      else
        match aisleOf (byteAt p 1), endOf (byteAt p 2) with
        | some a, some e => some (c, some (a, e))
        | _, _ => none

/-- The crane may be mapped: unmapped, ABSENT or OUT_OF_SERVICE (R125 check 2). -/
def Crane.mappable (x : Crane) : Bool :=
  x.mapping.isNone || decide (x.state = .absent) || decide (x.state = .outOfService)

/-- A mapping an aisle refuses: REAR where the aisle is SINGLE, or a role another crane holds (R125 check 3). -/
def State.mappingRefused (s : State) (c : CraneId) (m : Option (AisleId × End)) : Bool :=
  match m with
  | none => false
  | some (a, e) =>
    (decide (e = .rear) && s.configured a && !s.isTandem a)
      || match s.craneAt a e with
        | some o => decide (o ≠ c)
        | none => false

/-- The table entry of a role holds its park end; where that moves the entry, selections start (R109, R125, R68; log
entry 26). -/
def State.parkEntry (s : State) (m : Option (AisleId × End)) : State :=
  match m with
  | none => s
  | some (a, e) =>
    match s.rail a with
    | none => s
    | some r =>
      let t := s.updEntry a e fun _ => .at (s.parkEnd a e)
      if r.get e = .at (s.parkEnd a e) then t else t.select a

/-- Test the hold state of a mapping's aisle (R171). -/
def State.testMapping (s : State) (m : Option (AisleId × End)) : State :=
  match m with
  | none => s
  | some (a, _) => s.testHold a

/-- A new mapping taking effect (R125). -/
def State.applyMapping (s : State) (c : CraneId) (m : Option (AisleId × End)) : State :=
  let old := (s.crane c).mapping
  let s := s.setCrane c { s.crane c with
    mapping := m, state := .absent, known := false, strikes := 0, leaveService := false }
  let s := (s.parkEntry old).parkEntry m
  (s.testMapping old).testMapping m

/-- MAP CRANE (R125). DEDUCED, unsafe: the checks stand before the effect, so a mapping equal to the current one of a crane
that is none of unmapped, ABSENT and OUT_OF_SERVICE is refused BUSY (log entry 70). -/
def State.mapCrane (s : State) (p : List Byte) : Answer :=
  s.withField (readMapping p) fun x =>
    let c := x.1
    if (s.crane c).mappable = false then s.refuse .busy
    else if s.mappingRefused c x.2 then s.refuse .badField
    else if (s.crane c).mapping = x.2 then s.ok (.mapped (s.crane c).mapping)
    else (s.applyMapping c x.2).ok (.mapped (s.crane c).mapping)

def execMapCrane (l : OrderLink) (p : List Byte) (s : State) : Host.Outcome State Fault Refusal :=
  .next (s.orderCommand (.mapCrane l p) l Code.mapCrane p fun s => s.mapCrane p)

/-! ## SERVICE -/

/-- SERVICE OUT by the crane's state (R148). -/
def State.serviceOut (s : State) (c : CraneId) : State :=
  match (s.crane c).state with
  | .idle | .waiting | .parked => s.enterState c .outOfService
  | .backoff => (s.leaveBackoff c).enterState c .outOfService
  | .offered =>
    let js := (s.crane c).jobs
    let s := s.withdraw c 0
    let s := s.each js fun s h => s.returnToReady c h
    (s.endUnit c).enterState c .outOfService
  | .working | .clearing | .parking | .faulted | .absent => s.setCrane c { s.crane c with leaveService := true }
  | .outOfService => s

/-- SERVICE IN by the crane's state: RESUME to IDLE, or PARK where the aisle is DRAINING or HELD (R148). -/
def State.serviceIn (s : State) (c : CraneId) : State :=
  if (s.crane c).state = .outOfService then
    let s := s.setCrane c { s.crane c with strikes := 0, leaveService := false }
    if s.aisleStopped c then s.sendPark c else (s.send (.crane c) .resume).enterState c .idle
  else s.setCrane c { s.crane c with leaveService := false }

/-- SERVICE: a crane link and a direction OUT or IN (R148). -/
def State.service (s : State) (p : List Byte) : Answer :=
  if p.length ≠ 2 then s.refuse .badField
  else
    s.withField (craneOf (byteAt p 0)) fun c =>
      s.withField (flagOf (byteAt p 1)) fun inward =>
        if (s.crane c).mapping = none then s.refuse .notMapped
        else
          let t := if inward then s.serviceIn c else s.serviceOut c
          t.ok (.serviced (t.crane c).state)

def execService (l : OrderLink) (p : List Byte) (s : State) : Host.Outcome State Fault Refusal :=
  .next (s.orderCommand (.service l p) l Code.service p fun s => s.service p)

/-! ## QUERY CRANE -/

/-- The time a timer still has to run. -/
def State.left (s : State) (expiry : Option Nat) : Option Nat := expiry.map (· - s.now)

/-- QUERY CRANE's data (R150). -/
def State.craneReport (s : State) (c : CraneId) : CraneReport where
  mapping := (s.crane c).mapping
  state := (s.crane c).state
  bay := (s.crane c).bay
  level := (s.crane c).level
  known := (s.crane c).known
  unitCounter := (s.crane c).unitCounter
  unit := (s.crane c).unit
  deadlineLeft := s.left ((s.crane c).deadline.map (·.expiry))
  offerLeft := s.left (s.crane c).offerTimer
  redirect := (s.crane c).redirect
  strikes := (s.crane c).strikes
  backoffLeft := s.left (s.crane c).backoffTimer
  parkLeft := s.left (s.crane c).parkTimer
  leaveService := (s.crane c).leaveService
  lastRefusal := (s.crane c).lastRefusal
  lastFault := (s.crane c).lastFault
  holdBackLeft := s.left (s.holdBack c).timer
  heldBack := (s.holdBack c).heldBack
  rail := s.entry c

/-- A command that carries one crane link. -/
def readCrane (p : List Byte) : Option CraneId := if p.length = 1 then craneOf (byteAt p 0) else none

/-- QUERY CRANE (R150). -/
def State.queryCrane (s : State) (p : List Byte) : Answer :=
  s.withField (readCrane p) fun c => s.ok (.crane (s.craneReport c))

def execQueryCrane (l : OrderLink) (p : List Byte) (s : State) : Host.Outcome State Fault Refusal :=
  .next (s.orderCommand (.queryCrane l p) l Code.queryCrane p fun s => s.queryCrane p)

end Sys2Proof.Machine
end

