-- ==== Sys2Proof/Machine/AisleCommands.lean ====
section
/-! DEFINITION. The order commands on holds and waves: HOLD AISLE, RELEASE AISLE (R170), OPEN WAVE, CLOSE WAVE, QUERY
WAVE (R163, R164, R167). -/

namespace Sys2Proof.Machine

/-! ## Holds -/

/-- The data of both hold commands: the hold state after the command and the four sources (R170). -/
def State.holdData (s : State) (a : AisleId) : ReplyData := .hold (s.hold a).state (s.hold a).sources

/-- The effect of HOLD AISLE: the link's source is set; in an aisle already HELD, HOLD_GRANTED follows at once
(R170, R175). -/
def State.setLinkHold (s : State) (l : OrderLink) (a : AisleId) : State :=
  let wasHeld := decide ((s.hold a).state = .held)
  let s := s.setSources a ((s.hold a).sources.setLink l true)
  if wasHeld then s.offerNotice l (.holdGranted a (s.hold a).sources) else s

/-- HOLD AISLE (R170). -/
def State.holdAisle (s : State) (l : OrderLink) (p : List Byte) : Answer :=
  s.withField (readAisle p) fun a =>
    let s := s.setLinkHold l a
    s.ok (s.holdData a)

def execHoldAisle (l : OrderLink) (p : List Byte) (s : State) : Host.Outcome State Fault Refusal :=
  .next (s.orderCommand (.holdAisle l p) l Code.holdAisle p fun s => s.holdAisle l p)

/-- RELEASE AISLE (R170). -/
def State.releaseAisle (s : State) (l : OrderLink) (p : List Byte) : Answer :=
  s.withField (readAisle p) fun a =>
    let s := s.setSources a ((s.hold a).sources.setLink l false)
    s.ok (s.holdData a)

def execReleaseAisle (l : OrderLink) (p : List Byte) (s : State) : Host.Outcome State Fault Refusal :=
  .next (s.orderCommand (.releaseAisle l p) l Code.releaseAisle p fun s => s.releaseAisle l p)

/-! ## Waves -/

/-- OPEN WAVE: an id, a window clamped to 1..16, and a first_seq (R163). A new wave joins the held entries at the end
(log entry 14). -/
def State.openWave (s : State) (p : List Byte) : Answer :=
  if p.length ≠ 4 ∨ byteAt p 0 = 0 ∨ be16At p 2 = 0 ∨ 4095 < be16At p 2 then s.refuse .badField
  else if (s.wave? (byteAt p 0)).isSome then s.refuse .badWave
  else if Config.waveCapacity ≤ s.swu.waves.length then s.refuse .tableFull
  else
    let w : Wave :=
      { id := byteAt p 0, isOpen := true, window := clamp 1 16 (byteAt p 1), firstSeq := be16At p 2,
        takenThrough := be16At p 2 - 1, live := 0 }
    { s with swu := { s.swu with waves := s.swu.waves ++ [w] } }.okClamped
      (decide (clamp 1 16 (byteAt p 1) ≠ byteAt p 1)) .nothing

def execOpenWave (l : OrderLink) (p : List Byte) (s : State) : Host.Outcome State Fault Refusal :=
  .next (s.orderCommand (.openWave l p) l Code.openWave p fun s => s.openWave p)

/-- CLOSE WAVE (R164). -/
def State.closeWave (s : State) (p : List Byte) : Answer :=
  if p.length ≠ 1 then s.refuse .badField
  else
    match s.wave? (byteAt p 0) with
    | none => s.refuse .badWave
    | some w =>
      ((s.updWave w.id fun x => { x with isOpen := false }).freeWave w.id).ok (.waveClosed w.live)

def execCloseWave (l : OrderLink) (p : List Byte) (s : State) : Host.Outcome State Fault Refusal :=
  .next (s.orderCommand (.closeWave l p) l Code.closeWave p fun s => s.closeWave p)

/-- QUERY WAVE: an id, or 0 for ALL (R167, R204). -/
def State.queryWave (s : State) (p : List Byte) : Answer :=
  if p.length ≠ 1 then s.refuse .badField
  else if byteAt p 0 = 0 then
    s.ok (.waves (s.swu.waves.map fun w => (w.id, w.isOpen)) (Config.waveCapacity - s.swu.waves.length))
  else
    match s.wave? (byteAt p 0) with
    | some w => s.ok (.wave w)
    | none => s.refuse .badWave

def execQueryWave (l : OrderLink) (p : List Byte) (s : State) : Host.Outcome State Fault Refusal :=
  .next (s.orderCommand (.queryWave l p) l Code.queryWave p fun s => s.queryWave p)

end Sys2Proof.Machine
end

