-- ==== Sys2Proof/Machine/SettingCommands.lean ====
section
/-! DEFINITION. SET POLICY (R202), the fault commands (R187 to R190), and the commands of the Link Interface Units:
FETCH (R200) and RESTART (R201). -/

namespace Sys2Proof.Machine

/-! ## SET POLICY -/

/-- The greatest code of an enumerated setting, all of which have two values; `none` for the others (R202). -/
def isEnumerated (n : Nat) : Bool := n == 3 || n == 12 || n == 13 || n == 19

/-- An entry R202 accepts: a setting 1..19, and a listed value of an enumerated one. -/
def entryValid (e : Nat × Nat) : Bool :=
  decide (1 ≤ e.1) && decide (e.1 ≤ 19) && (!isEnumerated e.1 || decide (e.2 ≤ 1))

/-- The range of a setting (R202). An enumerated value lies in 0..1. -/
def settingRange (n : Nat) : Nat × Nat :=
  match n with
  | 1 => (1, 248)
  | 2 => (1, 248)
  | 4 => (0, 65535)
  | 5 => (0, 4095)
  | 6 => (0, 1000000)
  | 7 => (0, 1000000)
  | 8 => (0, 1000000)
  | 9 => (0, 1000000)
  | 10 => (0, 60000)
  | 11 => (0, 20000)
  | 14 => (200, 10000)
  | 15 => (10000, 600000)
  | 16 => (1000, 600000)
  | 17 => (100, 400)
  | 18 => (1, 7)
  | _ => (0, 1)

/-- A value clamped to its setting's range. -/
def clampSetting (e : Nat × Nat) : Nat := clamp (settingRange e.1).1 (settingRange e.1).2 e.2

/-- Write one setting; the aging mode and start count reload the counter (R63, R202). -/
def State.writeSetting (s : State) (n v : Nat) : State :=
  match n with
  | 1 => { s with jpl := { s.jpl with quota := { s.jpl.quota with o0 := v } } }
  | 2 => { s with jpl := { s.jpl with quota := { s.jpl.quota with o1 := v } } }
  | 3 => { s with jpl := { s.jpl with agingMode := if v = 0 then .time else .events, counter := s.jpl.startCount } }
  | 4 => { s with jpl := { s.jpl with startCount := v, counter := v } }
  | 5 => { s with jpl := { s.jpl with weight := v } }
  | 6 => { s with ale := { s.ale with offsets := s.ale.offsets.set 0 v } }
  | 7 => { s with ale := { s.ale with offsets := s.ale.offsets.set 1 v } }
  | 8 => { s with ale := { s.ale with offsets := s.ale.offsets.set 2 v } }
  | 9 => { s with ale := { s.ale with offsets := s.ale.offsets.set 3 v } }
  | 10 => { s with ale := { s.ale with waste := v } }
  | 11 => { s with ale := { s.ale with tPair := v } }
  | 12 => { s with ale := { s.ale with pairing := decide (v = 1) } }
  | 13 => { s with ale := { s.ale with preemption := decide (v = 1) } }
  | 14 => { s with crt := { s.crt with tOffer := v } }
  | 15 => { s with crt := { s.crt with tPark := v } }
  | 16 => { s with crt := { s.crt with tBackoff := v } }
  | 17 => { s with crt := { s.crt with factor := v } }
  | 18 => { s with crt := { s.crt with strikeLimit := v } }
  | 19 => { s with crt := { s.crt with policy := if v = 0 then .retire else .backoff } }
  | _ => s

/-- The value a setting stores, as its entry codes it. -/
def State.readSetting (s : State) (n : Nat) : Nat :=
  match n with
  | 1 => s.jpl.quota.o0
  | 2 => s.jpl.quota.o1
  | 3 => if s.jpl.agingMode = .time then 0 else 1
  | 4 => s.jpl.startCount
  | 5 => s.jpl.weight
  | 6 => s.ale.offsets[0]
  | 7 => s.ale.offsets[1]
  | 8 => s.ale.offsets[2]
  | 9 => s.ale.offsets[3]
  | 10 => s.ale.waste
  | 11 => s.ale.tPair
  | 12 => if s.ale.pairing then 1 else 0
  | 13 => if s.ale.preemption then 1 else 0
  | 14 => s.crt.tOffer
  | 15 => s.crt.tPark
  | 16 => s.crt.tBackoff
  | 17 => s.crt.factor
  | 18 => s.crt.strikeLimit
  | 19 => if s.crt.policy = .retire then 0 else 1
  | _ => 0

/-- Apply the entries in order (R202). -/
def State.applySettings (s : State) (es : List (Nat × Nat)) : State :=
  s.each es fun s e => s.writeSetting e.1 (clampSetting e)

/-- The settings named, each once, in the order first named (log entry 31). -/
def namedSettings (es : List (Nat × Nat)) : List Nat :=
  es.foldl (fun acc e => if acc.contains e.1 then acc else acc ++ [e.1]) []

/-- SET POLICY (R202). -/
def State.setPolicy (s : State) (p : List Byte) : Answer :=
  s.withField (decodeSetPolicy p) fun es =>
    if es.all entryValid then
      let t := s.applySettings es
      t.okClamped (es.any fun e => decide (clampSetting e ≠ e.2))
        (.policy ((namedSettings es).map fun n => (n, t.readSetting n)))
    else s.refuse .badField

def execSetPolicy (l : OrderLink) (p : List Byte) (s : State) : Host.Outcome State Fault Refusal :=
  .next (s.orderCommand (.setPolicy l p) l Code.setPolicy p fun s => s.setPolicy p)

/-! ## Fault commands -/

/-- A severity code: NOTE 0, AISLE 1, HALT 2 (R195). -/
def severityOf (n : Nat) : Option Severity :=
  match n with
  | 0 => some .note
  | 1 => some .aisle
  | 2 => some .halt
  | _ => none

/-- SET FAULT CONTROL (R187). -/
def State.setFaultControl (s : State) (p : List Byte) : Answer :=
  if p.length ≠ 3 then s.refuse .badField
  else
    s.withField (kindOf (byteAt p 0)) fun k =>
      s.withField (flagOf (byteAt p 1)) fun m =>
        s.withField (severityOf (byteAt p 2)) fun x =>
          let s := s.setFaultKind k { s.faultKind k with masked := heldMask k m, severity := heldSeverity k x }
          s.evaluateHalt.okClamped (decide (heldMask k m ≠ m) || decide (heldSeverity k x ≠ x))
            (.faultControl (heldMask k m) (heldSeverity k x))

def execSetFaultControl (l : OrderLink) (p : List Byte) (s : State) : Host.Outcome State Fault Refusal :=
  .next (s.orderCommand (.setFaultControl l p) l Code.setFaultControl p fun s => s.setFaultControl p)

/-- The kinds a list of numbers names, where each is 1..14 (R188). -/
def kindsOf : List Nat → Option (List FaultKind)
  | [] => some []
  | n :: ns =>
    match kindOf n, kindsOf ns with
    | some k, some ks => some (k :: ks)
    | _, _ => none

/-- Whether a CLEAR FAULT of kinds clears the capture (R188 step 2). -/
def State.capturedIn (s : State) (ks : List FaultKind) : Bool :=
  match s.flg.capture with
  | some r => ks.contains r.kind
  | none => false

/-- The effect of CLEAR FAULT (R188). -/
def State.clearKinds (s : State) (ks : List FaultKind) : State :=
  let t := s.each ks fun s k => s.setFaultKind k { s.faultKind k with flag := false }
  let t := if s.capturedIn ks then { t with flg := { t.flg with capture := none, further := 0 } } else t
  t.evaluateHalt

/-- The fourteen status flags (R188). -/
def State.flags (s : State) : List Bool := allKinds.map fun k => (s.faultKind k).flag

/-- CLEAR FAULT (R188). -/
def State.clearFault (s : State) (p : List Byte) : Answer :=
  s.withField (decodeClearFault p) fun ns =>
    s.withField (kindsOf ns) fun ks =>
      (s.clearKinds ks).ok (.faultsCleared (s.clearKinds ks).flags (s.capturedIn ks))

def execClearFault (l : OrderLink) (p : List Byte) (s : State) : Host.Outcome State Fault Refusal :=
  .next (s.orderCommand (.clearFault l p) l Code.clearFault p fun s => s.clearFault p)

/-- CLEAR AISLE FAULT for an aisle (R189, R111). -/
def State.clearHold (s : State) (a : AisleId) : State × AisleFaultResult :=
  if (s.faultHold a).isSet = false then (s, .notSet)
  else if s.isTandem a = true ∧ s.railCheck a = false then (s.checkRail a, .retained)
  else ((s.setFaultHold a { isSet := false, kinds := [] }).raise (.faultSourceClear a), .cleared)

/-- CLEAR AISLE FAULT (R189). -/
def State.clearAisleFault (s : State) (p : List Byte) : Answer :=
  s.withField (readAisle p) fun a => (s.clearHold a).1.ok (.aisleFault (s.clearHold a).2)

def execClearAisleFault (l : OrderLink) (p : List Byte) (s : State) : Host.Outcome State Fault Refusal :=
  .next (s.orderCommand (.clearAisleFault l p) l Code.clearAisleFault p fun s => s.clearAisleFault p)

/-- QUERY FAULTS's data (R190). -/
def State.faultsReport (s : State) : FaultsReport where
  kinds := s.flg.kinds
  capture := s.flg.capture
  further := s.flg.further
  halt := s.flg.halt
  holds := s.flg.holds

/-- QUERY FAULTS carries no field (R190). -/
def State.queryFaults (s : State) (p : List Byte) : Answer :=
  if p = [] then s.ok (.faults s.faultsReport) else s.refuse .badField

def execQueryFaults (l : OrderLink) (p : List Byte) (s : State) : Host.Outcome State Fault Refusal :=
  .next (s.orderCommand (.queryFaults l p) l Code.queryFaults p fun s => s.queryFaults p)

/-! ## FETCH -/

/-- FETCH with repeat 0: up to four notices are removed and returned, and become the last-fetched set (R200). -/
def State.fetchNew (s : State) (l : OrderLink) : Answer :=
  let got := (s.queue l).take Config.fetchLimit
  let rest := (s.queue l).drop Config.fetchLimit
  let s := s.setQueue l rest
  let s := { s with liu := { s.liu with lastFetched := s.liu.lastFetched.set l got } }
  let s := if got = [] then s else s.raise (.closingWaitPlacement l)
  s.ok (.fetched got.length rest.length got)

/-- FETCH with repeat 1: the last-fetched set again (R200). -/
def State.fetchAgain (s : State) (l : OrderLink) : Answer :=
  s.ok (.fetched (s.liu.lastFetched.get l).length (s.queue l).length (s.liu.lastFetched.get l))

/-- FETCH (R200). -/
def State.fetch (s : State) (l : OrderLink) (p : List Byte) : Answer :=
  if p.length ≠ 1 then s.refuse .badField
  else s.withField (flagOf (byteAt p 0)) fun again => if again then s.fetchAgain l else s.fetchNew l

def execFetch (l : OrderLink) (p : List Byte) (s : State) : Host.Outcome State Fault Refusal :=
  .next (s.orderCommand (.fetch l p) l Code.fetch p fun s => s.fetch l p)

/-! ## RESTART -/

/-- A restart kind: SOFT 0, HARD 1 (R195, R201). -/
def restartKindOf (n : Nat) : Option RestartKind :=
  match n with
  | 0 => some .soft
  | 1 => some .hard
  | _ => none

/-- RESTART is answered OK with its kind; from then on every receiver discards every frame (R201 step 1). -/
def State.restart (s : State) (l : OrderLink) (p : List Byte) : Answer :=
  if p.length ≠ 1 then s.refuse .badField
  else
    s.withField (restartKindOf (byteAt p 0)) fun x =>
      { s with liu := { s.liu with restarting := some { link := l, kind := x } } }.ok (.restart x)

def execRestart (l : OrderLink) (p : List Byte) (s : State) : Host.Outcome State Fault Refusal :=
  .next (s.orderCommand (.restart l p) l Code.restart p fun s => s.restart l p)

end Sys2Proof.Machine
end

