-- ==== Sys2Proof/Machine/StationCommands.lean ====
section
/-! DEFINITION. The station commands: ARRIVE, OUTPUT_FREE, DOCK_TAKEN (R154 to R156, R160, R166). -/

namespace Sys2Proof.Machine

/-- A refusal on link S that raises a fault (R154, R160, R166). -/
def State.refuseWith (s : State) (r : Result) (k : FaultKind) (a : Option AisleId) (p : List Byte) : Answer :=
  (s.raiseFault k (.link .station) a none p).refuse r

/-- A pallet reported at an EMPTY station: the record becomes UNCLAIMED and a match is tried (R154, R156). -/
def State.arrivePallet (s : State) (a : AisleId) (e : End) (x : Pallet) (p : List Byte) : Answer :=
  let s := s.setInput a e (.unclaimed x)
  match s.qualifying a e x.tag with
  | some j =>
    (s.matchStore j a e x .station p).1.ok
      (.arrived (.matched x j.handle) (some (j.handle, (s.matchStore j a e x .station p).2)))
  | none => s.ok (.arrived (.unclaimed x) none)

/-- A clearing arrival, of tag 0 (R155). -/
def State.arriveClear (s : State) (a : AisleId) (e : End) (p : List Byte) : Answer :=
  match s.input a e with
  | .matched _ _ => s.refuseWith .stationBusy .stationProtocol (some a) p
  | _ => (s.setInput a e .empty).ok (.arrived .empty none)

/-- ARRIVE (R154, R155). -/
def State.arrive (s : State) (p : List Byte) : Answer :=
  s.withField (decodeArrive p) fun f =>
    s.withField (aisleOf f.aisle) fun a =>
      s.withField (endOf f.end_) fun e =>
        if s.stationExists a e = false then s.refuseWith .noStation .stationProtocol (some a) p
        else if f.tag = 0 then s.arriveClear a e p
        else if s.input a e ≠ .empty then s.refuseWith .stationBusy .stationProtocol (some a) p
        else s.arrivePallet a e { tag := f.tag, height := f.height, weight := f.weight } p

def execArrive (p : List Byte) (s : State) : Host.Outcome State Fault Refusal :=
  .next (s.stationCommand (.arrive p) Code.arrive p fun s => s.arrive p)

/-- OUTPUT_FREE: a count clamped to 8 becomes reported_free (R160). -/
def State.outputFree (s : State) (p : List Byte) : Answer :=
  if p.length ≠ 3 then s.refuse .badField
  else
    s.withField (aisleOf (byteAt p 0)) fun a =>
      s.withField (endOf (byteAt p 1)) fun e =>
        if s.stationExists a e = false then s.refuseWith .noStation .stationProtocol (some a) p
        else
          let n := min 8 (byteAt p 2)
          let s := s.updCredit a e fun x => { x with reportedFree := n }
          s.okClamped (decide (8 < byteAt p 2)) (.credit (s.credit a e).available)

def execOutputFree (p : List Byte) (s : State) : Host.Outcome State Fault Refusal :=
  .next (s.stationCommand (.outputFree p) Code.outputFree p fun s => s.outputFree p)

/-- DOCK_TAKEN raising a wave's taken_through: every live retrieve of the wave is evaluated, lowest entry order first
(R166). DESIGN CHOICE, unsafe: of two with equal entry orders the one in the lower slot is evaluated first (log entry
71). -/
def State.takeDock (s : State) (w : Wave) (n : Nat) : State :=
  (s.updWave w.id fun x => { x with takenThrough := n }).reEvaluate fun j =>
    match j.wave with
    | some y => decide (y.id = w.id)
    | none => false

/-- DOCK_TAKEN (R166). -/
def State.dockTaken (s : State) (p : List Byte) : Answer :=
  if p.length ≠ 3 ∨ be16At p 1 = 0 ∨ 4095 < be16At p 1 then s.refuse .badField
  else
    match s.wave? (byteAt p 0) with
    | none => s.refuseWith .badWave .dockOrder none p
    | some w =>
      if be16At p 1 ≤ w.takenThrough then s.refuseWith .outOfOrder .dockOrder none p
      else (s.takeDock w (be16At p 1)).ok (.dockTaken (be16At p 1))

def execDockTaken (p : List Byte) (s : State) : Host.Outcome State Fault Refusal :=
  .next (s.stationCommand (.dockTaken p) Code.dockTaken p fun s => s.dockTaken p)

end Sys2Proof.Machine
end

