-- ==== Sys2Proof/Machine/CraneMessages.lean ====
section
/-! DEFINITION. The crane messages that announce, ask, answer and report a crane's own state: HELLO, ASK, ACCEPT, REFUSE,
LATE, POS, CLEARED, PARKED, FAULT, RECOVERED (R118, R119, R121, R123, R131 to R138, R144 to R146). -/

namespace Sys2Proof.Machine

/-! ## Shared operations -/

/-- A clear ends without CLEARED: tPARK stops, the target goes, and the claim that caused it ends (R123). -/
def State.abandonClear (s : State) (c : CraneId) : State :=
  let s := s.stopParkTimer c
  let s := s.updOwn c fun r => { r with clear := none }
  match (s.crane c).mapping with
  | some (a, e) => s.endClaim a (otherEnd e)
  | none => s

/-- A LOADED job is stranded on its crane: the other jobs return to READY and their steps are removed; the deadline
stops (R54, R131, R145). -/
def State.strand (s : State) (c : CraneId) (h : Handle) : State :=
  let others := (s.crane c).jobs.filter (· ≠ h)
  let s := s.stopDeadline c
  let s := s.updJob h fun j => { j with stranded := true }
  s.each others fun s q =>
    match (s.crane c).unit with
    | some u => (s.setCrane c { s.crane c with unit := some (u.without q) }).returnToReady c q
    | none => s

/-- The crane gives up its work on a FAULT or a restarting HELLO: its redirect ends and nothing is sent for it (R88);
a LOADED job is stranded, otherwise its jobs return to READY and the unit goes (R131, R145). -/
def State.breakWork (s : State) (c : CraneId) : State :=
  let s := s.endRedirect c
  match s.loadedOn c with
  | some h => s.strand c h
  | none => s.giveBack c

/-! ## HELLO -/

/-- The interval of a first HELLO at a bay, and a RAIL_BREACH where it does not keep the gap (R118). -/
def State.announceRail (s : State) (c : CraneId) (bay : Nat) (p : List Byte) : State :=
  match s.otherEntry c, (s.crane c).mapping with
  | some o, some (a, e) =>
    if bay = s.parkEnd a e ∨ keepsGap (s.gap a) e (.at bay) o.effective = true then s.grant c (.at bay)
    else (s.grant c (hull bay [s.parkEnd a e])).raiseFault .railBreach (.link (.crane c)) (some a) none p
  | _, _ => s

/-- The test of a restarting HELLO's bay against the granted interval: outside it is a breach (R119). -/
def State.restartBreach (s : State) (c : CraneId) (bay : Nat) (p : List Byte) : State :=
  match s.entry c with
  | some r =>
    if r.granted.holds bay then s else s.raiseFault .railBreach (.link (.crane c)) (s.craneAisle c) none p
  | none => s

/-- The CRANE_RESTART of a restarting HELLO, with the stranded job if there is one (R131). -/
def State.raiseRestart (s : State) (c : CraneId) (p : List Byte) : State :=
  s.raiseFault .craneRestart (.link (.crane c)) (s.craneAisle c) (s.loadedOn c) p

/-- What a restarting crane gives up, by its state (R131). -/
def State.restartGivesUp (s : State) (c : CraneId) : State :=
  match (s.crane c).state with
  | .offered | .working => s.breakWork c
  | .clearing => s.abandonClear c
  | .parking => s.stopParkTimer c
  | .absent | .idle | .waiting | .parked | .backoff | .faulted | .outOfService => s

/-- The state a restarting crane takes: FAULTED with a pallet on its forks, its own state in BACKOFF and OUT_OF_SERVICE,
else IDLE or PARKING; the interval falls to its bay in every case but the first (R119, R131; log entry 22). -/
def State.restartGoes (s : State) (c : CraneId) : State :=
  if (s.crane c).unit.isSome then s.enterState c .faulted
  else
    let s := s.fall c []
    match (s.crane c).state with
    | .backoff => s
    | .outOfService => s
    | _ => s.goIdleOrPark c

/-- HELLO (R131). CRANE_RESTART is raised behind the events of what the crane gives up and of the state it takes (log entry
65). -/
def State.hello (s : State) (c : CraneId) (x : Point) (p : List Byte) : State :=
  if (s.crane c).state = .absent then
    let s := s.setPosition c x
    let s := s.announceRail c x.bay p
    s.goIdleOrPark c
  else
    let s := s.restartBreach c x.bay p
    let s := s.setPosition c x
    let s := s.restartGivesUp c
    let s := s.restartGoes c
    s.raiseRestart c p

def execHello (c : CraneId) (p : List Byte) (s : State) : Host.Outcome State Fault Refusal :=
  .next (s.craneMessage (.hello c p) c p true none (fun s => s.readPosition c p) fun s x => s.hello c x p)

/-! ## ASK and POS -/

/-- A report of a position: recorded, and in a tandem aisle tested (R114, R116, R132, R133). -/
def State.report (s : State) (c : CraneId) (x : Point) (p : List Byte) : State :=
  (s.railReport c x.bay (s.crane c).remaining none p).setPosition c x

/-- ASK by the crane's state (R132). The PARK repeated to a PARKING or PARKED crane widens its interval as every PARK
does (R113) and changes neither its state nor its park timer (R132, R144). -/
def State.ask (s : State) (c : CraneId) (x : Point) (p : List Byte) : State :=
  let s := s.report c x p
  match (s.crane c).state with
  | .idle =>
    let s := s.setHoldBack c { s.holdBack c with heldBack := false }
    let s := s.enterState c .waiting
    s.raise (.selection c)
  | .waiting => s.raise (.selection c)
  | .clearing => s.updOwn c fun r => { r with clear := r.clear.map fun k => { k with toWaiting := true } }
  | .backoff | .outOfService => s.send (.crane c) .standby
  | .parking | .parked => s.tellPark c
  | .offered | .working | .faulted => s.stale c none p
  | .absent => s

def execAsk (c : CraneId) (p : List Byte) (s : State) : Host.Outcome State Fault Refusal :=
  .next (s.craneMessage (.ask c p) c p false none (fun s => s.readPosition c p) fun s x => s.ask c x p)

/-- POS (R133). -/
def State.pos (s : State) (c : CraneId) (x : Point) (p : List Byte) : State := s.report c x p

def execPos (c : CraneId) (p : List Byte) (s : State) : Host.Outcome State Fault Refusal :=
  .next (s.craneMessage (.pos c p) c p false none (fun s => s.readPosition c p) fun s x => s.pos c x p)

/-! ## ACCEPT, REFUSE, LATE -/

/-- The crane is OFFERED the unit a message names. -/
def Crane.isOffered (x : Crane) (n : BitVec 8) : Bool :=
  decide (x.state = .offered)
    && match x.unit with
      | some u => decide (u.number = n)
      | none => false

/-- The message names the new unit of an outstanding redirect. -/
def Crane.isRedirected (x : Crane) (n : BitVec 8) : Bool :=
  match x.redirect with
  | some r => decide (r.number = n)
  | none => false

/-- The message names a WORKING crane's current unit. -/
def Crane.isWorkingOn (x : Crane) (n : BitVec 8) : Bool :=
  decide (x.state = .working)
    && match x.unit with
      | some u => decide (u.number = n)
      | none => false

/-- One age step for a job then PENDING or READY, saturating at 255 (R63). -/
def Job.ageOnce (j : Job) : Job :=
  if j.state = .pending ∨ j.state = .ready then { j with age := saturate 255 (j.age + 1) } else j

/-- The aging counter at 0: every PENDING and READY job gains one age step and the counter reloads. With a start count
of 0 nothing happens (R63). -/
def State.ageStep (s : State) : State :=
  if s.jpl.startCount = 0 then s
  else
    { s with jpl := { s.jpl with
        slots := s.jpl.slots.map fun x => { x with job := x.job.map Job.ageOnce }, counter := s.jpl.startCount } }

/-- The aging counter falls by 1, with the effects of reaching 0 (R63). -/
def State.ageCount (s : State) : State :=
  if s.jpl.startCount = 0 then s
  else if s.jpl.counter ≤ 1 then s.ageStep
  else { s with jpl := { s.jpl with counter := s.jpl.counter - 1 } }

/-- In EVENTS mode an ACCEPT of an offer is counted (R63). -/
def State.ageAccept (s : State) : State := if s.jpl.agingMode = .events then s.ageCount else s

/-- The ACCEPT of an offered unit (R134). -/
def State.acceptOffer (s : State) (c : CraneId) : State :=
  let s := s.stopOfferTimer c
  let s := s.each (s.crane c).jobs fun s h => s.updJob h fun j => { j with state := .enRoute }
  let s := s.setCrane c { s.crane c with strikes := 0 }
  let s := s.enterState c .working
  let s := s.startDeadline c (s.cranePoint c)
  s.ageAccept

/-- The ACCEPT of a redirect while no job of the old unit is LOADED: the old unit's jobs return to READY and the new
unit becomes the current one (R87). -/
def State.acceptRedirect (s : State) (c : CraneId) (r : Redirect) : State :=
  let old := (s.crane c).jobs
  let s := s.stopOfferTimer c
  let s := s.stopDeadline c
  let s := s.setCrane c { s.crane c with
    unit := some { number := r.number, jobs := [r.job], steps := r.steps, current := 1 }, redirect := none }
  let s := s.each old fun s h => s.returnToReady c h
  let s := s.updJob r.job fun j => { j with
    state := .enRoute, unit := some { crane := c, number := r.number }, promised := none }
  let s := s.fall c (s.stepBays r.steps)
  s.startDeadline c (s.cranePoint c)

/-- The ACCEPT of a redirect: honoured, or, with a job of the old unit LOADED, answered with WITHDRAW and STALE_MESSAGE
and taken as LATE (R87). -/
def State.answerRedirect (s : State) (c : CraneId) (r : Redirect) (p : List Byte) : State :=
  match s.loadedOn c with
  | none => s.acceptRedirect c r
  | some _ => ((s.send (.crane c) (.withdraw r.number 0)).stale c none p).late c

/-- ACCEPT (R134, R136). -/
def State.accept (s : State) (c : CraneId) (n : BitVec 8) (p : List Byte) : State :=
  if (s.crane c).isOffered n then s.acceptOffer c
  else if (s.crane c).isRedirected n then
    match (s.crane c).redirect with
    | some r => s.answerRedirect c r p
    | none => s
  else if (s.crane c).isWorkingOn n then s
  else (s.send (.crane c) (.withdraw n 0)).stale c none p

def execAccept (c : CraneId) (p : List Byte) (s : State) : Host.Outcome State Fault Refusal :=
  .next (s.craneMessage (.accept c p) c p false none (fun _ => readUnit p) fun s n => s.accept c n p)

/-- The strike policy (R138): where the count reaches the limit the crane goes elsewhere, else to IDLE, subject to
R128. DESIGN CHOICE, unsafe: CRANE_RETIRED is raised behind what the change of state raises, a pending profile's
RAIL_BREACH among it (R9, R111); R138 gives no order (log entry 74). -/
def State.strikePolicy (s : State) (c : CraneId) (p : List Byte) : State :=
  if (s.crane c).strikes < s.crt.strikeLimit then s.goIdle c
  else if (s.crane c).leaveService then s.enterState c .outOfService
  else
    match s.crt.policy with
    | .retire =>
      (s.enterState c .outOfService).raiseFault .craneRetired (.link (.crane c)) (s.craneAisle c) none p
    | .backoff => (s.startBackoffTimer c).enterState c .backoff

/-- An offer not taken up: the jobs return to READY, the unit goes, the interval falls, a strike is counted and the
strike policy applied (R135, R137, R138, R115). -/
def State.missOffer (s : State) (c : CraneId) (p : List Byte) : State :=
  let s := s.giveBack c
  let s := s.fall c []
  let s := s.setCrane c { s.crane c with strikes := saturate 7 ((s.crane c).strikes + 1) }
  s.strikePolicy c p

/-- REFUSE: a unit and a reason, recorded in every case (R135, R136). One that names a WORKING crane's current unit does
not fit, a redirect outstanding or not (log entry 53). -/
def State.refuseOffer (s : State) (c : CraneId) (n : BitVec 8) (reason : Nat) (p : List Byte) : State :=
  let s := s.setCrane c { s.crane c with lastRefusal := some reason }
  if (s.crane c).isOffered n then s.missOffer c p
  else if (s.crane c).isRedirected n then s.late c
  else s.stale c none p

def execRefuse (c : CraneId) (p : List Byte) (s : State) : Host.Outcome State Fault Refusal :=
  .next (s.craneMessage (.refuse c p) c p false none (fun _ => readRefusal p) fun s x => s.refuseOffer c x.1 x.2 p)

/-- LATE (R87, R136). One that names the offered unit of an OFFERED crane, or a WORKING crane's current unit, does not
fit (log entries 52 and 53). -/
def State.answerLate (s : State) (c : CraneId) (n : BitVec 8) (p : List Byte) : State :=
  if (s.crane c).isRedirected n then s.late c else s.stale c none p

def execLate (c : CraneId) (p : List Byte) (s : State) : Host.Outcome State Fault Refusal :=
  .next (s.craneMessage (.late c p) c p false none (fun _ => readUnit p) fun s n => s.answerLate c n p)

/-! ## CLEARED and PARKED -/

/-- The interval a CLEARED leaves: the bay reported, or, outside the interval, a breach (R121). -/
def State.clearedRail (s : State) (c : CraneId) (bay : Nat) (p : List Byte) : State :=
  match s.entry c with
  | some r =>
    if r.granted.holds bay then s.shrink c (.at bay)
    else s.raiseFault .railBreach (.link (.crane c)) (s.craneAisle c) none p
  | none => s

/-- A crane whose clear has ended goes to its return state: PARKING where it is owed a PARK (R173), OUT_OF_SERVICE where
its leave-service flag is set (R121), else WAITING or IDLE; re-entering WAITING starts a selection for it (R68). -/
def State.returnFromClear (s : State) (c : CraneId) (toWaiting : Bool) : State :=
  if s.parkOwed c then s.sendPark c
  else if toWaiting then
    let s := s.enterState c .waiting
    if (s.crane c).state = .waiting then s.raise (.selection c) else s
  else s.enterState c .idle

/-- The selection for the crane whose claim caused a clear, if it is WAITING, whether or not the claim still stands
(R121, R68). It is the other crane of the aisle (log entry 56). -/
def State.selectClaimant (s : State) (c : CraneId) : State :=
  match (s.crane c).mapping with
  | some (a, e) =>
    match s.craneAt a (otherEnd e) with
    | some o => if (s.crane o).state = .waiting then s.raise (.selection o) else s
    | none => s
  | none => s

/-- CLEARED (R121). -/
def State.cleared (s : State) (c : CraneId) (x : Point) (p : List Byte) : State :=
  if (s.crane c).state = .clearing then
    let toWaiting :=
      match (s.entry c).bind (·.clear) with
      | some k => k.toWaiting
      | none => false
    let s := s.clearedRail c x.bay p
    let s := s.setPosition c x
    let s := s.stopParkTimer c
    let s := s.updOwn c fun r => { r with clear := none }
    let s := s.returnFromClear c toWaiting
    s.selectClaimant c
  else s.stale c none p

def execCleared (c : CraneId) (p : List Byte) (s : State) : Host.Outcome State Fault Refusal :=
  .next (s.craneMessage (.cleared c p) c p false none (fun s => s.readPosition c p) fun s x => s.cleared c x p)

/-- PARKED (R144, R115). -/
def State.parked (s : State) (c : CraneId) (p : List Byte) : State :=
  match (s.crane c).state, (s.crane c).mapping with
  | .parking, some (a, e) =>
    let s := s.stopParkTimer c
    let s := s.setPosition c (s.stationPoint a e)
    let s := s.shrink c (.at (s.parkEnd a e))
    s.enterState c .parked
  | _, _ => s.stale c none p

def execParked (c : CraneId) (p : List Byte) (s : State) : Host.Outcome State Fault Refusal :=
  .next (s.craneMessage (.parked c p) c p false none (fun _ => readNothing p) fun s _ => s.parked c p)

/-! ## FAULT and RECOVERED -/

/-- What the crane held at a FAULT, by its state (R145 step 3). -/
def State.faultTreats (s : State) (c : CraneId) : State :=
  match (s.crane c).state with
  | .offered | .working => s.breakWork c
  | .clearing => s.abandonClear c
  | .parking => s.stopParkTimer c
  | .backoff => s.leaveBackoff c
  | .outOfService => s.setCrane c { s.crane c with leaveService := true }
  | .idle | .waiting | .parked | .faulted | .absent => s

/-- FAULT (R145). -/
def State.craneFault (s : State) (c : CraneId) (code : Nat) (p : List Byte) : State :=
  let s := s.setCrane c { s.crane c with lastFault := some code }
  let s := s.raiseFault .craneFault (.link (.crane c)) (s.craneAisle c) (s.loadedOn c) p
  let s := s.faultTreats c
  s.enterState c .faulted

def execFault (c : CraneId) (p : List Byte) (s : State) : Host.Outcome State Fault Refusal :=
  .next (s.craneMessage (.fault c p) c p false none (fun _ => readUnit p) fun s n => s.craneFault c n.toNat p)

/-- The crane's current step is a drop at a cell that its job has not reserved: the job meets R105 again (R146). -/
def State.dropUnreserved (s : State) (c : CraneId) : Bool :=
  match (s.crane c).remaining.head? with
  | some x =>
    match x.action, x.place with
    | .drop, .cell d => decide ((s.cell d).state ≠ .inReserved x.job)
    | _, _ => false
  | none => false

/-- RECOVERED with a LOADED job on board (R146, R119, R173). -/
def State.recoverLoaded (s : State) (c : CraneId) (h : Handle) : State :=
  let again := s.dropUnreserved c
  let s := s.updJob h fun j => { j with stranded := again }
  let s := s.fall c (s.stepBays (s.crane c).remaining)
  let s := s.enterState c .working
  let s := if s.aisleStopped c then s.setParkOwed c true else s
  if again then s else s.startDeadline c (s.cranePoint c)

/-- RECOVERED (R146). Without a unit the interval unfreezes to the crane's bay (R119), whether the crane goes on to IDLE, to
PARKING or to OUT_OF_SERVICE (log entry 61). -/
def State.recovered (s : State) (c : CraneId) (p : List Byte) : State :=
  if (s.crane c).state = .faulted then
    match s.loadedOn c with
    | some h => s.recoverLoaded c h
    | none => (s.fall c []).goIdleOrPark c
  else s.stale c none p

def execRecovered (c : CraneId) (p : List Byte) (s : State) : Host.Outcome State Fault Refusal :=
  .next (s.craneMessage (.recovered c p) c p false none (fun _ => readNothing p) fun s _ => s.recovered c p)

end Sys2Proof.Machine
end

