-- ==== Sys2Proof/Machine/StepReports.lean ====
section
/-! DEFINITION. The step reports: PICKED, DROPPED, CELL_OCCUPIED, CELL_EMPTY (R51, R53, R55, R97, R100 to R107, R140 to
R142). -/

namespace Sys2Proof.Machine

/-! ## Fitting -/

/-- What a report says of its step. -/
inductive ReportKind where
  | picked | dropped | cellOccupied | cellEmpty
  deriving DecidableEq, Repr

/-- The step's action and place match the report (R140). -/
def ReportKind.matchesStep (r : ReportKind) (x : Step) : Bool :=
  match r, x.action, x.place with
  | .picked, .pick, _ => true
  | .dropped, .drop, _ => true
  | .cellEmpty, .pick, .cell _ => true
  | .cellOccupied, .drop, .cell _ => true
  | _, _, _ => false

/-- The job, its unit and the current step of a report that fits (R140). -/
def State.fitting (s : State) (c : CraneId) (r : ReportKind) (h : Handle) : Option (Job × WorkUnit × Step) :=
  match (s.crane c).state, (s.crane c).unit, s.job? h with
  | .working, some u, some j =>
    match u.remaining.head? with
    | some x =>
      if u.jobs.contains h ∧ x.job = h ∧ j.stranded = false ∧ r.matchesStep x = true then some (j, u, x) else none
    | none => none
  | _, _, _ => none

/-- A live job belongs to the current unit of another crane (R140). -/
def State.isForeign (s : State) (c : CraneId) (h : Handle) : Bool :=
  (s.job? h).isSome && (List.finRange 12).any fun o => decide (o ≠ c) && (s.crane o).jobs.contains h

/-- A report that does not fit (R140). -/
def State.unfit (s : State) (c : CraneId) (h : Handle) (p : List Byte) : State :=
  if s.isForeign c h then s.raiseFault .foreignReport (.link (.crane c)) (s.craneAisle c) (some h) p
  else s.stale c (s.liveHandle h) p

/-- A step report: taken by `act` where it fits, else as R140 gives. -/
def State.stepReport (s : State) (e : Instr) (c : CraneId) (r : ReportKind) (p : List Byte)
    (act : State → Job → WorkUnit → Step → State) : State :=
  s.craneMessage e c p false (decodeHandle p) (fun _ => decodeHandle p) fun s h =>
    match s.fitting c r h with
    | some (j, u, x) => act s j u x
    | none => s.unfit c h p

/-- The deadline stops, the interval is tested with the steps still to come, and the position becomes the step's place
(R100, R114, R116, R141, R142). -/
def State.reachStep (s : State) (c : CraneId) (j : Job) (x : Step) (steps : List Step) (p : List Byte) : State :=
  let q := s.placePoint x.place
  let s := s.stopDeadline c
  (s.railReport c q.bay steps (some j.handle) p).setPosition c q

/-- The current step advances (R129). -/
def State.advanceStep (s : State) (c : CraneId) : State :=
  match (s.crane c).unit with
  | some u => s.setCrane c { s.crane c with unit := some { u with current := u.current + 1 } }
  | none => s

/-! ## PICKED -/

/-- A store's pallet leaves its input station: the record is emptied and TAKEN sent (R51, R159). -/
def State.takePallet (s : State) (j : Job) : State :=
  (s.setInput j.aisle j.storeEnd .empty).send .station (.taken j.aisle j.storeEnd j.tag)

/-- The pick of a retrieve or of a relocation at its chosen cell: the load class is handed over (R15, R51). -/
def State.pickCarried (s : State) (j : Job) : State :=
  match j.chosen with
  | some c => (s.pickMade c j.handle).1.updJob j.handle fun x => { x with carried := (s.pickMade c j.handle).2 }
  | none => s

/-- The cell or station effects of a PICKED (R51). -/
def State.pickEffects (s : State) (j : Job) : State :=
  match j.kind with
  | .store => s.takePallet j
  | .retrieve => s.pickCarried j
  | .relocate => s.pickCarried j

/-- A fitting PICKED (R141). With a redirect outstanding the offer timer stops and the redirect waits for LATE (R87; log
entry 55). -/
def State.picked (s : State) (c : CraneId) (j : Job) (u : WorkUnit) (x : Step) (p : List Byte) : State :=
  let s := s.reachStep c j x (u.remaining.drop 1) p
  let s := s.stopOfferTimer c
  let s := s.updJob j.handle fun y => { y with state := .loaded }
  let s := s.pickEffects j
  let s := s.advanceStep c
  s.startDeadline c (s.placePoint x.place)

def execPicked (c : CraneId) (p : List Byte) (s : State) : Host.Outcome State Fault Refusal :=
  .next (s.stepReport (.picked c p) c .picked p fun s j u x => s.picked c j u x p)

/-! ## DROPPED -/

/-- The drop at a cell: FULL with the class carried (R15, R55), other jobs' cells rewritten for a relocation (R97, R98),
then the re-evaluations the drop draws (R19). -/
def State.dropAt (s : State) (j : Job) (c : Option CellAddr) (k : Option Class) (moved : Bool) : State :=
  match c with
  | some c =>
    let s := s.dropMade c j.handle (k.getD 0)
    let s := if moved then s.rewrite? j.chosen (some c) else s
    s.recheckCell c true
  | none => s

/-- The cell effects of a DROPPED (R55, R97). -/
def State.dropEffects (s : State) (j : Job) : State :=
  match j.kind with
  | .store => s.dropAt j j.chosen (j.load.bind (·.cls)) false
  | .retrieve => s
  | .relocate => s.dropAt j j.target j.carried true

/-- A job that has been dropped leaves its unit, and the current step advances (R129, R142). -/
def State.leaveUnit (s : State) (c : CraneId) (h : Handle) : State :=
  match (s.crane c).unit with
  | some u =>
    s.setCrane c { s.crane c with unit := some { u with jobs := u.jobs.filter (· ≠ h), current := u.current + 1 } }
  | none => s

/-- After a drop: the next step's deadline starts from the drop place, or the unit ends (R142 step 4). -/
def State.nextStep (s : State) (c : CraneId) (x : Step) : State :=
  if (s.crane c).remaining = [] then s.finishUnit c else s.startDeadline c (s.placePoint x.place)

/-- A job closes DONE on its drop and its crane goes on. A relocation's unit ends before its served retrieve is
evaluated and its notice offered (R97 step 3); a store or retrieve closes whole before the crane goes on (R142 steps 3
and 4; log entry 51). -/
def State.closeDropped (s : State) (c : CraneId) (j : Job) (x : Step) : State :=
  match j.kind with
  | .relocate => ((s.closeStart j.handle .done true id).nextStep c x).endRelocation j.handle j
  | _ => (s.close j.handle .done false Credit.delivered).nextStep c x

/-- A fitting DROPPED (R142): the job closes DONE; the next step's deadline starts, or the unit ends. -/
def State.dropped (s : State) (c : CraneId) (j : Job) (u : WorkUnit) (x : Step) (p : List Byte) : State :=
  let s := s.reachStep c j x (u.remaining.drop 1) p
  let s := s.dropEffects j
  let s := s.leaveUnit c j.handle
  s.closeDropped c j x

def execDropped (c : CraneId) (p : List Byte) (s : State) : Host.Outcome State Fault Refusal :=
  .next (s.stepReport (.dropped c p) c .dropped p fun s j u x => s.dropped c j u x p)

/-! ## Findings -/

/-- The fault and the CELL_CONFLICT notice of a finding, with the cell as corrected (R101). DESIGN CHOICE, unsafe: both come
as soon as the cell is corrected, ahead of every other notice and of a pending profile's RAIL_BREACH that the same event
draws; R101 gives no order (log entry 72). -/
def State.reportFinding (s : State) (c : CraneId) (j : Job) (d : CellAddr) (f : Finding) (k : FaultKind)
    (p : List Byte) : State :=
  let s := s.raiseFault k (.link (.crane c)) (s.craneAisle c) (some j.handle) p
  s.offerActive (.cellConflict d f (s.cell d).state j.handle c)

/-- The cell of a step, where its place is one. -/
def Step.cell? (x : Step) : Option CellAddr :=
  match x.place with
  | .cell d => some d
  | .station _ _ _ => none

/-- The hull of R104's test: the crane's granted interval and a cell's bay. -/
def RailEntry.redirectTo (r : RailEntry) (bay : Nat) : Interval := r.granted.join (.at bay)

/-- In a tandem aisle a new drop cell must keep the gap against the other crane (R104). -/
def State.dropKeepsGap (s : State) (c : CraneId) (d : CellAddr) : Bool :=
  match s.entry c, s.otherEntry c, (s.crane c).mapping with
  | some r, some o, some (a, e) => keepsGap (s.gap a) e (r.redirectTo d.bay) o.effective
  | _, _, _ => true

/-- Whether a drop redirection is allowed (R104). -/
def Job.dropRedirectable (j : Job) : Bool :=
  match j.kind with
  | .store => j.destination.isNone || j.redirectAllowed
  | _ => true

/-- The new drop cell for a job whose drop cell was found occupied: a slot search or a target search from the occupied
cell (R104). A relocation's search lies about its source. -/
def State.newDropCell (s : State) (c : CraneId) (j : Job) (d : CellAddr) : Option CellAddr :=
  if j.dropRedirectable = false then none
  else
    match j.kind with
    | .store => s.slotWinner j.aisle j.storeEnd (cellPoint d) j.loadClass (s.dropKeepsGap c)
    | .relocate =>
      match j.chosen with
      | some source => s.targetWinner source (cellPoint d) (j.carried.getD 0) (s.dropKeepsGap c)
      | none => none
    | .retrieve => none

/-- The place of a unit's current step replaced (R104, R129). -/
def WorkUnit.replacePlace (u : WorkUnit) (d : CellAddr) : WorkUnit :=
  { u with steps := (u.steps.zipIdx 1).map fun y => if y.2 = u.current then { y.1 with place := .cell d } else y.1 }

/-- A job's record with its new drop cell: a relocation's target; a store's chosen cell, its destination ANY (R104). -/
def Job.redrop (j : Job) (d : CellAddr) : Job :=
  match j.kind with
  | .relocate => { j with target := some d }
  | _ => { j with chosen := some d, destination := none }

/-- STORE_REDIRECTED for a store found a new cell (R104 step 5); a relocation draws none. -/
def State.noteRedirect (s : State) (j : Job) (old new : CellAddr) : State :=
  match j.kind, j.origin with
  | .store, .order l => s.offerNotice l (.storeRedirected j.handle j.reference old (some new))
  | _, _ => s

/-- A new drop cell given to a job whose drop cell `d` was found occupied (R104 steps 1 to 5). -/
def State.newDrop (s : State) (c : CraneId) (j : Job) (d new : CellAddr) : State :=
  let s := s.updJob j.handle fun x => x.redrop new
  let s := s.updOwn c fun r => { r with granted := r.redirectTo new.bay }
  let s :=
    match (s.crane c).unit with
    | some u => s.setCrane c { s.crane c with unit := some (u.replacePlace new) }
    | none => s
  let s := s.send (.crane c) (.newDrop j.handle new)
  let s := s.startDeadline c (cellPoint d)
  s.noteRedirect j d new

/-- A job stranded at its occupied drop cell (R105): the store of a pair keeps its two steps, and the retrieve returns
to READY. DEDUCED, unsafe: the interval falls to the cell's bay and the kept steps (R115), with the steps of an
outstanding redirect, which this finding leaves running (R107, R114; log entry 69). -/
def State.strandAt (s : State) (c : CraneId) (j : Job) (u : WorkUnit) : State :=
  let s := s.updJob j.handle fun x => { x with stranded := true }
  if u.current < u.steps.length then
    let s := s.withdraw c u.current
    let s := s.each (u.jobs.filter (· ≠ j.handle)) fun s q => s.returnToReady c q
    s.fall c (s.stepBays ((s.crane c).remaining ++ (s.crane c).redirectSteps))
  else s

/-- Give the job a new drop cell, or strand it (R104, R105). A winner is never declined within the event (log entry
28). -/
def State.redirectDrop (s : State) (c : CraneId) (j : Job) (u : WorkUnit) (d : CellAddr) : State :=
  match s.newDropCell c j d with
  | none => s.strandAt c j u
  | some new =>
    match s.reserveDrop new j.handle with
    | some t => t.newDrop c j d new
    | none => s.strandAt c j u

/-- A fitting CELL_OCCUPIED (R100, R101, R104, R105). DESIGN CHOICE, unsafe: CELL_CONFLICT is queued ahead of the event's
STORE_REDIRECTED (log entry 72). -/
def State.cellOccupied (s : State) (c : CraneId) (j : Job) (u : WorkUnit) (x : Step) (p : List Byte) : State :=
  match x.cell? with
  | none => s
  | some d =>
    let s := s.reachStep c j x u.remaining p
    let s := s.foundOccupied d j.handle
    let s := s.reportFinding c j d .occupied .doubleOccupancy p
    s.redirectDrop c j u d

def execCellOccupied (c : CraneId) (p : List Byte) (s : State) : Host.Outcome State Fault Refusal :=
  .next (s.stepReport (.cellOccupied c p) c .cellOccupied p fun s j u x => s.cellOccupied c j u x p)

/-- A retrieve whose pick cell was found empty leaves its unit, loses the candidate and is evaluated (R53, R102). -/
def State.emptyRetrieval (s : State) (c : CraneId) (j : Job) (d : CellAddr) : State :=
  let s := s.dropPartner j
  let s := s.updJob j.handle fun x => { x with
    state := .pending
    reason := some .noCandidate
    unit := none
    partner := none
    chosen := none
    candidates := x.candidates.filter (· ≠ d) }
  let s := s.updBound c j Credit.unbind
  s.evaluate j.handle

/-- What a CELL_EMPTY makes of its job and of its crane's unit, which ends: a retrieve is evaluated and the unit ends
(R102); a relocation enters CLOSING, its unit ends, and then its served retrieve is evaluated and its notice offered
(R103). -/
def State.emptyEffects (s : State) (c : CraneId) (j : Job) (d : CellAddr) : State :=
  match j.kind with
  | .retrieve => (s.emptyRetrieval c j d).finishUnit c
  | .relocate => ((s.closeStart j.handle .done false id).finishUnit c).endRelocation j.handle j
  | .store => s.finishUnit c

/-- A fitting CELL_EMPTY (R100 to R103): the unit ends and the crane goes to IDLE. DESIGN CHOICE, unsafe: CELL_CONFLICT is
queued ahead of the event's JOB_CLOSED or PALLET_MOVED (log entry 72). -/
def State.cellEmpty (s : State) (c : CraneId) (j : Job) (u : WorkUnit) (x : Step) (p : List Byte) : State :=
  match x.cell? with
  | none => s
  | some d =>
    let s := s.reachStep c j x u.remaining p
    let s := s.foundEmpty d j.handle
    let s := s.reportFinding c j d .empty .emptyRetrieval p
    s.emptyEffects c j d

def execCellEmpty (c : CraneId) (p : List Byte) (s : State) : Host.Outcome State Fault Refusal :=
  .next (s.stepReport (.cellEmpty c p) c .cellEmpty p fun s j u x => s.cellEmpty c j u x p)

end Sys2Proof.Machine
end

