-- ==== Sys2Proof/Machine/TimerEvents.lean ====
section
/-! DEFINITION. Expiries: the timers of cranes (R80, R88, R137, R139, R143, R144) and of aging (R63), and what one
millisecond of the internal time base makes due (00_scope.md, Units). -/

namespace Sys2Proof.Machine

/-- A timer's expiry, taken by `act`; while a restart waits an expiry is not taken (R201). -/
def State.expiry (s : State) (e : Instr) (act : State → State) : State :=
  let s := s.take e
  if s.liu.restarting.isSome then s else act s

/-- The offer timer expires: a lapse in OFFERED (R137), the end of an outstanding redirect otherwise (R88). -/
def State.offerLapse (s : State) (c : CraneId) : State :=
  if (s.crane c).offerTimer = none then s
  else if (s.crane c).state = .offered then s.missOffer c []
  else if (s.crane c).redirect.isSome then s.withdrawRedirect c
  else s.stopOfferTimer c

def execOfferTimerExpiry (c : CraneId) (s : State) : Host.Outcome State Fault Refusal :=
  .next (s.expiry (.offerTimerExpiry c) fun s => s.offerLapse c)

/-- The hold-back timer expires: a selection for the crane (R80, R68). -/
def State.holdBackEnds (s : State) (c : CraneId) : State :=
  if (s.holdBack c).timer = none then s else (s.stopHoldBack c).raise (.selection c)

def execHoldBackExpiry (c : CraneId) (s : State) : Host.Outcome State Fault Refusal :=
  .next (s.expiry (.holdBackExpiry c) fun s => s.holdBackEnds c)

/-- PARK_TIMEOUT (R123, R144): the crane is FAULTED with its interval frozen. DESIGN CHOICE, unsafe: PARK_TIMEOUT is raised
behind what the change of state raises, a pending profile's RAIL_BREACH among it (R9, R111); R123 gives no order (log
entry 74). -/
def State.parkTimeout (s : State) (c : CraneId) : State :=
  (s.enterState c .faulted).raiseFault .parkTimeout (.link (.crane c)) (s.craneAisle c) none []

/-- The park timer expires, in PARKING (R144) or in CLEARING (R123). -/
def State.parkLapse (s : State) (c : CraneId) : State :=
  if (s.crane c).parkTimer = none then s
  else
    match (s.crane c).state with
    | .parking => (s.stopParkTimer c).parkTimeout c
    | .clearing => (s.abandonClear c).parkTimeout c
    | _ => s.stopParkTimer c

def execParkTimerExpiry (c : CraneId) (s : State) : Host.Outcome State Fault Refusal :=
  .next (s.expiry (.parkTimerExpiry c) fun s => s.parkLapse c)

/-- The backoff timer expires: the strike count is 0, the crane goes to IDLE, subject to R128, and RESUME is sent
(R139); a crane that goes to OUT_OF_SERVICE is sent nothing (R148). -/
def State.backoffEnds (s : State) (c : CraneId) : State :=
  if (s.crane c).backoffTimer = none then s
  else if (s.crane c).state = .backoff then
    let s := s.leaveBackoff c
    let s := if (s.crane c).leaveService then s else s.send (.crane c) .resume
    s.enterState c .idle
  else s.stopBackoffTimer c

def execBackoffExpiry (c : CraneId) (s : State) : Host.Outcome State Fault Refusal :=
  .next (s.expiry (.backoffExpiry c) fun s => s.backoffEnds c)

/-- The job a running deadline's step serves. -/
def Crane.deadlineJob (x : Crane) : Option Handle :=
  match x.deadline, x.unit with
  | some d, some u => (u.steps[d.step - 1]?).map (·.job)
  | _, _ => none

/-- A step deadline expires: the job's overdue flag is set and STEP_OVERDUE raised; the step runs on (R143). -/
def State.deadlineEnds (s : State) (c : CraneId) : State :=
  match (s.crane c).deadline, (s.crane c).deadlineJob with
  | some _, some h =>
    let s := s.stopDeadline c
    let s := s.updJob h fun j => { j with overdue := true }
    s.raiseFault .stepOverdue (.link (.crane c)) (s.craneAisle c) (some h) []
  | some _, none => s.stopDeadline c
  | none, _ => s

def execStepDeadlineExpiry (c : CraneId) (s : State) : Host.Outcome State Fault Refusal :=
  .next (s.expiry (.stepDeadlineExpiry c) fun s => s.deadlineEnds c)

/-- The aging counter reaches 0 (R63; log entry 5). -/
def execAgingStep (s : State) : Host.Outcome State Fault Refusal :=
  .next (s.expiry .agingStep State.ageStep)

/-- 100 ms have passed: in TIME mode the counter falls by 1 (R63). -/
def State.ageTick (s : State) : State := if s.jpl.agingMode = .time then s.ageCount else s

def execAgingCounterTick (s : State) : Host.Outcome State Fault Refusal :=
  .next (s.expiry .agingCounterTick State.ageTick)

/-! ## One millisecond -/

/-- The event of a timer whose expiry has come. -/
def dueAt (now : Nat) (expiry : Option Nat) (e : Instr) : List Instr :=
  match expiry with
  | some t => if t = now then [e] else []
  | none => []

/-- The expiries of one crane's timers that come due at a time. -/
def State.dueFor (s : State) (now : Nat) (c : CraneId) : List Instr :=
  dueAt now (s.crane c).offerTimer (.offerTimerExpiry c) ++ dueAt now (s.holdBack c).timer (.holdBackExpiry c)
    ++ dueAt now (s.crane c).parkTimer (.parkTimerExpiry c) ++ dueAt now (s.crane c).backoffTimer (.backoffExpiry c)
    ++ dueAt now ((s.crane c).deadline.map (·.expiry)) (.stepDeadlineExpiry c)

/-- The fifteen links. -/
def allLinks : List Link := [.order .o0, .order .o1, .station] ++ (List.finRange 12).map .crane

/-- The silences that reach tGAP at a time (R194). -/
def State.dueGap (s : State) (now : Nat) (k : Link) : List Instr :=
  match s.rx k with
  | .inFrame _ t => dueAt now (some (t + Config.tGap)) (.tgapExpiry k)
  | .hunting => []

/-- The aging tick due at a time: every 100 ms in TIME mode (R63; phase: log entry 4). -/
def State.dueAging (s : State) (now : Nat) : List Instr :=
  if now % Config.agingTick = 0 ∧ s.jpl.agingMode = .time then [.agingCounterTick] else []

/-- Everything that comes due at a time; nothing while a restart waits (R201). -/
def State.due (s : State) (now : Nat) : List Instr :=
  if s.liu.restarting.isSome then []
  else (List.finRange 12).flatMap (s.dueFor now) ++ allLinks.flatMap (s.dueGap now) ++ s.dueAging now

/-- One millisecond passes: the clock advances and what comes due is raised (log entries 2 and 3). -/
def State.tick (s : State) : State := { s with now := s.now + 1, events := s.events ++ s.due (s.now + 1) }

end Sys2Proof.Machine
end

