-- ==== Sys2Proof/Machine/BlockEvents.lean ====
section
/-! DEFINITION. The events the blocks hand to one another (R48, R58, R67, R83, R85, R91, R156, R183, R185, R189), those
of the link layer (R193, R194) and those of the pins and restarts (R169, R201). -/

namespace Sys2Proof.Machine

/-! ## Allotment -/

/-- A selection (R67). -/
def execSelection (c : CraneId) (s : State) : Host.Outcome State Fault Refusal :=
  .next ((s.take (.selection c)).runSelection c)

/-- A preemption check (R85). -/
def execPreemptionCheck (h : Handle) (s : State) : Host.Outcome State Fault Refusal :=
  .next ((s.take (.preemptionCheck h)).runPreemption h)

/-- A slot search (R83). -/
def execSlotSearch (h : Handle) (s : State) : Host.Outcome State Fault Refusal :=
  .next ((s.take (.slotSearch h)).runSlotSearch h)

/-- A relocation request (R91). -/
def execRelocationRequest (h : Handle) (s : State) : Host.Outcome State Fault Refusal :=
  .next ((s.take (.relocationRequest h)).runRelocation h)

/-! ## Job Pool and stations -/

/-- A re-evaluation (R48, R49). -/
def execReEvaluation (h : Handle) (s : State) : Host.Outcome State Fault Refusal :=
  .next ((s.take (.reEvaluation h)).reEvaluateJob h)

/-- A new store at the Station and Wave Unit: matched where its station's record is UNCLAIMED with its tag (R156). -/
def State.handOver (s : State) (h : Handle) (l : OrderLink) (p : List Byte) : State :=
  match s.job? h with
  | none => s
  | some j =>
    match s.input j.aisle j.storeEnd with
    | .unclaimed x =>
      if j.qualifies j.aisle j.storeEnd x.tag then
        (s.matchStore j j.aisle j.storeEnd x (.order l) p).1
      else s
    | _ => s

/-- A store handed over (R156). -/
def execStoreHandOver (h : Handle) (l : OrderLink) (p : List Byte) (s : State) : Host.Outcome State Fault Refusal :=
  .next ((s.take (.storeHandOver h l p)).handOver h l p)

/-- Fill a queue's free places from a wait list, oldest first; the jobs left over stay on the list (R58). -/
def State.fillFrom (s : State) (l : OrderLink) : List Handle → State
  | [] => s.setClosingWait l []
  | h :: rest =>
    if s.hasRoom l then
      match (s.job? h).bind (·.notice) with
      | some n => ((s.payNotice h l n).leaveIfPaid h).fillFrom l rest
      | none => s.fillFrom l rest
    else s.setClosingWait l (h :: rest)

/-- The Job Pool places closing notices into the places free when it takes the message (R58; log entry 24). -/
def execClosingWaitPlacement (l : OrderLink) (s : State) : Host.Outcome State Fault Refusal :=
  let s := s.take (.closingWaitPlacement l)
  .next (s.fillFrom l (s.jpl.closingWait.get l))

/-! ## Faults -/

/-- A fault report (R183). -/
def execFaultReport (r : FaultReport) (s : State) : Host.Outcome State Fault Refusal :=
  .next ((s.take (.faultReport r)).takeFault r)

/-- The fault source of an aisle is set (R169, R185). -/
def execFaultSourceSet (a : AisleId) (s : State) : Host.Outcome State Fault Refusal :=
  let s := s.take (.faultSourceSet a)
  .next (s.setSources a { (s.hold a).sources with fault := true })

/-- The fault source of an aisle is cleared (R169, R189). -/
def execFaultSourceClear (a : AisleId) (s : State) : Host.Outcome State Fault Refusal :=
  let s := s.take (.faultSourceClear a)
  .next (s.setSources a { (s.hold a).sources with fault := false })

/-! ## Links -/

/-- A byte received (R194). -/
def execByteReceived (k : Link) (b : Byte) (s : State) : Host.Outcome State Fault Refusal :=
  .next ((s.take (.byteReceived k b)).receive k b)

/-- A frame that fails its checks (R194); while a restart waits no fault is raised (R201). -/
def execFrameDiscarded (k : Link) (p : List Byte) (s : State) : Host.Outcome State Fault Refusal :=
  let s := s.take (.frameDiscarded k p)
  .next (if s.liu.restarting.isSome then s else s.discardFrame k p)

/-- A silence of tGAP inside a frame discards it (R194). -/
def State.gapEnds (s : State) (k : Link) : State :=
  match s.rx k with
  | .inFrame bytes _ => s.discardFrame k (afterType bytes)
  | .hunting => s

def execTgapExpiry (k : Link) (s : State) : Host.Outcome State Fault Refusal :=
  .next (s.expiry (.tgapExpiry k) fun s => s.gapEnds k)

/-- A frame sent (R193, R197, R201). -/
def execFrameSent (k : Link) (moreParts : Bool) (s : State) : Host.Outcome State Fault Refusal :=
  .next ((s.take (.frameSent k moreParts)).frameSent k moreParts)

/-! ## Pins and restarts -/

/-- A change of the filtered level of a GATE line: low sets the gate source (R169). -/
def execGateChange (a : AisleId) (high : Bool) (s : State) : Host.Outcome State Fault Refusal :=
  let s := s.take (.gateChange a high)
  .next (s.setSources a { (s.hold a).sources with gate := !high })

/-- Power-on (R201). -/
def execPowerOn (pins : PinLevels) (s : State) : Host.Outcome State Fault Refusal := .next (s.powerOn pins)

/-- A pin reset (R201). -/
def execPinReset (pins : PinLevels) (s : State) : Host.Outcome State Fault Refusal := .next (s.pinReset pins)

/-- A soft restart taking effect (R201). -/
def execRestartSoft (s : State) : Host.Outcome State Fault Refusal := .next s.restartSoft

/-- A hard restart taking effect (R201). -/
def execRestartHard (s : State) : Host.Outcome State Fault Refusal := .next s.restartHard

end Sys2Proof.Machine
end

