-- ==== Sys2Proof/Machine/Dispatch.lean ====
section
/-! DEFINITION. One arm per command, each one direct call of its meaning. -/

namespace Sys2Proof.Machine

/-- The effect of a command on everything but the queue. -/
def exec (i : Instr) (s : State) : Host.Outcome State Fault Refusal :=
  match i with
  | .powerOn pins => Sys2Proof.Machine.execPowerOn pins s
  | .pinReset pins => Sys2Proof.Machine.execPinReset pins s
  | .gateChange aisle high => Sys2Proof.Machine.execGateChange aisle high s
  | .frameDiscarded link afterType => Sys2Proof.Machine.execFrameDiscarded link afterType s
  | .tgapExpiry link => Sys2Proof.Machine.execTgapExpiry link s
  | .frameSent link moreParts => Sys2Proof.Machine.execFrameSent link moreParts s
  | .enterStore link payload => Sys2Proof.Machine.execEnterStore link payload s
  | .enterRetrieve link payload => Sys2Proof.Machine.execEnterRetrieve link payload s
  | .cancel link payload => Sys2Proof.Machine.execCancel link payload s
  | .resolve link payload => Sys2Proof.Machine.execResolve link payload s
  | .setCell link payload => Sys2Proof.Machine.execSetCell link payload s
  | .setRun link payload => Sys2Proof.Machine.execSetRun link payload s
  | .loadProfile link payload => Sys2Proof.Machine.execLoadProfile link payload s
  | .mapCrane link payload => Sys2Proof.Machine.execMapCrane link payload s
  | .service link payload => Sys2Proof.Machine.execService link payload s
  | .holdAisle link payload => Sys2Proof.Machine.execHoldAisle link payload s
  | .releaseAisle link payload => Sys2Proof.Machine.execReleaseAisle link payload s
  | .openWave link payload => Sys2Proof.Machine.execOpenWave link payload s
  | .closeWave link payload => Sys2Proof.Machine.execCloseWave link payload s
  | .setPolicy link payload => Sys2Proof.Machine.execSetPolicy link payload s
  | .setFaultControl link payload => Sys2Proof.Machine.execSetFaultControl link payload s
  | .clearFault link payload => Sys2Proof.Machine.execClearFault link payload s
  | .clearAisleFault link payload => Sys2Proof.Machine.execClearAisleFault link payload s
  | .queryJob link payload => Sys2Proof.Machine.execQueryJob link payload s
  | .queryPool link payload => Sys2Proof.Machine.execQueryPool link payload s
  | .queryCell link payload => Sys2Proof.Machine.execQueryCell link payload s
  | .queryAisle link payload => Sys2Proof.Machine.execQueryAisle link payload s
  | .queryCrane link payload => Sys2Proof.Machine.execQueryCrane link payload s
  | .queryWave link payload => Sys2Proof.Machine.execQueryWave link payload s
  | .queryFaults link payload => Sys2Proof.Machine.execQueryFaults link payload s
  | .fetch link payload => Sys2Proof.Machine.execFetch link payload s
  | .restart link payload => Sys2Proof.Machine.execRestart link payload s
  | .restartSoft => Sys2Proof.Machine.execRestartSoft s
  | .restartHard => Sys2Proof.Machine.execRestartHard s
  | .arrive payload => Sys2Proof.Machine.execArrive payload s
  | .outputFree payload => Sys2Proof.Machine.execOutputFree payload s
  | .dockTaken payload => Sys2Proof.Machine.execDockTaken payload s
  | .hello crane payload => Sys2Proof.Machine.execHello crane payload s
  | .ask crane payload => Sys2Proof.Machine.execAsk crane payload s
  | .accept crane payload => Sys2Proof.Machine.execAccept crane payload s
  | .refuse crane payload => Sys2Proof.Machine.execRefuse crane payload s
  | .picked crane payload => Sys2Proof.Machine.execPicked crane payload s
  | .dropped crane payload => Sys2Proof.Machine.execDropped crane payload s
  | .cellOccupied crane payload => Sys2Proof.Machine.execCellOccupied crane payload s
  | .cellEmpty crane payload => Sys2Proof.Machine.execCellEmpty crane payload s
  | .pos crane payload => Sys2Proof.Machine.execPos crane payload s
  | .cleared crane payload => Sys2Proof.Machine.execCleared crane payload s
  | .parked crane payload => Sys2Proof.Machine.execParked crane payload s
  | .late crane payload => Sys2Proof.Machine.execLate crane payload s
  | .fault crane payload => Sys2Proof.Machine.execFault crane payload s
  | .recovered crane payload => Sys2Proof.Machine.execRecovered crane payload s
  | .offerTimerExpiry crane => Sys2Proof.Machine.execOfferTimerExpiry crane s
  | .holdBackExpiry crane => Sys2Proof.Machine.execHoldBackExpiry crane s
  | .parkTimerExpiry crane => Sys2Proof.Machine.execParkTimerExpiry crane s
  | .backoffExpiry crane => Sys2Proof.Machine.execBackoffExpiry crane s
  | .stepDeadlineExpiry crane => Sys2Proof.Machine.execStepDeadlineExpiry crane s
  | .agingStep => Sys2Proof.Machine.execAgingStep s
  | .selection crane => Sys2Proof.Machine.execSelection crane s
  | .preemptionCheck job => Sys2Proof.Machine.execPreemptionCheck job s
  | .slotSearch job => Sys2Proof.Machine.execSlotSearch job s
  | .relocationRequest job => Sys2Proof.Machine.execRelocationRequest job s
  | .reEvaluation job => Sys2Proof.Machine.execReEvaluation job s
  | .storeHandOver job source payload => Sys2Proof.Machine.execStoreHandOver job source payload s
  | .closingWaitPlacement link => Sys2Proof.Machine.execClosingWaitPlacement link s
  | .faultReport report => Sys2Proof.Machine.execFaultReport report s
  | .faultSourceSet aisle => Sys2Proof.Machine.execFaultSourceSet aisle s
  | .faultSourceClear aisle => Sys2Proof.Machine.execFaultSourceClear aisle s
  | .byteReceived link byte => Sys2Proof.Machine.execByteReceived link byte s
  | .agingCounterTick => Sys2Proof.Machine.execAgingCounterTick s

end Sys2Proof.Machine
end

