-- ==== Sys2Proof/Machine/Wire.lean ====
section
/-! DEFINITION. The bytes of what the part sends: notice records, the reply header and a FETCH reply's data, and the
station and crane messages, as R195, R196, R200, R203 and R204 lay them out. The data of the other replies has no layout
in the manual and stays named fields (log entry 8). -/

namespace Sys2Proof.Machine

/-- The codes of the results (R203). -/
def Result.code : Result → Nat
  | .ok => 0
  | .badField => 1
  | .noAisle => 2
  | .badCell => 3
  | .busy => 4
  | .tooLarge => 5
  | .poolFull => 6
  | .quota => 7
  | .dupTag => 8
  | .cellNotEmpty => 9
  | .cellTaken => 10
  | .badWave => 11
  | .dupSeq => 12
  | .noSuchJob => 13
  | .notOwner => 14
  | .tooLate => 15
  | .notStranded => 16
  | .notMapped => 17
  | .noStation => 18
  | .stationBusy => 19
  | .tableFull => 20
  | .outOfOrder => 21

/-- The job kinds of JOB_CLOSED (R203). -/
def JobKind.code : JobKind → Nat
  | .store => 0
  | .retrieve => 1
  | .relocate => 2

/-- The outcomes (R203). -/
def JobOutcome.code : JobOutcome → Nat
  | .done => 0
  | .cancelled => 1
  | .rejectedLoad _ => 2
  | .noStock => 3
  | .manual => 4

/-- The reject reasons (R203). -/
def RejectReason.code : RejectReason → Nat
  | .height => 1
  | .weightHigh => 2
  | .weightLow => 3
  | .noFit => 4

/-- The reject reason byte of an outcome: 0 where there is none (R203). -/
def JobOutcome.reasonCode : JobOutcome → Nat
  | .rejectedLoad r => r.code
  | _ => 0

/-- A flag at a bit of a byte. -/
def bit (n : Nat) (b : Bool) : Nat := if b then 2 ^ n else 0

/-- The cell states, coded in the order of R11 (R203). -/
def CellState.code : CellState → Nat
  | .unknown => 0
  | .empty => 1
  | .full _ => 2
  | .inReserved _ => 3
  | .outReserved _ _ => 4
  | .blocked => 5

/-- A finding in bit 7 (R203). -/
def Finding.code : Finding → Nat
  | .occupied => 0
  | .empty => 128

/-- A load class, 0xFF when none (R203). -/
def classByte (k : Option Class) : Nat :=
  match k with
  | some k => k.val
  | none => absentByte

/-- An aisle, 0xFF when none (R195). -/
def aisleByte (a : Option AisleId) : Nat :=
  match a with
  | some a => a.val
  | none => absentByte

/-- The four sources of HOLD_GRANTED (R203). -/
def HoldSources.code (x : HoldSources) : Nat := bit 0 x.gate + bit 1 x.o0 + bit 2 x.o1 + bit 3 x.fault

/-- A fault source (R203). -/
def sourceCode (x : FaultSource) : Nat :=
  match x with
  | .link k => (linkIndex k).val
  | .internal => 15

/-- A fault kind's number, 1..14 (R181). -/
def kindNumber (k : FaultKind) : Nat := (kindIndex k).val + 1

/-- Fill a record with 0 to 14 bytes (R203). -/
def pad14 (bs : List Byte) : List Byte := bs ++ List.replicate (14 - bs.length) 0

/-- A notice record (R203). -/
def encodeNotice (n : Notice) : List Byte :=
  match n with
  | .jobClosed job reference kind outcome overdue cell =>
    pad14 (u8 1 ++ encodeHandle job ++ u32 reference.toNat ++ u8 (kind.code + outcome.code * 4)
      ++ u8 (outcome.reasonCode + bit 7 overdue) ++ encodeCell? cell)
  | .palletMoved job served outcome moved source target =>
    pad14 (u8 2 ++ encodeHandle job ++ encodeHandle served ++ u8 (outcome.code + bit 7 moved) ++ encodeCell source
      ++ encodeCell? target)
  | .cellConflict cell finding state job crane =>
    pad14 (u8 3 ++ encodeCell cell ++ u8 (finding.code + state.code) ++ u8 (classByte state.loadClass)
      ++ encodeHandle job ++ u8 crane.val)
  | .storeRedirected job reference givenUp newCell =>
    pad14 (u8 4 ++ encodeHandle job ++ u32 reference.toNat ++ encodeCell givenUp ++ encodeCell? newCell)
  | .holdGranted aisle sources => pad14 (u8 5 ++ u8 aisle.val ++ u8 sources.code)
  | .profileApplied aisle => pad14 (u8 6 ++ u8 aisle.val)
  | .fault kind severity captured source aisle job further =>
    pad14 (u8 7 ++ u8 (kindNumber kind) ++ u8 (severity.rank + bit 7 captured) ++ u8 (sourceCode source)
      ++ u8 (aisleByte aisle) ++ encodeHandle? job ++ u8 further)

/-- The four-byte header of a reply's part; `more` where further parts follow (R196, R197). -/
def Reply.header (r : Reply) (more : Bool) : List Byte :=
  [r.command] ++ u8 r.result.code ++ u8 (bit 0 r.clamped + bit 1 more) ++ u8 r.part

/-- The data of a FETCH reply: the count returned, the count left, and the records (R200, R203). -/
def fetchBytes (returned left : Nat) (records : List Notice) : List Byte :=
  u8 returned ++ u8 left ++ records.flatMap encodeNotice

/-- PICK 0, DROP 1 (R203). -/
def Action.code : Action → Nat
  | .pick => 0
  | .drop => 1

/-- The kind bits of a place: cell 0 or station 1, then input 0 or output 1 (R203). -/
def Place.kindBits (q : Place) : Nat :=
  match q with
  | .cell _ => 0
  | .station _ output _ => bit 1 true + bit 2 output

/-- The three bytes of a place; a station's bay is 0 or B + 1 (R203). -/
def State.placeBytes (s : State) (q : Place) : List Byte :=
  match q with
  | .cell c => encodeCell c
  | .station a _ e => u8 (a.val * 32 + e.code * 16) ++ u8 (s.parkEnd a e) ++ u8 0

/-- One step of an OFFER or REDIRECT (R203). -/
def State.stepBytes (s : State) (x : Step) : List Byte :=
  u8 (x.action.code + x.place.kindBits) ++ s.placeBytes x.place ++ encodeHandle x.job

/-- The payload of OFFER and REDIRECT (R203). -/
def State.unitBytes (s : State) (n : BitVec 8) (xs : List Step) : List Byte :=
  [n] ++ u8 xs.length ++ xs.flatMap s.stepBytes

/-- The type and payload of a message of the part (R203, R204); a reply's data beyond a FETCH's has no layout. -/
def State.messageBytes (s : State) (m : Message) : Option (Byte × List Byte) :=
  match m with
  | .reply r =>
    match r.data with
    | .nothing => some (Code.reply, r.header false)
    | .fetched returned left records => some (Code.reply, r.header false ++ fetchBytes returned left records)
    | _ => none
  | .taken a e tag => some (Code.taken, u8 a.val ++ u8 e.code ++ u32 tag.toNat)
  | .reject a e tag reason => some (Code.reject, u8 a.val ++ u8 e.code ++ u32 tag.toNat ++ u8 reason.code)
  | .offer n xs => some (Code.offer, s.unitBytes n xs)
  | .redirect n xs => some (Code.redirect, s.unitBytes n xs)
  | .withdraw n keep => some (Code.withdraw, [n] ++ u8 keep)
  | .newDrop job cell => some (Code.newDrop, encodeHandle job ++ encodeCell cell)
  | .standby => some (Code.standby, [])
  | .clear bay => some (Code.clear, u8 bay)
  | .park => some (Code.park, [])
  | .resume => some (Code.resume, [])

end Sys2Proof.Machine
end

