-- ==== Sys2Proof/Safety.lean ====
section
/-! DEFINITION. What the manual's laws and the model's canonical forms ask of a state, what it is to run without a stop, and
the parts of a selection, a preemption check and a search, each from its rule: the terms the statements use. -/

namespace Sys2Proof.Machine

/-- A step or a command goes on to a state. -/
def Goes (o : Host.Outcome State Fault Refusal) (t : State) : Prop := o = .next t

/-- A run of so many steps ends neither in a fault nor in a refusal. -/
def SafeRun (n : Nat) (s : State) : Prop := ∃ t, Host.Core.run Sys2Proof.core n s = .next t

/-- The Cell Map is in canonical form: every aisle's table lists offsets rising, none listed as an unlisted cell. -/
def MapWf (s : State) : Prop := ∀ a : AisleId, tableWf (s.aisle a).cells = true

/-- The aisle's GACK line is asserted exactly while the aisle is HELD (R171). -/
def GackLaw (s : State) : Prop := ∀ a : AisleId, (s.hold a).gack = true ↔ (s.hold a).state = .held

/-- Each notice queue holds at most 32 notices, and its ATTN line is high exactly while it holds one (R199). -/
def QueueLaw (s : State) : Prop :=
  ∀ l : OrderLink, (s.queue l).length ≤ Config.queueCapacity ∧ (s.liu.attn.get l = true ↔ s.queue l ≠ [])

/-- A live job's age steps never exceed 255 (R63). -/
def AgeLaw (s : State) : Prop := ∀ i : Fin 256, ∀ j, (s.slot i).job = some j → j.age ≤ 255

/-- The halt is in force exactly while a kind is unmasked, of severity HALT, with its flag set (R186). -/
def HaltLaw (s : State) : Prop := s.flg.halt = s.haltCondition

/-- The further count lies in 0..255 (R181). -/
def CountLaw (s : State) : Prop := s.flg.further ≤ 255

/-- Every strike count lies in 0..7 (R127). -/
def StrikeLaw (s : State) : Prop := ∀ c : CraneId, (s.crane c).strikes ≤ 7

/-- The wave table holds at most 16 waves (R163). -/
def WaveLaw (s : State) : Prop := s.swu.waves.length ≤ Config.waveCapacity

/-- Every job's handle names its slot and the slot's generation (R37). -/
def HandleLaw (s : State) : Prop :=
  ∀ i : Fin 256, ∀ j, (s.slot i).job = some j → j.handle = { slot := i, gen := (s.slot i).gen }

/-- At most one crane is mapped to each role of an aisle (R125). -/
def RoleLaw (s : State) : Prop := ∀ c : CraneId, ∀ a e, (s.crane c).mapping = some (a, e) → s.craneAt a e = some c

/-- In a double-deep aisle the near cell of a reserved deep cell is EMPTY (R13). -/
def PairLaw (s : State) : Prop :=
  ∀ c : CellAddr, s.isDoubleDeep c.aisle = true → c.depth = .deep → (s.cell c).state.isReserved = true →
    (s.cell (nearOf c)).state = .empty

/-- The free list holds each slot without a job once, and no other (R37). -/
def FreeLaw (s : State) : Prop := s.jpl.freeList.Nodup ∧ ∀ i : Fin 256, i ∈ s.jpl.freeList ↔ (s.slot i).job = none

/-- Each order link's live count is the number of live jobs it entered (R41). -/
def LiveLaw (s : State) : Prop :=
  ∀ l : OrderLink, s.jpl.live.get l = s.jobs.countP fun j => decide (j.origin = .order l)

/-- At most 248 live jobs have an order link as their origin (R40). -/
def ReserveLaw (s : State) : Prop := (s.jobs.countP fun j => decide (j.origin ≠ .internal)) ≤ 248

/-- Each held wave id has one entry, whose live count is the number of live retrieves of the wave, and the entry of a live
retrieve's wave stands (R163 to R165). -/
def WaveLiveLaw (s : State) : Prop :=
  (s.swu.waves.map (·.id)).Nodup
  ∧ (∀ x ∈ s.swu.waves, x.live = s.jobs.countP fun j => decide (j.wave.map (·.id) = some x.id))
  ∧ ∀ j ∈ s.jobs, ∀ w, j.wave = some w → ∃ x ∈ s.swu.waves, x.id = w.id

/-- RAIL_BREACH is never masked and never below AISLE severity (R117, R181). -/
def BreachLaw (s : State) : Prop :=
  (s.faultKind .railBreach).masked = false ∧ (s.faultKind .railBreach).severity ≠ .note

/-- A capture is present only while its kind's status flag is set (R183). -/
def CaptureLaw (s : State) : Prop := ∀ r, s.flg.capture = some r → (s.faultKind r.kind).flag = true

/-- The laws of the cells, the holds, the queues, the cranes, the waves and the job records together. -/
structure Lawful (s : State) : Prop where
  map : MapWf s
  pair : PairLaw s
  gack : GackLaw s
  queue : QueueLaw s
  strike : StrikeLaw s
  wave : WaveLaw s
  age : AgeLaw s
  handle : HandleLaw s
  role : RoleLaw s

/-- The laws of the Fault Log together. -/
structure FaultLawful (s : State) : Prop where
  halt : HaltLaw s
  count : CountLaw s
  breach : BreachLaw s
  capture : CaptureLaw s

/-- The laws of the Job Pool's slots and of its counts together. -/
structure PoolLawful (s : State) : Prop where
  free : FreeLaw s
  live : LiveLaw s
  reserve : ReserveLaw s
  waves : WaveLiveLaw s

/-! ## The laws of the work: reservations, units, redirects -/

/-- The cell a job drops its pallet at, once it has one (R42). -/
def Job.dropCell (j : Job) : Option CellAddr :=
  match j.kind with
  | .store => j.chosen
  | .retrieve => none
  | .relocate => j.target

/-- The cell a job picks its pallet from, once it has one (R42). -/
def Job.sourceCell (j : Job) : Option CellAddr :=
  match j.kind with
  | .store => none
  | .retrieve => j.chosen
  | .relocate => j.chosen

/-- OFFERED, EN_ROUTE or LOADED: the states of a job in a crane's unit (R50). -/
def JobState.atWork (x : JobState) : Bool :=
  match x with
  | .offered | .enRoute | .loaded => true
  | .pending | .ready | .closing => false

/-- The configured aisles together hold at most 32,768 cells (R4). -/
def CapacityLaw (s : State) : Prop :=
  ((List.finRange 8).map fun a => ((s.profile? a).map fun p => p.geo.cellCount).getD 0).sum ≤ Config.cellCapacity

/-- A cell is reserved exactly when one live job holds it: a job not CLOSING holds its drop cell IN_RESERVED unless it is
stranded, and, until it is LOADED, its pick cell OUT_RESERVED, and every reserved cell is so held (R11). -/
def ReservationLaw (s : State) : Prop :=
  (∀ c h, s.hasCell c.aisle c = true → (s.cell c).state = .inReserved h →
      ∃ j, s.job? h = some j ∧ j.state ≠ .closing ∧ j.dropCell = some c)
  ∧ (∀ c h k, s.hasCell c.aisle c = true → (s.cell c).state = .outReserved h k →
      ∃ j, s.job? h = some j ∧ j.state ≠ .closing ∧ j.state ≠ .loaded ∧ j.sourceCell = some c)
  ∧ ∀ j ∈ s.jobs, j.state ≠ .closing →
      (∀ c, j.dropCell = some c → s.hasCell j.aisle c = true
        ∧ (j.stranded = false → (s.cell c).state = .inReserved j.handle))
      ∧ (∀ c, j.sourceCell = some c → s.hasCell j.aisle c = true
        ∧ (j.state ≠ .loaded → ∃ k, (s.cell c).state = .outReserved j.handle k))

/-- A job is OFFERED, EN_ROUTE or LOADED exactly when it belongs to the current unit of exactly one crane, which its record
names (R50). -/
def UnitLaw (s : State) : Prop :=
  (∀ c u, (s.crane c).unit = some u → u.jobs ≠ [] ∧ u.jobs.Nodup ∧ ∀ h ∈ u.jobs, ∃ j, s.job? h = some j
      ∧ j.state.atWork = true ∧ j.unit = some { crane := c, number := u.number })
  ∧ ∀ j ∈ s.jobs, (j.state.atWork = true ↔ j.unit ≠ none)
      ∧ ∀ w, j.unit = some w → ∃ u, (s.crane w.crane).unit = some u ∧ u.number = w.number ∧ j.handle ∈ u.jobs

/-- A crane has a unit exactly while it is OFFERED or WORKING, or FAULTED with a stranded LOADED job; the unit's jobs are
OFFERED at an OFFERED crane and EN_ROUTE or LOADED, at most one of them LOADED, at a WORKING one (R50, R51, R127). -/
def CraneUnitLaw (s : State) : Prop :=
  ∀ c, ((s.crane c).mapping = none → (s.crane c).state = .absent)
    ∧ match (s.crane c).state with
      | .offered => ∃ u, (s.crane c).unit = some u ∧ ∀ h ∈ u.jobs, ∃ j, s.job? h = some j ∧ j.state = .offered
      | .working => ∃ u, (s.crane c).unit = some u ∧ (∀ h ∈ u.jobs, ∃ j, s.job? h = some j ∧ j.state ≠ .offered)
          ∧ ∀ h ∈ u.jobs, ∀ j, s.job? h = some j → j.state = .loaded → ∀ g ∈ u.jobs, ∀ k, s.job? g = some k →
            k.state = .loaded → g = h
      | .faulted => ∀ u, (s.crane c).unit = some u → ∃ h j, u.jobs = [h] ∧ s.job? h = some j ∧ j.state = .loaded
          ∧ j.stranded = true
      | _ => (s.crane c).unit = none

/-- The steps of a job on a crane of an end, by its recorded cells (R29). -/
def Job.allSteps (j : Job) (a : AisleId) (e : End) : List Step :=
  match j.kind with
  | .store => storeSteps a e j
  | .retrieve => retrieveSteps a e j (j.chosen.getD absentCell)
  | .relocate => relocateSteps j

/-- The steps a job has still to make: both until it is LOADED, then its drop (R51, R129). -/
def Job.stepsLeft (j : Job) (a : AisleId) (e : End) : List Step :=
  if j.state = .loaded then (j.allSteps a e).drop 1 else j.allSteps a e

/-- The steps of a unit not yet ended are the steps its jobs have still to make, in the order of its jobs, and a stranded
job's is a drop; a unit holds one job, or a store and a retrieve that name each other as partners (R50, R129). -/
def StepsLaw (s : State) : Prop :=
  ∀ c a e u, (s.crane c).mapping = some (a, e) → (s.crane c).unit = some u →
    1 ≤ u.current
    ∧ ((s.crane c).state = .offered → u.current = 1)
    ∧ ((∀ h ∈ u.jobs, ∀ j, s.job? h = some j → j.stranded = false) →
        u.remaining = (u.jobs.filterMap s.job?).flatMap fun j => j.stepsLeft a e)
    ∧ (∀ h ∈ u.jobs, ∀ j, s.job? h = some j → j.aisle = a
        ∧ (j.stranded = true → u.jobs = [h] ∧ ∃ p, u.remaining = [{ action := .drop, place := p, job := h }]
            ∧ if j.kind = .retrieve then p = .station a true e else ∃ d, p = .cell d ∧ s.hasCell a d = true))
    ∧ (∀ h, u.jobs = [h] → ∀ j, s.job? h = some j → j.partner = none)
    ∧ (∀ g h more, u.jobs = g :: h :: more → more = []
        ∧ (∃ j, s.job? g = some j ∧ j.kind = .store ∧ j.partner = some h)
        ∧ ∃ k, s.job? h = some k ∧ k.kind = .retrieve ∧ k.partner = some g ∧ k.state ≠ .loaded)

/-- A redirect stands at a WORKING crane for a READY job that it promises, and every promise is an outstanding redirect's
(R50, R86). -/
def RedirectLaw (s : State) : Prop :=
  (∀ c r, (s.crane c).redirect = some r → (s.crane c).state = .working ∧ ∃ j, s.job? r.job = some j
      ∧ j.state = .ready ∧ j.promised = some { crane := c, number := r.number }
      ∧ ∀ a e, (s.crane c).mapping = some (a, e) → j.aisle = a ∧ r.steps = j.stepsLeft a e)
  ∧ ∀ j ∈ s.jobs, ∀ w, j.promised = some w → ∃ r, (s.crane w.crane).redirect = some r ∧ r.number = w.number
      ∧ r.job = j.handle

/-- The fields of a job by its kind and state (R42, R46 to R48, R50, R52, R56, R92). -/
def JobLaw (s : State) : Prop :=
  ∀ j ∈ s.jobs,
    s.configured j.aisle = true
    ∧ (j.kind = .retrieve → j.chosen ≠ none → j.state.atWork = true ∨ j.promised ≠ none ∨ j.state = .closing)
    ∧ (j.kind = .retrieve → j.target = none)
    ∧ (j.kind = .retrieve → (j.state.atWork = true ∨ j.promised ≠ none) → j.chosen ≠ none)
    ∧ (j.kind = .store → j.target = none ∧ (j.state.atWork = true ∨ j.state = .ready → j.chosen ≠ none))
    ∧ (j.kind = .store → j.state = .pending → j.chosen = j.destination)
    ∧ (j.kind = .relocate → j.chosen ≠ none ∧ j.target ≠ none ∧ j.state ≠ .pending)
    ∧ (j.stranded = true → j.state = .loaded ∨ j.state = .closing)
    ∧ (j.partner ≠ none → j.state.atWork = true)
    ∧ (j.state = .closing ↔ j.notice ≠ none)
    ∧ (∀ c ∈ j.candidates, s.hasCell j.aisle c = true)

/-- A retrieve is bound for the output station of an end: it is OFFERED, EN_ROUTE or LOADED in the unit of that end's crane,
or promised to its redirect (R161). -/
def State.isBound (s : State) (a : AisleId) (e : End) (j : Job) : Bool :=
  decide (j.kind = .retrieve)
    && ((j.state.atWork && j.unit.any fun u => decide ((s.crane u.crane).mapping = some (a, e)))
      || j.promised.any fun u => decide ((s.crane u.crane).mapping = some (a, e)))

/-- The in-flight count of an output station is the number of live retrieves bound for it (R161). -/
def CreditLaw (s : State) : Prop := ∀ a e, (s.credit a e).inFlight = s.jobs.countP (s.isBound a e)

/-- A retrieve of a wave that is OFFERED, EN_ROUTE or LOADED lies within its wave's window, and so does a READY one, from
which alone it becomes OFFERED (R165). -/
def WindowLaw (s : State) : Prop :=
  ∀ j ∈ s.jobs, j.kind = .retrieve → (j.state = .ready ∨ j.state.atWork = true) → s.inWindow j = true

/-- The laws of reservations, units and redirects, of output credits and of wave windows together. -/
structure WorkLawful (s : State) : Prop where
  reservation : ReservationLaw s
  unit : UnitLaw s
  crane : CraneUnitLaw s
  steps : StepsLaw s
  redirect : RedirectLaw s
  job : JobLaw s
  credit : CreditLaw s
  window : WindowLaw s

/-! ## The laws of the rail -/

/-- The law of the gap is suspended in an aisle: its fault hold stands with RAIL_BREACH among its kinds, or a RAIL_BREACH
raised for it has not yet reached the Fault Log (R117). -/
def State.gapSuspended (s : State) (a : AisleId) : Prop :=
  (.railBreach ∈ (s.faultHold a).kinds ∧ (s.faultHold a).isSet = true)
    ∨ ∃ r : FaultReport, .faultReport r ∈ s.events ∧ r.kind = .railBreach ∧ r.aisle = some a

/-- The table of a tandem aisle is in order: the intervals keep the gap (R110), and each covers its crane's bay, the places
of the steps its crane has still to make, and its clear target or park end (R109, R113 to R115). -/
def State.railOrdered (s : State) (a : AisleId) (r : PerEnd RailEntry) : Prop :=
  keepsGap (s.gap a) .front r.front.granted r.rear.granted = true
  ∧ ∀ e, (s.craneAt a e = none → (r.get e).granted = .at (s.parkEnd a e))
    ∧ ∀ c, s.craneAt a e = some c →
      (r.get e).granted.holds (s.craneBay c) = true ∧ s.craneBay c ≤ s.parkEnd a .rear
      ∧ ((s.crane c).state = .absent → (r.get e).granted = .at (s.parkEnd a e))
      ∧ ((s.crane c).state = .waiting → (r.get e).granted = .at (s.craneBay c))
      ∧ ((s.crane c).state = .parking → (r.get e).granted.holds (s.parkEnd a e) = true)
      ∧ (∀ b ∈ s.stepBays ((s.crane c).remaining ++ (s.crane c).redirectSteps), (r.get e).granted.holds b = true)
      ∧ (∀ k, (r.get e).clear = some k → (s.crane c).state = .clearing ∧ (r.get e).granted.holds k.target = true)

/-- An aisle has a table exactly when it is TANDEM; a clear target stands exactly at a CLEARING crane; and the table is in
order wherever the law of the gap is not suspended (R109, R110, R117). -/
structure RailLawful (s : State) : Prop where
  table : ∀ a, (s.rail a).isSome = s.isTandem a
  ordered : ∀ a r, s.rail a = some r → s.gapSuspended a ∨ s.railOrdered a r

/-- The command or event the next step takes. -/
def State.nextCommand (s : State) : Option Instr := (s.pending ++ s.events).head?

/-! ## What commands ask for -/

/-- The value the last entry naming a setting gives it, if any names it (R202). -/
def lastEntry (es : List (Nat × Nat)) (n : Nat) : Option Nat := (es.reverse.find? fun e => decide (e.1 = n)).map (·.2)

/-- A crane's work ends: to OUT_OF_SERVICE where its leave-service flag is set, to PARKING where it is owed a PARK, else
to IDLE (R128, R173). -/
def State.afterWork (s : State) (c : CraneId) : CraneState :=
  if (s.crane c).leaveService then .outOfService else if s.parkOwed c then .parking else .idle

/-- A crane that may not work goes to OUT_OF_SERVICE, PARKING or IDLE: by its leave-service flag, then by its aisle's
hold (R128, R131, R146). -/
def State.afterReturn (s : State) (c : CraneId) : CraneState :=
  if (s.crane c).leaveService then .outOfService else if s.aisleStopped c then .parking else .idle

/-- A fault raised by a crane's message or timer: the crane's link as source, and its aisle (R182). -/
def State.craneReported (s : State) (k : FaultKind) (c : CraneId) (j : Option Handle) (p : List Byte) : Instr :=
  .faultReport { kind := k, source := .link (.crane c), aisle := s.craneAisle c, job := j, payload := p.take 16 }

/-- An interval that falls to the hull of a bay and further bays; it stands where the bay lies outside it (R114 to R116,
R119; log entry 32). -/
def Interval.fallen (i : Interval) (bay : Nat) (bs : List Nat) : Interval := if i.holds bay then hull bay bs else i

/-- The interval of a crane that goes to a state: widened to its park end where it is sent PARK (R113, R144). -/
def State.parkWidened (s : State) (c : CraneId) (x : CraneState) (i : Interval) : Interval :=
  match x, (s.crane c).mapping with
  | .parking, some (a, e) => i.join (.at (s.parkEnd a e))
  | _, _ => i

/-- In a tandem aisle a crane's granted interval has become what `f` makes of it. -/
def IntervalIs (s t : State) (c : CraneId) (f : Interval → Interval) : Prop :=
  (t.entry c).map (·.granted) = (s.entry c).map fun r => f r.granted

/-- The rail tables after an event that has moved one crane's interval alone: it has fallen as `fall` says, with selections
for the WAITING cranes of its aisle where that changed it (R68, R114, R115), and has then been widened as `widen` says
(R113). -/
def IntervalMoves (s t : State) (a : AisleId) (e : End) (fall widen : Interval → Interval) : Prop :=
  (∀ r, s.rail a = some r →
      t.rail a = some (r.set e { r.get e with granted := widen (fall (r.get e).granted) })
      ∧ (fall (r.get e).granted ≠ (r.get e).granted →
          ∀ d ∈ s.cranesOf a, (s.crane d).state = .waiting → .selection d ∈ t.events))
  ∧ (s.rail a = none → t.rail a = none) ∧ ∀ b, b ≠ a → t.rail b = s.rail b

/-- A report of a crane's bay from outside its interval has raised RAIL_BREACH (R116). -/
def BreachRaised (s t : State) (c : CraneId) (bay : Nat) (j : Option Handle) (p : List Byte) : Prop :=
  ∀ r, s.entry c = some r → r.granted.holds bay = false → s.craneReported .railBreach c j p ∈ t.events

/-- The record of an order link's job after it has closed with an outcome in an event that placed no other notice in
its link's queue: gone, with its notice at the queue's tail, or, where the queue is full, CLOSING at the tail of the
closing wait list (R56, R58). -/
def Closed (s t : State) (l : OrderLink) (j : Job) (o : JobOutcome) (cell : Option CellAddr) : Prop :=
  if s.hasRoom l then
    t.job? j.handle = none
      ∧ t.queue l = s.queue l ++ [.jobClosed j.handle j.reference j.kind o j.overdue cell]
  else
    (∃ k, t.job? j.handle = some k ∧ k.state = .closing ∧ k.outcome = some o)
      ∧ t.queue l = s.queue l ∧ t.jpl.closingWait.get l = s.jpl.closingWait.get l ++ [j.handle]

/-! ## Taking a command -/

/-- A link takes the next command: no restart waits and fewer than four replies wait on it (R196, R201). -/
def Hears (s : State) (k : Link) : Prop := s.liu.restarting = none ∧ s.waitingReplies k < Config.replyLimit

/-- The state in which a command's block finds the part: the command is spent and its link active (R198). -/
def State.heard (s : State) (i : Instr) (k : Link) : State := (s.take i).activate k

/-- The state with one reply more behind the frames that wait on a link (R196). -/
def State.replied (s : State) (k : Link) (r : Reply) : State := s.setTx k (s.tx k ++ [.reply r])

/-- An accepting reply. -/
def okReply (code : Byte) (clamped : Bool) (data : ReplyData) : Reply :=
  { command := code, result := .ok, clamped := clamped, part := 0, data := data }

/-- A refusing reply. -/
def refusal (code : Byte) (result : Result) : Reply :=
  { command := code, result := result, clamped := false, part := 0, data := .nothing }

/-- The state in which a command has been refused: it is spent, its link active, and its reply waits. -/
def State.refused (s : State) (i : Instr) (k : Link) (code : Byte) (r : Result) : State :=
  (s.heard i k).replied k (refusal code r)

/-- The state in which a command has been answered OK, before any effect on its block. -/
def State.answered (s : State) (i : Instr) (k : Link) (code : Byte) (clamped : Bool) (d : ReplyData) : State :=
  (s.heard i k).replied k (okReply code clamped d)

/-- Selections for the WAITING cranes of an aisle (R68). -/
def State.wakes (s : State) (a : AisleId) : List Instr :=
  ((s.cranesOf a).filter fun c => decide ((s.crane c).state = .waiting)).map .selection

/-- The nineteen settings of SET POLICY with the least and the greatest value of each; a row of greatest value 1 is
enumerated (R202). -/
def settingRows : List (Nat × Nat × Nat) :=
  [(1, 1, 248), (2, 1, 248), (3, 0, 1), (4, 0, 65535), (5, 0, 4095), (6, 0, 1000000), (7, 0, 1000000),
    (8, 0, 1000000), (9, 0, 1000000), (10, 0, 60000), (11, 0, 20000), (12, 0, 1), (13, 0, 1), (14, 200, 10000),
    (15, 10000, 600000), (16, 1000, 600000), (17, 100, 400), (18, 1, 7), (19, 0, 1)]

/-- The record of a cell once a job has given up its reservation there (R15). -/
def Cell.releasedBy (x : Cell) (h : Handle) : Cell :=
  match x.state with
  | .inReserved g => if g = h then { x with state := .empty } else x
  | .outReserved g k => if g = h then { x with state := .full k } else x
  | _ => x

/-- What the cancelling of relocation `r` with the retrieve `q` it serves has done (R57, R58, R99): its PALLET_MOVED is in
the queues and the job gone, where there was room, and else it is CLOSING CANCELLED; its cells are released; a crane whose
unit it was has been sent WITHDRAW with keep 0 and has gone on without a strike; and a redirect promised to it has been
withdrawn (log entry 27). -/
def RelocationCancelled (s t : State) (q r : Job) : Prop :=
  ((∀ l, (s.queue l).length + 2 < Config.queueCapacity) → t.job? r.handle = none
      ∧ ∀ l, s.liu.active.get l = true →
          .palletMoved r.handle q.handle .cancelled false (r.chosen.getD absentCell) none ∈ t.queue l)
  ∧ (∀ k, t.job? r.handle = some k → k.state = .closing ∧ k.outcome = some .cancelled)
  ∧ (∀ c k, r.chosen = some c → (s.cell c).state = .outReserved r.handle k → (t.cell c).state = .full k)
  ∧ (∀ c, r.target = some c → (s.cell c).state = .inReserved r.handle → (t.cell c).state = .empty)
  ∧ (∀ u w, r.unit = some u → (s.crane u.crane).unit = some w →
      .withdraw w.number 0 ∈ (t.tx (.crane u.crane)).drop (s.tx (.crane u.crane)).length
        ∧ (t.crane u.crane).unit = none ∧ (t.crane u.crane).state = s.afterWork u.crane
        ∧ (t.crane u.crane).strikes = (s.crane u.crane).strikes)
  ∧ ∀ u x, r.promised = some u → (s.crane u.crane).redirect = some x →
      .withdraw x.number 0 ∈ (t.tx (.crane u.crane)).drop (s.tx (.crane u.crane)).length
        ∧ (t.crane u.crane).redirect = none

/-- What a relocated pallet's move from `src` to `dst` has done to the other live jobs, but those that hold the source for
their own drop: a retrieve has the target in the source's place of its list, first occurrences kept, and a job stranded at
the source has the target for its cell (R98, R105; log entries 21 and 47). `q` is the served retrieve, evaluated anew. -/
def Rewritten (s t : State) (h : Handle) (q : Option Handle) (src dst : CellAddr) : Prop :=
  ∀ g k, g ≠ h → some g ≠ q → s.job? g = some k → k.state ≠ .closing → (s.cell src).state ≠ .inReserved g →
    (k.kind = .retrieve → ∃ k', t.job? g = some k'
      ∧ k'.candidates = firstsOnly [] (k.candidates.map fun c => if c = src then dst else c))
    ∧ (k.kind = .store → k.stranded = true → k.chosen = some src → ∃ k', t.job? g = some k' ∧ k'.chosen = some dst
        ∧ (k.destination = some src → k'.destination = some dst))
    ∧ (k.kind = .relocate → k.stranded = true → k.target = some src → ∃ k', t.job? g = some k' ∧ k'.target = some dst)

/-- A source command of an aisle, with what it makes of the aisle's sources (R169, R170). -/
def sourceChange (i : Instr) : Option (AisleId × (HoldSources → HoldSources)) :=
  match i with
  | .gateChange a high => some (a, fun x => { x with gate := !high })
  | .faultSourceSet a => some (a, fun x => { x with fault := true })
  | .faultSourceClear a => some (a, fun x => { x with fault := false })
  | .holdAisle l [b] => (aisleOf b.toNat).map fun a => (a, fun x => x.setLink l true)
  | .releaseAisle l [b] => (aisleOf b.toNat).map fun a => (a, fun x => x.setLink l false)
  | _ => none

/-- A crane that may not stay at work in a drained aisle: the state a drain takes it to (R172, R128). -/
def Crane.afterDrain (x : Crane) : CraneState := if x.leaveService then .outOfService else .parking

/-- What an evaluation makes of a retrieve with candidates left: its state, its reason, and the event it raises for an
aisle's cranes or the Allotment Engine (R48 steps 2 to 6, R68, R85). -/
def State.evaluated (s : State) (j : Job) (cs : List CellAddr) : JobState × Option PendingReason × List Instr :=
  if s.inWindow j = false then (.pending, some .waveWindow, [])
  else if ∃ c ∈ cs, s.jobStatus c = .available then
    (.ready, none,
      if j.state = .ready then [] else s.wakes j.aisle ++ (if j.cls = 0 then [.preemptionCheck j.handle] else []))
  else if j.waitsFor ≠ none then (.pending, some .relocating, [])
  else (.pending, some .noCandidate,
    if ∃ c ∈ cs, s.jobStatus c = .blocked then [.relocationRequest j.handle] else [])

/-- A pallet matched to a store at a station has been judged by the load check, in the event of a link's command (R47,
R156 to R158): accepted for its fixed cell, sent to a slot search, with STORE_REDIRECTED where it gives up a fixed cell that
does not fit, or rejected, giving up the fixed cell it held. -/
def Judged (s t : State) (j : Job) (q : Profile) (a : AisleId) (e : End) (x : Pallet) (k : Link) (p : List Byte) :
    Verdict → Prop
  | .rejected r =>
    t.input a e = .empty
      ∧ .faultReport { kind := .loadRejected, source := .link k, aisle := some a, job := some j.handle,
                       payload := p.take 16 } ∈ t.events
      ∧ ((loadTest q.op x.height x.weight = .error r)
          ∨ ∃ y c, loadTest q.op x.height x.weight = .ok y ∧ j.destination = some c ∧ (s.fit c).val < y.val
              ∧ j.redirectAllowed = false ∧ r = .noFit)
      ∧ (∀ l, j.origin = .order l → Closed s t l j (.rejectedLoad r) none)
      ∧ (∀ c, j.chosen = some c → MapWf s → t.cell c = (s.cell c).releasedBy j.handle)
  | .passed =>
    t.input a e = .matched x j.handle
      ∧ ∃ y, loadTest q.op x.height x.weight = .ok y
        ∧ (∀ c, j.destination = some c → y.val ≤ (s.fit c).val →
            t.job? j.handle = some { j with
              load := some { height := x.height, weight := x.weight, cls := some y }, state := .ready, reason := none })
        ∧ (j.destination = none ∨ (∃ c, j.destination = some c ∧ (s.fit c).val < y.val) →
            .slotSearch j.handle ∈ t.events ∧ (j.destination ≠ none → j.redirectAllowed = true)
            ∧ t.job? j.handle = some { j with
                load := some { height := x.height, weight := x.weight, cls := some y }, reason := none,
                destination := none, chosen := if j.destination = none then j.chosen else none })
        ∧ (∀ c, j.destination = some c → (s.fit c).val < y.val →
            (MapWf s → ∀ b, t.cell b = if b = c then (s.cell b).releasedBy j.handle else s.cell b)
            ∧ ∀ l, j.origin = .order l → t.queue l = s.queue l ++
                (if (s.queue l).length < 32 then [.storeRedirected j.handle j.reference c none] else []))
        ∧ (j.destination = none → t.cmp = s.cmp ∧ t.liu.queue = s.liu.queue)

/-- A frame discarded: the receiver hunts, no silence of the frame is owed an expiry, and one LINK_FRAME is raised
with the first sixteen of the bytes received after the type byte (R182, R194). -/
def State.frameLost (s : State) (k : Link) (bytes : List Byte) : State :=
  { s.setRx k .hunting with
    events := s.events.filter (· ≠ .tgapExpiry k) ++
      [.faultReport { kind := .linkFrame, source := .link k, aisle := s.linkAisle k, job := none,
                      payload := bytes.take Config.faultPayload }] }

/-- The part takes the messages of a crane: no restart waits, and the crane is mapped and has announced itself (R126,
R201). -/
def Announced (s : State) (c : CraneId) : Prop :=
  s.liu.restarting = none ∧ (s.crane c).mapping ≠ none ∧ (s.crane c).state ≠ .absent

/-! ## What a selection weighs, as R27 to R32 and R70 to R78 put it -/

/-- The status of a candidate cell by the tests of R71. -/
def CandidateTests (s : State) : Prop :=
  ∀ x : CellAddr,
    ((s.cell x).state = .empty → s.status x = .gone)
    ∧ ((s.cell x).state = .unknown ∨ (s.cell x).state = .blocked → s.status x = .unsure)
    ∧ ((s.cell x).state.isReserved = true → s.status x = .taken)
    ∧ ((s.cell x).state.isFull = true → x.depth = .near → s.status x = .available)
    ∧ ((s.cell x).state.isFull = true → x.depth = .deep →
        ((s.cell (nearOf x)).state.isReserved = true → s.status x = .taken)
        ∧ ((s.cell (nearOf x)).state = .empty → s.status x = .available)
        ∧ ((s.cell (nearOf x)).state.isFull = true → s.status x = .blocked)
        ∧ ((s.cell (nearOf x)).state = .unknown ∨ (s.cell (nearOf x)).state = .blocked → s.status x = .unsure))

/-- A job is eligible for a selection exactly where the conditions of R70 hold, the available credit being the reported
free count less the in-flight count (R160). -/
def EligibilityTests (s : State) (a : AisleId) (e : End) : Prop :=
  ∀ j, s.eligible a e j = true ↔
    j.state = .ready ∧ j.promised = none ∧ j.aisle = a
    ∧ (j.kind = .store → j.end_ = jobEnd e)
    ∧ (j.kind = .retrieve → (j.end_ = jobEnd e ∨ j.end_ = .either) ∧ (∃ x ∈ j.candidates, s.status x = .available)
        ∧ (s.credit a e).inFlight < (s.credit a e).reportedFree)

/-- The greater age first, and of equal ages the lower entry order (R73, R78). -/
def Job.precedes (i j : Job) : Prop := j.age < i.age ∨ (i.age = j.age ∧ i.entryOrder < j.entryOrder)

/-- The window holds the first 32 eligible jobs, or all where there are no more, in R73's ranking. -/
def WindowTests (s : State) (a : AisleId) (e : End) : Prop :=
  (∀ j ∈ s.window a e, j ∈ s.jobs ∧ s.eligible a e j = true)
  ∧ (s.window a e).length = min 32 (s.jobs.countP (s.eligible a e))
  ∧ (s.window a e).Pairwise (fun i j => ¬ j.precedes i)
  ∧ ∀ i ∈ s.window a e, ∀ j ∈ s.jobs, s.eligible a e j = true → j ∉ s.window a e → ¬ j.precedes i

/-- The unit time: the moves and handlings of the stops in order, from the crane's point, with the closing leg behind a
last stop at a cell, at most 16,777,215; a move takes the longer of its two axis times, and a stop the handling of its
place (R24, R27, R28, R30 to R32). -/
def TimeTests (p : Profile) (e : End) : Prop :=
  (∀ d : CellAddr, p.geo.placePoint (.cell d) = { bay := d.bay, level := d.level })
  ∧ (∀ a i f, p.geo.placePoint (.station a i f) = { bay := if f = .front then 0 else p.geo.bays + 1, level := 0 })
  ∧ (∀ x y, moveTime p.op x y = max (axisTime (distance x.bay y.bay) p.op.px p.op.vx p.op.ax)
      (axisTime (distance x.level y.level) p.op.py p.op.vy p.op.ay))
  ∧ (∀ a i f, handling p.op (.station a i f) = p.op.hStation)
  ∧ (∀ d : CellAddr, handling p.op (.cell d) = if d.depth = .deep then p.op.hDeep else p.op.hNear)
  ∧ (∀ x q r,
      let at_ := p.geo.placePoint
      let closing := match r with
        | Place.cell d => moveTime p.op (at_ (.cell d)) (p.geo.stationPoint e)
        | Place.station _ _ _ => 0
      unitTime p x e [q, r] = min 16777215
        (moveTime p.op x (at_ q) + handling p.op q + moveTime p.op (at_ q) (at_ r) + handling p.op r + closing))
  ∧ (∀ x q r y a i f,
      let at_ := p.geo.placePoint
      unitTime p x e [q, r, y, .station a i f] = min 16777215
        (moveTime p.op x (at_ q) + handling p.op q + moveTime p.op (at_ q) (at_ r) + handling p.op r
          + moveTime p.op (at_ r) (at_ y) + handling p.op y + moveTime p.op (at_ y) (at_ (.station a i f))
          + handling p.op (.station a i f)))

/-- The steps of a store from an end's input station to its drop cell (R29). -/
def StoreRun (a : AisleId) (e : End) (h : Handle) (d : CellAddr) : List Step :=
  [{ action := .pick, place := .station a false e, job := h }, { action := .drop, place := .cell d, job := h }]

/-- The steps of a retrieve from a cell to an end's output station (R29). -/
def RetrieveRun (a : AisleId) (e : End) (h : Handle) (d : CellAddr) : List Step :=
  [{ action := .pick, place := .cell d, job := h }, { action := .drop, place := .station a true e, job := h }]

/-- The candidate of a unit that ends with a retrieve, behind the steps `first`: AVAILABLE, of the lowest unit time, and
before every other of that time in the retrieve's list (R74, R75). -/
def LeastCandidate (s : State) (p : Profile) (x : Point) (a : AisleId) (e : End) (first : List Step) (q : Job)
    (d : CellAddr) : Prop :=
  let time := fun c => unitTime p x e ((first ++ RetrieveRun a e q.handle c).map (·.place))
  d ∈ q.candidates ∧ s.status d = .available
  ∧ ∀ c ∈ q.candidates, s.status c = .available →
      time d ≤ time c ∧ (q.candidates.idxOf c < q.candidates.idxOf d → time d < time c)

/-- The steps and the candidate of a job's single unit for a crane of an end at a point (R29, R74). -/
def SingleUnit (s : State) (p : Profile) (x : Point) (a : AisleId) (e : End) (j : Job) (u : Proposal) : Prop :=
  u.jobs = [j]
  ∧ match j.kind with
    | .store => ∃ d, j.chosen = some d ∧ u.pick = none ∧ u.steps = StoreRun a e j.handle d
    | .relocate => ∃ d f, j.chosen = some d ∧ j.target = some f ∧ u.pick = none
        ∧ u.steps = [{ action := .pick, place := .cell d, job := j.handle },
          { action := .drop, place := .cell f, job := j.handle }]
    | .retrieve => ∃ d, u.pick = some d ∧ u.steps = RetrieveRun a e j.handle d ∧ LeastCandidate s p x a e [] j d

/-- The units a selection forms: one of each job of its window, and, while pairing is enabled, one of each of the window's
first four stores with each of its retrieves (R29, R74, R75). -/
def UnitTests (s : State) (c : CraneId) (p : Profile) (a : AisleId) (e : End) : Prop :=
  ∀ u, u ∈ s.proposals c p a e ↔
    u.time = unitTime p (s.cranePoint c) e (u.steps.map (·.place))
    ∧ ((∃ j ∈ s.window a e, SingleUnit s p (s.cranePoint c) a e j u)
      ∨ (s.ale.pairing = true ∧ ∃ j ∈ ((s.window a e).filter fun j => decide (j.kind = .store)).take 4,
          ∃ q ∈ s.window a e, ∃ f d, q.kind = .retrieve ∧ j.chosen = some f ∧ u.jobs = [j, q] ∧ u.pick = some d
          ∧ u.steps = StoreRun a e j.handle f ++ RetrieveRun a e q.handle d
          ∧ LeastCandidate s p (s.cranePoint c) a e (StoreRun a e j.handle f) q d))

/-- The score of a unit: its unit time divided by its jobs, rounded down, and the least urgency of its jobs, each its
class offset less its age steps times the aging weight; raised to 0 or lowered to 16,777,215 (R77). -/
def ScoreTests (s : State) : Prop :=
  let urg := fun j : Job => (s.ale.offsets[j.cls] : Int) - (j.age : Int) * (s.jpl.weight : Int)
  let clamped := fun z : Int => max 0 (min 16777215 z)
  (∀ u j, u.jobs = [j] → (s.score u : Int) = clamped (u.time + urg j))
  ∧ ∀ u i j, u.jobs = [i, j] → (s.score u : Int) = clamped ((u.time / 2 : Nat) + min (urg i) (urg j))

/-- The oldest job of a unit; of two jobs equal by R78 the first, which the model chooses (log entry 67). -/
def Proposal.hasOldest (u : Proposal) (i : Job) : Prop :=
  i ∈ u.jobs ∧ ∀ k ∈ u.jobs, k ≠ i → i.precedes k ∨ (¬ k.precedes i ∧ u.jobs.head? = some i)

/-- Of two units one ranks before the other exactly where it has the lower score, or an equal one and R78's tests, in
their order, decide for it. -/
def RankTests (s : State) (us : List Proposal) : Prop :=
  ∀ u ∈ us, ∀ v ∈ us, ∀ i j, u.hasOldest i → v.hasOldest j →
    (keyLt (s.unitRank u) (s.unitRank v) = true ↔
      s.score u < s.score v ∨ (s.score u = s.score v
        ∧ (i.precedes j ∨ (i.age = j.age ∧ i.entryOrder = j.entryOrder
          ∧ (v.jobs.length < u.jobs.length ∨ (u.jobs.length = v.jobs.length
            ∧ ((i = j ∧ ∃ m ∈ u.jobs, ∃ n ∈ v.jobs, m ≠ i ∧ n ≠ j ∧ m.entryOrder < n.entryOrder)
              ∨ i.handle.slot < j.handle.slot)))))))

/-- A proposed interval for the crane of an end keeps the gap against the other crane's entry: its granted interval, widened
by any claim (R110, R112). -/
def KeepsGapFrom (gap : Nat) (e : End) (i : Interval) (o : RailEntry) : Prop :=
  match e with
  | .front => i.hi + gap < o.claim.elim o.granted.lo fun k => min o.granted.lo k.lo
  | .rear => (o.claim.elim o.granted.hi fun k => max o.granted.hi k.hi) + gap < i.lo

/-- The hull of a unit is the least range over the crane's bay and the bay of every stop; its verdict is `clear` in an
aisle without a table, and where it keeps the gap against the other crane's interval, widened by a claim; else `dropped`
where that crane holds a claim or is neither IDLE nor WAITING; else `needs` the clear target, or `dropped` where that lies
outside its bound (R76, R110, R112). -/
def VerdictTests (s : State) (c : CraneId) (p : Profile) (a : AisleId) (e : End) : Prop :=
  (∀ xs, (∀ b ∈ s.craneBay c :: s.stepBays xs, (s.unitHull c xs).lo ≤ b ∧ b ≤ (s.unitHull c xs).hi)
    ∧ (s.unitHull c xs).lo ∈ s.craneBay c :: s.stepBays xs ∧ (s.unitHull c xs).hi ∈ s.craneBay c :: s.stepBays xs)
  ∧ ∀ h : Interval, (s.rail a = none → s.railVerdict p a e h = .clear)
    ∧ ∀ r o, s.rail a = some r → o = r.get (otherEnd e) →
      let keeps := KeepsGapFrom p.op.gap e h o
      let movable := o.claim = none
        ∧ ∃ d, s.craneAt a (otherEnd e) = some d ∧ ((s.crane d).state = .idle ∨ (s.crane d).state = .waiting)
      (keeps → s.railVerdict p a e h = .clear)
      ∧ (¬ keeps → ¬ movable → s.railVerdict p a e h = .dropped)
      ∧ (¬ keeps → movable → e = .front → s.railVerdict p a e h =
          if h.hi + p.op.gap + 1 ≤ p.geo.bays + 1 then .needs (h.hi + p.op.gap + 1) else .dropped)
      ∧ (¬ keeps → movable → e = .rear → s.railVerdict p a e h =
          if p.op.gap + 1 ≤ h.lo then .needs (h.lo - p.op.gap - 1) else .dropped)

/-! ## What a preemption check weighs, as R85 and R86 put it -/

/-- A job's cranes, FRONT first: the crane of its end, or either crane of its aisle for a retrieve of end EITHER and for a
relocation (R85). -/
def CraneTests (s : State) (j : Job) : Prop :=
  s.jobCranes j = (([End.front, End.rear].filter fun e =>
    decide (j.kind = .relocate ∨ j.end_ = .either ∨ j.end_ = jobEnd e)).filterMap (s.craneAt j.aisle))

/-- A crane is a target for a job exactly where every condition of R85 holds, with the single unit of the job formed from
where the crane stands; in a tandem aisle the hull of the crane's bay, its remaining steps and the new unit's must keep the
gap (R86). -/
def PreemptionTests (s : State) (j : Job) : Prop :=
  ∀ c d u, s.preemptionTarget j c = some (d, u) ↔ d = c ∧ ∃ a e p, (s.crane c).mapping = some (a, e)
    ∧ s.profile? a = some p ∧ (s.crane c).state = .working
    ∧ (∀ h ∈ (s.crane c).jobs, ∀ k, s.job? h = some k → k.state ≠ .loaded ∧ 2 ≤ k.cls.val)
    ∧ (s.crane c).redirect = none ∧ (s.crane c).leaveService = false
    ∧ (j.kind = .retrieve → (s.credit a e).inFlight < (s.credit a e).reportedFree)
    ∧ u.time = unitTime p (s.cranePoint c) e (u.steps.map (·.place)) ∧ SingleUnit s p (s.cranePoint c) a e j u
    ∧ ∀ r, s.rail a = some r → KeepsGapFrom p.op.gap e
        (hull (s.craneBay c) (s.stepBays ((s.crane c).remaining ++ u.steps))) (r.get (otherEnd e))

/-! ## What a search weighs, as R34 to R36, R83, R92 and R104 put it -/

/-- A cell of an aisle (R4). -/
def Geometry.InAisle (g : Geometry) (a : AisleId) (c : CellAddr) : Prop :=
  c.aisle = a ∧ 1 ≤ c.bay ∧ c.bay ≤ g.bays ∧ 1 ≤ c.level ∧ c.level ≤ g.levels ∧ (c.depth = .deep → g.doubleDeep = true)

/-- The tests of R83 and R92 on a cell, for a pallet of a class, by the records `cells`: EMPTY, unflagged, of sufficient
fit, and in a double-deep aisle a deep cell behind an EMPTY near cell, or a near cell before a FULL or BLOCKED deep one. -/
def Geometry.Admits (g : Geometry) (cells : CellAddr → Cell) (k : Sys2Proof.Class) (c : CellAddr) : Prop :=
  (cells c).state = .empty ∧ (cells c).conflict = false ∧ k.val ≤ (g.fit c.level).val
  ∧ (g.doubleDeep = true →
      (c.depth = .deep → (cells (nearOf c)).state = .empty)
      ∧ (c.depth = .near → (∃ x, (cells (deepOf c)).state = .full x) ∨ (cells (deepOf c)).state = .blocked))

/-- The key of a cell: the move time from the origin, the handling time by its depth, and the waste setting for each class
step of its fit above the pallet's class, at most 16,777,215 (R27, R28, R32, R34). -/
def keyOf (p : Profile) (waste : Nat) (x : Point) (k : Sys2Proof.Class) (c : CellAddr) : Nat :=
  min 16777215
    (max (axisTime (distance x.bay c.bay) p.op.px p.op.vx p.op.ax)
        (axisTime (distance x.level c.level) p.op.py p.op.vy p.op.ay)
      + (if c.depth = .deep then p.op.hDeep else p.op.hNear) + waste * ((p.geo.fit c.level).val - k.val))

/-- Side L before side R, and on one side depth D before depth N (R35, R36). -/
def FirstBySide (c d : CellAddr) : Prop :=
  (c.side = .left ∧ d.side = .right) ∨ (c.side = d.side ∧ c.depth = .deep ∧ d.depth = .near)

/-- A slot search ranks one cell before another: the lower key, or by R35's tests in their order, for a store of an
end. -/
def SlotBefore (p : Profile) (waste : Nat) (x : Point) (k : Sys2Proof.Class) (e : End) (c d : CellAddr) : Prop :=
  keyOf p waste x k c < keyOf p waste x k d ∨ (keyOf p waste x k c = keyOf p waste x k d
    ∧ (c.level < d.level ∨ (c.level = d.level
      ∧ ((match e with
          | .front => c.bay < d.bay
          | .rear => d.bay < c.bay) ∨ (c.bay = d.bay ∧ FirstBySide c d)))))

/-- A target search ranks one cell before another: the lower key, or by R36's tests in their order. -/
def TargetBefore (p : Profile) (waste : Nat) (x : Point) (k : Sys2Proof.Class) (c d : CellAddr) : Prop :=
  keyOf p waste x k c < keyOf p waste x k d ∨ (keyOf p waste x k c = keyOf p waste x k d
    ∧ (c.level < d.level ∨ (c.level = d.level
      ∧ (distance c.bay x.bay < distance d.bay x.bay ∨ (distance c.bay x.bay = distance d.bay x.bay
        ∧ (c.bay < d.bay ∨ (c.bay = d.bay ∧ FirstBySide c d)))))))

/-- A cell a slot search admits in an aisle (R83). -/
def SlotCell (p : Profile) (cells : CellAddr → Cell) (a : AisleId) (k : Sys2Proof.Class) (c : CellAddr) : Prop :=
  p.geo.InAisle a c ∧ p.geo.Admits cells k c

/-- A cell a target search admits: of the source's aisle, within the relocation window W about its bay, and neither the
source nor the deep cell behind it (R92). -/
def TargetCell (p : Profile) (cells : CellAddr → Cell) (source : CellAddr) (k : Sys2Proof.Class) (c : CellAddr) : Prop :=
  p.geo.InAisle source.aisle c ∧ source.bay ≤ c.bay + p.op.window ∧ c.bay ≤ source.bay + p.op.window
  ∧ p.geo.Admits cells k c ∧ c ≠ source ∧ c ≠ deepOf source

/-- The winner of a search: a cell it admits that it ranks before every other cell it admits. -/
def Wins (admitted : CellAddr → Prop) (before : CellAddr → CellAddr → Prop) (c : CellAddr) : Prop :=
  admitted c ∧ ∀ d, admitted d → d ≠ c → before c d

/-- The new drop cell of a job whose drop cell `d` was found occupied, by the records as corrected and among the cells that
keep the gap: for a store that may be redirected the winner of a slot search, for a relocation that of a target search about
its source, each keyed from `d` with the class of the pallet carried (R34, R104). -/
def NewDropCell (p : Profile) (waste : Nat) (cells : CellAddr → Cell) (keeps : CellAddr → Prop) (j : Job)
    (d new : CellAddr) : Prop :=
  match j.kind with
  | .store => (j.destination = none ∨ j.redirectAllowed = true)
      ∧ Wins (fun c => SlotCell p cells j.aisle ((j.load.bind (·.cls)).getD 0) c ∧ keeps c)
          (SlotBefore p waste { bay := d.bay, level := d.level } ((j.load.bind (·.cls)).getD 0) j.storeEnd) new
  | .relocate => ∃ source, j.chosen = some source
      ∧ Wins (fun c => TargetCell p cells source (j.carried.getD 0) c ∧ keeps c)
          (TargetBefore p waste { bay := d.bay, level := d.level } (j.carried.getD 0)) new
  | .retrieve => False

end Sys2Proof.Machine
end

