-- ==== Sys2Proof/Laws/PerInstr.lean ====
section
/-! SUPPORT. Statements about every command as syntax, one lemma for each constructor. -/

namespace Sys2Proof.Laws

/-- A command that arrives as a frame is what its link, type byte and payload decode to, and a well-formed one's payload
fits a frame (R193, R203). -/
def FrameRoundTrip.Statement (i : Instr) : Prop :=
  ∀ k t p, encodeFrame i = some (k, t, p) →
    decodeFrame k t p = some i ∧ (i.wellFormed = true → p.length ≤ Config.maxPayload)

theorem FrameRoundTrip.powerOn (pins : PinLevels) : FrameRoundTrip.Statement (.powerOn pins) := by
  intro k t p h
  cases h

theorem FrameRoundTrip.pinReset (pins : PinLevels) : FrameRoundTrip.Statement (.pinReset pins) := by
  intro k t p h
  cases h

theorem FrameRoundTrip.gateChange (aisle : AisleId) (high : Bool) : FrameRoundTrip.Statement (.gateChange aisle high) := by
  intro k t p h
  cases h

theorem FrameRoundTrip.frameDiscarded (link : Link) (afterType : List Byte) : FrameRoundTrip.Statement (.frameDiscarded link afterType) := by
  intro k t p h
  cases h

theorem FrameRoundTrip.tgapExpiry (link : Link) : FrameRoundTrip.Statement (.tgapExpiry link) := by
  intro k t p h
  cases h

theorem FrameRoundTrip.frameSent (link : Link) (moreParts : Bool) : FrameRoundTrip.Statement (.frameSent link moreParts) := by
  intro k t p h
  cases h

theorem FrameRoundTrip.enterStore (link : OrderLink) (payload : List Byte) : FrameRoundTrip.Statement (.enterStore link payload) := by
  intro k t p h
  cases h
  exact ⟨rfl, fun w => by simpa [Instr.wellFormed, payloadFits] using w⟩

theorem FrameRoundTrip.enterRetrieve (link : OrderLink) (payload : List Byte) : FrameRoundTrip.Statement (.enterRetrieve link payload) := by
  intro k t p h
  cases h
  exact ⟨rfl, fun w => by simpa [Instr.wellFormed, payloadFits] using w⟩

theorem FrameRoundTrip.cancel (link : OrderLink) (payload : List Byte) : FrameRoundTrip.Statement (.cancel link payload) := by
  intro k t p h
  cases h
  exact ⟨rfl, fun w => by simpa [Instr.wellFormed, payloadFits] using w⟩

theorem FrameRoundTrip.resolve (link : OrderLink) (payload : List Byte) : FrameRoundTrip.Statement (.resolve link payload) := by
  intro k t p h
  cases h
  exact ⟨rfl, fun w => by simpa [Instr.wellFormed, payloadFits] using w⟩

theorem FrameRoundTrip.setCell (link : OrderLink) (payload : List Byte) : FrameRoundTrip.Statement (.setCell link payload) := by
  intro k t p h
  cases h
  exact ⟨rfl, fun w => by simpa [Instr.wellFormed, payloadFits] using w⟩

theorem FrameRoundTrip.setRun (link : OrderLink) (payload : List Byte) : FrameRoundTrip.Statement (.setRun link payload) := by
  intro k t p h
  cases h
  exact ⟨rfl, fun w => by simpa [Instr.wellFormed, payloadFits] using w⟩

theorem FrameRoundTrip.loadProfile (link : OrderLink) (payload : List Byte) : FrameRoundTrip.Statement (.loadProfile link payload) := by
  intro k t p h
  cases h
  exact ⟨rfl, fun w => by simpa [Instr.wellFormed, payloadFits] using w⟩

theorem FrameRoundTrip.mapCrane (link : OrderLink) (payload : List Byte) : FrameRoundTrip.Statement (.mapCrane link payload) := by
  intro k t p h
  cases h
  exact ⟨rfl, fun w => by simpa [Instr.wellFormed, payloadFits] using w⟩

theorem FrameRoundTrip.service (link : OrderLink) (payload : List Byte) : FrameRoundTrip.Statement (.service link payload) := by
  intro k t p h
  cases h
  exact ⟨rfl, fun w => by simpa [Instr.wellFormed, payloadFits] using w⟩

theorem FrameRoundTrip.holdAisle (link : OrderLink) (payload : List Byte) : FrameRoundTrip.Statement (.holdAisle link payload) := by
  intro k t p h
  cases h
  exact ⟨rfl, fun w => by simpa [Instr.wellFormed, payloadFits] using w⟩

theorem FrameRoundTrip.releaseAisle (link : OrderLink) (payload : List Byte) : FrameRoundTrip.Statement (.releaseAisle link payload) := by
  intro k t p h
  cases h
  exact ⟨rfl, fun w => by simpa [Instr.wellFormed, payloadFits] using w⟩

theorem FrameRoundTrip.openWave (link : OrderLink) (payload : List Byte) : FrameRoundTrip.Statement (.openWave link payload) := by
  intro k t p h
  cases h
  exact ⟨rfl, fun w => by simpa [Instr.wellFormed, payloadFits] using w⟩

theorem FrameRoundTrip.closeWave (link : OrderLink) (payload : List Byte) : FrameRoundTrip.Statement (.closeWave link payload) := by
  intro k t p h
  cases h
  exact ⟨rfl, fun w => by simpa [Instr.wellFormed, payloadFits] using w⟩

theorem FrameRoundTrip.setPolicy (link : OrderLink) (payload : List Byte) : FrameRoundTrip.Statement (.setPolicy link payload) := by
  intro k t p h
  cases h
  exact ⟨rfl, fun w => by simpa [Instr.wellFormed, payloadFits] using w⟩

theorem FrameRoundTrip.setFaultControl (link : OrderLink) (payload : List Byte) : FrameRoundTrip.Statement (.setFaultControl link payload) := by
  intro k t p h
  cases h
  exact ⟨rfl, fun w => by simpa [Instr.wellFormed, payloadFits] using w⟩

theorem FrameRoundTrip.clearFault (link : OrderLink) (payload : List Byte) : FrameRoundTrip.Statement (.clearFault link payload) := by
  intro k t p h
  cases h
  exact ⟨rfl, fun w => by simpa [Instr.wellFormed, payloadFits] using w⟩

theorem FrameRoundTrip.clearAisleFault (link : OrderLink) (payload : List Byte) : FrameRoundTrip.Statement (.clearAisleFault link payload) := by
  intro k t p h
  cases h
  exact ⟨rfl, fun w => by simpa [Instr.wellFormed, payloadFits] using w⟩

theorem FrameRoundTrip.queryJob (link : OrderLink) (payload : List Byte) : FrameRoundTrip.Statement (.queryJob link payload) := by
  intro k t p h
  cases h
  exact ⟨rfl, fun w => by simpa [Instr.wellFormed, payloadFits] using w⟩

theorem FrameRoundTrip.queryPool (link : OrderLink) (payload : List Byte) : FrameRoundTrip.Statement (.queryPool link payload) := by
  intro k t p h
  cases h
  exact ⟨rfl, fun w => by simpa [Instr.wellFormed, payloadFits] using w⟩

theorem FrameRoundTrip.queryCell (link : OrderLink) (payload : List Byte) : FrameRoundTrip.Statement (.queryCell link payload) := by
  intro k t p h
  cases h
  exact ⟨rfl, fun w => by simpa [Instr.wellFormed, payloadFits] using w⟩

theorem FrameRoundTrip.queryAisle (link : OrderLink) (payload : List Byte) : FrameRoundTrip.Statement (.queryAisle link payload) := by
  intro k t p h
  cases h
  exact ⟨rfl, fun w => by simpa [Instr.wellFormed, payloadFits] using w⟩

theorem FrameRoundTrip.queryCrane (link : OrderLink) (payload : List Byte) : FrameRoundTrip.Statement (.queryCrane link payload) := by
  intro k t p h
  cases h
  exact ⟨rfl, fun w => by simpa [Instr.wellFormed, payloadFits] using w⟩

theorem FrameRoundTrip.queryWave (link : OrderLink) (payload : List Byte) : FrameRoundTrip.Statement (.queryWave link payload) := by
  intro k t p h
  cases h
  exact ⟨rfl, fun w => by simpa [Instr.wellFormed, payloadFits] using w⟩

theorem FrameRoundTrip.queryFaults (link : OrderLink) (payload : List Byte) : FrameRoundTrip.Statement (.queryFaults link payload) := by
  intro k t p h
  cases h
  exact ⟨rfl, fun w => by simpa [Instr.wellFormed, payloadFits] using w⟩

theorem FrameRoundTrip.fetch (link : OrderLink) (payload : List Byte) : FrameRoundTrip.Statement (.fetch link payload) := by
  intro k t p h
  cases h
  exact ⟨rfl, fun w => by simpa [Instr.wellFormed, payloadFits] using w⟩

theorem FrameRoundTrip.restart (link : OrderLink) (payload : List Byte) : FrameRoundTrip.Statement (.restart link payload) := by
  intro k t p h
  cases h
  exact ⟨rfl, fun w => by simpa [Instr.wellFormed, payloadFits] using w⟩

theorem FrameRoundTrip.restartSoft : FrameRoundTrip.Statement .restartSoft := by
  intro k t p h
  cases h

theorem FrameRoundTrip.restartHard : FrameRoundTrip.Statement .restartHard := by
  intro k t p h
  cases h

theorem FrameRoundTrip.arrive (payload : List Byte) : FrameRoundTrip.Statement (.arrive payload) := by
  intro k t p h
  cases h
  exact ⟨rfl, fun w => by simpa [Instr.wellFormed, payloadFits] using w⟩

theorem FrameRoundTrip.outputFree (payload : List Byte) : FrameRoundTrip.Statement (.outputFree payload) := by
  intro k t p h
  cases h
  exact ⟨rfl, fun w => by simpa [Instr.wellFormed, payloadFits] using w⟩

theorem FrameRoundTrip.dockTaken (payload : List Byte) : FrameRoundTrip.Statement (.dockTaken payload) := by
  intro k t p h
  cases h
  exact ⟨rfl, fun w => by simpa [Instr.wellFormed, payloadFits] using w⟩

theorem FrameRoundTrip.hello (crane : CraneId) (payload : List Byte) : FrameRoundTrip.Statement (.hello crane payload) := by
  intro k t p h
  cases h
  exact ⟨rfl, fun w => by simpa [Instr.wellFormed, payloadFits] using w⟩

theorem FrameRoundTrip.ask (crane : CraneId) (payload : List Byte) : FrameRoundTrip.Statement (.ask crane payload) := by
  intro k t p h
  cases h
  exact ⟨rfl, fun w => by simpa [Instr.wellFormed, payloadFits] using w⟩

theorem FrameRoundTrip.accept (crane : CraneId) (payload : List Byte) : FrameRoundTrip.Statement (.accept crane payload) := by
  intro k t p h
  cases h
  exact ⟨rfl, fun w => by simpa [Instr.wellFormed, payloadFits] using w⟩

theorem FrameRoundTrip.refuse (crane : CraneId) (payload : List Byte) : FrameRoundTrip.Statement (.refuse crane payload) := by
  intro k t p h
  cases h
  exact ⟨rfl, fun w => by simpa [Instr.wellFormed, payloadFits] using w⟩

theorem FrameRoundTrip.picked (crane : CraneId) (payload : List Byte) : FrameRoundTrip.Statement (.picked crane payload) := by
  intro k t p h
  cases h
  exact ⟨rfl, fun w => by simpa [Instr.wellFormed, payloadFits] using w⟩

theorem FrameRoundTrip.dropped (crane : CraneId) (payload : List Byte) : FrameRoundTrip.Statement (.dropped crane payload) := by
  intro k t p h
  cases h
  exact ⟨rfl, fun w => by simpa [Instr.wellFormed, payloadFits] using w⟩

theorem FrameRoundTrip.cellOccupied (crane : CraneId) (payload : List Byte) : FrameRoundTrip.Statement (.cellOccupied crane payload) := by
  intro k t p h
  cases h
  exact ⟨rfl, fun w => by simpa [Instr.wellFormed, payloadFits] using w⟩

theorem FrameRoundTrip.cellEmpty (crane : CraneId) (payload : List Byte) : FrameRoundTrip.Statement (.cellEmpty crane payload) := by
  intro k t p h
  cases h
  exact ⟨rfl, fun w => by simpa [Instr.wellFormed, payloadFits] using w⟩

theorem FrameRoundTrip.pos (crane : CraneId) (payload : List Byte) : FrameRoundTrip.Statement (.pos crane payload) := by
  intro k t p h
  cases h
  exact ⟨rfl, fun w => by simpa [Instr.wellFormed, payloadFits] using w⟩

theorem FrameRoundTrip.cleared (crane : CraneId) (payload : List Byte) : FrameRoundTrip.Statement (.cleared crane payload) := by
  intro k t p h
  cases h
  exact ⟨rfl, fun w => by simpa [Instr.wellFormed, payloadFits] using w⟩

theorem FrameRoundTrip.parked (crane : CraneId) (payload : List Byte) : FrameRoundTrip.Statement (.parked crane payload) := by
  intro k t p h
  cases h
  exact ⟨rfl, fun w => by simpa [Instr.wellFormed, payloadFits] using w⟩

theorem FrameRoundTrip.late (crane : CraneId) (payload : List Byte) : FrameRoundTrip.Statement (.late crane payload) := by
  intro k t p h
  cases h
  exact ⟨rfl, fun w => by simpa [Instr.wellFormed, payloadFits] using w⟩

theorem FrameRoundTrip.fault (crane : CraneId) (payload : List Byte) : FrameRoundTrip.Statement (.fault crane payload) := by
  intro k t p h
  cases h
  exact ⟨rfl, fun w => by simpa [Instr.wellFormed, payloadFits] using w⟩

theorem FrameRoundTrip.recovered (crane : CraneId) (payload : List Byte) : FrameRoundTrip.Statement (.recovered crane payload) := by
  intro k t p h
  cases h
  exact ⟨rfl, fun w => by simpa [Instr.wellFormed, payloadFits] using w⟩

theorem FrameRoundTrip.offerTimerExpiry (crane : CraneId) : FrameRoundTrip.Statement (.offerTimerExpiry crane) := by
  intro k t p h
  cases h

theorem FrameRoundTrip.holdBackExpiry (crane : CraneId) : FrameRoundTrip.Statement (.holdBackExpiry crane) := by
  intro k t p h
  cases h

theorem FrameRoundTrip.parkTimerExpiry (crane : CraneId) : FrameRoundTrip.Statement (.parkTimerExpiry crane) := by
  intro k t p h
  cases h

theorem FrameRoundTrip.backoffExpiry (crane : CraneId) : FrameRoundTrip.Statement (.backoffExpiry crane) := by
  intro k t p h
  cases h

theorem FrameRoundTrip.stepDeadlineExpiry (crane : CraneId) : FrameRoundTrip.Statement (.stepDeadlineExpiry crane) := by
  intro k t p h
  cases h

theorem FrameRoundTrip.agingStep : FrameRoundTrip.Statement .agingStep := by
  intro k t p h
  cases h

theorem FrameRoundTrip.selection (crane : CraneId) : FrameRoundTrip.Statement (.selection crane) := by
  intro k t p h
  cases h

theorem FrameRoundTrip.preemptionCheck (job : Handle) : FrameRoundTrip.Statement (.preemptionCheck job) := by
  intro k t p h
  cases h

theorem FrameRoundTrip.slotSearch (job : Handle) : FrameRoundTrip.Statement (.slotSearch job) := by
  intro k t p h
  cases h

theorem FrameRoundTrip.relocationRequest (job : Handle) : FrameRoundTrip.Statement (.relocationRequest job) := by
  intro k t p h
  cases h

theorem FrameRoundTrip.reEvaluation (job : Handle) : FrameRoundTrip.Statement (.reEvaluation job) := by
  intro k t p h
  cases h

theorem FrameRoundTrip.storeHandOver (job : Handle) (source : OrderLink) (payload : List Byte) : FrameRoundTrip.Statement (.storeHandOver job source payload) := by
  intro k t p h
  cases h

theorem FrameRoundTrip.closingWaitPlacement (link : OrderLink) : FrameRoundTrip.Statement (.closingWaitPlacement link) := by
  intro k t p h
  cases h

theorem FrameRoundTrip.faultReport (report : FaultReport) : FrameRoundTrip.Statement (.faultReport report) := by
  intro k t p h
  cases h

theorem FrameRoundTrip.faultSourceSet (aisle : AisleId) : FrameRoundTrip.Statement (.faultSourceSet aisle) := by
  intro k t p h
  cases h

theorem FrameRoundTrip.faultSourceClear (aisle : AisleId) : FrameRoundTrip.Statement (.faultSourceClear aisle) := by
  intro k t p h
  cases h

theorem FrameRoundTrip.byteReceived (link : Link) (byte : Byte) : FrameRoundTrip.Statement (.byteReceived link byte) := by
  intro k t p h
  cases h

theorem FrameRoundTrip.agingCounterTick : FrameRoundTrip.Statement .agingCounterTick := by
  intro k t p h
  cases h

end Sys2Proof.Laws
end

