-- ==== Sys2Proof/Certificates/Slice0/Obligations.lean ====
section
/-! DEFINITION. The statements for the provers: what every command does, what it leaves, the laws every step keeps, and
the codings. OBLIGATIONS.json lists them in this order. -/

open Sys2Proof Sys2Proof.Machine

/-! ## The machine -/

/-- A step with a command waiting is that command on the rest of the queue.
With no command waiting a step takes the oldest raised event, and with none raised one millisecond passes (the model's
choice: log entries 1 and 2). A millisecond advances the clock and raises, once each, exactly the expiries that come due
at it: of the offer, hold-back, park and backoff timers and the step deadline of each crane, of a silence of tGAP inside
a frame of each link, and, in TIME mode, the aging tick at each multiple of 100 ms (R63, R80, R137, R139, R143, R144,
R194; the phase of the tick: log entry 4). While a restart waits nothing comes due (R201; the aging tick too: log entry
41). -/
def Obligations.StepRunsTheNextCommand : Prop :=
  (∀ (s : State) (c : Instr) (rest : List Instr), s.pending = c :: rest → step s = exec c { s with pending := rest })
  ∧ (∀ s : State, s.pending = [] →
      (∀ e es, s.events = e :: es → step s = exec e s) ∧ (s.events = [] → step s = .next s.tick))
  ∧ (∀ s : State, ∃ due : List Instr, s.tick = { s with now := s.now + 1, events := s.events ++ due } ∧ due.Nodup
      ∧ (s.liu.restarting ≠ none → due = [])
      ∧ (s.liu.restarting = none → ∀ i, i ∈ due ↔
          (∃ c, (i = .offerTimerExpiry c ∧ (s.crane c).offerTimer = some (s.now + 1))
            ∨ (i = .holdBackExpiry c ∧ (s.holdBack c).timer = some (s.now + 1))
            ∨ (i = .parkTimerExpiry c ∧ (s.crane c).parkTimer = some (s.now + 1))
            ∨ (i = .backoffExpiry c ∧ (s.crane c).backoffTimer = some (s.now + 1))
            ∨ (i = .stepDeadlineExpiry c ∧ (s.crane c).deadline.map (·.expiry) = some (s.now + 1)))
          ∨ (∃ k bytes at_, i = .tgapExpiry k ∧ s.rx k = .inFrame bytes at_ ∧ at_ + 5 = s.now + 1)
          ∨ (i = .agingCounterTick ∧ s.jpl.agingMode = .time ∧ 100 ∣ s.now + 1)))

/-- No command touches the queue of waiting commands (the model's choice: log entry 1). -/
def Obligations.ExecLeavesTheQueue : Prop :=
  ∀ (i : Instr) (s t : State), exec i s = .next t → t.pending = s.pending

/-- The state after power-on has every law (R4, R11, R13, R37, R40, R41, R50, R63, R110, R117, R127, R161, R163,
R165, R171, R186, R199). -/
def Obligations.ResetHasTheLaws : Prop :=
  Lawful State.reset ∧ FaultLawful State.reset ∧ PoolLawful State.reset
    ∧ CapacityLaw State.reset ∧ WorkLawful State.reset ∧ RailLawful State.reset

/-- Every step keeps the laws of cells, holds, queues, cranes, waves and job records, and, on its own, the law that the
configured aisles together hold at most 32,768 cells (R4). -/
def Obligations.StepKeepsTheLaws : Prop :=
  (∀ s t : State, Lawful s → step s = .next t → Lawful t)
  ∧ ∀ s t : State, CapacityLaw s → step s = .next t → CapacityLaw t

/-- Every step keeps the laws of the Fault Log: the halt is exactly R186's condition, the further count stays within
255, RAIL_BREACH stays unmasked at AISLE or above, and a capture's kind has its flag set. -/
def Obligations.StepKeepsFaultLaws : Prop :=
  ∀ s t : State, FaultLawful s → step s = .next t → FaultLawful t

/-- Every step keeps the free list exact, the live counts of the links and of the waves true, and no more than 248 live
jobs of order-link origin (R37, R40, R41, R163 to R165). -/
def Obligations.StepKeepsPoolLaws : Prop :=
  ∀ s t : State, PoolLawful s → step s = .next t → PoolLawful t

/-- Every step keeps the laws of reservations, units and redirects: a cell is reserved exactly when one live job holds
it, a job is OFFERED, EN_ROUTE or LOADED exactly when it belongs to the unit of the one crane it names, and a redirect
stands exactly for the job it promises. That an OFFERED unit holds current step 1 from its OFFER is the model's choice
(log entry 73). It keeps the law of output credits, the in-flight count of a station being the number of the retrieves
bound for it, and the law of the windows, a retrieve that is READY, OFFERED, EN_ROUTE or LOADED lying in its wave's
(R11, R50, R51, R127, R129, R161, R165). -/
def Obligations.StepKeepsWorkLaws : Prop :=
  ∀ s t : State, Lawful s → PoolLawful s → WorkLawful s → step s = .next t → WorkLawful t

/-- Every step but CLEAR AISLE FAULT keeps the law of the rail: in a tandem aisle the two intervals keep the gap and
cover their cranes and the places these have still to reach, unless the law is suspended by a RAIL_BREACH. After every
step, CLEAR AISLE FAULT included, the intervals keep the gap or the law is suspended, and a table in order stays in
order unless the law is suspended (R110, R111, R113 to R117, R189). -/
def Obligations.StepKeepsRailLaws : Prop :=
  ∀ s t : State, Lawful s → FaultLawful s → PoolLawful s → WorkLawful s → RailLawful s → step s = .next t →
    ((∀ l p, s.nextCommand ≠ some (.clearAisleFault l p)) → RailLawful t)
    ∧ ∀ a q r, s.rail a = some q → t.rail a = some r → t.gapSuspended a
        ∨ (keepsGap (t.gap a) .front r.front.granted r.rear.granted = true ∧ (s.railOrdered a q → t.railOrdered a r))

/-! ## Frames -/

/-- Every command that arrives as a frame is what its type byte and payload decode to (R194, R203). -/
def Obligations.FrameCommandsRoundTrip : Prop :=
  ∀ i : Instr, Sys2Proof.Laws.FrameRoundTrip.Statement i

/-- The payloads of ENTER STORE, ENTER RETRIEVE, SET CELL, SET RUN, ARRIVE and SET POLICY and a job's handle read back what
was written (R195, R202, R203, R204). A LOAD PROFILE's payload reads back what was written, its level class table packed
four levels a byte (R204). -/
def Obligations.PayloadsRoundTrip : Prop :=
  ((∀ f : EnterStoreFields, f.cls < 256 → f.aisle < 256 → f.end_ < 256 → f.redirectAllowed < 256 →
        (∀ c, f.destination = some c → c.bay < 256 ∧ c.level < 256 ∧ c ≠ absentCell) →
        decodeEnterStore (encodeEnterStore f) = some f)
    ∧ (∀ f : EnterRetrieveFields, f.cls < 256 → f.aisle < 256 → f.end_ < 256 → f.wave < 256 → f.seq < 65536 →
        1 ≤ f.candidates.length → f.candidates.length ≤ 4 → (∀ c ∈ f.candidates, c.bay < 256 ∧ c.level < 256) →
        decodeEnterRetrieve (encodeEnterRetrieve f) = some f)
    ∧ (∀ f : SetCellFields, f.cell.bay < 256 → f.cell.level < 256 → f.state < 256 → f.loadClass < 256 →
        decodeSetCell (encodeSetCell f) = some f)
    ∧ (∀ f : SetRunFields, f.aisle < 256 → f.side < 256 → f.level < 256 → f.depth < 256 → f.firstBay < 256 →
        f.count < 256 → f.state < 256 → decodeSetRun (encodeSetRun f) = some f)
    ∧ (∀ f : ArriveFields, f.aisle < 256 → f.end_ < 256 → f.height < 65536 → f.weight < 65536 →
        decodeArrive (encodeArrive f) = some f)
    ∧ (∀ es : List (Nat × Nat), 1 ≤ es.length → es.length ≤ 12 → (∀ e ∈ es, e.1 < 256 ∧ e.2 < 4294967296) →
        decodeSetPolicy (encodeSetPolicy es) = some es)
    ∧ (∀ h : Handle, decodeHandle (encodeHandle h) = some h))
  ∧ (∀ f : LoadProfileFields, f.aisle < 256 → f.kind < 256 → f.bays < 256 → 1 ≤ f.levels → f.levels ≤ 40 →
      f.depth < 256 → f.classCount < 256 → f.limit0 < 65536 → f.limit1 < 65536 → f.limit2 < 65536 →
      f.limit3 < 65536 → f.weightMin < 65536 → f.weightMax < 65536 → f.px < 65536 → f.vx < 65536 → f.ax < 65536 →
      f.py < 65536 → f.vy < 65536 → f.ay < 65536 → f.hStation < 65536 → f.hNear < 65536 → f.hDeep < 65536 →
      f.gap < 256 → f.window < 256 → f.classTable.length = f.levels →
      decodeLoadProfile (encodeLoadProfile f) = some f)

/-- The bytes of a frame, received one after the other by a hunting receiver, raise exactly the command they spell and
leave the receiver hunting (R193, R194). That the good frame raises its command as an event of its own is the model's
choice (log entry 33). -/
def Obligations.FrameBytesRaiseTheirCommand : Prop :=
  ∀ (i : Instr) (k : Link) (t : Byte) (p : List Byte) (s : State), encodeFrame i = some (k, t, p) →
    i.wellFormed = true → s.rx k = .hunting → s.liu.restarting = none → (∀ b, .byteReceived k b ∉ s.events) →
    .tgapExpiry k ∉ s.events →
    Host.Core.run Sys2Proof.core (frameBytes t p).length
        { s with pending := (frameBytes t p).map (.byteReceived k) ++ s.pending } =
      .next { s with events := s.events ++ [i] }

/-- FRAME_DISCARDED, a silence of tGAP inside a frame, a length byte of 0 or above 64, and, at the second CRC byte, a
CRC other than the one computed or a type that the link does not carry inward each discard the frame with one LINK_FRAME
of the bytes received after its type byte; a byte other than 0xC5 while hunting is discarded alone, and 0xC5 starts a
frame (R182, R194). That the CRC bytes stand among the bytes after the type byte is log entry 23. -/
def Obligations.FrameChecksDiscard : Prop :=
  ∀ (s : State) (k : Link), s.liu.restarting = none →
    (∀ p, exec (.frameDiscarded k p) s = .next ((s.take (.frameDiscarded k p)).frameLost k p))
    ∧ (∀ bytes at_, s.rx k = .inFrame bytes at_ →
        exec (.tgapExpiry k) s = .next ((s.take (.tgapExpiry k)).frameLost k (bytes.drop 2)))
    ∧ (∀ b at_, s.rx k = .inFrame [] at_ → s.now < at_ + Config.tGap → b = 0 ∨ 64 < b.toNat →
        exec (.byteReceived k b) s = .next ((s.take (.byteReceived k b)).frameLost k []))
    ∧ (∀ (n t : Byte) (p : List Byte) (x y : Byte) at_, s.rx k = .inFrame (n :: t :: (p ++ [x])) at_ →
        n.toNat = p.length + 1 → n.toNat ≤ 64 → s.now < at_ + Config.tGap →
        ([x, y] ≠ crcBytes (frameBody t p) ∨ ¬ ∃ i, encodeFrame i = some (k, t, p)) →
        exec (.byteReceived k y) s = .next ((s.take (.byteReceived k y)).frameLost k (p ++ [x, y])))
    ∧ (∀ b, s.rx k = .hunting → exec (.byteReceived k b) s =
        .next ((s.take (.byteReceived k b)).setRx k (if b = 0xC5 then .inFrame [] s.now else .hunting)))

/-- A frame sent leaves its list; where further parts of the same reply follow, the next part stands at the head, and
only the replies of QUERY AISLE, CRANE, FAULTS, JOB, POOL and WAVE ALL take parts; the RESTART reply's last byte makes
the restart the next event. A frame that a restart let complete goes out before every list's and no further part follows
it (R193, R197, R201). That a reply is one entry of its list whose further part is an input is log entry 8; that the
restart goes ahead of every other event is log entry 41. -/
def Obligations.FrameSentLeavesItsList : Prop :=
  (∀ (s : State) (k : Link) (m : Message) more, s.finishing k = some m →
    exec (.frameSent k more) s = .next ((s.take (.frameSent k more)).setFinishing k none))
  ∧ ∀ (s : State) (k : Link) (m : Message) (ms : List Message), s.finishing k = none → s.tx k = m :: ms →
    (s.restartSent k m = none → (∀ r, m = .reply r → r.data.isLong = false) →
      ∀ more, exec (.frameSent k more) s = .next ((s.take (.frameSent k more)).setTx k ms))
    ∧ (∀ r, m = .reply r → r.data.isLong = true → exec (.frameSent k true) s =
        .next ((s.take (.frameSent k true)).setTx k (.reply { r with part := r.part + 1 } :: ms)))
    ∧ (∀ r, m = .reply r → s.restartSent k m = none →
        exec (.frameSent k false) s = .next ((s.take (.frameSent k false)).setTx k ms))
    ∧ (∀ r l x more, m = .reply r → k = .order l → s.liu.restarting = some { link := l, kind := x } →
        r.command = 0x1A → r.result = .ok → (more = false ∨ r.data.isLong = false) →
        ∃ t, exec (.frameSent k more) s = .next t ∧ t.tx k = ms ∧ t.events.head? = some (restartEvent x))

/-- RESTART is answered OK with its kind and waits for its reply to be sent, with nothing else of the part changed (R201
step 1); a payload that is not one kind 0 or 1 is refused with BAD_FIELD.
FETCH with repeat 0 removes and returns up to four of the oldest notices, which become the last-fetched set, and tells
the Job Pool when it freed places; with repeat 1 it returns the last-fetched set again; any other payload is refused
with BAD_FIELD (R200).
The Job Pool then places the waiting closing notices: the oldest go, in order, into the places free; those left wait on
only where the queue is full; a job whose last notice is placed leaves the pool, one owed another link's notice stays
with that link alone owed, and every other job stands. For a job that leaves, the slot's generation is one higher and
the slot free at the tail of the free list, its origin's live count falls, and each retrieve PENDING with NO_RELOC_SPACE
draws a re-evaluation (R38, R58, R94; that the placement is an event of its own is log entry 24). -/
def Obligations.LinkCommandsActOnTheirLink : Prop :=
  (∀ (s : State) (l : OrderLink) (p : List Byte), Hears s (.order l) →
      ((p.length ≠ 1 ∨ 1 < byteAt p 0) → exec (.restart l p) s = .next (s.refused (.restart l p) (.order l) 0x1A .badField))
      ∧ ∀ (b : Byte) (x : RestartKind), p = [b] → restartKindOf b.toNat = some x →
        exec (.restart l p) s = .next { s.answered (.restart l p) (.order l) 0x1A false (.restart x) with
          liu := { (s.answered (.restart l p) (.order l) 0x1A false (.restart x)).liu with
            restarting := some { link := l, kind := x } } })
  ∧ (∀ (s : State) (l : OrderLink), Hears s (.order l) →
      (∀ p : List Byte, (p.length ≠ 1 ∨ 1 < byteAt p 0) →
        exec (.fetch l p) s = .next (s.refused (.fetch l p) (.order l) 0x19 .badField))
      ∧ (∀ a, a = s.answered (.fetch l [0]) (.order l) 0x19 false
          (.fetched ((s.queue l).take 4).length ((s.queue l).drop 4).length ((s.queue l).take 4)) →
        exec (.fetch l [0]) s = .next { a with
          liu := { a.liu with
            queue := s.liu.queue.set l ((s.queue l).drop 4)
            attn := s.liu.attn.set l (decide ((s.queue l).drop 4 ≠ []))
            lastFetched := s.liu.lastFetched.set l ((s.queue l).take 4) }
          events := s.events.erase (.fetch l [0]) ++ (if s.queue l = [] then [] else [.closingWaitPlacement l]) })
      ∧ exec (.fetch l [1]) s = .next (s.answered (.fetch l [1]) (.order l) 0x19 false
          (.fetched (s.liu.lastFetched.get l).length (s.queue l).length (s.liu.lastFetched.get l))))
  ∧ ∀ (s : State) (l : OrderLink), ∃ t n more, exec (.closingWaitPlacement l) s = .next t
      ∧ t.jpl.closingWait.get l = (s.jpl.closingWait.get l).drop n
      ∧ t.queue l = s.queue l ++ more ∧ more.length ≤ n
      ∧ (t.jpl.closingWait.get l ≠ [] → 32 ≤ (t.queue l).length)
      ∧ ((s.queue l).length ≤ 32 → (t.queue l).length ≤ 32)
      ∧ (∀ m, m ≠ l → t.queue m = s.queue m ∧ t.jpl.closingWait.get m = s.jpl.closingWait.get m)
      ∧ (s.jpl.closingWait.get l = [] → t = s.take (.closingWaitPlacement l))
      ∧ ((s.jpl.closingWait.get l).Nodup → (∀ h ∈ s.jpl.closingWait.get l, ∃ j x, s.job? h = some j ∧ j.notice = some x) →
          HandleLaw s →
          n = min (32 - (s.queue l).length) (s.jpl.closingWait.get l).length
          ∧ more = ((s.jpl.closingWait.get l).take n).filterMap (fun h => (s.job? h).bind (·.notice))
          ∧ (∀ h ∈ (s.jpl.closingWait.get l).take n, ∀ j, s.job? h = some j →
              t.job? h = if j.owed.filter (· ≠ l) = [] then none else some { j with owed := j.owed.filter (· ≠ l) })
          ∧ (∀ h, h ∉ (s.jpl.closingWait.get l).take n → ∀ j, s.job? h = some j → t.job? h = some j)
          ∧ ∀ gone, gone = ((s.jpl.closingWait.get l).take n).filter (fun h =>
                decide ((s.job? h).map (fun j => j.owed.filter (· ≠ l)) = some [])) →
              t.jpl.freeList = s.jpl.freeList ++ gone.map (·.slot)
              ∧ (∀ h ∈ gone, t.slot h.slot = { gen := h.gen + 1, job := none })
              ∧ (∀ m, t.jpl.live.get m = s.jpl.live.get m -
                  gone.countP fun h => decide ((s.job? h).map (·.origin) = some (.order m)))
              ∧ (gone ≠ [] → ∀ g k, t.job? g = some k → k.kind = .retrieve → k.state = .pending →
                  k.reason = some .noRelocSpace → .reEvaluation g ∈ t.events))
      ∧ t.cmp = s.cmp ∧ t.crt = s.crt ∧ t.ale = s.ale ∧ t.aic = s.aic ∧ t.flg = s.flg

/-! ## Resets -/

/-- POWER_ON leaves every register at the value R21, R37, R65, R89, R90, R124, R149, R151, R168, R179, R191, R192, R198
and R200 give, with the straps and GATE lines sampled; the bay and level behind a clear known flag are log entry 7.
PIN_RESET and RESTART_HARD leave what POWER_ON leaves, but for the Fault Log's flags, capture and further count, which
they keep; RESTART_HARD also keeps the line rate, takes the GATE levels it finds, and lets complete the frame being sent
on every link but the sending one, every transmit list being empty (R191, R192, R201); that the head of a list is the
frame being sent is log entry 57.
RESTART_SOFT ends every reservation (a LOADED job's drop cell reads UNKNOWN), empties the pool with each freed slot's
generation advanced, keeps profiles with a pending one applied, mappings, unit counters, settings and sources, the fault
source being the fault hold (log entry 20), rebuilds the rail tables to the park ends and tests their gaps, takes each
configured aisle to HELD or OPEN by its sources, and lets complete the frames being sent (R22, R66, R90, R124, R152,
R168, R180, R191, R201). One RAIL_BREACH is raised for each aisle whose gap fails, the lower aisle first: the one check
of an aisle is the model's choice (log entry 63), and so is the order (log entry 62). -/
def Obligations.ResetsLeaveTheirState : Prop :=
  (∀ (s : State) (pins : PinLevels), ∃ t, exec (.powerOn pins) s = .next t
      ∧ (∀ i, t.slot i = { gen := 0, job := none })
      ∧ t.jpl = { slots := t.jpl.slots, freeList := List.finRange 256, live := { o0 := 0, o1 := 0 },
                  quota := { o0 := 124, o1 := 124 }, agingMode := .time, startCount := 600, weight := 1000,
                  counter := 600, entryOrder := 0, closingWait := { o0 := [], o1 := [] } }
      ∧ (∀ a, t.aisle a = { profile := none, pendingProfile := none, cells := [] })
      ∧ t.ale = { pairing := true, preemption := true, tPair := 4000, offsets := t.ale.offsets, waste := 5000,
                  holdBack := t.ale.holdBack }
      ∧ t.ale.offsets.toList = [0, 15000, 45000, 120000] ∧ (∀ c, t.holdBack c = { timer := none, heldBack := false })
      ∧ (∀ c, t.crane c =
          { mapping := none, state := .absent, bay := (t.crane c).bay, level := (t.crane c).level, known := false,
            unitCounter := 0, unit := none, deadline := none, offerTimer := none, redirect := none, strikes := 0,
            backoffTimer := none, parkTimer := none, leaveService := false, lastRefusal := none, lastFault := none })
      ∧ (∀ a, t.rail a = none)
      ∧ t.crt = { cranes := t.crt.cranes, rail := t.crt.rail, tOffer := 2000, tPark := 120000, tBackoff := 30000,
                  factor := 200, strikeLimit := 3, policy := .backoff }
      ∧ (∀ a e, t.input a e = .empty ∧ t.credit a e = { reportedFree := 0, inFlight := 0 }) ∧ t.swu.waves = []
      ∧ (∀ a, t.hold a =
          { sources := { gate := !pins.gates[a], o0 := false, o1 := false, fault := false }, state := .unconfigured,
            gack := false })
      ∧ (∀ c, t.parkOwed c = false)
      ∧ (∀ k, t.faultKind k =
          { flag := false, masked := decide (k = .loadRejected),
            severity := if k = .foreignReport ∨ k = .railBreach then .aisle else .note })
      ∧ (∀ a, t.faultHold a = { isSet := false, kinds := [] })
      ∧ t.flg.capture = none ∧ t.flg.further = 0 ∧ t.flg.halt = false
      ∧ (∀ l, t.queue l = [] ∧ t.liu.attn.get l = false ∧ t.liu.active.get l = false ∧ t.liu.lastFetched.get l = [])
      ∧ (∀ k, t.tx k = [] ∧ t.finishing k = none ∧ t.rx k = .hunting) ∧ t.liu.restarting = none ∧ t.events = []
      ∧ t.liu.rate =
          (if pins.rate1 then (if pins.rate0 then .r460800 else .r230400)
           else (if pins.rate0 then .r115200 else .r57600)))
  ∧ (∀ (s : State) (pins : PinLevels), ∃ p t u : State,
      exec (.powerOn pins) s = .next p ∧ exec (.pinReset pins) s = .next t ∧ exec .restartHard s = .next u
      ∧ (∀ k, t.faultKind k = { p.faultKind k with flag := (s.faultKind k).flag } ∧ u.faultKind k = t.faultKind k)
      ∧ t.flg.capture = s.flg.capture ∧ t.flg.further = s.flg.further ∧ u.flg = t.flg
      ∧ (∀ a, t.faultHold a = { isSet := false, kinds := [] }) ∧ t.flg.halt = false
      ∧ t.liu = p.liu ∧ t.jpl = p.jpl ∧ t.cmp = p.cmp ∧ t.ale = p.ale ∧ t.crt = p.crt ∧ t.swu = p.swu ∧ t.aic = p.aic
      ∧ u.liu = { p.liu with rate := s.liu.rate, finishing := u.liu.finishing }
      ∧ (∀ k, u.finishing k = if (s.liu.restarting.map fun r => Link.order r.link) = some k then none
          else (s.finishing k).or (s.tx k).head?)
      ∧ u.jpl = p.jpl ∧ u.cmp = p.cmp ∧ u.ale = p.ale ∧ u.crt = p.crt ∧ u.swu = p.swu
      ∧ u.aic.parkOwed = p.aic.parkOwed ∧ t.events = [] ∧ u.events = []
      ∧ (∀ a, u.hold a =
          { sources := { gate := (s.hold a).sources.gate, o0 := false, o1 := false, fault := false },
            state := .unconfigured, gack := false }))
  ∧ ∀ s : State, MapWf s → ∃ t, exec .restartSoft s = .next t
    ∧ (∀ c, t.cell c = { s.cell c with
        state := match (s.cell c).state with
          | .inReserved h => if (s.job? h).map (·.state) = some .loaded then .unknown else .empty
          | .outReserved _ k => .full k
          | x => x })
    ∧ (∀ a, t.profile? a = (s.profile? a).map (fun q =>
          { q with op := ((s.aisle a).pendingProfile.map (·.op)).getD q.op })
        ∧ (t.aisle a).pendingProfile = none)
    ∧ (∀ i, t.slot i = { gen := if (s.slot i).job.isSome then (s.slot i).gen + 1 else (s.slot i).gen, job := none })
    ∧ t.jpl = { s.jpl with
        slots := t.jpl.slots
        freeList := s.jpl.freeList ++ (List.finRange 256).filter fun i => (s.slot i).job.isSome
        live := { o0 := 0, o1 := 0 }, counter := s.jpl.startCount, closingWait := { o0 := [], o1 := [] } }
    ∧ t.ale = { s.ale with holdBack := t.ale.holdBack } ∧ (∀ c, t.holdBack c = { timer := none, heldBack := false })
    ∧ (∀ c, t.crane c =
        { mapping := (s.crane c).mapping, state := .absent, bay := (t.crane c).bay, level := (t.crane c).level
          known := false, unitCounter := (s.crane c).unitCounter, unit := none, deadline := none, offerTimer := none
          redirect := none, strikes := 0, backoffTimer := none, parkTimer := none
          leaveService := (s.crane c).leaveService || decide ((s.crane c).state = .outOfService)
          lastRefusal := none, lastFault := none })
    ∧ t.crt = { s.crt with cranes := t.crt.cranes, rail := t.crt.rail }
    ∧ (∀ a, t.rail a = if s.isTandem a then
        some { front := { granted := .at (s.parkEnd a .front), claim := none, clear := none }
               rear := { granted := .at (s.parkEnd a .rear), claim := none, clear := none } } else none)
    ∧ (∀ a src, src = { (s.hold a).sources with fault := (s.faultHold a).isSet } → t.hold a =
        { sources := src
          state := if (s.hold a).state = .unconfigured then .unconfigured else if src.any then .held else .isOpen
          gack := if (s.hold a).state = .unconfigured then (s.hold a).gack else src.any })
    ∧ (∀ c, t.parkOwed c = false)
    ∧ (∀ a e, t.input a e = .empty ∧ t.credit a e = { reportedFree := 0, inFlight := 0 }) ∧ t.swu.waves = []
    ∧ (∀ l, t.queue l = [] ∧ t.liu.attn.get l = false ∧ t.liu.active.get l = false ∧ t.liu.lastFetched.get l = [])
    ∧ (∀ k, t.rx k = .hunting ∧ t.tx k = [] ∧ t.finishing k =
        if (s.liu.restarting.map fun r => Link.order r.link) = some k then none else (s.finishing k).or (s.tx k).head?)
    ∧ t.liu.rate = s.liu.rate ∧ t.liu.restarting = none
    ∧ t.flg = { s.flg with halt := s.haltCondition }
    ∧ t.events = ((List.finRange 8).filter fun a => !t.railCheck a).map fun a => .faultReport
        { kind := .railBreach, source := .internal, aisle := some a, job := none, payload := [] }

/-- While a restart waits every frame and every expiry is spent and nothing else changes (R201 step 1); while four
replies wait on a link its commands are discarded with LINK_FRAME of the bytes after the type byte (R182, R196); a
message of an unmapped crane, of an ABSENT one that is not HELLO, and a message whose fields are out of range, an ABSENT
crane's HELLO among them, are discarded with STALE_MESSAGE (R126). That the aging tick and the other expiries are spent
while a restart waits is log entry 41; that the CRC bytes stand among the bytes after the type byte is log entry 23. -/
def Obligations.FramesAreTurnedAway : Prop :=
  ∀ s : State,
    (s.liu.restarting ≠ none → ∀ i, (encodeFrame i).isSome → exec i s = .next (s.take i))
    ∧ (s.liu.restarting ≠ none → ∀ (c : CraneId) (k : Link) (b : Byte), ∀ i ∈
        [Instr.offerTimerExpiry c, .holdBackExpiry c, .parkTimerExpiry c, .backoffExpiry c, .stepDeadlineExpiry c,
          .agingStep, .agingCounterTick, .tgapExpiry k, .byteReceived k b], exec i s = .next (s.take i))
    ∧ (s.liu.restarting = none → ∀ i k b p, encodeFrame i = some (k, b, p) → (∀ c, k ≠ .crane c) →
        Config.replyLimit ≤ s.waitingReplies k →
        exec i s = .next { s.heard i k with
          events := s.events.erase i ++
            [.faultReport { kind := .linkFrame, source := .link k, aisle := none, job := none,
                            payload := (p ++ crcBytes (frameBody b p)).take 16 }] })
    ∧ (s.liu.restarting = none → ∀ i c b p, encodeFrame i = some (.crane c, b, p) →
        ((s.crane c).mapping = none ∨ ((s.crane c).state = .absent ∧ i ≠ .hello c p)) →
        ∃ j, exec i s = .next { s.take i with
            events := s.events.erase i ++ [s.craneReported .staleMessage c j p] }
          ∧ ∀ h, j = some h → decodeHandle p = some h ∧ s.job? h ≠ none)
    ∧ (s.liu.restarting = none → ∀ c i p, (s.crane c).mapping ≠ none → ((s.crane c).state ≠ .absent ∨ i = .hello c p) →
        ((i ∈ [Instr.hello c p, .ask c p, .pos c p, .cleared c p, .refuse c p] ∧ p.length ≠ 2)
          ∨ (i = .refuse c p ∧ 15 < byteAt p 1)
          ∨ (i ∈ [Instr.accept c p, .late c p, .fault c p] ∧ p.length ≠ 1)
          ∨ (i ∈ [Instr.picked c p, .dropped c p, .cellOccupied c p, .cellEmpty c p] ∧ decodeHandle p = none)
          ∨ (i ∈ [Instr.parked c p, .recovered c p] ∧ p ≠ [])
          ∨ (i ∈ [Instr.hello c p, .ask c p, .pos c p, .cleared c p] ∧
              ∃ a q, s.craneAisle c = some a ∧ s.profile? a = some q
                ∧ (q.geo.bays + 1 < byteAt p 0 ∨ q.geo.levels < byteAt p 1))) →
        exec i s = .next { s.take i with events := s.events.erase i ++ [s.craneReported .staleMessage c none p] })

/-! ## Fixed registers -/

/-- The settings change by SET POLICY alone, crane mappings by MAP CRANE, geometries by LOAD PROFILE, the hold sources by
the source commands, and the Fault Log by its own commands; each of them by the resets besides, of which RESTART SOFT
leaves all but the hold sources and the Fault Log (R202, R125, R2, R169, R181, R201; its fault source: log entry 20). -/
def Obligations.RegistersChangeByTheirOwnCommands : Prop :=
  ∀ (i : Instr) (s t : State), exec i s = .next t →
    (∀ pins, i ≠ .powerOn pins ∧ i ≠ .pinReset pins) → i ≠ .restartHard →
    ((∀ l p, i ≠ .setPolicy l p) →
        t.jpl.quota = s.jpl.quota ∧ t.jpl.agingMode = s.jpl.agingMode ∧ t.jpl.startCount = s.jpl.startCount
        ∧ t.jpl.weight = s.jpl.weight ∧ t.ale = { s.ale with holdBack := t.ale.holdBack }
        ∧ t.crt = { s.crt with cranes := t.crt.cranes, rail := t.crt.rail })
    ∧ ((∀ l p, i ≠ .mapCrane l p) → ∀ c, (t.crane c).mapping = (s.crane c).mapping)
    ∧ ((∀ l p, i ≠ .loadProfile l p) → ∀ a, (t.profile? a).map (·.geo) = (s.profile? a).map (·.geo))
    ∧ (sourceChange i = none → i ≠ .restartSoft → ∀ a, (t.hold a).sources = (s.hold a).sources)
    ∧ ((∀ r, i ≠ .faultReport r) → (∀ l p, i ≠ .setFaultControl l p ∧ i ≠ .clearFault l p ∧ i ≠ .clearAisleFault l p) →
        i ≠ .restartSoft → t.flg = s.flg)
    ∧ t.liu.rate = s.liu.rate

/-! ## Settings and faults -/

/-- SET POLICY writes each setting it names with the last value given for it, clamped to the setting's range, reloads the
aging counter where the aging mode or start count is named, and changes nothing else; one entry out of its list refuses
the whole with BAD_FIELD (R202, R63). The order of the settings in the reply is the model's (log entry 31). -/
def Obligations.SetPolicyWritesItsSettings : Prop :=
  ∀ (s : State) (l : OrderLink) (p : List Byte), Hears s (.order l) →
    (decodeSetPolicy p = none →
      exec (.setPolicy l p) s = .next (s.refused (.setPolicy l p) (.order l) 0x0E .badField))
    ∧ ∀ es, decodeSetPolicy p = some es →
      ((∃ e ∈ es, ¬ ∃ r ∈ settingRows, r.1 = e.1 ∧ (r.2.2 = 1 → e.2 ≤ 1)) →
        exec (.setPolicy l p) s = .next (s.refused (.setPolicy l p) (.order l) 0x0E .badField))
      ∧ ((∀ e ∈ es, ∃ r ∈ settingRows, r.1 = e.1 ∧ (r.2.2 = 1 → e.2 ≤ 1)) →
        ∃ t clamped xs, exec (.setPolicy l p) s = .next t
          ∧ t = { s.answered (.setPolicy l p) (.order l) 0x0E clamped (.policy xs) with
              jpl := { s.jpl with
                quota := { o0 := (lastEntry es 1).elim s.jpl.quota.o0 (clamp 1 248)
                           o1 := (lastEntry es 2).elim s.jpl.quota.o1 (clamp 1 248) }
                agingMode := (lastEntry es 3).elim s.jpl.agingMode fun v => if v = 0 then .time else .events
                startCount := (lastEntry es 4).elim s.jpl.startCount (clamp 0 65535)
                weight := (lastEntry es 5).elim s.jpl.weight (clamp 0 4095)
                counter :=
                  if lastEntry es 3 = none ∧ lastEntry es 4 = none then s.jpl.counter
                  else (lastEntry es 4).elim s.jpl.startCount (clamp 0 65535) }
              ale := { s.ale with
                offsets := #v[(lastEntry es 6).elim s.ale.offsets[0] (clamp 0 1000000),
                  (lastEntry es 7).elim s.ale.offsets[1] (clamp 0 1000000),
                  (lastEntry es 8).elim s.ale.offsets[2] (clamp 0 1000000),
                  (lastEntry es 9).elim s.ale.offsets[3] (clamp 0 1000000)]
                waste := (lastEntry es 10).elim s.ale.waste (clamp 0 60000)
                tPair := (lastEntry es 11).elim s.ale.tPair (clamp 0 20000)
                pairing := (lastEntry es 12).elim s.ale.pairing fun v => decide (v = 1)
                preemption := (lastEntry es 13).elim s.ale.preemption fun v => decide (v = 1) }
              crt := { s.crt with
                tOffer := (lastEntry es 14).elim s.crt.tOffer (clamp 200 10000)
                tPark := (lastEntry es 15).elim s.crt.tPark (clamp 10000 600000)
                tBackoff := (lastEntry es 16).elim s.crt.tBackoff (clamp 1000 600000)
                factor := (lastEntry es 17).elim s.crt.factor (clamp 100 400)
                strikeLimit := (lastEntry es 18).elim s.crt.strikeLimit (clamp 1 7)
                policy := (lastEntry es 19).elim s.crt.policy fun v => if v = 0 then .retire else .backoff } }
          ∧ (clamped = true ↔ ∃ e ∈ es, ∃ r ∈ settingRows, r.1 = e.1 ∧ (e.2 < r.2.1 ∨ r.2.2 < e.2))
          ∧ (xs.map (·.1)).Nodup ∧ (∀ n, n ∈ xs.map (·.1) ↔ lastEntry es n ≠ none)
          ∧ ∀ x ∈ xs, x.2 = t.readSetting x.1)

/-- SET FAULT CONTROL stores a kind's mask and severity, RAIL_BREACH kept unmasked and at AISLE or above, evaluates the
halt, and changes nothing else of the Fault Log (R181, R186, R187). The end of the halt starts selections for the cranes
that wait at that moment, FRONT before REAR and the lower aisle first (R68, R186; the model's choice: log entries 29 and
50). -/
def Obligations.SetFaultControlStoresMaskAndSeverity : Prop :=
  ∀ (s : State) (l : OrderLink) (p : List Byte), Hears s (.order l) →
    ((p.length ≠ 3 ∨ byteAt p 0 = 0 ∨ 14 < byteAt p 0 ∨ 1 < byteAt p 1 ∨ 2 < byteAt p 2) →
      exec (.setFaultControl l p) s = .next (s.refused (.setFaultControl l p) (.order l) 0x0F .badField))
    ∧ ∀ (b m x : Byte) (k : FaultKind), p = [b, m, x] → b.toNat = (kindIndex k).val + 1 → m.toNat ≤ 1 → x.toNat ≤ 2 →
      ∃ t mask severity, exec (.setFaultControl l p) s = .next t
        ∧ t = { s.answered (.setFaultControl l p) (.order l) 0x0F
              (decide (k = .railBreach ∧ (m = 1 ∨ x = 0))) (.faultControl mask severity) with
            flg := { s.flg with kinds := t.flg.kinds, halt := t.flg.halt }, events := t.events }
        ∧ (mask = true ↔ m = 1 ∧ k ≠ .railBreach)
        ∧ severity = (if x = 2 then .halt else if x = 1 ∨ k = .railBreach then .aisle else .note)
        ∧ (∀ j, t.faultKind j =
            if j = k then { flag := (s.faultKind k).flag, masked := mask, severity := severity } else s.faultKind j)
        ∧ t.flg.halt = t.haltCondition
        ∧ t.events = s.events.erase (.setFaultControl l p) ++
            (if s.flg.halt = true ∧ t.flg.halt = false then (List.finRange 8).flatMap s.wakes else [])

/-- A fault report sets its kind's flag; where the kind is not masked it fills an absent capture, else counts one more up
to 255, offers a FAULT notice to every active order link, sets the fault hold of its aisle at AISLE or HALT and hands a
new hold on, and puts the halt in force at HALT (R183 to R186, R198, R199). -/
def Obligations.FaultReportsAreRecorded : Prop :=
  ∀ (s : State) (r : FaultReport), ∃ t, exec (.faultReport r) s = .next t
    ∧ t = { s.take (.faultReport r) with
        flg := t.flg, liu := { s.liu with queue := t.liu.queue, attn := t.liu.attn }, events := t.events }
    ∧ (∀ k, t.faultKind k = if k = r.kind then { s.faultKind k with flag := true } else s.faultKind k)
    ∧ ((s.faultKind r.kind).masked = true →
        t = { s.take (.faultReport r) with flg := { s.flg with kinds := t.flg.kinds } })
    ∧ ((s.faultKind r.kind).masked = false →
        t.flg.capture = some (s.flg.capture.getD r)
        ∧ t.flg.further = (if s.flg.capture = none then s.flg.further else min 255 (s.flg.further + 1))
        ∧ (∀ l, t.queue l =
            if s.liu.active.get l = true ∧ (s.queue l).length < 32 then
              s.queue l ++ [.fault r.kind (s.faultKind r.kind).severity s.flg.capture.isNone r.source r.aisle r.job
                t.flg.further]
            else s.queue l)
        ∧ t.flg.halt = (s.flg.halt || decide ((s.faultKind r.kind).severity = .halt))
        ∧ (∀ a, t.faultHold a =
            if r.aisle = some a ∧ (s.faultKind r.kind).severity ≠ .note then
              { isSet := true
                kinds := if r.kind ∈ (s.faultHold a).kinds then (s.faultHold a).kinds
                         else (s.faultHold a).kinds ++ [r.kind] }
            else s.faultHold a)
        ∧ t.events = s.events.erase (.faultReport r) ++
            (match r.aisle with
             | some a =>
               if (s.faultKind r.kind).severity ≠ .note ∧ (s.faultHold a).isSet = false then [.faultSourceSet a] else []
             | none => []))

/-- CLEAR FAULT clears the flags of the kinds it names, and the capture with the further count where the captured kind
is named, evaluates the halt, and leaves masks, severities and fault holds (R188). The end of the halt starts selections
for the cranes that wait at that moment, FRONT before REAR and the lower aisle first (R68, R186; the model's choice: log
entries 29 and 50). -/
def Obligations.ClearFaultClearsTheNamedFlags : Prop :=
  ∀ (s : State) (l : OrderLink) (p : List Byte), Hears s (.order l) →
    (decodeClearFault p = none →
      exec (.clearFault l p) s = .next (s.refused (.clearFault l p) (.order l) 0x10 .badField))
    ∧ ∀ ns, decodeClearFault p = some ns →
      ((∃ n ∈ ns, n = 0 ∨ 14 < n) →
        exec (.clearFault l p) s = .next (s.refused (.clearFault l p) (.order l) 0x10 .badField))
      ∧ ((∀ n ∈ ns, 1 ≤ n ∧ n ≤ 14) → ∃ t cleared, exec (.clearFault l p) s = .next t
        ∧ t = { s.answered (.clearFault l p) (.order l) 0x10 false
              (.faultsCleared (allKinds.map fun k => (t.faultKind k).flag) cleared) with
            flg := t.flg, events := t.events }
        ∧ (∀ k, t.faultKind k =
            { s.faultKind k with flag := (s.faultKind k).flag && !decide ((kindIndex k).val + 1 ∈ ns) })
        ∧ (cleared = true ↔ ∃ r, s.flg.capture = some r ∧ (kindIndex r.kind).val + 1 ∈ ns)
        ∧ t.flg.capture = (if cleared then none else s.flg.capture)
        ∧ t.flg.further = (if cleared then 0 else s.flg.further)
        ∧ t.flg.holds = s.flg.holds
        ∧ t.flg.halt = t.haltCondition
        ∧ t.events = s.events.erase (.clearFault l p) ++
            (if s.flg.halt = true ∧ t.flg.halt = false then (List.finRange 8).flatMap s.wakes else []))

/-- CLEAR AISLE FAULT: NOT_SET where the hold is clear; CLEARED, with the source's clearing handed on, where it is set
and the aisle is not a TANDEM one that fails the rail check; RETAINED with a new RAIL_BREACH where it fails (R111,
R189). -/
def Obligations.ClearAisleFaultFollowsTheRailCheck : Prop :=
  ∀ (s : State) (l : OrderLink) (p : List Byte), Hears s (.order l) →
    ((p.length ≠ 1 ∨ 8 ≤ byteAt p 0) →
      exec (.clearAisleFault l p) s = .next (s.refused (.clearAisleFault l p) (.order l) 0x11 .badField))
    ∧ ∀ (b : Byte) (a : AisleId), p = [b] → b.toNat = a.val →
      ((s.faultHold a).isSet = false →
        exec (.clearAisleFault l p) s =
          .next (s.answered (.clearAisleFault l p) (.order l) 0x11 false (.aisleFault .notSet)))
      ∧ ((s.faultHold a).isSet = true → (s.isTandem a = false ∨ s.railCheck a = true) →
        exec (.clearAisleFault l p) s = .next
          { s.answered (.clearAisleFault l p) (.order l) 0x11 false (.aisleFault .cleared) with
            flg := { s.flg with holds := s.flg.holds.set a { isSet := false, kinds := [] } }
            events := s.events.erase (.clearAisleFault l p) ++ [.faultSourceClear a] })
      ∧ ((s.faultHold a).isSet = true → s.isTandem a = true → s.railCheck a = false →
        exec (.clearAisleFault l p) s = .next
          { s.answered (.clearAisleFault l p) (.order l) 0x11 false (.aisleFault .retained) with
            events := s.events.erase (.clearAisleFault l p) ++
              [.faultReport { kind := .railBreach, source := .internal, aisle := some a, job := none,
                              payload := [] }] })

/-- Every QUERY is answered with the record it names, every field of it, or refused, and changes nothing else (R20, R39,
R64, R127, R150, R167, R171, R190). The counts of a pool report are those of the live jobs; the number of a cell is its
aisle's base and its offset; the counts of an aisle are those of its cells in each state, and an unconfigured aisle has
none; a timer is reported by the time that remains. The order of the waves in QUERY WAVE ALL is the model's (log entry
14). -/
def Obligations.QueriesAnswerAndChangeNothing : Prop :=
  ∀ (s : State) (l : OrderLink) (p : List Byte), Hears s (.order l) →
    (decodeHandle p = none → exec (.queryJob l p) s = .next (s.refused (.queryJob l p) (.order l) 0x12 .badField))
    ∧ (∀ h, decodeHandle p = some h → s.job? h = none →
        exec (.queryJob l p) s = .next (s.refused (.queryJob l p) (.order l) 0x12 .noSuchJob))
    ∧ (∀ h j, decodeHandle p = some h → s.job? h = some j →
        exec (.queryJob l p) s = .next (s.answered (.queryJob l p) (.order l) 0x12 false (.job j)))
    ∧ (p ≠ [] → exec (.queryPool l p) s = .next (s.refused (.queryPool l p) (.order l) 0x17 .badField))
    ∧ (p = [] → exec (.queryPool l p) s = .next (s.answered (.queryPool l p) (.order l) 0x17 false (.pool
        { free := s.jpl.freeList.length
          pending := s.jobs.countP fun j => decide (j.state = .pending)
          ready := s.jobs.countP fun j => decide (j.state = .ready)
          offered := s.jobs.countP fun j => decide (j.state = .offered)
          enRoute := s.jobs.countP fun j => decide (j.state = .enRoute)
          loaded := s.jobs.countP fun j => decide (j.state = .loaded)
          closing := s.jobs.countP fun j => decide (j.state = .closing)
          relocations := s.jobs.countP fun j => decide (j.kind = .relocate)
          live := s.jpl.live, quota := s.jpl.quota
          closingWait := { o0 := s.jpl.closingWait.o0.length, o1 := s.jpl.closingWait.o1.length }
          active := s.liu.active.set l true, agingMode := s.jpl.agingMode, startCount := s.jpl.startCount
          weight := s.jpl.weight, counter := s.jpl.counter, entryOrder := s.jpl.entryOrder })))
    ∧ (p.length ≠ 3 → exec (.queryCell l p) s = .next (s.refused (.queryCell l p) (.order l) 0x13 .badField))
    ∧ (p.length = 3 → s.profile? (cellAt p 0).aisle = none →
        exec (.queryCell l p) s = .next (s.refused (.queryCell l p) (.order l) 0x13 .noAisle))
    ∧ (∀ q, p.length = 3 → s.profile? (cellAt p 0).aisle = some q → q.geo.hasCell (cellAt p 0) = false →
        exec (.queryCell l p) s = .next (s.refused (.queryCell l p) (.order l) 0x13 .badCell))
    ∧ (∀ q, p.length = 3 → s.profile? (cellAt p 0).aisle = some q → q.geo.hasCell (cellAt p 0) = true →
        exec (.queryCell l p) s = .next (s.answered (.queryCell l p) (.order l) 0x13 false
          (.cell { number := s.base (cellAt p 0).aisle + q.geo.offset (cellAt p 0)
                   state := (s.cell (cellAt p 0)).state
                   fit := q.geo.fit (cellAt p 0).level
                   conflict := (s.cell (cellAt p 0)).conflict })))
    ∧ ((p.length ≠ 1 ∨ 8 ≤ byteAt p 0) →
        exec (.queryAisle l p) s = .next (s.refused (.queryAisle l p) (.order l) 0x14 .badField))
    ∧ (∀ (b : Byte) (a : AisleId), p = [b] → b.toNat = a.val →
        exec (.queryAisle l p) s = .next (s.answered (.queryAisle l p) (.order l) 0x14 false (.aisle
          { profile := s.profile? a, pendingProfile := (s.aisle a).pendingProfile
            base := if s.profile? a = none then 0 else s.base a
            count := ((s.profile? a).map fun q => q.geo.cellCount).getD 0
            cells := (s.aisle a).counts
            hold := (s.hold a).state, sources := (s.hold a).sources, gack := (s.hold a).gack
            parkOwed := (s.cranesOf a).filter s.parkOwed
            inputs := { front := if s.stationExists a .front then some (s.input a .front) else none
                        rear := if s.stationExists a .rear then some (s.input a .rear) else none }
            outputs := { front := if s.stationExists a .front then some (s.credit a .front).report else none
                         rear := if s.stationExists a .rear then some (s.credit a .rear).report else none } })))
    ∧ (∀ a, s.profile? a = none → (s.aisle a).counts =
        { unknown := 0, empty := 0, full := 0, inReserved := 0, outReserved := 0, blocked := 0, conflict := 0 })
    ∧ (MapWf s → ∀ a q, s.profile? a = some q → (s.aisle a).counts =
        { unknown := (q.geo.allCells a).countP fun c => decide ((s.cell c).state = .unknown)
          empty := (q.geo.allCells a).countP fun c => decide ((s.cell c).state = .empty)
          full := (q.geo.allCells a).countP fun c => (s.cell c).state.isFull
          inReserved := (q.geo.allCells a).countP fun c =>
            (s.cell c).state.isReserved && decide ((s.cell c).state.loadClass = none)
          outReserved := (q.geo.allCells a).countP fun c =>
            (s.cell c).state.isReserved && (s.cell c).state.loadClass.isSome
          blocked := (q.geo.allCells a).countP fun c => decide ((s.cell c).state = .blocked)
          conflict := (q.geo.allCells a).countP fun c => (s.cell c).conflict })
    ∧ (∀ x : Credit, x.report = { reportedFree := x.reportedFree, inFlight := x.inFlight,
                                  available := x.reportedFree - x.inFlight })
    ∧ ((p.length ≠ 1 ∨ 12 ≤ byteAt p 0) →
        exec (.queryCrane l p) s = .next (s.refused (.queryCrane l p) (.order l) 0x15 .badField))
    ∧ (∀ (b : Byte) (c : CraneId) (x : Crane), p = [b] → b.toNat = c.val → x = s.crane c →
        exec (.queryCrane l p) s = .next (s.answered (.queryCrane l p) (.order l) 0x15 false (.crane
          { mapping := x.mapping, state := x.state, bay := x.bay, level := x.level, known := x.known
            unitCounter := x.unitCounter, unit := x.unit, deadlineLeft := x.deadline.map fun d => d.expiry - s.now
            offerLeft := x.offerTimer.map (· - s.now), redirect := x.redirect, strikes := x.strikes
            backoffLeft := x.backoffTimer.map (· - s.now), parkLeft := x.parkTimer.map (· - s.now)
            leaveService := x.leaveService, lastRefusal := x.lastRefusal, lastFault := x.lastFault
            holdBackLeft := (s.holdBack c).timer.map (· - s.now), heldBack := (s.holdBack c).heldBack
            rail := s.entry c })))
    ∧ (p.length ≠ 1 → exec (.queryWave l p) s = .next (s.refused (.queryWave l p) (.order l) 0x16 .badField))
    ∧ (p = [0] → exec (.queryWave l p) s = .next (s.answered (.queryWave l p) (.order l) 0x16 false
        (.waves (s.swu.waves.map fun w => (w.id, w.isOpen)) (16 - s.swu.waves.length))))
    ∧ (∀ (b : Byte) w, p = [b] → b ≠ 0 → s.wave? b.toNat = some w →
        exec (.queryWave l p) s = .next (s.answered (.queryWave l p) (.order l) 0x16 false (.wave w)))
    ∧ (∀ b : Byte, p = [b] → b ≠ 0 → s.wave? b.toNat = none →
        exec (.queryWave l p) s = .next (s.refused (.queryWave l p) (.order l) 0x16 .badWave))
    ∧ (p ≠ [] → exec (.queryFaults l p) s = .next (s.refused (.queryFaults l p) (.order l) 0x18 .badField))
    ∧ (p = [] → exec (.queryFaults l p) s = .next (s.answered (.queryFaults l p) (.order l) 0x18 false
        (.faults { kinds := s.flg.kinds, capture := s.flg.capture, further := s.flg.further, halt := s.flg.halt,
                   holds := s.flg.holds })))

/-! ## The cell map -/

/-- No two cells of the part have the same cell number (R5). -/
def Obligations.CellNumbersAreDistinct : Prop :=
  ∀ (s : State) (c d : CellAddr) (p q : Profile), s.profile? c.aisle = some p → s.profile? d.aisle = some q →
    p.geo.hasCell c = true → q.geo.hasCell d = true →
    s.base c.aisle + p.geo.offset c = s.base d.aisle + q.geo.offset d → c = d

/-- SET CELL checks the aisle, the codes, the cell and its reservations in that order, then writes the one cell with its
conflict flag clear and draws the re-evaluation of the aisle's waiting jobs and of the retrieves that name the cell (R17,
R19). -/
def Obligations.SetCellWritesOneCell : Prop :=
  ∀ (s : State) (l : OrderLink) (p : List Byte), Hears s (.order l) →
    (decodeSetCell p = none → exec (.setCell l p) s = .next (s.refused (.setCell l p) (.order l) 0x05 .badField))
    ∧ ∀ f, decodeSetCell p = some f →
      (s.configured f.cell.aisle = false →
        exec (.setCell l p) s = .next (s.refused (.setCell l p) (.order l) 0x05 .noAisle))
      ∧ (s.configured f.cell.aisle = true → (2 < f.state ∨ (3 < f.loadClass ∧ f.loadClass ≠ 255)) →
        exec (.setCell l p) s = .next (s.refused (.setCell l p) (.order l) 0x05 .badField))
      ∧ (s.configured f.cell.aisle = true → f.state ≤ 2 → (f.loadClass ≤ 3 ∨ f.loadClass = 255) →
        (s.hasCell f.cell.aisle f.cell = false →
          exec (.setCell l p) s = .next (s.refused (.setCell l p) (.order l) 0x05 .badCell))
        ∧ (s.hasCell f.cell.aisle f.cell = true →
            ((s.cell f.cell).state.isReserved = true ∨
              (s.isDoubleDeep f.cell.aisle = true ∧ f.cell.depth = .near
                ∧ (s.cell (deepOf f.cell)).state.isReserved = true)) →
          exec (.setCell l p) s = .next (s.refused (.setCell l p) (.order l) 0x05 .cellTaken))
        ∧ (s.hasCell f.cell.aisle f.cell = true → (s.cell f.cell).state.isReserved = false →
            (s.isDoubleDeep f.cell.aisle = false ∨ f.cell.depth = .deep
              ∨ (s.cell (deepOf f.cell)).state.isReserved = false) → MapWf s →
          ∃ t es, exec (.setCell l p) s = .next t
            ∧ t = { s.answered (.setCell l p) (.order l) 0x05 false .nothing with
                cmp := t.cmp, events := s.events.erase (.setCell l p) ++ es }
            ∧ (∀ a, (t.aisle a).profile = (s.aisle a).profile
                ∧ (t.aisle a).pendingProfile = (s.aisle a).pendingProfile)
            ∧ (∀ c, t.cell c =
                if c = f.cell then
                  { state := if f.state = 0 then .empty else if f.state = 2 then .blocked
                      else .full (if f.loadClass = 255 then s.fit f.cell else Fin.ofNat 4 f.loadClass)
                    conflict := false }
                else s.cell c)
            ∧ (HandleLaw s → es.Nodup)
            ∧ ∀ e, e ∈ es ↔ ∃ j ∈ s.jobs, e = .reEvaluation j.handle ∧ j.aisle = f.cell.aisle
                ∧ ((j.state = .pending ∧ (j.reason = some .noSpace ∨ j.reason = some .noCandidate
                      ∨ j.reason = some .noRelocSpace))
                  ∨ (j.kind = .retrieve ∧ (f.cell ∈ j.candidates
                      ∨ (f.cell.depth = .near ∧ deepOf f.cell ∈ j.candidates))))))

/-- SET RUN checks the aisle, the codes and its clamped range, then writes every cell of the range that is not reserved
and does not stand in front of a reserved deep cell, a FULL one with its fit class, and leaves every other cell; the
reply gives the numbers set and skipped (R18). That an aisle above 7 is NO_AISLE is log entry 9; that an unlisted side
or depth is BAD_FIELD, and where, is log entry 10. -/
def Obligations.SetRunWritesItsRange : Prop :=
  ∀ (s : State) (l : OrderLink) (p : List Byte), Hears s (.order l) →
    (decodeSetRun p = none → exec (.setRun l p) s = .next (s.refused (.setRun l p) (.order l) 0x06 .badField))
    ∧ ∀ f, decodeSetRun p = some f →
    ((∀ a : AisleId, f.aisle = a.val → s.configured a = false) →
      exec (.setRun l p) s = .next (s.refused (.setRun l p) (.order l) 0x06 .noAisle))
    ∧ ∀ (a : AisleId) (q : Profile), f.aisle = a.val → s.profile? a = some q →
      ((2 < f.state ∨ 1 < f.side ∨ 1 < f.depth) →
        exec (.setRun l p) s = .next (s.refused (.setRun l p) (.order l) 0x06 .badField))
      ∧ ∀ (side : Side) (depth : Depth) (n lo hi : Nat), f.state ≤ 2 → f.side = side.code → f.depth = depth.code →
        n = clamp 1 120 f.count → lo = max 1 f.firstBay → hi = min q.geo.bays (f.firstBay + n - 1) →
        ((f.level = 0 ∨ q.geo.levels < f.level ∨ (depth = .deep ∧ q.geo.doubleDeep = false) ∨ hi < lo) →
          exec (.setRun l p) s = .next (s.refused (.setRun l p) (.order l) 0x06 .badCell))
        ∧ (1 ≤ f.level → f.level ≤ q.geo.levels → (depth = .near ∨ q.geo.doubleDeep = true) → lo ≤ hi → MapWf s →
          ∃ t es made skipped, exec (.setRun l p) s = .next t
            ∧ t = { s.answered (.setRun l p) (.order l) 0x06
                  (decide (n ≠ f.count ∨ lo ≠ f.firstBay ∨ hi ≠ f.firstBay + n - 1)) (.runSet made skipped) with
                cmp := t.cmp, events := s.events.erase (.setRun l p) ++ es }
            ∧ made + skipped = hi + 1 - lo
            ∧ made = (List.range' lo (hi + 1 - lo)).countP (fun b =>
                !s.isTaken { aisle := a, side := side, bay := b, level := f.level, depth := depth })
            ∧ (∀ c, t.cell c =
                if c.aisle = a ∧ c.side = side ∧ c.level = f.level ∧ c.depth = depth ∧ lo ≤ c.bay ∧ c.bay ≤ hi
                    ∧ s.isTaken c = false then
                  { state := if f.state = 0 then .empty else if f.state = 2 then .blocked else .full (s.fit c)
                    conflict := false }
                else s.cell c)
            ∧ (HandleLaw s → es.Nodup)
            ∧ ∀ e, e ∈ es ↔ ∃ j ∈ s.jobs, e = .reEvaluation j.handle ∧ j.aisle = a
                ∧ ((j.state = .pending ∧ (j.reason = some .noSpace ∨ j.reason = some .noCandidate
                      ∨ j.reason = some .noRelocSpace))
                  ∨ (j.kind = .retrieve ∧ ∃ c, c.aisle = a ∧ c.side = side ∧ c.level = f.level ∧ c.depth = depth
                      ∧ lo ≤ c.bay ∧ c.bay ≤ hi ∧ s.isTaken c = false
                      ∧ (c ∈ j.candidates ∨ (c.depth = .near ∧ deepOf c ∈ j.candidates)))))

/-- A LOAD PROFILE whose aisle, kind, bays, levels, depth or class count is out of range, whose class table has not one
entry a level or names a class not below the count, or whose clamped limits in use do not rise or whose clamped weight
range is empty, is refused with BAD_FIELD before any other check (R1 checks 1 to 3).
A LOAD PROFILE of sound fields for an unconfigured aisle, or with another geometry, is refused BUSY while an aisle from
it up has a live job or a crane at work or a rear crane would lose its role, then TOO_LARGE above 32,768 cells; else
every cell of it and of every aisle above reads UNKNOWN with its flag clear, it takes the profile, and no other aisle's
profile changes. In the re-laid aisles a position beyond the geometry is known no longer; a TANDEM one holds each role
at its crane's known bay, or at its park end, with RAIL_BREACH where that breaks the gap; an aisle made SINGLE loses its
table, its rear input record and the free count of its rear output. A first load with a source set and every crane at
rest goes straight to HELD with HOLD_GRANTED (R1 to R7, R111, R178; that a WAITING crane refuses the load: log entry 58;
that HOLD_GRANTED follows PROFILE_APPLIED: log entry 59). -/
def Obligations.GeometryLoadRelaysTheCells : Prop :=
  (∀ (s : State) (l : OrderLink) (p : List Byte), Hears s (.order l) →
    ((byteAt p 3 = 0 ∨ 40 < byteAt p 3 ∨ p.length ≠ 38 + (byteAt p 3 + 3) / 4) →
      exec (.loadProfile l p) s = .next (s.refused (.loadProfile l p) (.order l) 0x07 .badField))
    ∧ ∀ f o, decodeLoadProfile p = some f → o = (loadOperating f).clamped →
      (7 < f.aisle ∨ 1 < f.kind ∨ f.bays = 0 ∨ 120 < f.bays ∨ f.depth = 0 ∨ 2 < f.depth
        ∨ f.classCount = 0 ∨ 4 < f.classCount ∨ (∃ x ∈ f.classTable, f.classCount ≤ x.val)
        ∨ (2 ≤ f.classCount ∧ o.limit1 ≤ o.limit0) ∨ (3 ≤ f.classCount ∧ o.limit2 ≤ o.limit1)
        ∨ (4 ≤ f.classCount ∧ o.limit3 ≤ o.limit2) ∨ o.weightMax < o.weightMin) →
      exec (.loadProfile l p) s = .next (s.refused (.loadProfile l p) (.order l) 0x07 .badField))
  ∧ ∀ (s : State) (l : OrderLink) (p : List Byte) (f : LoadProfileFields) (a : AisleId) (g : Geometry),
    Hears s (.order l) → decodeLoadProfile p = some f → f.aisle = a.val → loadGeometry f = some g →
    (loadOperating f).clamped.consistent = true → (∀ q, s.profile? a = some q → q.geo ≠ g) →
    (((∃ j ∈ s.jobs, a ≤ j.aisle)
        ∨ (∃ b c, a ≤ b ∧ c ∈ s.cranesOf b ∧ (s.crane c).state ∉ [CraneState.absent, .idle, .outOfService, .parked])
        ∨ (g.kind = .single ∧ s.craneAt a .rear ≠ none)) →
      exec (.loadProfile l p) s = .next (s.refused (.loadProfile l p) (.order l) 0x07 .busy))
    ∧ ((∀ j ∈ s.jobs, j.aisle < a) →
        (∀ b c, a ≤ b → c ∈ s.cranesOf b → (s.crane c).state ∈ [CraneState.absent, .idle, .outOfService, .parked]) →
        (g.kind = .tandem ∨ s.craneAt a .rear = none) →
      (32768 < s.totalCells a g →
        exec (.loadProfile l p) s = .next (s.refused (.loadProfile l p) (.order l) 0x07 .tooLarge))
      ∧ (s.totalCells a g ≤ 32768 → ∃ t base, exec (.loadProfile l p) s = .next t
        ∧ t.tx (.order l) = s.tx (.order l) ++ [.reply (okReply 0x07
            (decide ((loadOperating f).clamped ≠ loadOperating f))
            (.profileLoaded true true (some (base, g.cellCount))))]
        ∧ base = s.base a
        ∧ t.profile? a = some { geo := g, op := (loadOperating f).clamped } ∧ (t.aisle a).pendingProfile = none
        ∧ (∀ c, a ≤ c.aisle → t.cell c = { state := .unknown, conflict := false })
        ∧ (∀ b, a < b → (t.aisle b).profile = (s.aisle b).profile)
        ∧ (∀ b, b < a → t.aisle b = s.aisle b)
        ∧ (∃ more, t.queue l =
            (if (s.queue l).length < 32 then s.queue l ++ [.profileApplied a] else s.queue l) ++ more)
        ∧ t.jpl = s.jpl ∧ t.flg = s.flg
        ∧ (∀ b q, a ≤ b → t.profile? b = some q →
            (∀ c ∈ s.cranesOf b, (t.crane c).bay = (s.crane c).bay ∧ (t.crane c).level = (s.crane c).level
              ∧ (t.crane c).known = ((s.crane c).known
                  && decide ((s.crane c).bay ≤ q.geo.bays + 1 ∧ (s.crane c).level ≤ q.geo.levels)))
            ∧ (q.geo.kind = .single → t.rail b = none)
            ∧ (q.geo.kind = .tandem → ∃ r : PerEnd RailEntry, t.rail b = some r
              ∧ (∀ e x, x = (match s.craneAt b e with
                  | some c => if (s.crane c).state ≠ .absent ∧ (t.crane c).known = true then (s.crane c).bay
                      else q.geo.parkEnd e
                  | none => q.geo.parkEnd e) →
                  r.get e = { granted := if (s.craneAt b e).any fun c => decide ((t.crane c).state = .parking)
                                then hull x [q.geo.parkEnd e] else .at x,
                              claim := none, clear := none })
              ∧ ((∀ c ∈ s.cranesOf b, (t.crane c).state ≠ .parking) →
                  keepsGap q.op.gap .front r.front.granted r.rear.granted = false →
                  .faultReport { kind := .railBreach, source := .internal, aisle := some b, job := none, payload := [] }
                    ∈ t.events)))
        ∧ (∀ b, b < a → t.rail b = s.rail b ∧ ∀ c ∈ s.cranesOf b, t.crane c = s.crane c)
        ∧ (s.isTandem a = true → g.kind = .single → t.input a .rear = .empty
            ∧ t.credit a .rear = { s.credit a .rear with reportedFree := 0 })
        ∧ (∀ b e, b ≠ a ∨ e = .front ∨ g.kind = .tandem → t.input b e = s.input b e ∧ t.credit b e = s.credit b e)
        ∧ t.swu.waves = s.swu.waves
        ∧ (∀ b, b ≠ a → t.hold b = s.hold b) ∧ (t.hold a).sources = (s.hold a).sources
        ∧ ((s.hold a).state ≠ .unconfigured → t.hold a = s.hold a)
        ∧ ((s.hold a).state = .unconfigured →
            ((s.hold a).sources.any = false → (t.hold a).state = .isOpen)
            ∧ ((s.hold a).sources.any = true → (t.hold a).state = .draining ∨ (t.hold a).state = .held)
            ∧ ((s.hold a).sources.any = true → (∃ c ∈ s.cranesOf a, (s.crane c).state = .idle ∧
                (s.crane c).leaveService = false) → (t.hold a).state = .draining)
            ∧ ((s.hold a).sources.any = true → (∀ c ∈ s.cranesOf a, (s.crane c).state ≠ .idle) →
                (t.hold a).state = .held ∧ (t.hold a).gack = true
                ∧ ∀ m, (s.queue m).length + 2 ≤ 32 → t.queue m = s.queue m ++ (if m = l then [.profileApplied a] else [])
                    ++ (if (s.hold a).sources.link m then [.holdGranted a (s.hold a).sources] else [])))))

/-- The operating path: a profile of the aisle's own geometry is held pending while a crane of the aisle is OFFERED,
WORKING or CLEARING, else its operating fields come into force at once with a PROFILE_APPLIED notice, selections start
for the aisle's WAITING cranes, and a tandem aisle's intervals are tested with the new gap, a RAIL_BREACH being raised
where they fail it; no cell and no geometry changes (R2, R8, R9, R68, R111; the order of these events: log entries 37
and 50). -/
def Obligations.OperatingLoadWaitsForCranes : Prop :=
  ∀ (s : State) (l : OrderLink) (p : List Byte) (f : LoadProfileFields) (a : AisleId) (q : Profile),
    Hears s (.order l) → decodeLoadProfile p = some f → f.aisle = a.val → s.profile? a = some q →
    loadGeometry f = some q.geo → (loadOperating f).clamped.consistent = true →
    ((∃ c ∈ s.cranesOf a, (s.crane c).state ∈ [CraneState.offered, .working, .clearing]) →
      ∃ t, exec (.loadProfile l p) s = .next t
        ∧ t = { s.answered (.loadProfile l p) (.order l) 0x07
            (decide ((loadOperating f).clamped ≠ loadOperating f)) (.profileLoaded false false none) with cmp := t.cmp }
        ∧ (∀ b, t.aisle b = if b = a then
            { s.aisle a with pendingProfile := some { op := (loadOperating f).clamped, link := l } } else s.aisle b))
    ∧ ((∀ c ∈ s.cranesOf a, (s.crane c).state ∉ [CraneState.offered, .working, .clearing]) →
      ∃ t, exec (.loadProfile l p) s = .next t
        ∧ t.tx (.order l) = s.tx (.order l) ++ [.reply (okReply 0x07
            (decide ((loadOperating f).clamped ≠ loadOperating f)) (.profileLoaded false true none))]
        ∧ (∀ b, t.aisle b = if b = a then
            { s.aisle a with profile := some { q with op := (loadOperating f).clamped }, pendingProfile := none }
            else s.aisle b)
        ∧ t.queue l = (if (s.queue l).length < 32 then s.queue l ++ [.profileApplied a] else s.queue l)
        ∧ t.events = s.events.erase (.loadProfile l p) ++ s.wakes a ++
            (match s.rail a with
             | some r =>
               if keepsGap (loadOperating f).clamped.gap .front r.front.granted r.rear.granted then []
               else [.faultReport { kind := .railBreach, source := .internal, aisle := some a, job := none, payload := [] }]
             | none => [])
        ∧ t.jpl = s.jpl ∧ t.crt = s.crt ∧ t.ale = s.ale ∧ t.swu = s.swu ∧ t.aic = s.aic ∧ t.flg = s.flg)

/-! ## Crane mapping, service and holds -/

/-- MAP CRANE is read from three bytes, a link 0..11, an aisle 0..7 or 0xFF for NONE, and a role 0 FRONT or 1 REAR,
ignored with NONE. It refuses a payload of any other length or with a field out of range, a crane at work and a role
it may not take; an unchanged mapping changes nothing; a new one makes the crane ABSENT with its position unknown, no
strikes and its leave-service flag clear, puts the interval of the role it leaves and of the role it takes at the park
end, and leaves every other crane (R125, R109, R195, R204). That a crane at work is refused before its mapping is
compared is the model's reading (log entry 70). -/
def Obligations.MapCraneTakesEffect : Prop :=
  (∀ p, readMapping p = none ↔
      p.length ≠ 3 ∨ 11 < byteAt p 0 ∨ (byteAt p 1 ≠ 255 ∧ (7 < byteAt p 1 ∨ 1 < byteAt p 2)))
  ∧ (∀ p c m, readMapping p = some (c, m) ↔
      p.length = 3 ∧ byteAt p 0 = c.val ∧ ((m = none ∧ byteAt p 1 = 255)
        ∨ ∃ a e, m = some (a, e) ∧ byteAt p 1 = a.val ∧ byteAt p 2 = match e with
          | .front => 0
          | .rear => 1))
  ∧ ∀ (s : State) (l : OrderLink) (p : List Byte), Hears s (.order l) →
    (readMapping p = none → exec (.mapCrane l p) s = .next (s.refused (.mapCrane l p) (.order l) 0x08 .badField))
    ∧ ∀ c m, readMapping p = some (c, m) →
      ((s.crane c).mapping ≠ none → (s.crane c).state ≠ .absent → (s.crane c).state ≠ .outOfService →
        exec (.mapCrane l p) s = .next (s.refused (.mapCrane l p) (.order l) 0x08 .busy))
      ∧ (((s.crane c).mapping = none ∨ (s.crane c).state = .absent ∨ (s.crane c).state = .outOfService) →
        ((∃ a e, m = some (a, e) ∧
            ((e = .rear ∧ s.configured a = true ∧ s.isTandem a = false) ∨ ∃ o, s.craneAt a e = some o ∧ o ≠ c)) →
          exec (.mapCrane l p) s = .next (s.refused (.mapCrane l p) (.order l) 0x08 .badField))
        ∧ ((∀ a e, m = some (a, e) →
            (e = .front ∨ s.configured a = false ∨ s.isTandem a = true) ∧ ∀ o, s.craneAt a e = some o → o = c) →
          ((s.crane c).mapping = m → exec (.mapCrane l p) s =
            .next (s.answered (.mapCrane l p) (.order l) 0x08 false (.mapped m)))
          ∧ ((s.crane c).mapping ≠ m → ∃ t, exec (.mapCrane l p) s = .next t
            ∧ t.tx (.order l) = s.tx (.order l) ++ [.reply (okReply 0x08 false (.mapped (s.crane c).mapping))]
            ∧ (∀ d, t.crane d = if d = c then
                { s.crane c with
                  mapping := m, state := .absent, known := false, strikes := 0, leaveService := false }
                else s.crane d)
            ∧ (∀ a r, s.rail a = some r → ∃ r', t.rail a = some r' ∧ ∀ e, r'.get e =
                if (s.crane c).mapping = some (a, e) ∨ m = some (a, e) then
                  { granted := .at (s.parkEnd a e), claim := none, clear := none }
                else r.get e)
            ∧ (∀ a, s.rail a = none → t.rail a = none)
            ∧ t.jpl = s.jpl ∧ t.cmp = s.cmp ∧ t.ale = s.ale ∧ t.swu = s.swu ∧ t.flg = s.flg
            ∧ (∀ a, (t.hold a).sources = (s.hold a).sources))))

/-- SERVICE OUT takes an IDLE, WAITING, PARKED, OFFERED or BACKOFF crane to OUT_OF_SERVICE and marks any other; SERVICE
IN brings an OUT_OF_SERVICE crane back to IDLE with RESUME, or to PARKING with PARK in a held aisle, without strikes,
and clears any other's mark; other cranes stand. In a tandem aisle an offer withdrawn lets the interval fall to the
crane's bay, a PARK widens it to the park end, and otherwise it stands (R113, R115, R128, R148). -/
def Obligations.ServiceFollowsTheCraneState : Prop :=
  (∀ (s : State) (l : OrderLink) (p : List Byte), Hears s (.order l) →
    (p.length ≠ 2 ∨ 11 < byteAt p 0 ∨ 1 < byteAt p 1) →
    exec (.service l p) s = .next (s.refused (.service l p) (.order l) 0x09 .badField))
  ∧ ∀ (s : State) (l : OrderLink) (b d : Byte) (c : CraneId), Hears s (.order l) → b.toNat = c.val →
    (d.toNat ≤ 1 → (s.crane c).mapping = none →
        exec (.service l [b, d]) s = .next (s.refused (.service l [b, d]) (.order l) 0x09 .notMapped))
    ∧ (d.toNat ≤ 1 → (s.crane c).mapping ≠ none → ∃ t, exec (.service l [b, d]) s = .next t
        ∧ t.tx (.order l) = s.tx (.order l) ++ [.reply (okReply 0x09 false (.serviced (t.crane c).state))]
        ∧ (∀ o, o ≠ c → t.crane o = s.crane o) ∧ t.swu.inputs = s.swu.inputs ∧ t.flg = s.flg
        ∧ IntervalIs s t c (fun i =>
            if d = 0 ∧ (s.crane c).state = .offered then i.fallen (s.craneBay c) []
            else if d = 1 ∧ (s.crane c).state = .outOfService then s.parkWidened c (t.crane c).state i else i)
        ∧ (d = 0 → ((s.crane c).state ∈ [CraneState.working, .clearing, .parking, .faulted, .absent] →
              t.crane c = { s.crane c with leaveService := true } ∧ t.jpl = s.jpl ∧ t.cmp = s.cmp ∧ t.aic = s.aic)
            ∧ ((s.crane c).state ∈ [CraneState.idle, .waiting, .parked] →
              t.crane c = { s.crane c with state := .outOfService, leaveService := false }
                ∧ t.jpl = s.jpl ∧ t.cmp = s.cmp)
            ∧ ((s.crane c).state = .backoff → t.crane c =
                { s.crane c with state := .outOfService, leaveService := false, backoffTimer := none, strikes := 0 }
                ∧ t.jpl = s.jpl ∧ t.cmp = s.cmp)
            ∧ ((s.crane c).state = .outOfService → t.crane c = s.crane c ∧ t.jpl = s.jpl ∧ t.cmp = s.cmp)
            ∧ ∀ u, (s.crane c).state = .offered → (s.crane c).unit = some u →
                (t.crane c).state = .outOfService ∧ (t.crane c).unit = none ∧ (t.crane c).offerTimer = none
                ∧ t.tx (.crane c) = s.tx (.crane c) ++ .withdraw u.number 0 ::
                    (match (s.crane c).redirect with | some r => [.withdraw r.number 0] | none => [])
                ∧ ∀ h ∈ u.jobs, ∀ j, s.job? h = some j → ∃ k, t.job? h = some k ∧ k.state = .ready ∧ k.unit = none)
        ∧ (d = 1 → ((s.crane c).state ≠ .outOfService →
              t.crane c = { s.crane c with leaveService := false } ∧ t.jpl = s.jpl ∧ t.cmp = s.cmp ∧ t.aic = s.aic)
            ∧ ((s.crane c).state = .outOfService →
              (t.crane c).strikes = 0 ∧ (t.crane c).leaveService = false ∧ t.jpl = s.jpl ∧ t.cmp = s.cmp
              ∧ (s.aisleStopped c = false →
                  (t.crane c).state = .idle ∧ t.tx (.crane c) = s.tx (.crane c) ++ [.resume])
              ∧ (s.aisleStopped c = true →
                  (t.crane c).state = .parking ∧ (t.crane c).parkTimer = some (s.now + s.crt.tPark)
                  ∧ t.tx (.crane c) = s.tx (.crane c) ++ [.park]))))

/-- GATE_CHANGE, HOLD AISLE, RELEASE AISLE, FAULT_SOURCE_SET and FAULT_SOURCE_CLEAR (the rows of `sourceChange`) each
write their own source of their aisle. The first source set in an OPEN aisle makes it DRAINING, or HELD where every
crane rests; the last one cleared makes it OPEN; otherwise its state stands. Other aisles' holds stand, and GACK is
asserted exactly in HELD. An aisle that becomes HELD offers HOLD_GRANTED, with its sources, to each order link whose
source is set, and a HOLD AISLE in a HELD aisle to its own link (R169 to R172, R174 to R176). -/
def Obligations.SourcesSetTheHold : Prop :=
  (∀ (s : State) (l : OrderLink) (p : List Byte), Hears s (.order l) → (p.length ≠ 1 ∨ 7 < byteAt p 0) →
    exec (.holdAisle l p) s = .next (s.refused (.holdAisle l p) (.order l) 0x0A .badField)
    ∧ exec (.releaseAisle l p) s = .next (s.refused (.releaseAisle l p) (.order l) 0x0B .badField))
  ∧ ∀ (s : State) (i : Instr) (a : AisleId) (f : HoldSources → HoldSources), sourceChange i = some (a, f) →
    (∀ l b, i = .holdAisle l b ∨ i = .releaseAisle l b → Hears s (.order l)) → GackLaw s →
    ∃ t, exec i s = .next t
      ∧ (t.hold a).sources = f (s.hold a).sources
      ∧ (∀ b, b ≠ a → t.hold b = s.hold b)
      ∧ ((s.hold a).sources.any = false → (t.hold a).sources.any = true → (s.hold a).state = .isOpen →
          (t.hold a).state = if t.allRest a then .held else .draining)
      ∧ ((s.hold a).sources.any = true → (t.hold a).sources.any = false → (s.hold a).state ≠ .unconfigured →
          (t.hold a).state = .isOpen)
      ∧ (((s.hold a).state = .unconfigured ∨ (s.hold a).sources.any = (t.hold a).sources.any) →
          (t.hold a).state = (s.hold a).state)
      ∧ ((t.hold a).gack = true ↔ (t.hold a).state = .held)
      ∧ ((s.hold a).sources.any = (t.hold a).sources.any →
          t.crt = s.crt ∧ t.jpl = s.jpl ∧ t.cmp = s.cmp ∧ t.swu = s.swu)
      ∧ ((s.hold a).sources.any = false → (t.hold a).sources.any = true → (s.hold a).state = .isOpen →
          (s.allRest a = true → ∀ m, t.queue m = s.queue m ++
            (if (t.hold a).sources.link m = true ∧ (s.queue m).length < 32 then [.holdGranted a (t.hold a).sources]
             else []))
          ∧ ((t.hold a).state = .held → ∀ m, (t.hold a).sources.link m = true → (s.queue m).length + 2 ≤ 32 →
              .holdGranted a (t.hold a).sources ∈ t.queue m))
      ∧ (∀ l p, i = .holdAisle l p → (s.hold a).state = .held → ∀ m, t.queue m = s.queue m ++
          (if m = l ∧ (s.queue m).length < 32 then [.holdGranted a (t.hold a).sources] else []))
      ∧ t.flg = s.flg ∧ (∀ c, (s.crane c).mapping.map (·.1) ≠ some a → t.crane c = s.crane c)
      ∧ (∀ l p, i = .holdAisle l p → t.tx (.order l) = s.tx (.order l) ++
          [.reply (okReply 0x0A false (.hold (t.hold a).state (t.hold a).sources))])
      ∧ (∀ l p, i = .releaseAisle l p → t.tx (.order l) = s.tx (.order l) ++
          [.reply (okReply 0x0B false (.hold (t.hold a).state (t.hold a).sources))])

/-- A hold coming into force in an OPEN aisle: its IDLE, WAITING, BACKOFF and OFFERED cranes are sent PARK and go to
PARKING, or to OUT_OF_SERVICE without it where their leave-service flag is set; an OFFERED one is sent WITHDRAW with
keep 0 before, and its jobs are READY. A WORKING crane's redirect ends with WITHDRAW. With a LOADED job on board it
keeps working and is owed a PARK: a unit with steps after that job's drop, a pair whose store is LOADED, is sent
WITHDRAW keeping the steps through the drop, and the retrieve is READY with its cell released; any other unit stands.
With none it is sent WITHDRAW with keep 0, gives up its unit, whose jobs are READY, and goes the same way as an IDLE
one. A CLEARING one is owed a PARK. In a tandem aisle the interval of a crane that gives up its unit falls to its bay,
that of one whose later steps are withdrawn to the steps kept, and PARK widens it to the park end (R52, R113, R115,
R128, R144, R172; that a crane going to OUT_OF_SERVICE is sent no PARK: log entry 15).
The end of a hold: PARKED and PARKING cranes of the aisle are sent RESUME and go to IDLE, or to OUT_OF_SERVICE where
their leave-service flag is set, no crane of it is owed a PARK, and every other crane stands; in a tandem aisle a
PARKING crane's interval falls to its bay (R176, R177; one that goes to OUT_OF_SERVICE too: log entry 64). -/
def Obligations.HoldsDrainAndResumeTheCranes : Prop :=
  (∀ (s : State) (i : Instr) (a : AisleId) (f : HoldSources → HoldSources), sourceChange i = some (a, f) →
      (∀ l b, i = .holdAisle l b ∨ i = .releaseAisle l b → Hears s (.order l)) →
      (s.hold a).sources.any = false → (f (s.hold a).sources).any = true → (s.hold a).state = .isOpen →
      Lawful s → PoolLawful s → WorkLawful s →
      ∃ t, exec i s = .next t ∧ ∀ c ∈ s.cranesOf a, ∀ park, park = (if (s.crane c).leaveService then [] else [.park]) →
        ∀ ended, ended = (match (s.crane c).redirect with | some r => [.withdraw r.number 0] | none => []) →
        ((s.crane c).state ∈ [CraneState.idle, .waiting, .backoff, .offered] →
          (t.crane c).state = (s.crane c).afterDrain
          ∧ ((s.crane c).leaveService = false → (t.crane c).parkTimer = some (s.now + s.crt.tPark)))
        ∧ ((s.crane c).state ∈ [CraneState.idle, .waiting, .backoff] → t.tx (.crane c) = s.tx (.crane c) ++ park
            ∧ IntervalIs s t c (s.parkWidened c (s.crane c).afterDrain))
        ∧ (∀ u, (s.crane c).state = .offered → (s.crane c).unit = some u → (t.crane c).unit = none
            ∧ (t.crane c).offerTimer = none ∧ (t.crane c).strikes = (s.crane c).strikes
            ∧ t.tx (.crane c) = s.tx (.crane c) ++ .withdraw u.number 0 :: park
            ∧ IntervalIs s t c (fun i => s.parkWidened c (s.crane c).afterDrain (i.fallen (s.craneBay c) []))
            ∧ ∀ h ∈ u.jobs, ∀ j, s.job? h = some j → ∃ k, t.job? h = some k ∧ k.state = .ready ∧ k.unit = none
              ∧ k.partner = none)
        ∧ (∀ u, (s.crane c).state = .working → (s.crane c).unit = some u →
          (t.crane c).redirect = none
          ∧ (∀ h, s.loadedOn c = some h → (t.crane c).state = .working ∧ t.parkOwed c = true ∧ t.loadedOn c = some h
            ∧ (u.steps.length ≤ u.current →
                t.tx (.crane c) = s.tx (.crane c) ++ ended ∧ (t.crane c).unit = some u ∧ IntervalIs s t c id)
            ∧ (u.current < u.steps.length →
                t.tx (.crane c) = s.tx (.crane c) ++ ended ++ [.withdraw u.number u.current]
                ∧ (t.crane c).unit = some { u with jobs := [h], steps := u.steps.take u.current }
                ∧ IntervalIs s t c (fun i => i.fallen (s.craneBay c)
                    (s.stepBays ((u.steps.take u.current).drop (u.current - 1))))
                ∧ ∀ g ∈ u.jobs, g ≠ h → ∀ k, s.job? g = some k → k.kind = .retrieve
                  ∧ (∃ k', t.job? g = some k' ∧ k'.state = .ready ∧ k'.unit = none ∧ k'.partner = none ∧ k'.chosen = none)
                  ∧ ∀ d, k.chosen = some d → ∀ x, (s.cell d).state = .outReserved g x → (t.cell d).state = .full x))
          ∧ (s.loadedOn c = none → (t.crane c).unit = none
            ∧ t.tx (.crane c) = s.tx (.crane c) ++ ended ++ .withdraw u.number 0 :: park
            ∧ IntervalIs s t c (fun i => s.parkWidened c (s.crane c).afterDrain (i.fallen (s.craneBay c) []))
            ∧ (t.crane c).state = (s.crane c).afterDrain
            ∧ ((s.crane c).leaveService = false → (t.crane c).parkTimer = some (s.now + s.crt.tPark))
            ∧ ∀ h ∈ u.jobs, ∀ j, s.job? h = some j → ∃ k, t.job? h = some k ∧ k.state = .ready ∧ k.unit = none
              ∧ k.partner = none))
        ∧ ((s.crane c).state = .clearing → (t.crane c).state = .clearing ∧ t.parkOwed c = true
            ∧ t.tx (.crane c) = s.tx (.crane c) ∧ IntervalIs s t c id)
        ∧ ((s.crane c).state ∈ [CraneState.parking, .parked, .absent, .faulted, .outOfService] →
            t.crane c = s.crane c ∧ t.tx (.crane c) = s.tx (.crane c) ∧ IntervalIs s t c id))
  ∧ (∀ (s : State) (i : Instr) (a : AisleId) (f : HoldSources → HoldSources), sourceChange i = some (a, f) →
      (∀ l b, i = .holdAisle l b ∨ i = .releaseAisle l b → Hears s (.order l)) →
      (s.hold a).sources.any = true → (f (s.hold a).sources).any = false → (s.hold a).state ≠ .unconfigured →
      ∃ t, exec i s = .next t ∧ t.jpl = s.jpl
        ∧ (∀ c ∈ s.cranesOf a, t.parkOwed c = false
          ∧ ((s.crane c).state ∈ [CraneState.parked, .parking] →
            (t.crane c).state = (if (s.crane c).leaveService then .outOfService else .idle)
            ∧ t.tx (.crane c) = s.tx (.crane c) ++ [.resume])
          ∧ ((s.crane c).state = .parking → (t.crane c).parkTimer = none)
          ∧ IntervalIs s t c (fun i => if (s.crane c).state = .parking then i.fallen (s.craneBay c) [] else i)
          ∧ ((s.crane c).state ∉ [CraneState.parked, .parking] →
            t.crane c = s.crane c ∧ t.tx (.crane c) = s.tx (.crane c)))
        ∧ ∀ c, c ∉ s.cranesOf a → t.crane c = s.crane c)

/-! ## Jobs -/

/-- ENTER STORE refuses, in this order, an unconfigured aisle, a code out of range, a full pool, a spent quota, a taken
tag and a fixed cell that does not exist, is not EMPTY or breaks the pair rule; else it takes the slot at the head of
the free list for a PENDING store with NO_PALLET, reserves a fixed cell for it, hands it over, and leaves every other
job and cell (R14, R37, R40 to R44; that an aisle above 7 is NO_AISLE and where a code out of range is refused: log
entry 9). -/
def Obligations.EnterStoreChecksThenCreates : Prop :=
  ∀ (s : State) (l : OrderLink) (p : List Byte), Hears s (.order l) →
    (decodeEnterStore p = none → exec (.enterStore l p) s = .next (s.refused (.enterStore l p) (.order l) 0x01 .badField))
    ∧ ∀ f, decodeEnterStore p = some f →
      ((∀ a : AisleId, f.aisle = a.val → s.configured a = false) →
        exec (.enterStore l p) s = .next (s.refused (.enterStore l p) (.order l) 0x01 .noAisle))
      ∧ ∀ a : AisleId, f.aisle = a.val → s.configured a = true →
        ((1 < f.end_ ∨ (f.end_ = 1 ∧ s.isTandem a = false) ∨ 1 < f.redirectAllowed) →
          exec (.enterStore l p) s = .next (s.refused (.enterStore l p) (.order l) 0x01 .badField))
        ∧ ((f.end_ = 0 ∨ (f.end_ = 1 ∧ s.isTandem a = true)) → f.redirectAllowed ≤ 1 →
          (s.jpl.freeList.length ≤ 8 →
            exec (.enterStore l p) s = .next (s.refused (.enterStore l p) (.order l) 0x01 .poolFull))
          ∧ (8 < s.jpl.freeList.length → s.jpl.quota.get l ≤ s.jpl.live.get l →
            exec (.enterStore l p) s = .next (s.refused (.enterStore l p) (.order l) 0x01 .quota))
          ∧ (8 < s.jpl.freeList.length → s.jpl.live.get l < s.jpl.quota.get l →
            ((∃ j ∈ s.jobs, j.kind = .store ∧ j.tag = f.tag) →
              exec (.enterStore l p) s = .next (s.refused (.enterStore l p) (.order l) 0x01 .dupTag))
            ∧ ((∀ j ∈ s.jobs, j.kind = .store → j.tag ≠ f.tag) →
              (∀ c, f.destination = some c → s.hasCell a c = false →
                exec (.enterStore l p) s = .next (s.refused (.enterStore l p) (.order l) 0x01 .badCell))
              ∧ (∀ c, f.destination = some c → s.hasCell a c = true → (s.cell c).state ≠ .empty →
                exec (.enterStore l p) s = .next (s.refused (.enterStore l p) (.order l) 0x01 .cellNotEmpty))
              ∧ (∀ c, f.destination = some c → s.hasCell a c = true → (s.cell c).state = .empty →
                s.pairAllows c = false →
                exec (.enterStore l p) s = .next (s.refused (.enterStore l p) (.order l) 0x01 .cellTaken))
              ∧ ((∀ c, f.destination = some c → s.hasCell a c = true ∧ (s.cell c).state = .empty ∧
                    s.pairAllows c = true) → MapWf s →
                ∃ t h j es, exec (.enterStore l p) s = .next t
                  ∧ s.nextHandle = some h ∧ t.job? h = some j
                  ∧ t = { s.answered (.enterStore l p) (.order l) 0x01 (decide (3 < f.cls))
                        (.entered h .pending (some .noPallet) none none) with
                      jpl := { s.jpl with
                        slots := t.jpl.slots, freeList := s.jpl.freeList.drop 1,
                        live := s.jpl.live.set l (s.jpl.live.get l + 1), entryOrder := s.jpl.entryOrder + 1 }
                      cmp := t.cmp
                      events := s.events.erase (.enterStore l p) ++ es ++ [.storeHandOver h l p] }
                  ∧ j.handle = h ∧ j.kind = .store ∧ j.origin = .order l ∧ j.reference = f.reference ∧ j.tag = f.tag
                  ∧ j.cls.val = min f.cls 3 ∧ j.aisle = a ∧ (j.end_ = .front ↔ f.end_ = 0) ∧ (j.end_ = .rear ↔ f.end_ = 1)
                  ∧ j.destination = f.destination ∧ j.chosen = f.destination
                  ∧ (j.redirectAllowed = true ↔ f.redirectAllowed = 1) ∧ j.age = 0
                  ∧ j.entryOrder = s.jpl.entryOrder ∧ j.state = .pending ∧ j.reason = some .noPallet ∧ j.load = none
                  ∧ j.unit = none ∧ j.promised = none ∧ j.stranded = false ∧ j.overdue = false
                  ∧ (∀ g : Handle, g.slot ≠ h.slot → t.job? g = s.job? g)
                  ∧ (∀ c, t.cell c =
                      if f.destination = some c then { s.cell c with state := .inReserved h } else s.cell c)
                  ∧ (f.destination = none → es = []) ∧ ∀ e ∈ es, ∃ g, e = .reEvaluation g))))

/-- ENTER RETRIEVE refuses, in this order, an unconfigured aisle, an end out of range or a list of no or of more than
four candidates, a full pool, a spent quota, a candidate that is no cell of the aisle, and a wave that is absent, closed
or past the number, or already holds it; else it takes a slot for a retrieve of its first-named cells and evaluates it
once: it closes NO_STOCK with no candidate left, or is READY or PENDING as the evaluation gives, and the reply says
which. The candidates stand in the order of their first occurrence (R40, R41, R45, R46, R48, R164, R203; that an aisle
above 7 is NO_AISLE and that a payload of another length, its count in range or not reached, is refused before the aisle
is tested: log entry 9; that the reply counts the candidates named: log entry 11). A retrieve that becomes READY raises
the selections of the cranes that wait at that moment, FRONT before REAR, and then the preemption check (R68, R85; the
model's choice: log entries 29, 49 and 50). -/
def Obligations.EnterRetrieveChecksThenEvaluates : Prop :=
  ∀ (s : State) (l : OrderLink) (p : List Byte), Hears s (.order l) →
    (8 ≤ p.length → (byteAt p 7 = 0 ∨ 4 < byteAt p 7) →
      ((∀ a : AisleId, byteAt p 5 = a.val → s.configured a = false) →
        exec (.enterRetrieve l p) s = .next (s.refused (.enterRetrieve l p) (.order l) 0x02 .noAisle))
      ∧ ∀ a : AisleId, byteAt p 5 = a.val → s.configured a = true →
        exec (.enterRetrieve l p) s = .next (s.refused (.enterRetrieve l p) (.order l) 0x02 .badField))
    ∧ ((p.length < 8 ∨ (1 ≤ byteAt p 7 ∧ byteAt p 7 ≤ 4 ∧ p.length ≠ 11 + 3 * byteAt p 7)) →
      exec (.enterRetrieve l p) s = .next (s.refused (.enterRetrieve l p) (.order l) 0x02 .badField))
    ∧ ∀ f, decodeEnterRetrieve p = some f →
      ((∀ a : AisleId, f.aisle = a.val → s.configured a = false) →
        exec (.enterRetrieve l p) s = .next (s.refused (.enterRetrieve l p) (.order l) 0x02 .noAisle))
      ∧ ∀ a : AisleId, f.aisle = a.val → s.configured a = true →
        ((2 < f.end_ ∨ (f.end_ = 1 ∧ s.isTandem a = false)) →
          exec (.enterRetrieve l p) s = .next (s.refused (.enterRetrieve l p) (.order l) 0x02 .badField))
        ∧ ((f.end_ = 0 ∨ f.end_ = 2 ∨ (f.end_ = 1 ∧ s.isTandem a = true)) →
          (s.jpl.freeList.length ≤ 8 →
            exec (.enterRetrieve l p) s = .next (s.refused (.enterRetrieve l p) (.order l) 0x02 .poolFull))
          ∧ (8 < s.jpl.freeList.length → s.jpl.quota.get l ≤ s.jpl.live.get l →
            exec (.enterRetrieve l p) s = .next (s.refused (.enterRetrieve l p) (.order l) 0x02 .quota))
          ∧ (8 < s.jpl.freeList.length → s.jpl.live.get l < s.jpl.quota.get l →
            ((∃ c ∈ f.candidates, s.hasCell a c = false) →
              exec (.enterRetrieve l p) s = .next (s.refused (.enterRetrieve l p) (.order l) 0x02 .badCell))
            ∧ ((∀ c ∈ f.candidates, s.hasCell a c = true) →
              (f.wave ≠ 0 → (∀ w, s.wave? f.wave = some w →
                  w.isOpen = false ∨ f.seq < w.firstSeq ∨ 4095 < f.seq ∨ f.seq ≤ w.takenThrough) →
                exec (.enterRetrieve l p) s = .next (s.refused (.enterRetrieve l p) (.order l) 0x02 .badWave))
              ∧ (∀ w, f.wave ≠ 0 → s.wave? f.wave = some w → w.isOpen = true → w.firstSeq ≤ f.seq → f.seq ≤ 4095 →
                  w.takenThrough < f.seq → (∃ j ∈ s.jobs, j.wave = some { id := f.wave, seq := f.seq }) →
                exec (.enterRetrieve l p) s = .next (s.refused (.enterRetrieve l p) (.order l) 0x02 .dupSeq))
              ∧ ((f.wave = 0 ∨ ∃ w, s.wave? f.wave = some w ∧ w.isOpen = true ∧ w.firstSeq ≤ f.seq ∧ f.seq ≤ 4095
                    ∧ w.takenThrough < f.seq ∧ ∀ j ∈ s.jobs, j.wave ≠ some { id := f.wave, seq := f.seq }) →
                  PoolLawful s →
                ∃ t h r st rs oc, exec (.enterRetrieve l p) s = .next t
                  ∧ s.nextHandle = some h
                  ∧ t.tx (.order l) = s.tx (.order l) ++ [.reply (okReply 0x02 (decide (3 < f.cls))
                      (.entered h st rs oc (some r.candidates.length)))]
                  ∧ r.handle = h ∧ r.kind = .retrieve ∧ r.origin = .order l ∧ r.reference = f.reference
                  ∧ r.cls.val = min f.cls 3 ∧ r.aisle = a
                  ∧ r.end_ = (if f.end_ = 0 then .front else if f.end_ = 1 then .rear else .either)
                  ∧ r.candidates.Nodup ∧ r.candidates.Sublist f.candidates ∧ (∀ c, c ∈ r.candidates ↔ c ∈ f.candidates)
                  ∧ r.candidates.Pairwise (fun c d => f.candidates.idxOf c < f.candidates.idxOf d)
                  ∧ r.wave = (if f.wave = 0 then none else some { id := f.wave, seq := f.seq })
                  ∧ r.age = 0 ∧ r.entryOrder = s.jpl.entryOrder ∧ r.chosen = none ∧ r.unit = none ∧ r.promised = none
                  ∧ r.waitsFor = none ∧ r.state = .pending
                  ∧ t.cmp = s.cmp ∧ t.crt = s.crt ∧ t.ale = s.ale ∧ t.aic = s.aic ∧ t.flg = s.flg
                  ∧ (∀ g : Handle, g.slot ≠ h.slot → t.job? g = s.job? g)
                  ∧ (s.kept r = [] → st = .closing ∧ rs = none ∧ oc = some .noStock
                      ∧ Closed s t l r .noStock none)
                  ∧ (s.kept r ≠ [] → oc = none ∧ (st, rs) = ((s.evaluated r (s.kept r)).1, (s.evaluated r (s.kept r)).2.1)
                      ∧ t.job? h = some { r with state := st, reason := rs, candidates := s.kept r }
                      ∧ t.jpl.live = s.jpl.live.set l (s.jpl.live.get l + 1)
                      ∧ t.events = s.events.erase (.enterRetrieve l p) ++ (s.evaluated r (s.kept r)).2.2
                      ∧ ∀ w, f.wave ≠ 0 → s.wave? f.wave = some w → t.wave? f.wave = some { w with live := w.live + 1 })))))

/-- CANCEL refuses an unknown or CLOSING job, another link's, a LOADED one and one a redirect stands before; else the
job closes CANCELLED with its reservations freed and a matched pallet standing UNCLAIMED again, and a relocation that
serves it and is not LOADED is cancelled with it. From an OFFERED crane the whole offer is withdrawn with keep 0: its
offer timer stops, a partner is READY, and the crane goes to IDLE, PARKING or OUT_OF_SERVICE. A crane at work is sent
WITHDRAW keeping the steps before the job's own; a partner left without a step is READY, and where none of the steps
kept is still to end the crane goes as above. In a tandem aisle its interval falls to its bay, or to the steps kept
for a LOADED job (R52, R56 to R60, R99, R115, R128, R130, R159, R173; the cell in the notice: log entry 19; a redirect
promised to the cancelled relocation is withdrawn: log entry 27; order: log entry 35). Two clauses are the model's
reading: that a WITHDRAW keeping steps with no LOADED job leaves the granted interval (R115 is silent: log entry 43),
and that JOB_CLOSED stands first behind the old queue, ahead of the PALLET_MOVED of the relocation cancelled with the
retrieve (log entry 48). The closing is stated for every state with the laws that every step keeps; they say among the
rest that a unit is a single or a pair whose steps are those its jobs have still to make (R50, R129). -/
def Obligations.CancelChecksThenCloses : Prop :=
  ∀ (s : State) (l : OrderLink) (p : List Byte), Hears s (.order l) →
    (decodeHandle p = none → exec (.cancel l p) s = .next (s.refused (.cancel l p) (.order l) 0x03 .badField))
    ∧ ∀ h, decodeHandle p = some h →
      ((∀ j, s.job? h = some j → j.state = .closing) →
        exec (.cancel l p) s = .next (s.refused (.cancel l p) (.order l) 0x03 .noSuchJob))
      ∧ ∀ j, s.job? h = some j → j.state ≠ .closing →
        (j.origin ≠ .order l → exec (.cancel l p) s = .next (s.refused (.cancel l p) (.order l) 0x03 .notOwner))
        ∧ (j.origin = .order l → j.state = .loaded →
          exec (.cancel l p) s = .next (s.refused (.cancel l p) (.order l) 0x03 .tooLate))
        ∧ (j.origin = .order l → j.state ≠ .loaded →
            (j.promised ≠ none ∨ ∃ u, j.unit = some u ∧ (s.crane u.crane).redirect ≠ none) →
          exec (.cancel l p) s = .next (s.refused (.cancel l p) (.order l) 0x03 .busy))
        ∧ (j.origin = .order l → j.state ≠ .loaded → j.promised = none →
            (∀ u, j.unit = some u → (s.crane u.crane).redirect = none) → j.kind ≠ .relocate →
            Lawful s → PoolLawful s → WorkLawful s →
          ∃ t, exec (.cancel l p) s = .next t
            ∧ t.tx (.order l) = s.tx (.order l) ++ [.reply (okReply 0x03 false (.cancelled j.state))]
            ∧ (s.hasRoom l = true → t.job? h = none
                ∧ ∃ more, t.queue l = s.queue l ++ .jobClosed h j.reference j.kind .cancelled j.overdue
                    (if j.kind = .retrieve ∧ j.carried ≠ none then j.chosen else none) :: more)
            ∧ (s.hasRoom l = false → ∃ k, t.job? h = some k ∧ k.state = .closing ∧ k.outcome = some .cancelled
                ∧ (∃ more, t.jpl.closingWait.get l = s.jpl.closingWait.get l ++ h :: more)
                ∧ (j.waitsFor = none → t.jpl.closingWait.get l = s.jpl.closingWait.get l ++ [h]))
            ∧ (∀ e x, j.kind = .store → j.end_ = jobEnd e → s.input j.aisle e = .matched x h →
                t.input j.aisle e = .unclaimed x)
            ∧ (j.unit = none → j.waitsFor = none → t.crt = s.crt ∧ ∀ c, t.cell c =
                if j.chosen = some c ∨ j.target = some c then (s.cell c).releasedBy h else s.cell c)
            ∧ (∀ c, j.chosen = some c →
                ((s.cell c).state = .inReserved h → t.cell c = { s.cell c with state := .empty })
                ∧ ∀ k, (s.cell c).state = .outReserved h k → t.cell c = { s.cell c with state := .full k })
            ∧ (∀ u, j.unit = some u → ∀ w, (s.crane u.crane).unit = some w → ∀ g ∈ w.jobs, g ≠ h →
                ((s.crane u.crane).state = .offered ∨ ∀ y ∈ w.steps.take (w.before h), y.job ≠ g) →
                ∀ k, s.job? g = some k → k.kind = .retrieve → ∀ d, k.chosen = some d → ∀ x,
                  (s.cell d).state = .outReserved g x → t.cell d = { s.cell d with state := .full x })
            ∧ (∀ r, j.kind = .retrieve → j.waitsFor = some r.handle → s.job? r.handle = some r → r.kind = .relocate →
                r.served = some h → r.origin = .internal → r.handle ≠ h →
                (∀ u, j.unit = some u → r.handle ∉ (s.crane u.crane).jobs ∧ ∀ v, r.unit = some v → v.crane ≠ u.crane) →
                (r.state ∈ [JobState.ready, .offered, .enRoute] → RelocationCancelled s t j r)
                ∧ (r.state = .loaded → r.partner = none → r.promised = none → t.job? r.handle = some r))
            ∧ (∀ u w, j.unit = some u → (s.crane u.crane).unit = some w → (s.crane u.crane).state = .offered →
                (∀ r, j.waitsFor = some r → r ∉ w.jobs ∧ ∀ g v, s.job? r = some g → g.unit = some v → v.crane ≠ u.crane) →
                (∃ more, t.tx (.crane u.crane) = s.tx (.crane u.crane) ++ .withdraw w.number 0 :: more)
                ∧ (t.crane u.crane).unit = none ∧ (t.crane u.crane).offerTimer = none
                ∧ (t.crane u.crane).state = s.afterWork u.crane
                ∧ IntervalIs s t u.crane (fun i =>
                    s.parkWidened u.crane (s.afterWork u.crane) (i.fallen (s.craneBay u.crane) []))
                ∧ ∀ g ∈ w.jobs, g ≠ h → ∀ k, s.job? g = some k → ∃ k', t.job? g = some k' ∧ k'.state = .ready
                    ∧ k'.unit = none ∧ k'.partner = none)
            ∧ (∀ u w, j.unit = some u → (s.crane u.crane).unit = some w → (s.crane u.crane).state ≠ .offered →
                (∀ r, j.waitsFor = some r → r ∉ w.jobs ∧ ∀ g v, s.job? r = some g → g.unit = some v → v.crane ≠ u.crane) →
                (∃ more, t.tx (.crane u.crane) = s.tx (.crane u.crane) ++ .withdraw w.number (w.before h) :: more)
                ∧ ((w.steps.take (w.before h)).drop (w.current - 1) = [] →
                    (t.crane u.crane).unit = none ∧ (t.crane u.crane).state = s.afterWork u.crane
                    ∧ IntervalIs s t u.crane (fun i =>
                        s.parkWidened u.crane (s.afterWork u.crane) (i.fallen (s.craneBay u.crane) [])))
                ∧ ((w.steps.take (w.before h)).drop (w.current - 1) ≠ [] →
                    (t.crane u.crane).state = (s.crane u.crane).state
                    ∧ (t.crane u.crane).unit.map (·.steps) = some (w.steps.take (w.before h))
                    ∧ IntervalIs s t u.crane (fun i => if s.loadedOn u.crane = none then i else
                        i.fallen (s.craneBay u.crane) (s.stepBays ((w.steps.take (w.before h)).drop (w.current - 1)))))
                ∧ ∀ g ∈ w.jobs, g ≠ h → (∀ x ∈ w.steps.take (w.before h), x.job ≠ g) → ∀ k, s.job? g = some k →
                    ∃ k', t.job? g = some k' ∧ k'.state = .ready ∧ k'.unit = none ∧ k'.partner = none))

/-- RESOLVE refuses a bad field, an unknown or CLOSING job, and one that is not LOADED and stranded. Else the job
closes MANUAL; the cell its disposition names is declared FULL with the class given, or the one carried, or flagged
where that is declined; a drop cell not declared is released to EMPTY; a retrieve's station's credit follows; and its
crane is sent WITHDRAW with keep 0 and gives up its unit, a WORKING one going on to IDLE, PARKING or OUT_OF_SERVICE. A
relocation that serves a resolved retrieve and is not LOADED is cancelled. A resolved relocation's served retrieve
waits for it no longer, and its PALLET_MOVED carries the moved flag clear; at its destination no retrieve names the
source any more, but one that holds it for its own drop, and those that did draw a re-evaluation where the declaration
was accepted (R16, R56, R57, R61, R62, R97 to R99, R147, R161, R162; order: log entry 35; a redirect promised to the
cancelled relocation is withdrawn: log entry 27; the rewrite though the declaration is declined: log entry 38; the job
that holds the source: log entry 47). Two clauses are the model's reading: the cell in the MANUAL JOB_CLOSED, none for
a store even at its destination (log entry 19), and that JOB_CLOSED stands first behind the old queue, ahead of the
PALLET_MOVED of the relocation cancelled with the retrieve (log entry 48). -/
def Obligations.ResolveClosesAStrandedJob : Prop :=
  ∀ (s : State) (l : OrderLink) (p : List Byte), Hears s (.order l) →
    ((p.length ≠ 4 ∨ 15 < byteAt p 1) →
      exec (.resolve l p) s = .next (s.refused (.resolve l p) (.order l) 0x04 .badField))
    ∧ ∀ (h : Handle) (d k : Byte), p = encodeHandle h ++ [d, k] →
      ((∀ j, s.job? h = some j → j.state = .closing) →
        exec (.resolve l p) s = .next (s.refused (.resolve l p) (.order l) 0x04 .noSuchJob))
      ∧ ∀ j, s.job? h = some j → j.state ≠ .closing →
        ((2 < d.toNat ∨ (3 < k.toNat ∧ k.toNat ≠ 255)) →
          exec (.resolve l p) s = .next (s.refused (.resolve l p) (.order l) 0x04 .badField))
        ∧ (d.toNat ≤ 2 → (k.toNat ≤ 3 ∨ k.toNat = 255) →
          ((j.state ≠ .loaded ∨ j.stranded = false) →
            exec (.resolve l p) s = .next (s.refused (.resolve l p) (.order l) 0x04 .notStranded))
          ∧ (j.state = .loaded → j.stranded = true → Lawful s → PoolLawful s → WorkLawful s →
            ∃ t declined, exec (.resolve l p) s = .next t
              ∧ t.tx (.order l) = s.tx (.order l) ++ [.reply (okReply 0x04 false (.resolved declined))]
              ∧ (∀ c, (d.toNat = 1 ∧ ((j.kind = .store ∧ j.chosen = some c) ∨ (j.kind = .relocate ∧ j.target = some c)))
                    ∨ (d.toNat = 0 ∧ j.kind ≠ .store ∧ j.chosen = some c) →
                  s.hasCell c.aisle c = true →
                  (declined = false ↔ (s.cell c).state = .inReserved h ∨
                    ((s.cell c).state = .empty ∧ s.frontsReserved c = false))
                  ∧ (declined = false → t.cell c = { s.cell c with
                      state := .full (if k.toNat ≤ 3 then Fin.ofNat 4 k.toNat else
                        (if j.kind = .store then j.load.bind (·.cls) else j.carried).getD (s.fit c)) })
                  ∧ (declined = true → (t.cell c).conflict = true))
              ∧ (d.toNat = 2 ∨ (d.toNat = 0 ∧ j.kind = .store) ∨ (d.toNat = 1 ∧ j.kind = .retrieve) → declined = false)
              ∧ (d.toNat ≠ 1 → ∀ c, ((j.kind = .store ∧ j.chosen = some c) ∨ (j.kind = .relocate ∧ j.target = some c)) →
                  (s.cell c).state = .inReserved h → t.cell c = { s.cell c with state := .empty })
              ∧ (∀ lo, j.kind ≠ .relocate → j.origin = .order lo →
                  (s.hasRoom lo = true → t.job? h = none
                    ∧ ∃ more, t.queue lo = s.queue lo ++ .jobClosed h j.reference j.kind .manual j.overdue
                        (if j.kind = .retrieve ∧ j.carried ≠ none then j.chosen else none) :: more)
                  ∧ (s.hasRoom lo = false → ∃ x, t.job? h = some x ∧ x.state = .closing ∧ x.outcome = some .manual
                    ∧ ∃ more, t.jpl.closingWait.get lo = s.jpl.closingWait.get lo ++ h :: more))
              ∧ (∀ r, j.kind = .retrieve → j.waitsFor = some r.handle → s.job? r.handle = some r → r.kind = .relocate →
                  r.served = some h → r.origin = .internal → r.handle ≠ h →
                  (∀ u v, j.unit = some u → r.unit = some v → v.crane ≠ u.crane) →
                  (∀ u, j.unit = some u → r.handle ∉ (s.crane u.crane).jobs) →
                  (∀ c, j.chosen = some c → (s.cell c).state ≠ .inReserved h) →
                  (r.state ∈ [JobState.ready, .offered, .enRoute] → RelocationCancelled s t j r)
                  ∧ (r.state = .loaded → r.partner = none → r.promised = none → t.job? r.handle = some r))
              ∧ (∀ u w, j.unit = some u → (s.crane u.crane).unit = some w →
                  (∀ r, j.waitsFor = some r → ∀ g v, s.job? r = some g → g.unit = some v → v.crane ≠ u.crane) →
                  (∀ q g r k v, j.served = some q → s.job? q = some g → g.waitsFor = some r → r ≠ h → s.job? r = some k →
                    k.unit = some v → v.crane ≠ u.crane) →
                  (∃ more, t.tx (.crane u.crane) = s.tx (.crane u.crane) ++ .withdraw w.number 0 :: more)
                  ∧ (t.crane u.crane).unit = none
                  ∧ (t.crane u.crane).state =
                      (if (s.crane u.crane).state = .working then s.afterWork u.crane else (s.crane u.crane).state)
                  ∧ IntervalIs s t u.crane (fun i => if (s.crane u.crane).state = .working then
                      s.parkWidened u.crane (s.afterWork u.crane) (i.fallen (s.craneBay u.crane) []) else i)
                  ∧ ∀ a e, j.kind = .retrieve → j.waitsFor = none → (s.crane u.crane).mapping = some (a, e) →
                      (s.crane u.crane).redirect = none → t.credit a e =
                      (if d.toNat = 1 then
                        { reportedFree := (s.credit a e).reportedFree - 1, inFlight := (s.credit a e).inFlight - 1 }
                       else { reportedFree := (s.credit a e).reportedFree, inFlight := (s.credit a e).inFlight - 1 }))
              ∧ (j.kind = .relocate → j.origin = .internal →
                  ((∀ q g, j.served = some q → s.job? q = some g → g.waitsFor = some h ∨ g.waitsFor = none) →
                    ((∀ lo, s.liu.active.get lo = true → (s.queue lo).length + 2 < 32) → t.job? h = none)
                    ∧ ∀ lo src q, s.liu.active.get lo = true → (s.queue lo).length + 2 < 32 → j.chosen = some src →
                        j.served = some q → .palletMoved h q .manual false src none ∈ t.queue lo)
                  ∧ (∀ k, t.job? h = some k → k.state = .closing ∧ k.outcome = some .manual)
                  ∧ (∀ q g k, j.served = some q → q ≠ h → s.job? q = some g → g.waitsFor = some h → t.job? q = some k →
                      k.waitsFor = none)
                  ∧ ∀ src dst, d.toNat = 1 → j.chosen = some src → j.target = some dst → src ≠ dst →
                      (∀ g k, t.job? g = some k → k.kind = .retrieve → k.state ≠ .closing → src ∉ k.candidates
                        ∨ (s.cell src).state = .inReserved g)
                      ∧ Rewritten s t h j.served src dst
                      ∧ (declined = false → ∀ g k, s.job? g = some k → k.kind = .retrieve → k.state ≠ .closing →
                          src ∈ k.candidates → (s.cell src).state ≠ .inReserved g → .reEvaluation g ∈ t.events))))

/-! ## Waves and stations -/

/-- OPEN WAVE refuses a bad field, an id held and a full table; else it adds an OPEN wave with its window clamped to
1..16 and taken_through one below its first number (R163); that the table is a list and the new wave stands last in it
is log entry 14.
CLOSE WAVE refuses an id no entry holds; else it answers the wave's live count, closes the wave, frees its entry when
the count is 0, and leaves every other wave (R164). -/
def Obligations.WavesOpenAndClose : Prop :=
  (∀ (s : State) (l : OrderLink) (p : List Byte), Hears s (.order l) →
      ((p.length ≠ 4 ∨ byteAt p 0 = 0 ∨ be16At p 2 = 0 ∨ 4095 < be16At p 2) →
        exec (.openWave l p) s = .next (s.refused (.openWave l p) (.order l) 0x0C .badField))
      ∧ (p.length = 4 → byteAt p 0 ≠ 0 → 1 ≤ be16At p 2 → be16At p 2 ≤ 4095 →
        ((∃ w ∈ s.swu.waves, w.id = byteAt p 0) →
          exec (.openWave l p) s = .next (s.refused (.openWave l p) (.order l) 0x0C .badWave))
        ∧ ((∀ w ∈ s.swu.waves, w.id ≠ byteAt p 0) →
          (16 ≤ s.swu.waves.length →
            exec (.openWave l p) s = .next (s.refused (.openWave l p) (.order l) 0x0C .tableFull))
          ∧ (s.swu.waves.length < 16 → exec (.openWave l p) s = .next
              { s.answered (.openWave l p) (.order l) 0x0C (decide (byteAt p 1 = 0 ∨ 16 < byteAt p 1)) .nothing with
                swu := { s.swu with waves := s.swu.waves ++
                  [{ id := byteAt p 0, isOpen := true, window := max 1 (min 16 (byteAt p 1)), firstSeq := be16At p 2,
                     takenThrough := be16At p 2 - 1, live := 0 }] } }))))
  ∧ (∀ (s : State) (l : OrderLink) (p : List Byte), Hears s (.order l) →
      (p.length ≠ 1 → exec (.closeWave l p) s = .next (s.refused (.closeWave l p) (.order l) 0x0D .badField))
      ∧ (p.length = 1 → s.wave? (byteAt p 0) = none →
        exec (.closeWave l p) s = .next (s.refused (.closeWave l p) (.order l) 0x0D .badWave))
      ∧ ∀ w, p.length = 1 → s.wave? (byteAt p 0) = some w → ∃ t, exec (.closeWave l p) s = .next t
        ∧ t = { s.answered (.closeWave l p) (.order l) 0x0D false (.waveClosed w.live) with
            swu := { s.swu with waves := t.swu.waves } }
        ∧ (w.live ≠ 0 → t.wave? w.id = some { w with isOpen := false })
        ∧ (w.live = 0 → ∀ v ∈ t.swu.waves, v.id = w.id → v.live ≠ 0)
        ∧ ∀ v, v.id ≠ w.id → (v ∈ t.swu.waves ↔ v ∈ s.swu.waves))

/-- ARRIVE refuses a bad field, an absent station and a busy one, the last two with STATION_PROTOCOL; tag 0 empties an
UNCLAIMED record; a new pallet stands UNCLAIMED where no store waits for it, and else is matched to its store and judged
by the load check, the reply carrying MATCHED and the verdict (R47, R154 to R158; that it does so for a rejected load
too, whose record ends EMPTY: log entry 39; that a passed store stands PENDING without a reason until its slot search:
log entry 12). The load check tests the height against the top limit in use, then the greatest and then the least
weight, and gives the smallest class whose limit is at least the height (R157). A store passed whose fixed cell does not
fit, and that may be redirected, gives that cell up for a slot search with STORE_REDIRECTED; a rejected one gives its
fixed cell up (R47, R56). -/
def Obligations.ArriveRecordsAndMatches : Prop :=
  (∀ (o : Operating) (ls : List Nat) (height weight : Nat), ls = [o.limit0, o.limit1, o.limit2, o.limit3] →
      1 ≤ o.classCount → o.classCount ≤ 4 → o.consistent = true →
      (loadTest o height weight = .error .height ↔ ls.getD (o.classCount - 1) 0 < height)
      ∧ (loadTest o height weight = .error .weightHigh ↔
          height ≤ ls.getD (o.classCount - 1) 0 ∧ o.weightMax < weight)
      ∧ (loadTest o height weight = .error .weightLow ↔
          height ≤ ls.getD (o.classCount - 1) 0 ∧ weight < o.weightMin)
      ∧ loadTest o height weight ≠ .error .noFit
      ∧ ∀ k, loadTest o height weight = .ok k ↔ o.weightMin ≤ weight ∧ weight ≤ o.weightMax
          ∧ k.val < o.classCount ∧ height ≤ ls.getD k.val 0 ∧ ∀ i, i < k.val → ls.getD i 0 < height)
  ∧ ∀ (s : State) (p : List Byte), Hears s .station →
    (decodeArrive p = none → exec (.arrive p) s = .next (s.refused (.arrive p) .station 0x30 .badField))
    ∧ ∀ f, decodeArrive p = some f →
      ((7 < f.aisle ∨ 1 < f.end_) → exec (.arrive p) s = .next (s.refused (.arrive p) .station 0x30 .badField))
      ∧ ∀ (a : AisleId) (e : End), f.aisle = a.val → f.end_ = e.code →
        (∀ r, (r = .noStation ∧ s.stationExists a e = false)
              ∨ (r = .stationBusy ∧ s.stationExists a e = true
                  ∧ ((f.tag ≠ 0 ∧ s.input a e ≠ .empty) ∨ (f.tag = 0 ∧ ∃ x h, s.input a e = .matched x h))) →
          exec (.arrive p) s = .next { s.refused (.arrive p) .station 0x30 r with
            events := s.events.erase (.arrive p) ++
              [.faultReport { kind := .stationProtocol, source := .link .station, aisle := some a, job := none,
                              payload := p.take 16 }] })
        ∧ (s.stationExists a e = true → f.tag = 0 → (∀ x h, s.input a e ≠ .matched x h) →
          exec (.arrive p) s = .next
            ((s.answered (.arrive p) .station 0x30 false (.arrived .empty none)).setInput a e .empty))
        ∧ (s.stationExists a e = true → f.tag ≠ 0 → s.input a e = .empty →
          ((∀ j ∈ s.jobs, j.qualifies a e f.tag = false) →
            exec (.arrive p) s = .next
              ((s.answered (.arrive p) .station 0x30 false
                (.arrived (.unclaimed { tag := f.tag, height := f.height, weight := f.weight }) none)).setInput a e
                  (.unclaimed { tag := f.tag, height := f.height, weight := f.weight })))
          ∧ (∀ j q, s.qualifying a e f.tag = some j → s.profile? a = some q → HandleLaw s →
            ∃ t v more, exec (.arrive p) s = .next t
              ∧ t.tx .station = s.tx .station ++ .reply (okReply 0x30 false
                  (.arrived (.matched { tag := f.tag, height := f.height, weight := f.weight } j.handle)
                    (some (j.handle, v)))) :: more
              ∧ more = (match v with | .rejected r => [.reject a e f.tag r] | .passed => [])
              ∧ Judged s t j q a e { tag := f.tag, height := f.height, weight := f.weight } .station p v
              ∧ t.crt = s.crt ∧ t.aic = s.aic ∧ t.ale = s.ale ∧ t.flg = s.flg
              ∧ ∀ b x, (b, x) ≠ (a, e) → t.input b x = s.input b x))

/-- A store handed over is matched where its station holds an UNCLAIMED pallet of its tag, and judged by the load check
as at an ARRIVE, with its own order link as the source; one passed for a slot search gives up its fixed cell with
STORE_REDIRECTED, and a rejected one gives it up too; else nothing happens (R47, R56, R156 to R158; the passed store
without a reason: log entry 12; a hand-over overtaken, without effect: log entry 45). -/
def Obligations.StoreHandOverMatches : Prop :=
  ∀ (s : State) (h : Handle) (l : OrderLink) (p : List Byte),
    ((∀ j, s.job? h = some j → ∀ x, s.input j.aisle j.storeEnd = .unclaimed x →
        j.qualifies j.aisle j.storeEnd x.tag = false) →
      exec (.storeHandOver h l p) s = .next (s.take (.storeHandOver h l p)))
    ∧ ∀ j q x, s.job? h = some j → s.profile? j.aisle = some q → s.input j.aisle j.storeEnd = .unclaimed x →
      j.qualifies j.aisle j.storeEnd x.tag = true → HandleLaw s →
      ∃ t v, exec (.storeHandOver h l p) s = .next t
        ∧ t.tx .station = s.tx .station ++
            (match v with | .rejected r => [.reject j.aisle j.storeEnd x.tag r] | .passed => [])
        ∧ Judged s t j q j.aisle j.storeEnd x (.order l) p v
        ∧ t.crt = s.crt ∧ t.aic = s.aic ∧ t.ale = s.ale ∧ t.flg = s.flg

/-- OUTPUT_FREE refuses a bad field and an absent station, the latter with STATION_PROTOCOL; else the station's reported
free count is the count given, at most 8, the reply carries the credit left, and selections start where it rises, for
the cranes that wait at that moment, FRONT before REAR (R68, R160, R162; the model's choice: log entries 29 and 50).
DOCK_TAKEN refuses a bad field, and, with DOCK_ORDER, an id no entry holds and a number not above the wave's
taken_through; else it raises taken_through to the number and draws one evaluation of each live job of the wave, lowest
entry order first, with nothing said of two jobs of equal entry order (R166; those: log entry 71). -/
def Obligations.StationReportsSetTheirRecords : Prop :=
  (∀ (s : State) (p : List Byte), Hears s .station →
      ((p.length ≠ 3 ∨ 7 < byteAt p 0 ∨ 1 < byteAt p 1) →
        exec (.outputFree p) s = .next (s.refused (.outputFree p) .station 0x31 .badField))
      ∧ ∀ (x y n : Byte) (a : AisleId) (e : End), p = [x, y, n] → x.toNat = a.val → y.toNat = e.code →
        (s.stationExists a e = false → exec (.outputFree p) s = .next
          { s.refused (.outputFree p) .station 0x31 .noStation with
            events := s.events.erase (.outputFree p) ++
              [.faultReport { kind := .stationProtocol, source := .link .station, aisle := some a, job := none,
                              payload := p }] })
        ∧ (s.stationExists a e = true → ∃ t, exec (.outputFree p) s = .next t
          ∧ t = { s.answered (.outputFree p) .station 0x31 (decide (8 < n.toNat)) (.credit
                (min 8 n.toNat - (s.credit a e).inFlight)) with
              swu := { s.swu with credits := t.swu.credits }
              events := s.events.erase (.outputFree p) ++
                (if (s.credit a e).available < min 8 n.toNat - (s.credit a e).inFlight then s.wakes a else []) }
          ∧ ∀ b z, t.credit b z =
              if b = a ∧ z = e then { reportedFree := min 8 n.toNat, inFlight := (s.credit a e).inFlight }
              else s.credit b z))
  ∧ (∀ (s : State) (p : List Byte), Hears s .station →
      ((p.length ≠ 3 ∨ be16At p 1 = 0 ∨ 4095 < be16At p 1) →
        exec (.dockTaken p) s = .next (s.refused (.dockTaken p) .station 0x32 .badField))
      ∧ (p.length = 3 → 1 ≤ be16At p 1 → be16At p 1 ≤ 4095 →
        (∀ r, (r = .badWave ∧ s.wave? (byteAt p 0) = none)
              ∨ (r = .outOfOrder ∧ ∃ w, s.wave? (byteAt p 0) = some w ∧ be16At p 1 ≤ w.takenThrough) →
          exec (.dockTaken p) s = .next { s.refused (.dockTaken p) .station 0x32 r with
            events := s.events.erase (.dockTaken p) ++
              [.faultReport { kind := .dockOrder, source := .link .station, aisle := none, job := none,
                              payload := p }] })
        ∧ ∀ w, s.wave? (byteAt p 0) = some w → w.takenThrough < be16At p 1 → ∃ t es, exec (.dockTaken p) s = .next t
          ∧ t = { s.answered (.dockTaken p) .station 0x32 false (.dockTaken (be16At p 1)) with
              swu := { s.swu with waves := t.swu.waves }, events := s.events.erase (.dockTaken p) ++ es }
          ∧ t.wave? w.id = some { w with takenThrough := be16At p 1 }
          ∧ (∀ v, v.id ≠ w.id → (v ∈ t.swu.waves ↔ v ∈ s.swu.waves))
          ∧ ∃ js : List Job, es = js.map (fun j => .reEvaluation j.handle)
            ∧ js.Perm (s.jobs.filter fun j => j.wave.any fun y => decide (y.id = w.id))
            ∧ js.Pairwise fun i j => i.entryOrder ≤ j.entryOrder))

/-! ## Crane messages -/

/-- A message of a crane that fits no row of its state is discarded with STALE_MESSAGE and changes nothing else: an
ACCEPT of another unit (answered with WITHDRAW besides), a LATE or REFUSE of another unit (the refusal reason recorded),
and a CLEARED, PARKED or RECOVERED out of its state. An ACCEPT of the unit at work changes nothing (R121, R136, R144,
R146). That a LATE naming the offered unit is such a message is log entry 52; that a LATE or REFUSE naming the unit at
work is one while a redirect is outstanding is log entry 53.
A step report that does not fit its crane's current step raises FOREIGN_REPORT where the job it names is on another
crane, else STALE_MESSAGE with the job where it is live, and changes nothing else (R126, R140). -/
def Obligations.MessagesOutOfPlaceRaiseFaults : Prop :=
  (∀ (s : State) (c : CraneId), Announced s c →
      (∀ n : Byte, (s.crane c).isOffered n = false → (s.crane c).isRedirected n = false →
        ((s.crane c).isWorkingOn n = true → exec (.accept c [n]) s = .next (s.take (.accept c [n])))
        ∧ ((s.crane c).isWorkingOn n = false → exec (.accept c [n]) s = .next
            { (s.take (.accept c [n])).setTx (.crane c) (s.tx (.crane c) ++ [.withdraw n 0]) with
              events := s.events.erase (.accept c [n]) ++ [s.craneReported .staleMessage c none [n]] }))
      ∧ (∀ n : Byte, (s.crane c).isRedirected n = false → exec (.late c [n]) s = .next
          { s.take (.late c [n]) with
            events := s.events.erase (.late c [n]) ++ [s.craneReported .staleMessage c none [n]] })
      ∧ (∀ n r : Byte, r.toNat < 16 → (s.crane c).isOffered n = false → (s.crane c).isRedirected n = false →
          exec (.refuse c [n, r]) s = .next
            { (s.take (.refuse c [n, r])).setCrane c { s.crane c with lastRefusal := some r.toNat } with
              events := s.events.erase (.refuse c [n, r]) ++ [s.craneReported .staleMessage c none [n, r]] })
      ∧ (∀ x y a, s.craneAisle c = some a → (s.crane c).state ≠ .clearing →
          (∀ q, s.profile? a = some q → BitVec.toNat x ≤ q.geo.bays + 1 ∧ BitVec.toNat y ≤ q.geo.levels) →
          exec (.cleared c [x, y]) s = .next
            { s.take (.cleared c [x, y]) with
              events := s.events.erase (.cleared c [x, y]) ++ [s.craneReported .staleMessage c none [x, y]] })
      ∧ ((s.crane c).state ≠ .parking → exec (.parked c []) s = .next
          { s.take (.parked c []) with
            events := s.events.erase (.parked c []) ++ [s.craneReported .staleMessage c none []] })
      ∧ ((s.crane c).state ≠ .faulted → exec (.recovered c []) s = .next
          { s.take (.recovered c []) with
            events := s.events.erase (.recovered c []) ++ [s.craneReported .staleMessage c none []] }))
  ∧ (∀ (s : State) (c : CraneId) (p : List Byte) (h : Handle), Announced s c → decodeHandle p = some h →
      ∀ r i, (r, i) ∈ [(ReportKind.picked, Instr.picked c p), (.dropped, .dropped c p),
          (.cellOccupied, .cellOccupied c p), (.cellEmpty, .cellEmpty c p)] →
        ((s.crane c).state ≠ .working ∨ s.job? h = none ∨ (∀ j, s.job? h = some j → j.stranded = true)
          ∨ h ∉ (s.crane c).jobs ∨ (s.crane c).remaining = []
          ∨ (∃ x, (s.crane c).remaining.head? = some x ∧ (x.job ≠ h ∨ r.matchesStep x = false))) →
        exec i s = .next { s.take i with events := s.events.erase i ++
          [if s.job? h ≠ none ∧ ∃ o, o ≠ c ∧ h ∈ (s.crane o).jobs then s.craneReported .foreignReport c (some h) p
           else s.craneReported .staleMessage c (if s.job? h = none then none else some h) p] })

/-- A HELLO of an ABSENT crane records its position and takes it to IDLE, to PARKING with PARK in a held aisle, or to
OUT_OF_SERVICE by its leave-service flag; in a tandem aisle it holds its bay, or, where that breaks the gap, the range
to its park end with a RAIL_BREACH (R118, R128, R131).
A HELLO of a crane in any other state is a restart: its position is recorded and CRANE_RESTART raised last, with the
LOADED job if there is one; with a pallet on its forks it goes to FAULTED and the job is stranded, else a crane at work
gives its jobs back READY, and a crane in neither BACKOFF nor OUT_OF_SERVICE goes to IDLE, PARKING or OUT_OF_SERVICE
(R54, R88, R131; the last two states and their intervals: log entry 22; that CRANE_RESTART is raised last is the model's
choice: log entry 65). In a tandem aisle, where the tables stand in order, the interval of a crane that is not FAULTED
falls to the reported bay, widened to the park end where PARK is sent (R113, R119). -/
def Obligations.HelloAnnouncesOrRestarts : Prop :=
  (∀ (s : State) (c : CraneId) (a : AisleId) (e : End) (x y : Byte), s.liu.restarting = none →
      (s.crane c).mapping = some (a, e) → (s.crane c).state = .absent →
      (∀ q, s.profile? a = some q → x.toNat ≤ q.geo.bays + 1 ∧ y.toNat ≤ q.geo.levels) →
      ∃ t, exec (.hello c [x, y]) s = .next t
        ∧ (t.crane c).state = s.afterReturn c
        ∧ (t.crane c).bay = x.toNat ∧ (t.crane c).level = y.toNat ∧ (t.crane c).known = s.configured a
        ∧ (t.crane c).mapping = some (a, e) ∧ (t.crane c).strikes = (s.crane c).strikes
        ∧ (t.crane c).unitCounter = (s.crane c).unitCounter
        ∧ (s.afterReturn c = .parking → (t.crane c).parkTimer = some (s.now + s.crt.tPark))
        ∧ t.tx (.crane c) = s.tx (.crane c) ++ (if s.afterReturn c = .parking then [.park] else [])
        ∧ (∀ d, d ≠ c → t.crane d = s.crane d)
        ∧ t.jpl = s.jpl ∧ t.cmp = s.cmp ∧ t.ale = s.ale ∧ t.swu = s.swu ∧ t.flg = s.flg
        ∧ ∀ r, s.rail a = some r → s.aisleStopped c = false → ∃ r', t.rail a = some r'
          ∧ r'.get (otherEnd e) = r.get (otherEnd e)
          ∧ ((x.toNat = s.parkEnd a e ∨ keepsGap (s.gap a) e (.at x.toNat) (r.get (otherEnd e)).effective = true) →
              (r'.get e).granted = .at x.toNat)
          ∧ (x.toNat ≠ s.parkEnd a e → keepsGap (s.gap a) e (.at x.toNat) (r.get (otherEnd e)).effective = false →
              (r'.get e).granted = hull x.toNat [s.parkEnd a e]
              ∧ s.craneReported .railBreach c none [x, y] ∈ t.events))
  ∧ (∀ (s : State) (c : CraneId) (a : AisleId) (e : End) (x y : Byte), Announced s c →
      (s.crane c).mapping = some (a, e) →
      (∀ q, s.profile? a = some q → x.toNat ≤ q.geo.bays + 1 ∧ y.toNat ≤ q.geo.levels) →
      ∃ t, exec (.hello c [x, y]) s = .next t
        ∧ (t.crane c).bay = x.toNat ∧ (t.crane c).level = y.toNat ∧ (t.crane c).known = s.configured a
        ∧ t.events.getLast? = some (s.craneReported .craneRestart c (s.loadedOn c) [x, y])
        ∧ (∀ d, d ≠ c → t.crane d = s.crane d) ∧ t.flg = s.flg ∧ t.swu.waves = s.swu.waves
        ∧ (RailLawful s → IntervalIs s t c (fun i => if (t.crane c).state = .faulted then i else
            s.parkWidened c (t.crane c).state (i.fallen x.toNat [])))
        ∧ BreachRaised s t c x.toNat none [x, y]
        ∧ ((s.crane c).state ∈ [CraneState.offered, .working] →
            (t.crane c).redirect = none ∧ (t.crane c).deadline = none
            ∧ (∀ h, s.loadedOn c = some h → (t.crane c).state = .faulted
                ∧ ∃ k, t.job? h = some k ∧ k.state = .loaded ∧ k.stranded = true)
            ∧ (s.loadedOn c = none → (t.crane c).state = s.afterReturn c ∧ (t.crane c).unit = none
                ∧ (t.crane c).offerTimer = none ∧ ∀ h ∈ (s.crane c).jobs, ∀ j, s.job? h = some j → ∃ k, t.job? h = some k ∧ k.state = .ready ∧ k.unit = none))
        ∧ ((s.crane c).state ∉ [CraneState.offered, .working] → t.jpl = s.jpl
            ∧ (t.crane c).state =
              (if (s.crane c).unit ≠ none then .faulted
               else if (s.crane c).state = .backoff ∨ (s.crane c).state = .outOfService then (s.crane c).state
               else s.afterReturn c)))

/-- ASK records the position and is taken by the crane's state: an IDLE crane is WAITING with its held-back flag clear,
and a selection starts for a WAITING one; a CLEARING crane returns to WAITING; BACKOFF and OUT_OF_SERVICE draw STANDBY,
PARKING and PARKED draw PARK again; OFFERED, WORKING and FAULTED draw STALE_MESSAGE (R68, R80, R120, R132).
A repeated PARK widens the interval to the crane's park end, as every PARK sent does (R113).
POS records the position alone; in a tandem aisle both shrink the crane's interval to its bay and what it has still to
reach, with selections where it shrinks; from outside the interval they raise RAIL_BREACH and shrink nothing (R68, R114,
R116, R132, R133; that OFFERED and PARKED cranes shrink nothing: log entry 16; that the selections are those of the
cranes waiting at that moment, FRONT before REAR: log entries 29 and 50). -/
def Obligations.PositionReportsAreTakenByState : Prop :=
  (∀ (s : State) (c : CraneId) (a : AisleId) (e : End) (x y : Byte), Announced s c →
      (s.crane c).mapping = some (a, e) →
      (∀ q, s.profile? a = some q → x.toNat ≤ q.geo.bays + 1 ∧ y.toNat ≤ q.geo.levels) →
      ∃ t, exec (.ask c [x, y]) s = .next t
        ∧ t.crane c = { s.crane c with
            bay := x.toNat, level := y.toNat, known := s.configured a, state := (t.crane c).state,
            leaveService := (t.crane c).leaveService }
        ∧ (∀ d, d ≠ c → t.crane d = s.crane d) ∧ t.jpl = s.jpl ∧ t.cmp = s.cmp ∧ t.swu = s.swu ∧ t.flg = s.flg
        ∧ ((s.crane c).state = .idle →
            (t.crane c).state = (if (s.crane c).leaveService then .outOfService else .waiting)
            ∧ (t.holdBack c).heldBack = false ∧ t.tx (.crane c) = s.tx (.crane c)
            ∧ t.events.getLast? = some (.selection c))
        ∧ ((s.crane c).state ≠ .idle → (t.crane c).state = (s.crane c).state ∧ t.ale = s.ale ∧ t.aic = s.aic)
        ∧ ((s.crane c).state = .waiting →
            t.tx (.crane c) = s.tx (.crane c) ∧ t.events.getLast? = some (.selection c))
        ∧ ((s.crane c).state = .clearing → t.tx (.crane c) = s.tx (.crane c) ∧ ∀ r, s.entry c = some r →
            ∃ r', t.entry c = some r' ∧ r'.clear = r.clear.map fun k => { k with toWaiting := true })
        ∧ ((s.crane c).state ∈ [CraneState.backoff, .outOfService] → t.tx (.crane c) = s.tx (.crane c) ++ [.standby])
        ∧ ((s.crane c).state ∈ [CraneState.parking, .parked] → t.tx (.crane c) = s.tx (.crane c) ++ [.park])
        ∧ ((s.crane c).state ∈ [CraneState.offered, .working, .faulted] →
            t.tx (.crane c) = s.tx (.crane c)
            ∧ t.events.getLast? = some (s.craneReported .staleMessage c none [x, y]))
        ∧ BreachRaised s t c x.toNat none [x, y] ∧ t.otherEntry c = s.otherEntry c
        ∧ ∀ r, s.entry c = some r → ∃ r', t.entry c = some r' ∧ r'.claim = r.claim
          ∧ ((s.crane c).state ≠ .clearing → r'.clear = r.clear)
          ∧ (r.granted.holds x.toNat = false → r'.granted =
              if (s.crane c).state ∈ [CraneState.parking, .parked] then r.granted.join (.at (s.parkEnd a e))
              else r.granted)
          ∧ (r.granted.holds x.toNat = true →
              ((s.crane c).state ≠ .parked → r'.granted ≠ r.granted → ∀ i ∈ s.wakes a, i ∈ t.events)
              ∧ ((s.crane c).state ∈ [CraneState.idle, .waiting, .backoff, .outOfService] →
                  r'.granted = .at x.toNat)
              ∧ ((s.crane c).state = .parking → r'.granted = hull x.toNat [s.parkEnd a e])
              ∧ (∀ k, (s.crane c).state = .clearing → r.clear = some k → r'.granted = hull x.toNat [k.target])
              ∧ ((s.crane c).state = .working → r'.granted =
                  hull x.toNat (s.stepBays ((s.crane c).remaining ++ (s.crane c).redirectSteps)))
              ∧ ((s.crane c).state = .parked → r'.granted = r.granted.join (.at (s.parkEnd a e)))
              ∧ ((s.crane c).state ∈ [CraneState.offered, .faulted] → r'.granted = r.granted)))
  ∧ (∀ (s : State) (c : CraneId) (a : AisleId) (e : End) (x y : Byte), Announced s c →
      (s.crane c).mapping = some (a, e) →
      (∀ q, s.profile? a = some q → x.toNat ≤ q.geo.bays + 1 ∧ y.toNat ≤ q.geo.levels) →
      ∃ t es, exec (.pos c [x, y]) s = .next t
        ∧ t = { s.take (.pos c [x, y]) with crt := t.crt, events := s.events.erase (.pos c [x, y]) ++ es }
        ∧ t.crane c = { s.crane c with bay := x.toNat, level := y.toNat, known := s.configured a }
        ∧ (∀ d, d ≠ c → t.crane d = s.crane d)
        ∧ (s.entry c = none → es = [] ∧ t.crt.rail = s.crt.rail)
        ∧ ∀ r, s.entry c = some r → ∃ r', t.entry c = some r' ∧ t.otherEntry c = s.otherEntry c
          ∧ r'.claim = r.claim ∧ r'.clear = r.clear
          ∧ (r.granted.holds x.toNat = false → r' = r ∧ es = [s.craneReported .railBreach c none [x, y]])
          ∧ (r.granted.holds x.toNat = true →
              es = (if r'.granted = r.granted then [] else s.wakes a)
              ∧ ((s.crane c).state ∈ [CraneState.idle, .waiting, .backoff, .outOfService] →
                  r'.granted = .at x.toNat)
              ∧ ((s.crane c).state = .parking → r'.granted = hull x.toNat [s.parkEnd a e])
              ∧ (∀ k, (s.crane c).state = .clearing → r.clear = some k → r'.granted = hull x.toNat [k.target])
              ∧ ((s.crane c).state = .working → r'.granted =
                  hull x.toNat (s.stepBays ((s.crane c).remaining ++ (s.crane c).redirectSteps)))
              ∧ ((s.crane c).state ∈ [CraneState.offered, .parked, .faulted] → r' = r)))

/-- The ACCEPT of an offered unit: the offer timer stops, the unit's jobs are EN_ROUTE, the crane WORKING without
strikes, and the deadline of its step runs from its position; in EVENTS mode the aging counter counts it (R50, R63,
R134, R143), and that the count which reaches 0 reloads the counter within the same event is the model's reading of R63
(log entry 5). The ACCEPT of a redirect: with no job of the old unit LOADED the new unit is the current one, its job
EN_ROUTE, the old unit's jobs READY and its deadline running; with one LOADED it is answered with WITHDRAW and
STALE_MESSAGE and the redirect ends, the promised job keeping its place. In a tandem aisle the interval falls to the
hull of the crane's bay and the steps of the unit it works on (R87). -/
def Obligations.AcceptTakesUpAnOffer : Prop :=
  (∀ (s : State) (c : CraneId) (a : AisleId) (e : End) (u : WorkUnit), Announced s c →
      (s.crane c).mapping = some (a, e) → (s.crane c).state = .offered → (s.crane c).unit = some u → RoleLaw s →
      ∃ t, exec (.accept c [u.number]) s = .next t
        ∧ t.crane c = { s.crane c with
            state := .working, offerTimer := none, strikes := 0, deadline := (t.crane c).deadline }
        ∧ (∀ d, d ≠ c → t.crane d = s.crane d) ∧ t.crt.rail = s.crt.rail
        ∧ (∀ q x, s.profile? a = some q → u.remaining.head? = some x →
            (t.crane c).deadline = some { step := u.current, expiry :=
              s.now + (stepEstimate q (s.cranePoint c) x.place * s.crt.factor / 100 + 10000) })
        ∧ (∀ h ∈ u.jobs, ∀ j, s.job? h = some j → t.job? h = some { j with state := .enRoute })
        ∧ (s.jpl.agingMode = .time → t.jpl.counter = s.jpl.counter ∧ ∀ h, h ∉ u.jobs → t.job? h = s.job? h)
        ∧ (s.jpl.agingMode = .events → s.jpl.startCount ≠ 0 →
            t.jpl.counter = if s.jpl.counter ≤ 1 then s.jpl.startCount else s.jpl.counter - 1)
        ∧ .offerTimerExpiry c ∉ t.events
        ∧ t.cmp = s.cmp ∧ t.ale = s.ale ∧ t.swu = s.swu ∧ t.flg = s.flg)
  ∧ (∀ (s : State) (c : CraneId) (a : AisleId) (e : End) (r : Redirect), Announced s c →
      (s.crane c).mapping = some (a, e) → (s.crane c).redirect = some r → (s.crane c).isOffered r.number = false →
      ∃ t, exec (.accept c [r.number]) s = .next t
        ∧ (t.crane c).redirect = none ∧ (t.crane c).offerTimer = none ∧ (t.crane c).state = (s.crane c).state
        ∧ (∀ d, d ≠ c → t.crane d = s.crane d) ∧ t.flg = s.flg
        ∧ (s.loadedOn c = none →
            (t.crane c).unit = some { number := r.number, jobs := [r.job], steps := r.steps, current := 1 }
            ∧ t.tx (.crane c) = s.tx (.crane c)
            ∧ IntervalMoves s t a e (fun i => i.fallen (s.craneBay c) (s.stepBays r.steps)) id
            ∧ (∀ j, s.job? r.job = some j → ∃ k, t.job? r.job = some k ∧ k.state = .enRoute ∧ k.promised = none
                ∧ k.unit = some { crane := c, number := r.number })
            ∧ (∀ h ∈ (s.crane c).jobs, h ≠ r.job → ∀ j, s.job? h = some j →
                ∃ k, t.job? h = some k ∧ k.state = .ready ∧ k.unit = none ∧ k.partner = none)
            ∧ ∀ q x, s.profile? a = some q → r.steps.head? = some x →
                (t.crane c).deadline = some { step := 1, expiry :=
                  s.now + (stepEstimate q (s.cranePoint c) x.place * s.crt.factor / 100 + 10000) })
        ∧ (s.loadedOn c ≠ none →
            (t.crane c).unit = (s.crane c).unit ∧ (t.crane c).deadline = (s.crane c).deadline
            ∧ t.tx (.crane c) = s.tx (.crane c) ++ [.withdraw r.number 0]
            ∧ s.craneReported .staleMessage c none [r.number] ∈ t.events
            ∧ IntervalMoves s t a e (fun i => i.fallen (s.craneBay c) (s.stepBays (s.crane c).remaining)) id
            ∧ ∀ j, s.job? r.job = some j → ∃ k, t.job? r.job = some k ∧ k.state = j.state ∧ k.promised = none))

/-- An offer refused or lapsed: the unit's jobs are READY on no crane, a strike is counted, and the crane goes to IDLE
(or PARKING or OUT_OF_SERVICE) below the strike limit, and at it to OUT_OF_SERVICE with CRANE_RETIRED or to BACKOFF with
its timer running, by the policy; a REFUSE's reason is recorded. In a tandem aisle the interval falls to the crane's bay
(R52, R115, R128, R135, R137, R138, R173). -/
def Obligations.MissedOffersAreStruck : Prop :=
  ∀ (s : State) (c : CraneId) (u : WorkUnit) (r : Byte) (i : Instr), Announced s c → (s.crane c).state = .offered →
    (s.crane c).unit = some u → r.toNat < 16 →
    ((i = .refuse c [u.number, r]) ∨ (i = .offerTimerExpiry c ∧ (s.crane c).offerTimer ≠ none)) →
    ∃ t n, exec i s = .next t ∧ n = min 7 ((s.crane c).strikes + 1)
      ∧ (t.crane c).unit = none ∧ (t.crane c).offerTimer = none ∧ (t.crane c).strikes = n
      ∧ (t.crane c).unitCounter = (s.crane c).unitCounter
      ∧ (i = .refuse c [u.number, r] → (t.crane c).lastRefusal = some r.toNat)
      ∧ (i = .offerTimerExpiry c → (t.crane c).lastRefusal = (s.crane c).lastRefusal)
      ∧ (n < s.crt.strikeLimit → (t.crane c).state = s.afterWork c)
      ∧ (s.crt.strikeLimit ≤ n → (s.crane c).leaveService = true → (t.crane c).state = .outOfService)
      ∧ (s.crt.strikeLimit ≤ n → (s.crane c).leaveService = false → s.crt.policy = .retire →
          (t.crane c).state = .outOfService
          ∧ s.craneReported .craneRetired c none (if i = .offerTimerExpiry c then [] else [u.number, r]) ∈ t.events)
      ∧ (s.crt.strikeLimit ≤ n → (s.crane c).leaveService = false → s.crt.policy = .backoff →
          (t.crane c).state = .backoff ∧ (t.crane c).backoffTimer = some (s.now + s.crt.tBackoff))
      ∧ (∀ h ∈ u.jobs, ∀ j, s.job? h = some j →
          ∃ k, t.job? h = some k ∧ k.state = .ready ∧ k.unit = none ∧ k.partner = none ∧ k.age = j.age)
      ∧ (∀ a e, (s.crane c).mapping = some (a, e) → IntervalMoves s t a e (fun i => i.fallen (s.craneBay c) [])
          (if n < s.crt.strikeLimit then s.parkWidened c (s.afterWork c) else id))
      ∧ (∀ d, d ≠ c → t.crane d = s.crane d) ∧ t.flg = s.flg ∧ t.swu.inputs = s.swu.inputs

/-- A redirect ends on LATE, on its REFUSE and on the offer timer's expiry, the last sending WITHDRAW for the new unit:
the promise is gone, a retrieve's chosen cell with it, and the crane works its unit on with its deadline. In a tandem
aisle LATE and REFUSE let the interval fall to the hull of the crane's bay and the steps of its unit (R86 to R88; that
the expiry leaves it: log entry 17). -/
def Obligations.RedirectsEndUnanswered : Prop :=
  ∀ (s : State) (c : CraneId) (r : Redirect) (b : Byte) (i : Instr), Announced s c → (s.crane c).redirect = some r →
    (s.crane c).state ≠ .offered → b.toNat < 16 →
    (i = .late c [r.number] ∨ i = .refuse c [r.number, b]
      ∨ (i = .offerTimerExpiry c ∧ (s.crane c).offerTimer ≠ none)) →
    ∃ t, exec i s = .next t
      ∧ t.crane c = { s.crane c with
          redirect := none, offerTimer := none,
          lastRefusal := if i = .refuse c [r.number, b] then some b.toNat else (s.crane c).lastRefusal }
      ∧ (∀ d, d ≠ c → t.crane d = s.crane d)
      ∧ t.tx (.crane c) = s.tx (.crane c) ++ (if i = .offerTimerExpiry c then [.withdraw r.number 0] else [])
      ∧ (∀ j, s.job? r.job = some j → t.job? r.job = some { j with
          promised := none, chosen := if j.kind = .retrieve then none else j.chosen })
      ∧ (∀ h, h ≠ r.job → t.job? h = s.job? h)
      ∧ (∀ a e, (s.crane c).mapping = some (a, e) → IntervalMoves s t a e
          (fun x => if i = .offerTimerExpiry c then x else x.fallen (s.craneBay c) (s.stepBays (s.crane c).remaining)) id)
      ∧ t.ale = s.ale ∧ t.aic = s.aic ∧ t.flg = s.flg ∧ t.swu.inputs = s.swu.inputs

/-- CLEARED ends a clear: the park timer stops, the target goes, and the crane returns to WAITING with a selection for
it, or to IDLE, or to PARKING where it is owed a PARK, or to OUT_OF_SERVICE; its interval is the bay reported, or stands
with a RAIL_BREACH outside it; and a selection starts for the other crane if it is WAITING, its claim standing or not
(R68, R121, R128, R173; log entry 56).
PARKED of a PARKING crane: it is PARKED (or OUT_OF_SERVICE) at its park end with its park timer stopped, and in a tandem
aisle holds that bay alone; a DRAINING aisle whose other cranes rest becomes HELD with GACK asserted and HOLD_GRANTED
offered to each order link whose source is set (R115, R128, R144, R174, R175). -/
def Obligations.ClearedAndParkedEndTheMove : Prop :=
  (∀ (s : State) (c : CraneId) (a : AisleId) (e : End) (x y : Byte) (r : PerEnd RailEntry) (k : ClearRecord),
      Announced s c → (s.crane c).mapping = some (a, e) → (s.crane c).state = .clearing → s.rail a = some r →
      (r.get e).clear = some k →
      (∀ q, s.profile? a = some q → x.toNat ≤ q.geo.bays + 1 ∧ y.toNat ≤ q.geo.levels) →
      ∃ t r', exec (.cleared c [x, y]) s = .next t
        ∧ (t.crane c).bay = x.toNat ∧ (t.crane c).level = y.toNat ∧ (t.crane c).known = s.configured a
        ∧ (t.crane c).state =
            (if (s.crane c).leaveService then .outOfService else if s.parkOwed c then .parking
             else if k.toWaiting then .waiting else .idle)
        ∧ ((t.crane c).state ≠ .parking → (t.crane c).parkTimer = none)
        ∧ ((t.crane c).state = .waiting → .selection c ∈ t.events)
        ∧ t.rail a = some r' ∧ (r'.get e).clear = none ∧ r'.get (otherEnd e) = r.get (otherEnd e)
        ∧ ((r.get e).granted.holds x.toNat = true → (t.crane c).state ≠ .parking →
            (r'.get e).granted = .at x.toNat)
        ∧ ((r.get e).granted.holds x.toNat = false → s.craneReported .railBreach c none [x, y] ∈ t.events
            ∧ ((t.crane c).state ≠ .parking → (r'.get e).granted = (r.get e).granted))
        ∧ (∀ o, s.craneAt a (otherEnd e) = some o → o ≠ c → (s.crane o).state = .waiting → .selection o ∈ t.events)
        ∧ (∀ d, d ≠ c → t.crane d = s.crane d) ∧ t.jpl = s.jpl ∧ t.swu = s.swu ∧ t.flg = s.flg)
  ∧ (∀ (s : State) (c : CraneId) (a : AisleId) (e : End), Announced s c → (s.crane c).mapping = some (a, e) →
      (s.crane c).state = .parking →
      ∃ t, exec (.parked c []) s = .next t
        ∧ t.crane c = { s.crane c with
            state := if (s.crane c).leaveService then .outOfService else .parked, leaveService := false
            bay := s.parkEnd a e, level := 0, known := s.configured a, parkTimer := none }
        ∧ (∀ d, d ≠ c → t.crane d = s.crane d)
        ∧ (∀ r, s.rail a = some r → ∃ r', t.rail a = some r' ∧ r'.get (otherEnd e) = r.get (otherEnd e)
            ∧ r'.get e = { r.get e with granted := .at (s.parkEnd a e) })
        ∧ .parkTimerExpiry c ∉ t.events
        ∧ ((s.hold a).state = .draining →
            (∀ d ∈ s.cranesOf a, d ≠ c → (s.crane d).state ∈ [CraneState.parked, .absent, .faulted, .outOfService]) →
            t.hold a = { s.hold a with state := .held, gack := true }
            ∧ ∀ l, t.queue l = s.queue l ++ (if (s.hold a).sources.link l = true ∧ (s.queue l).length < 32 then
                [.holdGranted a (s.hold a).sources] else []))
        ∧ ((s.hold a).state = .draining →
            (∃ d ∈ s.cranesOf a, d ≠ c ∧ (s.crane d).state ∉ [CraneState.parked, .absent, .faulted, .outOfService]) →
            t.hold a = s.hold a ∧ t.liu.queue = s.liu.queue)
        ∧ t.jpl = s.jpl ∧ t.cmp = s.cmp ∧ t.ale = s.ale ∧ t.swu = s.swu ∧ t.flg = s.flg)

/-- FAULT records the code, raises CRANE_FAULT with the LOADED job if there is one, and takes the crane to FAULTED: a
LOADED job is stranded, else an OFFERED or WORKING crane's jobs are READY on no crane; a clear or a park it was on ends,
and an OUT_OF_SERVICE crane keeps its leave to go (R54, R88, R123, R145).
RECOVERED of a FAULTED crane: with a LOADED job on board it is WORKING, the job no longer stranded and its deadline
running, unless its drop cell is not its own (then it stays stranded), and it is owed a PARK in a held aisle; with none
it goes to IDLE, PARKING or OUT_OF_SERVICE. In a tandem aisle FAULT leaves the interval, and RECOVERED lets it fall to
the hull of the crane's bay and its unit's steps (R105, R119, R128, R143, R146, R173; that a crane going to
OUT_OF_SERVICE is sent no PARK: log entry 15, and its interval: log entry 61). -/
def Obligations.FaultAndRecovered : Prop :=
  (∀ (s : State) (c : CraneId) (n : Byte), Announced s c → ∃ t, exec (.fault c [n]) s = .next t
      ∧ (t.crane c).state = .faulted ∧ (t.crane c).lastFault = some n.toNat
      ∧ s.craneReported .craneFault c (s.loadedOn c) [n] ∈ t.events
      ∧ (∀ d, d ≠ c → t.crane d = s.crane d) ∧ t.tx (.crane c) = s.tx (.crane c) ∧ t.flg = s.flg
      ∧ ((s.crane c).state ∈ [CraneState.clearing, .parking] → (t.crane c).parkTimer = none)
      ∧ ((s.crane c).state = .clearing → ∀ r, t.entry c = some r → r.clear = none) ∧ IntervalIs s t c id
      ∧ ((s.crane c).state = .outOfService → (t.crane c).leaveService = true)
      ∧ ((s.crane c).state = .backoff → (t.crane c).backoffTimer = none ∧ (t.crane c).strikes = 0)
      ∧ ((s.crane c).state ∈ [CraneState.offered, .working] →
          (t.crane c).deadline = none ∧ (t.crane c).redirect = none
          ∧ (∀ h, s.loadedOn c = some h → ∃ k, t.job? h = some k ∧ k.state = .loaded ∧ k.stranded = true)
          ∧ (s.loadedOn c = none → (t.crane c).unit = none ∧ ∀ h ∈ (s.crane c).jobs, ∀ j, s.job? h = some j →
              ∃ k, t.job? h = some k ∧ k.state = .ready ∧ k.unit = none))
      ∧ ((s.crane c).state ∉ [CraneState.offered, .working] →
          t.jpl = s.jpl ∧ (t.crane c).unit = (s.crane c).unit))
  ∧ (∀ (s : State) (c : CraneId) (a : AisleId) (e : End), Announced s c → (s.crane c).mapping = some (a, e) →
      (s.crane c).state = .faulted →
      ∃ t, exec (.recovered c []) s = .next t
        ∧ (∀ d, d ≠ c → t.crane d = s.crane d) ∧ t.cmp = s.cmp ∧ t.swu = s.swu ∧ t.flg = s.flg
        ∧ (s.loadedOn c = none → (t.crane c).state = s.afterReturn c ∧ t.jpl = s.jpl
            ∧ t.tx (.crane c) = s.tx (.crane c) ++ (if s.afterReturn c = .parking then [.park] else [])
            ∧ IntervalMoves s t a e (fun i => i.fallen (s.craneBay c) []) (s.parkWidened c (s.afterReturn c)))
        ∧ ∀ h j, s.loadedOn c = some h → s.job? h = some j →
            (t.crane c).state = .working ∧ (t.crane c).unit = (s.crane c).unit
            ∧ (s.aisleStopped c = true → t.parkOwed c = true)
            ∧ IntervalMoves s t a e (fun i => i.fallen (s.craneBay c) (s.stepBays (s.crane c).remaining)) id
            ∧ t.job? h = some { j with stranded := s.dropUnreserved c }
            ∧ ∀ q u x, s.profile? a = some q → (s.crane c).unit = some u → u.remaining.head? = some x →
                s.dropUnreserved c = false →
                (t.crane c).deadline = some { step := u.current, expiry :=
                  s.now + (stepEstimate q (s.cranePoint c) x.place * s.crt.factor / 100 + 10000) })

/-! ## Step reports -/

/-- A fitting PICKED: the job is LOADED, the crane stands at the place, its next step is current with its deadline
running; a store's input station is EMPTY with TAKEN sent, a retrieve's or relocation's cell is EMPTY and its load class
carried. An outstanding redirect stands with its offer timer stopped. In a tandem aisle the interval shrinks to the hull
of the place, the steps still to come and those of a redirect, or RAIL_BREACH is raised where the place lies outside it
(R15, R51, R87, R114, R116, R141, R143, R159; log entry 55). -/
def Obligations.PickedLoadsTheJob : Prop :=
  ∀ (s : State) (c : CraneId) (a : AisleId) (e : End) (h : Handle) (j : Job) (u : WorkUnit) (x : Step), Announced s c →
    (s.crane c).mapping = some (a, e) → (s.crane c).state = .working → (s.crane c).unit = some u → s.job? h = some j →
    h ∈ u.jobs → u.remaining.head? = some x → x.job = h → x.action = .pick → j.stranded = false → HandleLaw s →
    MapWf s →
    ∃ t, exec (.picked c (encodeHandle h)) s = .next t
      ∧ t.crane c = { s.crane c with
          bay := (s.placePoint x.place).bay, level := (s.placePoint x.place).level, known := s.configured a
          unit := some { u with current := u.current + 1 }, deadline := (t.crane c).deadline, offerTimer := none }
      ∧ .offerTimerExpiry c ∉ t.events ∧ (∀ d, d ≠ c → t.crane d = s.crane d)
      ∧ (∀ q y, s.profile? a = some q → u.steps[u.current]? = some y → 1 ≤ u.current →
          (t.crane c).deadline = some { step := u.current + 1, expiry :=
            s.now + (stepEstimate q (s.placePoint x.place) y.place * s.crt.factor / 100 + 10000) })
      ∧ (∀ g, g ≠ h → t.job? g = s.job? g)
      ∧ IntervalMoves s t a e (fun i => i.fallen (s.placePoint x.place).bay
          (s.stepBays (u.remaining.drop 1 ++ (s.crane c).redirectSteps))) id
      ∧ BreachRaised s t c (s.placePoint x.place).bay (some h) (encodeHandle h)
      ∧ (j.kind = .store → t.job? h = some { j with state := .loaded }
          ∧ t.input j.aisle j.storeEnd = .empty
          ∧ t.tx .station = s.tx .station ++ [.taken j.aisle j.storeEnd j.tag]
          ∧ t.cmp = s.cmp)
      ∧ (∀ d k, j.kind ≠ .store → j.chosen = some d → (s.cell d).state = .outReserved h k →
          t.job? h = some { j with state := .loaded, carried := some k }
          ∧ (∀ b, t.cell b = if b = d then { s.cell d with state := .empty } else s.cell b)
          ∧ t.tx .station = s.tx .station ∧ t.swu = s.swu)
      ∧ t.flg = s.flg ∧ t.ale = s.ale ∧ t.aic = s.aic

/-- A fitting DROPPED: the drop cell is FULL with the class carried; the job closes DONE; the next step is current
with its deadline running, or the unit ends and the crane goes to IDLE, PARKING or OUT_OF_SERVICE; a retrieve's
station's credit falls on both sides, and no live retrieve names a relocated pallet's old cell any more, the new one
standing in its place; a relocation that serves a dropped retrieve and is not LOADED is cancelled with it; a dropped
relocation's unit ends, its served retrieve waits for it no longer, and its PALLET_MOVED carries the target. In a
tandem aisle the interval shrinks to the place and what the crane has still to reach, and at the end of the unit to
the place alone, or RAIL_BREACH is raised where the place lies outside it (R15, R55, R57, R58, R97 to R99, R105, R114
to R116, R128, R142, R143, R162, R173; order: log entry 51; the cell in a closing notice: log entry 19; a redirect
promised to the cancelled relocation is withdrawn: log entry 27; a retrieve that holds the old cell for its own drop:
log entry 47). That JOB_CLOSED stands first behind the old queue, ahead of the PALLET_MOVED of the relocation
cancelled with the retrieve, is the model's reading (log entry 48). -/
def Obligations.DroppedClosesTheJob : Prop :=
  ∀ (s : State) (c : CraneId) (a : AisleId) (e : End) (h : Handle) (j : Job) (u : WorkUnit) (x : Step), Announced s c →
    (s.crane c).mapping = some (a, e) → (s.crane c).state = .working → (s.crane c).unit = some u → s.job? h = some j →
    h ∈ u.jobs → u.remaining.head? = some x → x.job = h → x.action = .drop → j.stranded = false →
    Lawful s → PoolLawful s → WorkLawful s →
    ∃ t, exec (.dropped c (encodeHandle h)) s = .next t
      ∧ (t.crane c).bay = (s.placePoint x.place).bay ∧ (t.crane c).level = (s.placePoint x.place).level
      ∧ t.flg = s.flg
      ∧ (∀ d, ((j.kind = .store ∧ j.chosen = some d) ∨ (j.kind = .relocate ∧ j.target = some d)) →
          (s.cell d).state = .inReserved h → t.cell d = { s.cell d with
            state := .full ((if j.kind = .store then j.load.bind (·.cls) else j.carried).getD 0) })
      ∧ (∀ src d k, j.kind = .relocate → j.chosen = some src → j.target = some d → src ≠ d →
          ∀ g, t.job? g = some k → k.kind = .retrieve → k.state ≠ .closing → src ∉ k.candidates
            ∨ (s.cell src).state = .inReserved g)
      ∧ (∀ src d, j.kind = .relocate → j.chosen = some src → j.target = some d → src ≠ d → Rewritten s t h j.served src d)
      ∧ BreachRaised s t c (s.placePoint x.place).bay (some h) (encodeHandle h)
      ∧ (∀ r, j.kind = .retrieve → j.waitsFor = some r.handle → s.job? r.handle = some r → r.kind = .relocate →
          r.served = some h → r.origin = .internal → r.handle ∉ u.jobs → (∀ v, r.unit = some v → v.crane ≠ c) →
          (r.state ∈ [JobState.ready, .offered, .enRoute] → RelocationCancelled s t j r)
          ∧ (r.state = .loaded → r.partner = none → r.promised = none → t.job? r.handle = some r))
      ∧ (j.kind = .relocate → u.steps.length ≤ u.current → j.origin = .internal →
          (∀ q g, j.served = some q → s.job? q = some g → g.waitsFor = some h ∨ g.waitsFor = none) →
          (t.crane c).unit = none ∧ (t.crane c).deadline = none ∧ (t.crane c).state = s.afterWork c
          ∧ (∀ d, d ≠ c → t.crane d = s.crane d)
          ∧ IntervalMoves s t a e (fun i => i.fallen (s.placePoint x.place).bay []) (s.parkWidened c (s.afterWork c))
          ∧ ((∀ lo, s.liu.active.get lo = true → (s.queue lo).length + 3 < 32) → t.job? h = none)
          ∧ (∀ k, t.job? h = some k → k.state = .closing ∧ k.outcome = some .done)
          ∧ ∀ q g k, j.served = some q → q ≠ h → s.job? q = some g → t.job? q = some k → k.waitsFor = none)
      ∧ (j.kind ≠ .relocate → j.waitsFor = none →
          (∀ d, d ≠ c → t.crane d = s.crane d)
          ∧ (1 ≤ u.current → u.current < u.steps.length →
              (t.crane c).state = .working
              ∧ (t.crane c).unit = some { u with jobs := u.jobs.filter (· ≠ h), current := u.current + 1 }
              ∧ ∀ q y, s.profile? a = some q → u.steps[u.current]? = some y →
                  (t.crane c).deadline = some { step := u.current + 1, expiry :=
                    s.now + (stepEstimate q (s.placePoint x.place) y.place * s.crt.factor / 100 + 10000) })
          ∧ (1 ≤ u.current → u.current < u.steps.length →
              IntervalMoves s t a e (fun i => i.fallen (s.placePoint x.place).bay
                (s.stepBays (u.remaining.drop 1 ++ (s.crane c).redirectSteps))) id)
          ∧ (u.steps.length ≤ u.current →
              (t.crane c).unit = none ∧ (t.crane c).deadline = none ∧ (t.crane c).state = s.afterWork c
              ∧ IntervalMoves s t a e (fun i => i.fallen (s.placePoint x.place).bay []) (s.parkWidened c (s.afterWork c))))
      ∧ (j.kind ≠ .relocate → ∀ l, j.origin = .order l →
              (s.hasRoom l = true → t.job? h = none
                ∧ ∃ more, t.queue l = s.queue l ++ .jobClosed h j.reference j.kind .done j.overdue
                    (if j.kind = .store ∨ j.carried ≠ none then j.chosen else none) :: more)
              ∧ (s.hasRoom l = false → ∃ k, t.job? h = some k ∧ k.state = .closing ∧ k.outcome = some .done
                  ∧ (∃ more, t.jpl.closingWait.get l = s.jpl.closingWait.get l ++ h :: more)
                  ∧ (j.waitsFor = none → t.jpl.closingWait.get l = s.jpl.closingWait.get l ++ [h])))
      ∧ (j.kind = .retrieve → j.unit = some { crane := c, number := u.number } → (s.crane c).redirect = none →
          t.credit a e = { reportedFree := (s.credit a e).reportedFree - 1, inFlight := (s.credit a e).inFlight - 1 })
      ∧ (j.kind = .relocate → ∀ l, s.liu.active.get l = true → (s.queue l).length + 3 < 32 → ∀ src q,
          j.origin = .internal → j.chosen = some src → j.served = some q → (∀ g, s.job? q = some g → g.waitsFor = some h) →
          .palletMoved h q .done true src j.target ∈ t.queue l)

/-- A fitting CELL_OCCUPIED: the drop cell is FULL with its fit class and its conflict flag set, DOUBLE_OCCUPANCY is
raised and CELL_CONFLICT offered. The search for a new drop cell, where one is allowed, runs on the Cell Map so
corrected, keyed from the occupied cell with the class of the pallet carried: for a store a slot search, for a
relocation a target search about its source, in a tandem aisle among the cells whose bay, joined to the shrunk
interval, keeps the gap. The admitted cell of least key and order is reserved for the job and becomes its drop cell
and the place of the current step, is sent to the crane as NEW_DROP, and the deadline restarts from the occupied cell;
a store's link is offered STORE_REDIRECTED; in a tandem aisle the interval, shrunk to the occupied cell and what the
crane has still to reach, is widened to the new cell's bay. With none admitted the job is stranded with no deadline: a
unit without a further step stands, and of a pair the store's steps are kept and the retrieve returns to READY. A
store of a fixed cell that may not be redirected finds none (R15, R33 to R36, R52, R54, R83, R92, R100, R101, R104,
R105, R114 to R116; that the interval of a stranded pair keeps the steps of an outstanding redirect: log entry 69;
that CELL_CONFLICT stands first behind the old queue: the model's choice, log entry 72). It is stated for every state
with the laws that every step keeps, which say what jobs and steps a unit has (R50, R129). -/
def Obligations.CellOccupiedRedirectsOrStrands : Prop :=
  ∀ (s : State) (c : CraneId) (a : AisleId) (e : End) (h : Handle) (j : Job) (u : WorkUnit) (x : Step) (d : CellAddr),
    Announced s c → (s.crane c).mapping = some (a, e) → (s.crane c).state = .working → (s.crane c).unit = some u →
    s.job? h = some j → h ∈ u.jobs → u.remaining.head? = some x → x.job = h → x.action = .drop → x.place = .cell d →
    j.stranded = false → (s.cell d).state = .inReserved h →
    Lawful s → PoolLawful s → WorkLawful s →
    ∃ t, exec (.cellOccupied c (encodeHandle h)) s = .next t
      ∧ (t.crane c).bay = d.bay ∧ (t.crane c).level = d.level ∧ (t.crane c).known = s.configured a
      ∧ (t.crane c).state = .working ∧ (∀ o, o ≠ c → t.crane o = s.crane o) ∧ t.flg = s.flg
      ∧ t.cell d = { state := .full (s.fit d), conflict := true }
      ∧ s.craneReported .doubleOccupancy c (some h) (encodeHandle h) ∈ t.events
      ∧ (∀ l, s.liu.active.get l = true → s.hasRoom l = true → ∃ more, t.queue l =
          s.queue l ++ .cellConflict d .occupied (.full (s.fit d)) h c :: more)
      ∧ BreachRaised s t c d.bay (some h) (encodeHandle h)
      ∧ (∀ (shrink : Interval → Interval) (q : Profile) (cells : CellAddr → Cell) (keeps : CellAddr → Prop),
        shrink = (fun i => i.fallen d.bay (s.stepBays (u.remaining ++ (s.crane c).redirectSteps))) →
        s.profile? a = some q →
        cells = (fun b => if b = d then { state := .full (s.fit d), conflict := true } else s.cell b) →
        keeps = (fun b => ∀ r, s.rail a = some r →
          KeepsGapFrom q.op.gap e ((shrink (r.get e).granted).join (.at b.bay)) (r.get (otherEnd e))) →
        (∀ new, NewDropCell q s.ale.waste cells keeps j d new →
          (s.cell new).state = .empty ∧ (s.cell new).conflict = false
          ∧ t.job? h = some (if j.kind = .relocate then { j with target := some new }
              else { j with chosen := some new, destination := none })
          ∧ t.cell new = { state := .inReserved h, conflict := false }
          ∧ (∀ b, b ≠ d → b ≠ new → t.cell b = s.cell b)
          ∧ (∀ g, g ≠ h → t.job? g = s.job? g)
          ∧ (t.crane c).unit = some (u.replacePlace new)
          ∧ t.tx (.crane c) = s.tx (.crane c) ++ [.newDrop h new]
          ∧ IntervalMoves s t a e shrink (fun i => i.join (.at new.bay))
          ∧ (1 ≤ u.current → (t.crane c).deadline = some { step := u.current, expiry :=
              s.now + (stepEstimate q (cellPoint d) (.cell new) * s.crt.factor / 100 + 10000) })
          ∧ ∀ l, j.kind = .store → j.origin = .order l → (s.queue l).length + 1 < 32 →
              .storeRedirected h j.reference d (some new) ∈ t.queue l)
        ∧ ((∀ new, ¬ NewDropCell q s.ale.waste cells keeps j d new) → (t.crane c).deadline = none
          ∧ (u.steps.length ≤ u.current → t.job? h = some { j with stranded := true } ∧ (t.crane c).unit = some u
              ∧ t.tx (.crane c) = s.tx (.crane c) ∧ IntervalMoves s t a e shrink id ∧ ∀ g, g ≠ h → t.job? g = s.job? g)
          ∧ (u.current < u.steps.length →
              t.job? h = some { j with stranded := true, partner := none }
              ∧ (t.crane c).unit.map (·.steps) = some (u.steps.take u.current)
              ∧ t.tx (.crane c) = s.tx (.crane c) ++ [.withdraw u.number u.current]
              ∧ IntervalMoves s t a e (fun i => (shrink i).fallen d.bay (s.stepBays
                  ((u.steps.take u.current).drop (u.current - 1) ++ (s.crane c).redirectSteps))) id
              ∧ ∀ g ∈ u.jobs, g ≠ h → ∀ k, s.job? g = some k → ∃ k', t.job? g = some k' ∧ k'.state = .ready
                  ∧ k'.unit = none ∧ k'.partner = none)))
      ∧ (j.kind = .store → j.destination ≠ none → j.redirectAllowed = false →
          t.job? h = some { j with stranded := true, partner := none } ∨ t.job? h = some { j with stranded := true })

/-- A fitting CELL_EMPTY: the cell is EMPTY with its conflict flag set, EMPTY_RETRIEVAL is raised and CELL_CONFLICT
offered, the unit ends, and a retrieve loses the candidate and the crane and is evaluated, which leaves it READY,
PENDING or closing NO_STOCK with JOB_CLOSED. A relocation closes DONE with PALLET_MOVED, its moved flag clear, its
target EMPTY again, and its served retrieve waits for it no longer. In a tandem aisle the interval falls to the cell's
bay, or RAIL_BREACH is raised where it lies outside it (R15, R53, R56, R58, R100 to R103, R114 to R116, R129). It is
stated for every state with the laws that every step keeps, which say what jobs and steps a unit has (R50, R129); that
CELL_CONFLICT stands first behind the old queue is the model's choice (log entry 72). -/
def Obligations.CellEmptyEndsTheUnit : Prop :=
  ∀ (s : State) (c : CraneId) (a : AisleId) (e : End) (h : Handle) (j : Job) (u : WorkUnit) (x : Step) (d : CellAddr)
    (k : Sys2Proof.Class), Announced s c → (s.crane c).mapping = some (a, e) → (s.crane c).state = .working →
    (s.crane c).unit = some u → s.job? h = some j → h ∈ u.jobs → u.remaining.head? = some x → x.job = h →
    x.action = .pick → x.place = .cell d → j.stranded = false → (s.cell d).state = .outReserved h k →
    Lawful s → PoolLawful s → WorkLawful s →
    ∃ t, exec (.cellEmpty c (encodeHandle h)) s = .next t
      ∧ (t.crane c).bay = d.bay ∧ (t.crane c).level = d.level ∧ t.flg = s.flg
      ∧ (t.crane c).unit = none ∧ (t.crane c).deadline = none
      ∧ t.cell d = { state := .empty, conflict := true }
      ∧ s.craneReported .emptyRetrieval c (some h) (encodeHandle h) ∈ t.events
      ∧ (∀ l, s.liu.active.get l = true → s.hasRoom l = true → ∃ more, t.queue l =
          s.queue l ++ .cellConflict d .empty .empty h c :: more)
      ∧ (j.kind = .retrieve → j.waitsFor = none → (t.crane c).state = s.afterWork c
          ∧ (∀ o, o ≠ c → t.crane o = s.crane o)
          ∧ IntervalMoves s t a e (fun i => i.fallen d.bay []) (s.parkWidened c (s.afterWork c))
          ∧ (∀ l, j.origin = .order l → t.job? h = none →
              .jobClosed h j.reference .retrieve .noStock j.overdue none ∈ t.queue l)
          ∧ ∀ k, t.job? h = some k → d ∉ k.candidates ∧ k.unit = none ∧ k.partner = none ∧ k.chosen = none
              ∧ (k.state = .ready ∨ k.state = .pending ∨ (k.state = .closing ∧ k.outcome = some .noStock)))
      ∧ (j.kind = .retrieve → j.waitsFor = none → j.promised = none → (∀ b ∈ j.candidates, b = d) →
          ∀ l, j.origin = .order l →
            (t.job? h = none ∨ ∃ k, t.job? h = some k ∧ k.state = .closing ∧ k.outcome = some .noStock)
            ∧ ((s.queue l).length + 2 ≤ 32 → t.job? h = none))
      ∧ BreachRaised s t c d.bay (some h) (encodeHandle h)
      ∧ (j.kind = .relocate → j.origin = .internal →
          (∀ q g, j.served = some q → s.job? q = some g → g.waitsFor = some h ∨ g.waitsFor = none) →
          (t.crane c).state = s.afterWork c ∧ (∀ o, o ≠ c → t.crane o = s.crane o)
          ∧ IntervalMoves s t a e (fun i => i.fallen d.bay []) (s.parkWidened c (s.afterWork c))
          ∧ ((∀ l, s.liu.active.get l = true → (s.queue l).length + 4 ≤ 32) → t.job? h = none)
          ∧ (∀ l, s.liu.active.get l = true → (s.queue l).length + 4 ≤ 32 → ∀ src q, j.chosen = some src →
              j.served = some q → .palletMoved h q .done false src none ∈ t.queue l)
          ∧ (∀ b, j.target = some b → (s.cell b).state = .inReserved h → (t.cell b).state = .empty)
          ∧ (∀ q g k, j.served = some q → q ≠ h → s.job? q = some g → t.job? q = some k → k.waitsFor = none))
      ∧ (j.kind = .relocate → ∀ k, t.job? h = some k → k.state = .closing ∧ k.outcome = some .done)

/-! ## Timers -/

/-- The hold-back timer's expiry stops it and starts a selection; the park timer's takes a PARKING or CLEARING crane
to FAULTED with PARK_TIMEOUT, ending its clear; the backoff timer's takes a BACKOFF crane to IDLE with RESUME and no
strikes, or to OUT_OF_SERVICE; the step deadline's marks the step's job overdue with STEP_OVERDUE. A timer that does
not run has no expiry (R80, R123, R139, R143, R144).
An aging step gives every PENDING and READY job one more age step, up to 255, and reloads the counter; a tick of 100
ms counts down in TIME mode alone and takes the step at 0; with a start count of 0 nothing ages (R63). The effects of
an aging step whatever the counter held are log entry 5, the hold-back expiry raising a selection of its own is log
entry 36, and a BACKOFF crane that goes to OUT_OF_SERVICE without RESUME is log entry 40; that PARK_TIMEOUT is the
last event raised is log entry 74, the model's choice. -/
def Obligations.TimersExpire : Prop :=
  (∀ (s : State) (c : CraneId), s.liu.restarting = none →
      ((s.holdBack c).timer = none → exec (.holdBackExpiry c) s = .next (s.take (.holdBackExpiry c)))
      ∧ ((s.holdBack c).timer ≠ none → exec (.holdBackExpiry c) s = .next
          { (s.take (.holdBackExpiry c)).setHoldBack c { s.holdBack c with timer := none } with
            events := (s.events.erase (.holdBackExpiry c)).filter (· ≠ .holdBackExpiry c) ++ [.selection c] })
      ∧ ((s.crane c).parkTimer = none → exec (.parkTimerExpiry c) s = .next (s.take (.parkTimerExpiry c)))
      ∧ ((s.crane c).parkTimer ≠ none → (s.crane c).state ∈ [CraneState.parking, .clearing] →
          ∃ t, exec (.parkTimerExpiry c) s = .next t
            ∧ t.crane c = { s.crane c with state := .faulted, parkTimer := none }
            ∧ t.events.getLast? = some (s.craneReported .parkTimeout c none [])
            ∧ (∀ d, d ≠ c → t.crane d = s.crane d) ∧ t.jpl = s.jpl ∧ t.swu = s.swu ∧ t.flg = s.flg
            ∧ ((s.crane c).state = .parking → t.crt.rail = s.crt.rail)
            ∧ ∀ a e r, (s.crane c).state = .clearing → (s.crane c).mapping = some (a, e) → s.rail a = some r →
                ∃ r', t.rail a = some r' ∧ r'.get e = { r.get e with clear := none }
                  ∧ r'.get (otherEnd e) = { r.get (otherEnd e) with claim := none })
      ∧ ((s.crane c).backoffTimer = none → exec (.backoffExpiry c) s = .next (s.take (.backoffExpiry c)))
      ∧ ((s.crane c).backoffTimer ≠ none → (s.crane c).state = .backoff → ∃ t, exec (.backoffExpiry c) s = .next t
          ∧ t.crane c = { s.crane c with
              state := if (s.crane c).leaveService then .outOfService else .idle
              leaveService := false, backoffTimer := none, strikes := 0 }
          ∧ t.crt.rail = s.crt.rail
          ∧ t.tx (.crane c) = s.tx (.crane c) ++ (if (s.crane c).leaveService then [] else [.resume])
          ∧ (∀ d, d ≠ c → t.crane d = s.crane d) ∧ t.jpl = s.jpl ∧ t.cmp = s.cmp ∧ t.swu = s.swu ∧ t.flg = s.flg)
      ∧ ((s.crane c).deadline = none → exec (.stepDeadlineExpiry c) s = .next (s.take (.stepDeadlineExpiry c)))
      ∧ (∀ k u x j, (s.crane c).deadline = some k → (s.crane c).unit = some u → u.steps[k.step - 1]? = some x →
          s.job? x.job = some j → ∃ t, exec (.stepDeadlineExpiry c) s = .next t
            ∧ t.crane c = { s.crane c with deadline := none } ∧ (∀ d, d ≠ c → t.crane d = s.crane d)
            ∧ t.job? x.job = some { j with overdue := true } ∧ (∀ g, g ≠ x.job → t.job? g = s.job? g)
            ∧ t.events.getLast? = some (s.craneReported .stepOverdue c (some x.job) [])
            ∧ t.cmp = s.cmp ∧ t.ale = s.ale ∧ t.swu = s.swu ∧ t.aic = s.aic ∧ t.flg = s.flg ∧ t.liu = s.liu))
  ∧ (∀ s : State, s.liu.restarting = none →
      ∃ t u, exec .agingStep s = .next t ∧ exec .agingCounterTick s = .next u
        ∧ (s.jpl.startCount = 0 → t = s.take .agingStep ∧ u = s.take .agingCounterTick)
        ∧ (s.jpl.agingMode = .events → u = s.take .agingCounterTick)
        ∧ (s.jpl.startCount ≠ 0 →
            t = { s.take .agingStep with jpl := { s.jpl with slots := t.jpl.slots, counter := s.jpl.startCount } }
            ∧ ∀ h, t.job? h = (s.job? h).map fun j =>
                if j.state = .pending ∨ j.state = .ready then { j with age := min 255 (j.age + 1) } else j)
        ∧ (s.jpl.startCount ≠ 0 → s.jpl.agingMode = .time → 2 ≤ s.jpl.counter →
            u = { s.take .agingCounterTick with jpl := { s.jpl with counter := s.jpl.counter - 1 } })
        ∧ (s.jpl.startCount ≠ 0 → s.jpl.agingMode = .time → s.jpl.counter ≤ 1 → u.jpl = t.jpl))

/-! ## Allotment -/

/-- A selection: nothing for a crane that is not WAITING; STANDBY where its aisle is not OPEN, has a pending profile or
the halt is in force, and, with the hold-back timer stopped, where every unit is dropped; else the unit of least rank
among those not dropped wins (R67 to R69, R76, R78, R80, R82; among jobs equal by R73 and units equal by R78 the model's
choice: log entries 66 and 67).
What it weighs, part by part: a candidate's status by R71's table, a job's eligibility by R70's conditions, the window's 32
jobs in R73's order, the single and pair units of R74 and R75 with their steps, candidate and unit time (R27 to R32), the
score as its sum of unit time and least urgency within its bounds (R77), R78's tests in their order, and the hull and the
verdict of R112: clear, needing a clear to a target, or dropped. -/
def Obligations.SelectionPicksTheLeastUnit : Prop :=
  (∀ (s : State) (c : CraneId),
      (((s.crane c).state ≠ .waiting ∨ (s.crane c).mapping = none) →
        exec (.selection c) s = .next (s.take (.selection c)))
      ∧ ∀ a e p, (s.crane c).state = .waiting → (s.crane c).mapping = some (a, e) → s.profile? a = some p →
        (((s.hold a).state ≠ .isOpen ∨ (s.aisle a).pendingProfile ≠ none ∨ s.flg.halt = true) →
          exec (.selection c) s =
            .next ((s.take (.selection c)).setTx (.crane c) (s.tx (.crane c) ++ [.standby])))
        ∧ ((s.hold a).state = .isOpen → (s.aisle a).pendingProfile = none → s.flg.halt = false →
          ((∀ u ∈ s.proposals c p a e, s.railVerdict p a e (s.unitHull c u.steps) = .dropped) →
            ∃ t, exec (.selection c) s = .next t ∧ t.tx (.crane c) = s.tx (.crane c) ++ [.standby]
              ∧ (t.holdBack c).timer = none ∧ (t.holdBack c).heldBack = (s.holdBack c).heldBack
              ∧ t.jpl = s.jpl ∧ t.cmp = s.cmp ∧ t.crt = s.crt ∧ t.swu = s.swu ∧ t.aic = s.aic ∧ t.flg = s.flg)
          ∧ (∀ v ∈ s.proposals c p a e, s.railVerdict p a e (s.unitHull c v.steps) ≠ .dropped →
            ∃ u ∈ s.proposals c p a e, s.winner c p a e = some u
              ∧ s.railVerdict p a e (s.unitHull c u.steps) ≠ .dropped
              ∧ (∀ w ∈ s.proposals c p a e, s.railVerdict p a e (s.unitHull c w.steps) ≠ .dropped →
                  keyLt (s.unitRank w) (s.unitRank u) = false)
              ∧ (u.isLoneLow = true → (s.holdBack c).timer = none → (s.holdBack c).heldBack = false → s.ale.tPair ≠ 0 →
                  ∃ t, exec (.selection c) s = .next t ∧ t.tx (.crane c) = s.tx (.crane c) ++ [.standby]
                    ∧ t.holdBack c = { timer := some (s.now + s.ale.tPair), heldBack := true }
                    ∧ t.jpl = s.jpl ∧ t.cmp = s.cmp ∧ t.crt = s.crt ∧ t.swu = s.swu ∧ t.aic = s.aic ∧ t.flg = s.flg)
              ∧ (∀ x, u.isLoneLow = true → (s.holdBack c).timer = some x → (s.holdBack c).heldBack = true →
                  exec (.selection c) s = .next (s.take (.selection c))))))
  ∧ ∀ (s : State) (c : CraneId) (p : Profile) (a : AisleId) (e : End),
      CandidateTests s ∧ EligibilityTests s a e ∧ TimeTests p e ∧ ScoreTests s ∧ VerdictTests s c p a e
      ∧ (AgeLaw s → WindowTests s a e)
      ∧ (JobLaw s → UnitTests s c p a e)
      ∧ (AgeLaw s → HandleLaw s → JobLaw s → RankTests s (s.proposals c p a e))

/-- The winner of a selection that is not held back is offered: the crane is OFFERED the unit under its unit counter,
which advances, with the offer timer running and OFFER sent; its jobs are OFFERED, those of a pair partners, a
retrieve's candidate OUT_RESERVED and its station's in-flight count one higher; in a tandem aisle the crane holds the
unit's hull. Where the other crane must clear, that one is CLEARING with CLEAR sent and its park timer running, and
the crane waits on with a claim of the hull (R42, R50, R79 to R81, R120, R161). That the offered unit holds current
step 1 before its ACCEPT is the model's choice (log entry 73). -/
def Obligations.WinnersAreOfferedOrClearedFor : Prop :=
  ∀ (s : State) (c : CraneId) (a : AisleId) (e : End) (p : Profile) (u : Proposal), (s.crane c).state = .waiting →
    (s.crane c).mapping = some (a, e) → s.profile? a = some p → s.aisleEligible a = true → RoleLaw s → HandleLaw s →
    s.winner c p a e = some u →
    (u.isLoneLow = false ∨ ((s.holdBack c).timer = none ∧ ((s.holdBack c).heldBack = true ∨ s.ale.tPair = 0))) →
    (s.railVerdict p a e (s.unitHull c u.steps) = .clear →
      (∀ x j, u.pick = some x → u.jobs.getLast? = some j → ∃ k, (s.cell x).state = .full k ∧ s.pairAllows x = true) →
      MapWf s →
      ∃ t, exec (.selection c) s = .next t
        ∧ (t.crane c).state = .offered
        ∧ (t.crane c).unit = some
            { number := (s.crane c).unitCounter, jobs := u.jobs.map (·.handle), steps := u.steps, current := 1 }
        ∧ (t.crane c).unitCounter = (s.crane c).unitCounter + 1
        ∧ (t.crane c).offerTimer = some (s.now + s.crt.tOffer)
        ∧ t.tx (.crane c) = s.tx (.crane c) ++ [.offer (s.crane c).unitCounter u.steps]
        ∧ (t.holdBack c).timer = none
        ∧ (∀ j ∈ u.jobs, ∃ k, t.job? j.handle = some k ∧ k.state = .offered
            ∧ k.unit = some { crane := c, number := (s.crane c).unitCounter })
        ∧ (∀ x, u.jobs = [x] → (t.job? x.handle).bind (·.partner) = none)
        ∧ (∀ x y, u.jobs = [x, y] → (t.job? x.handle).bind (·.partner) = some y.handle
            ∧ (t.job? y.handle).bind (·.partner) = some x.handle)
        ∧ (∀ b f, t.credit b f = if (b, f) = (a, e) ∧ ∃ j ∈ u.jobs, j.kind = .retrieve then
            { reportedFree := (s.credit b f).reportedFree, inFlight := (s.credit b f).inFlight + 1 } else s.credit b f)
        ∧ (∀ x j k, u.pick = some x → u.jobs.getLast? = some j → (s.cell x).state = .full k →
            t.cell x = { s.cell x with state := .outReserved j.handle k })
        ∧ (∀ r, t.entry c = some r → r.granted = s.unitHull c u.steps ∧ r.claim = none)
        ∧ (∀ d, d ≠ c → t.crane d = s.crane d) ∧ t.flg = s.flg)
    ∧ (∀ x o, s.railVerdict p a e (s.unitHull c u.steps) = .needs x → s.craneAt a (otherEnd e) = some o →
      ∃ t, exec (.selection c) s = .next t
        ∧ t.crane c = s.crane c ∧ (t.holdBack c).timer = none
        ∧ (t.crane o).state = .clearing ∧ (t.crane o).parkTimer = some (s.now + s.crt.tPark)
        ∧ t.tx (.crane o) = s.tx (.crane o) ++ [.clear x] ∧ t.tx (.crane c) = s.tx (.crane c)
        ∧ (∀ r, s.rail a = some r → ∃ r', t.rail a = some r'
            ∧ (r'.get e).claim = some (s.unitHull c u.steps) ∧ (r'.get e).granted = (r.get e).granted
            ∧ (r'.get (otherEnd e)).granted = hull (s.craneBay o) [x]
            ∧ (r'.get (otherEnd e)).clear =
                some { target := x, toWaiting := decide ((s.crane o).state = .waiting) })
        ∧ t.jpl = s.jpl ∧ t.cmp = s.cmp ∧ t.swu = s.swu ∧ t.flg = s.flg)

/-- A preemption check does nothing unless preemption is on, the job is a READY, unpromised job of class 0 in an aisle
that takes offers, and none of its cranes is WAITING. Its cranes are those of R85, FRONT first, and a crane is a
target exactly where R85's conditions on its state, its unit, its redirect, its credit and its gap hold, with the
job's single unit formed from where it stands (R74). Else the target crane of least unit time is sent REDIRECT for the
job, which stays READY with its promise, and the crane keeps its unit with its interval widened by the new one (R74,
R85, R86, R112, R161; a check overtaken, without effect: log entry 45). -/
def Obligations.PreemptionRedirectsACrane : Prop :=
  ∀ (s : State) (h : Handle),
    (∀ j, CraneTests s j ∧ (JobLaw s → s.job? h = some j → j.state = .ready → j.promised = none → PreemptionTests s j))
    ∧ ((∀ j, s.job? h = some j → s.ale.preemption = false ∨ j.state ≠ .ready ∨ j.promised ≠ none ∨ j.cls ≠ 0
        ∨ s.aisleEligible j.aisle = false ∨ (∃ c ∈ s.jobCranes j, (s.crane c).state = .waiting)
        ∨ (j.kind = .retrieve ∧ s.available j = []) ∨ ∀ c ∈ s.jobCranes j, s.preemptionTarget j c = none) →
      exec (.preemptionCheck h) s = .next (s.take (.preemptionCheck h)))
    ∧ ∀ j c u, s.job? h = some j → s.ale.preemption = true → j.state = .ready → j.promised = none → j.cls = 0 →
      s.aisleEligible j.aisle = true → (∀ c ∈ s.jobCranes j, (s.crane c).state ≠ .waiting) →
      (j.kind = .retrieve → s.available j ≠ []) →
      minBy (fun t => [t.2.time]) ((s.jobCranes j).filterMap (s.preemptionTarget j)) = some (c, u) →
      s.reserveUnit u ≠ none → HandleLaw s → MapWf s →
      ∃ t, exec (.preemptionCheck h) s = .next t
        ∧ (s.crane c).state = .working ∧ s.loadedOn c = none ∧ (s.crane c).redirect = none
        ∧ t.crane c = { s.crane c with
            unitCounter := (s.crane c).unitCounter + 1
            redirect := some { number := (s.crane c).unitCounter, steps := u.steps, job := h }
            offerTimer := some (s.now + s.crt.tOffer) }
        ∧ (∀ d, d ≠ c → t.crane d = s.crane d)
        ∧ t.tx (.crane c) = s.tx (.crane c) ++ [.redirect (s.crane c).unitCounter u.steps]
        ∧ t.job? h = some { j with
            promised := some { crane := c, number := (s.crane c).unitCounter }
            chosen := if j.kind = .retrieve then u.pick else j.chosen }
        ∧ (∀ g, g ≠ h → t.job? g = s.job? g)
        ∧ (∀ r, t.entry c = some r → r.granted = s.redirectHull c u.steps)
        ∧ (∀ a e, j.kind = .retrieve → (s.crane c).mapping = some (a, e) →
            (t.credit a e).inFlight = (s.credit a e).inFlight + 1)
        ∧ t.ale = s.ale ∧ t.aic = s.aic ∧ t.flg = s.flg

/-- A slot search for a passed store of no destination reserves the admitted cell of the aisle of least key, from the
input station of the store's end, and on equal keys the first by R35's order, and makes the store READY: it admits a
cell EMPTY, unflagged and of sufficient fit, and in a double-deep aisle a deep cell behind an EMPTY near cell or a
near cell before a FULL or BLOCKED deep one; with no admitted cell it waits with NO_SPACE; for any other job nothing
happens (R13, R34, R35, R47, R83; that a passed store waits for its search without a reason: log entry 12; a search
overtaken, without effect: log entry 45). -/
def Obligations.SlotSearchReservesTheLeastCell : Prop :=
  ∀ (s : State) (h : Handle),
    ((∀ j, s.job? h = some j → j.kind ≠ .store ∨ j.state ≠ .pending ∨ j.load = none ∨ j.destination ≠ none
        ∨ (j.reason ≠ none ∧ j.reason ≠ some .noSpace)) →
      exec (.slotSearch h) s = .next (s.take (.slotSearch h)))
    ∧ ∀ j q e k x, s.job? h = some j → j.kind = .store → j.state = .pending → j.load ≠ none → j.destination = none →
      (j.reason = none ∨ j.reason = some .noSpace) → s.profile? j.aisle = some q → j.end_ = jobEnd e → MapWf s →
      k = (j.load.bind (·.cls)).getD 0 → x = { bay := if e = .front then 0 else q.geo.bays + 1, level := 0 } →
      ((∀ c, ¬ SlotCell q s.cell j.aisle k c) → ∃ t, exec (.slotSearch h) s = .next t
        ∧ t = { s.take (.slotSearch h) with jpl := { s.jpl with slots := t.jpl.slots } }
        ∧ t.job? h = some { j with reason := some .noSpace } ∧ ∀ g, g ≠ h → t.job? g = s.job? g)
      ∧ (∀ d, SlotCell q s.cell j.aisle k d → ∃ t c, exec (.slotSearch h) s = .next t
        ∧ Wins (SlotCell q s.cell j.aisle k) (SlotBefore q s.ale.waste x k e) c
        ∧ (∀ b, t.cell b = if b = c then { state := .inReserved h, conflict := false } else s.cell b)
        ∧ t.job? h = some { j with chosen := some c, state := .ready, reason := none }
        ∧ (∀ g, g ≠ h → t.job? g = s.job? g)
        ∧ t.crt = s.crt ∧ t.ale = s.ale ∧ t.swu = s.swu ∧ t.aic = s.aic ∧ t.flg = s.flg ∧ t.liu = s.liu)

/-- A relocation request for a retrieve that still waits with NO_CANDIDATE takes its first BLOCKED candidate: with no
free slot, or no target cell admitted by R92's tests, the retrieve waits with NO_RELOC_SPACE; else a READY relocation
of its aisle, class and age has the near cell OUT_RESERVED and the target IN_RESERVED, the admitted cell of least key
from the source and on equal keys the first by R36's order, and the retrieve waits with RELOCATING for it; for any
other job nothing happens (R34, R36, R91 to R93). The relocation's READY raises the selections of the cranes that wait
at that moment, FRONT before REAR, and then the preemption check (R68, R85; the model's choice: log entries 29, 49 and
50). -/
def Obligations.RelocationRequestCreatesAJob : Prop :=
  ∀ (s : State) (h : Handle),
    ((∀ j, s.job? h = some j → j.kind ≠ .retrieve ∨ j.state ≠ .pending ∨ j.reason ≠ some .noCandidate ∨ j.waitsFor ≠ none
        ∨ s.inWindow j = false ∨ ∀ c ∈ j.candidates, s.status c ≠ .blocked) →
      exec (.relocationRequest h) s = .next (s.take (.relocationRequest h)))
    ∧ ∀ j d, s.job? h = some j → j.kind = .retrieve → j.state = .pending → j.reason = some .noCandidate →
      j.waitsFor = none → s.inWindow j = true → j.candidates.find? (fun c => decide (s.status c = .blocked)) = some d →
      ((s.jpl.freeList = [] ∨
          ∀ q k, s.profile? d.aisle = some q → (s.cell (nearOf d)).state = .full k →
            ∀ x, ¬ TargetCell q s.cell (nearOf d) k x) →
        HandleLaw s → ∃ t, exec (.relocationRequest h) s = .next t
          ∧ t = { s.take (.relocationRequest h) with jpl := { s.jpl with slots := t.jpl.slots } }
          ∧ t.job? h = some { j with reason := some .noRelocSpace } ∧ ∀ g, g ≠ h → t.job? g = s.job? g)
      ∧ ∀ r q k y, s.nextHandle = some r → s.profile? d.aisle = some q → (s.cell (nearOf d)).state = .full k →
        TargetCell q s.cell (nearOf d) k y → PoolLawful s → Lawful s →
        ∃ t g x, exec (.relocationRequest h) s = .next t
          ∧ Wins (TargetCell q s.cell (nearOf d) k)
              (TargetBefore q s.ale.waste { bay := d.bay, level := d.level } k) x
          ∧ t.job? r = some g ∧ g.kind = .relocate ∧ g.origin = .internal ∧ g.served = some h ∧ g.cls = j.cls
          ∧ g.aisle = j.aisle
          ∧ g.age = j.age ∧ g.entryOrder = s.jpl.entryOrder ∧ g.chosen = some (nearOf d) ∧ g.target = some x
          ∧ g.state = .ready
          ∧ t.job? h = some { j with waitsFor := some r, reason := some .relocating }
          ∧ (∀ b, t.cell b =
              if b = nearOf d then { s.cell b with state := .outReserved r k }
              else if b = x then { s.cell b with state := .inReserved r } else s.cell b)
          ∧ (∃ es, t.events = s.events.erase (.relocationRequest h) ++ es ++ s.wakes j.aisle ++
                (if j.cls = 0 then [.preemptionCheck r] else [])
              ∧ ∀ i ∈ es, ∃ q, i = .reEvaluation q)
          ∧ t.jpl.freeList = s.jpl.freeList.drop 1 ∧ t.jpl.entryOrder = s.jpl.entryOrder + 1
          ∧ t.crt = s.crt ∧ t.swu = s.swu ∧ t.flg = s.flg ∧ t.liu = s.liu

/-- A re-evaluation: a PENDING or READY unpromised retrieve keeps the candidates that are not GONE and is READY, or
PENDING with the reason its window, its relocation and its candidates give, and with none left it closes NO_STOCK; a
store waiting with NO_SPACE draws a slot search; for any other job nothing happens (R38, R47 to R49, R56, R94, R96;
that a retrieve served by a stranded relocation is no exception: log entry 68). A retrieve that becomes READY raises
the selections of the cranes that wait at that moment, FRONT before REAR, and then the preemption check (R68, R85; the
model's choice: log entries 29, 49 and 50).
A retrieve that closes NO_STOCK while it waits for a relocation has that relocation cancelled with it where it is
READY, OFFERED or EN_ROUTE, as RelocationCancelled says; a relocation in any other state runs on (R56 to R58, R99; its
redirect: log entry 27); that its JOB_CLOSED stands first behind the old queue, ahead of that relocation's
PALLET_MOVED, is the model's reading (log entry 48). The other jobs and cells stand, but what an outstanding redirect
of the relocation's crane held. -/
def Obligations.ReEvaluationFollowsTheCandidates : Prop :=
  ∀ (s : State) (h : Handle),
    ((∀ j, s.job? h = some j → j.kind = .relocate ∨ (j.kind = .store ∧ (j.state ≠ .pending ∨ j.reason ≠ some .noSpace))
        ∨ (j.kind = .retrieve ∧ ((j.state ≠ .pending ∧ j.state ≠ .ready) ∨ j.promised ≠ none))) →
      exec (.reEvaluation h) s = .next (s.take (.reEvaluation h)))
    ∧ (∀ j, s.job? h = some j → j.kind = .store → j.state = .pending → j.reason = some .noSpace →
        exec (.reEvaluation h) s = .next
          { s.take (.reEvaluation h) with events := s.events.erase (.reEvaluation h) ++ [.slotSearch h] })
    ∧ ∀ j, s.job? h = some j → j.kind = .retrieve → (j.state = .pending ∨ j.state = .ready) → j.promised = none →
      HandleLaw s →
      (s.kept j ≠ [] → ∃ t, exec (.reEvaluation h) s = .next t
        ∧ t = { s.take (.reEvaluation h) with
            jpl := { s.jpl with slots := t.jpl.slots }
            events := s.events.erase (.reEvaluation h) ++ (s.evaluated j (s.kept j)).2.2 }
        ∧ t.job? h = some { j with
            state := (s.evaluated j (s.kept j)).1, reason := (s.evaluated j (s.kept j)).2.1, candidates := s.kept j }
        ∧ ∀ g, g ≠ h → t.job? g = s.job? g)
      ∧ (s.kept j = [] → j.waitsFor = none → j.unit = none → j.partner = none → j.chosen = none → j.target = none →
        ∀ l, j.origin = .order l → ∃ t, exec (.reEvaluation h) s = .next t
          ∧ Closed s t l j .noStock none ∧ t.crt = s.crt ∧ t.cmp = s.cmp ∧ t.ale = s.ale ∧ t.aic = s.aic
          ∧ t.flg = s.flg ∧ (∀ g : Handle, g.slot ≠ h.slot → t.job? g = s.job? g)
          ∧ (s.hasRoom l = true → t.slot h.slot = { gen := h.gen + 1, job := none }
              ∧ (∀ g k, t.job? g = some k → k.kind = .retrieve → k.state = .pending → k.reason = some .noRelocSpace →
                  .reEvaluation g ∈ t.events)
              ∧ t.jpl.freeList = s.jpl.freeList ++ [h.slot]
              ∧ t.jpl.live = s.jpl.live.set l (s.jpl.live.get l - 1)))
      ∧ (s.kept j = [] → ∀ r l, j.waitsFor = some r.handle → s.job? r.handle = some r → r.kind = .relocate →
          r.served = some h → r.origin = .internal → j.origin = .order l → Lawful s → PoolLawful s → WorkLawful s →
        ∃ t, exec (.reEvaluation h) s = .next t
          ∧ (s.hasRoom l = true → t.job? h = none ∧ ∃ more,
              t.queue l = s.queue l ++ .jobClosed h j.reference .retrieve .noStock j.overdue none :: more)
          ∧ (s.hasRoom l = false → (∃ k, t.job? h = some k ∧ k.state = .closing ∧ k.outcome = some .noStock)
              ∧ ∃ more, t.jpl.closingWait.get l = s.jpl.closingWait.get l ++ h :: more)
          ∧ (r.state ∈ [JobState.ready, .offered, .enRoute] → RelocationCancelled s t j r)
          ∧ (r.state ∉ [JobState.ready, .offered, .enRoute] → t.job? r.handle = some r ∧ Closed s t l j .noStock none
              ∧ t.crt = s.crt ∧ t.cmp = s.cmp)
          ∧ (r.unit = none → r.promised = none → t.crt = s.crt)
          ∧ ((∀ u, r.unit = some u → (s.crane u.crane).redirect = none) →
              (∀ g, g ≠ h → g ≠ r.handle → t.job? g = s.job? g)
              ∧ ∀ c, r.chosen ≠ some c → r.target ≠ some c → t.cell c = s.cell c))

/-! ## Motion -/

/-- The axis time is 0 for no distance, the quotient rounded up for a long move, and the least time that reaches the
distance for a short one; at the critical distance the two agree on 2000 × V / A rounded up, and it rises with the number
of pitches (R25).
No axis time exceeds 973,000 ms horizontally or 602,000 ms vertically in the ranges a profile allows, and the first is
reached (R1, R26). -/
def Obligations.AxisTimesAreExactAndBounded : Prop :=
  (∀ n p v a : Nat, 0 < v → v < 65536 → 0 < a →
      (n * p = 0 → axisTime n p v a = 0)
      ∧ (0 < n * p → v * v ≤ n * p * a →
          1000 * (n * p) * a + 1000 * (v * v) ≤ axisTime n p v a * (v * a)
          ∧ ∀ t, 1000 * (n * p) * a + 1000 * (v * v) ≤ t * (v * a) → axisTime n p v a ≤ t)
      ∧ (0 < n * p → n * p * a < v * v →
          4000000 * (n * p) ≤ axisTime n p v a * axisTime n p v a * a
          ∧ ∀ t, 4000000 * (n * p) ≤ t * t * a → axisTime n p v a ≤ t)
      ∧ (0 < n * p → n * p * a = v * v →
          4000000 * (n * p) ≤ axisTime n p v a * axisTime n p v a * a
          ∧ (∀ t, 4000000 * (n * p) ≤ t * t * a → axisTime n p v a ≤ t)
          ∧ 2000 * v ≤ axisTime n p v a * a ∧ ∀ t, 2000 * v ≤ t * a → axisTime n p v a ≤ t)
      ∧ ∀ m, m ≤ n → axisTime m p v a ≤ axisTime n p v a)
  ∧ ((∀ n p v a : Nat, n ≤ 121 → 500 ≤ p → p ≤ 4000 → 500 ≤ v → v ≤ 6000 → 100 ≤ a → a ≤ 2000 →
      axisTime n p v a ≤ 973000)
    ∧ (∀ n p v a : Nat, n ≤ 40 → 300 ≤ p → p ≤ 3000 → 200 ≤ v → v ≤ 3000 → 100 ≤ a → a ≤ 2000 →
      axisTime n p v a ≤ 602000)
    ∧ axisTime 121 4000 500 100 = 973000 ∧ axisTime 40 3000 200 100 = 602000)
end

