-- ==== Sys2Proof/Laws/State.lean ====
section
/-! SUPPORT. Small lemmas of the state record: what one update of a bank leaves in every block and in every reader of
another bank, and what it leaves in its own bank. All but the last section hold by `rfl`. -/

namespace Sys2Proof.Machine

/-! ## An update of one bank leaves the other blocks, and the other fields of its block -/

@[simp] theorem State.setCrane_liu (s : State) (c : CraneId) (x : Crane) : (s.setCrane c x).liu = s.liu := rfl
@[simp] theorem State.setCrane_jpl (s : State) (c : CraneId) (x : Crane) : (s.setCrane c x).jpl = s.jpl := rfl
@[simp] theorem State.setCrane_cmp (s : State) (c : CraneId) (x : Crane) : (s.setCrane c x).cmp = s.cmp := rfl
@[simp] theorem State.setCrane_ale (s : State) (c : CraneId) (x : Crane) : (s.setCrane c x).ale = s.ale := rfl
@[simp] theorem State.setCrane_crt_rail (s : State) (c : CraneId) (x : Crane) : (s.setCrane c x).crt.rail = s.crt.rail := rfl
@[simp] theorem State.setCrane_crt_tOffer (s : State) (c : CraneId) (x : Crane) : (s.setCrane c x).crt.tOffer = s.crt.tOffer := rfl
@[simp] theorem State.setCrane_crt_tPark (s : State) (c : CraneId) (x : Crane) : (s.setCrane c x).crt.tPark = s.crt.tPark := rfl
@[simp] theorem State.setCrane_crt_tBackoff (s : State) (c : CraneId) (x : Crane) : (s.setCrane c x).crt.tBackoff = s.crt.tBackoff := rfl
@[simp] theorem State.setCrane_crt_factor (s : State) (c : CraneId) (x : Crane) : (s.setCrane c x).crt.factor = s.crt.factor := rfl
@[simp] theorem State.setCrane_crt_strikeLimit (s : State) (c : CraneId) (x : Crane) : (s.setCrane c x).crt.strikeLimit = s.crt.strikeLimit := rfl
@[simp] theorem State.setCrane_crt_policy (s : State) (c : CraneId) (x : Crane) : (s.setCrane c x).crt.policy = s.crt.policy := rfl
@[simp] theorem State.setCrane_swu (s : State) (c : CraneId) (x : Crane) : (s.setCrane c x).swu = s.swu := rfl
@[simp] theorem State.setCrane_aic (s : State) (c : CraneId) (x : Crane) : (s.setCrane c x).aic = s.aic := rfl
@[simp] theorem State.setCrane_flg (s : State) (c : CraneId) (x : Crane) : (s.setCrane c x).flg = s.flg := rfl
@[simp] theorem State.setCrane_now (s : State) (c : CraneId) (x : Crane) : (s.setCrane c x).now = s.now := rfl
@[simp] theorem State.setCrane_events (s : State) (c : CraneId) (x : Crane) : (s.setCrane c x).events = s.events := rfl
@[simp] theorem State.setCrane_pending (s : State) (c : CraneId) (x : Crane) : (s.setCrane c x).pending = s.pending := rfl
@[simp] theorem State.setRail_liu (s : State) (a : AisleId) (x : Option (PerEnd RailEntry)) : (s.setRail a x).liu = s.liu := rfl
@[simp] theorem State.setRail_jpl (s : State) (a : AisleId) (x : Option (PerEnd RailEntry)) : (s.setRail a x).jpl = s.jpl := rfl
@[simp] theorem State.setRail_cmp (s : State) (a : AisleId) (x : Option (PerEnd RailEntry)) : (s.setRail a x).cmp = s.cmp := rfl
@[simp] theorem State.setRail_ale (s : State) (a : AisleId) (x : Option (PerEnd RailEntry)) : (s.setRail a x).ale = s.ale := rfl
@[simp] theorem State.setRail_crt_cranes (s : State) (a : AisleId) (x : Option (PerEnd RailEntry)) : (s.setRail a x).crt.cranes = s.crt.cranes := rfl
@[simp] theorem State.setRail_crt_tOffer (s : State) (a : AisleId) (x : Option (PerEnd RailEntry)) : (s.setRail a x).crt.tOffer = s.crt.tOffer := rfl
@[simp] theorem State.setRail_crt_tPark (s : State) (a : AisleId) (x : Option (PerEnd RailEntry)) : (s.setRail a x).crt.tPark = s.crt.tPark := rfl
@[simp] theorem State.setRail_crt_tBackoff (s : State) (a : AisleId) (x : Option (PerEnd RailEntry)) : (s.setRail a x).crt.tBackoff = s.crt.tBackoff := rfl
@[simp] theorem State.setRail_crt_factor (s : State) (a : AisleId) (x : Option (PerEnd RailEntry)) : (s.setRail a x).crt.factor = s.crt.factor := rfl
@[simp] theorem State.setRail_crt_strikeLimit (s : State) (a : AisleId) (x : Option (PerEnd RailEntry)) : (s.setRail a x).crt.strikeLimit = s.crt.strikeLimit := rfl
@[simp] theorem State.setRail_crt_policy (s : State) (a : AisleId) (x : Option (PerEnd RailEntry)) : (s.setRail a x).crt.policy = s.crt.policy := rfl
@[simp] theorem State.setRail_swu (s : State) (a : AisleId) (x : Option (PerEnd RailEntry)) : (s.setRail a x).swu = s.swu := rfl
@[simp] theorem State.setRail_aic (s : State) (a : AisleId) (x : Option (PerEnd RailEntry)) : (s.setRail a x).aic = s.aic := rfl
@[simp] theorem State.setRail_flg (s : State) (a : AisleId) (x : Option (PerEnd RailEntry)) : (s.setRail a x).flg = s.flg := rfl
@[simp] theorem State.setRail_now (s : State) (a : AisleId) (x : Option (PerEnd RailEntry)) : (s.setRail a x).now = s.now := rfl
@[simp] theorem State.setRail_events (s : State) (a : AisleId) (x : Option (PerEnd RailEntry)) : (s.setRail a x).events = s.events := rfl
@[simp] theorem State.setRail_pending (s : State) (a : AisleId) (x : Option (PerEnd RailEntry)) : (s.setRail a x).pending = s.pending := rfl
@[simp] theorem State.setAisle_liu (s : State) (a : AisleId) (x : Aisle) : (s.setAisle a x).liu = s.liu := rfl
@[simp] theorem State.setAisle_jpl (s : State) (a : AisleId) (x : Aisle) : (s.setAisle a x).jpl = s.jpl := rfl
@[simp] theorem State.setAisle_ale (s : State) (a : AisleId) (x : Aisle) : (s.setAisle a x).ale = s.ale := rfl
@[simp] theorem State.setAisle_crt (s : State) (a : AisleId) (x : Aisle) : (s.setAisle a x).crt = s.crt := rfl
@[simp] theorem State.setAisle_swu (s : State) (a : AisleId) (x : Aisle) : (s.setAisle a x).swu = s.swu := rfl
@[simp] theorem State.setAisle_aic (s : State) (a : AisleId) (x : Aisle) : (s.setAisle a x).aic = s.aic := rfl
@[simp] theorem State.setAisle_flg (s : State) (a : AisleId) (x : Aisle) : (s.setAisle a x).flg = s.flg := rfl
@[simp] theorem State.setAisle_now (s : State) (a : AisleId) (x : Aisle) : (s.setAisle a x).now = s.now := rfl
@[simp] theorem State.setAisle_events (s : State) (a : AisleId) (x : Aisle) : (s.setAisle a x).events = s.events := rfl
@[simp] theorem State.setAisle_pending (s : State) (a : AisleId) (x : Aisle) : (s.setAisle a x).pending = s.pending := rfl
@[simp] theorem State.setHold_liu (s : State) (a : AisleId) (x : AisleHold) : (s.setHold a x).liu = s.liu := rfl
@[simp] theorem State.setHold_jpl (s : State) (a : AisleId) (x : AisleHold) : (s.setHold a x).jpl = s.jpl := rfl
@[simp] theorem State.setHold_cmp (s : State) (a : AisleId) (x : AisleHold) : (s.setHold a x).cmp = s.cmp := rfl
@[simp] theorem State.setHold_ale (s : State) (a : AisleId) (x : AisleHold) : (s.setHold a x).ale = s.ale := rfl
@[simp] theorem State.setHold_crt (s : State) (a : AisleId) (x : AisleHold) : (s.setHold a x).crt = s.crt := rfl
@[simp] theorem State.setHold_swu (s : State) (a : AisleId) (x : AisleHold) : (s.setHold a x).swu = s.swu := rfl
@[simp] theorem State.setHold_aic_parkOwed (s : State) (a : AisleId) (x : AisleHold) : (s.setHold a x).aic.parkOwed = s.aic.parkOwed := rfl
@[simp] theorem State.setHold_flg (s : State) (a : AisleId) (x : AisleHold) : (s.setHold a x).flg = s.flg := rfl
@[simp] theorem State.setHold_now (s : State) (a : AisleId) (x : AisleHold) : (s.setHold a x).now = s.now := rfl
@[simp] theorem State.setHold_events (s : State) (a : AisleId) (x : AisleHold) : (s.setHold a x).events = s.events := rfl
@[simp] theorem State.setHold_pending (s : State) (a : AisleId) (x : AisleHold) : (s.setHold a x).pending = s.pending := rfl
@[simp] theorem State.setParkOwed_liu (s : State) (c : CraneId) (x : Bool) : (s.setParkOwed c x).liu = s.liu := rfl
@[simp] theorem State.setParkOwed_jpl (s : State) (c : CraneId) (x : Bool) : (s.setParkOwed c x).jpl = s.jpl := rfl
@[simp] theorem State.setParkOwed_cmp (s : State) (c : CraneId) (x : Bool) : (s.setParkOwed c x).cmp = s.cmp := rfl
@[simp] theorem State.setParkOwed_ale (s : State) (c : CraneId) (x : Bool) : (s.setParkOwed c x).ale = s.ale := rfl
@[simp] theorem State.setParkOwed_crt (s : State) (c : CraneId) (x : Bool) : (s.setParkOwed c x).crt = s.crt := rfl
@[simp] theorem State.setParkOwed_swu (s : State) (c : CraneId) (x : Bool) : (s.setParkOwed c x).swu = s.swu := rfl
@[simp] theorem State.setParkOwed_aic_holds (s : State) (c : CraneId) (x : Bool) : (s.setParkOwed c x).aic.holds = s.aic.holds := rfl
@[simp] theorem State.setParkOwed_flg (s : State) (c : CraneId) (x : Bool) : (s.setParkOwed c x).flg = s.flg := rfl
@[simp] theorem State.setParkOwed_now (s : State) (c : CraneId) (x : Bool) : (s.setParkOwed c x).now = s.now := rfl
@[simp] theorem State.setParkOwed_events (s : State) (c : CraneId) (x : Bool) : (s.setParkOwed c x).events = s.events := rfl
@[simp] theorem State.setParkOwed_pending (s : State) (c : CraneId) (x : Bool) : (s.setParkOwed c x).pending = s.pending := rfl
@[simp] theorem State.setHoldBack_liu (s : State) (c : CraneId) (x : HoldBack) : (s.setHoldBack c x).liu = s.liu := rfl
@[simp] theorem State.setHoldBack_jpl (s : State) (c : CraneId) (x : HoldBack) : (s.setHoldBack c x).jpl = s.jpl := rfl
@[simp] theorem State.setHoldBack_cmp (s : State) (c : CraneId) (x : HoldBack) : (s.setHoldBack c x).cmp = s.cmp := rfl
@[simp] theorem State.setHoldBack_ale_pairing (s : State) (c : CraneId) (x : HoldBack) : (s.setHoldBack c x).ale.pairing = s.ale.pairing := rfl
@[simp] theorem State.setHoldBack_ale_preemption (s : State) (c : CraneId) (x : HoldBack) : (s.setHoldBack c x).ale.preemption = s.ale.preemption := rfl
@[simp] theorem State.setHoldBack_ale_tPair (s : State) (c : CraneId) (x : HoldBack) : (s.setHoldBack c x).ale.tPair = s.ale.tPair := rfl
@[simp] theorem State.setHoldBack_ale_offsets (s : State) (c : CraneId) (x : HoldBack) : (s.setHoldBack c x).ale.offsets = s.ale.offsets := rfl
@[simp] theorem State.setHoldBack_ale_waste (s : State) (c : CraneId) (x : HoldBack) : (s.setHoldBack c x).ale.waste = s.ale.waste := rfl
@[simp] theorem State.setHoldBack_crt (s : State) (c : CraneId) (x : HoldBack) : (s.setHoldBack c x).crt = s.crt := rfl
@[simp] theorem State.setHoldBack_swu (s : State) (c : CraneId) (x : HoldBack) : (s.setHoldBack c x).swu = s.swu := rfl
@[simp] theorem State.setHoldBack_aic (s : State) (c : CraneId) (x : HoldBack) : (s.setHoldBack c x).aic = s.aic := rfl
@[simp] theorem State.setHoldBack_flg (s : State) (c : CraneId) (x : HoldBack) : (s.setHoldBack c x).flg = s.flg := rfl
@[simp] theorem State.setHoldBack_now (s : State) (c : CraneId) (x : HoldBack) : (s.setHoldBack c x).now = s.now := rfl
@[simp] theorem State.setHoldBack_events (s : State) (c : CraneId) (x : HoldBack) : (s.setHoldBack c x).events = s.events := rfl
@[simp] theorem State.setHoldBack_pending (s : State) (c : CraneId) (x : HoldBack) : (s.setHoldBack c x).pending = s.pending := rfl
@[simp] theorem State.setInput_liu (s : State) (a : AisleId) (e : End) (x : InputRecord) : (s.setInput a e x).liu = s.liu := rfl
@[simp] theorem State.setInput_jpl (s : State) (a : AisleId) (e : End) (x : InputRecord) : (s.setInput a e x).jpl = s.jpl := rfl
@[simp] theorem State.setInput_cmp (s : State) (a : AisleId) (e : End) (x : InputRecord) : (s.setInput a e x).cmp = s.cmp := rfl
@[simp] theorem State.setInput_ale (s : State) (a : AisleId) (e : End) (x : InputRecord) : (s.setInput a e x).ale = s.ale := rfl
@[simp] theorem State.setInput_crt (s : State) (a : AisleId) (e : End) (x : InputRecord) : (s.setInput a e x).crt = s.crt := rfl
@[simp] theorem State.setInput_swu_credits (s : State) (a : AisleId) (e : End) (x : InputRecord) : (s.setInput a e x).swu.credits = s.swu.credits := rfl
@[simp] theorem State.setInput_swu_waves (s : State) (a : AisleId) (e : End) (x : InputRecord) : (s.setInput a e x).swu.waves = s.swu.waves := rfl
@[simp] theorem State.setInput_aic (s : State) (a : AisleId) (e : End) (x : InputRecord) : (s.setInput a e x).aic = s.aic := rfl
@[simp] theorem State.setInput_flg (s : State) (a : AisleId) (e : End) (x : InputRecord) : (s.setInput a e x).flg = s.flg := rfl
@[simp] theorem State.setInput_now (s : State) (a : AisleId) (e : End) (x : InputRecord) : (s.setInput a e x).now = s.now := rfl
@[simp] theorem State.setInput_events (s : State) (a : AisleId) (e : End) (x : InputRecord) : (s.setInput a e x).events = s.events := rfl
@[simp] theorem State.setInput_pending (s : State) (a : AisleId) (e : End) (x : InputRecord) : (s.setInput a e x).pending = s.pending := rfl
@[simp] theorem State.setCredit_liu (s : State) (a : AisleId) (e : End) (x : Credit) : (s.setCredit a e x).liu = s.liu := rfl
@[simp] theorem State.setCredit_jpl (s : State) (a : AisleId) (e : End) (x : Credit) : (s.setCredit a e x).jpl = s.jpl := rfl
@[simp] theorem State.setCredit_cmp (s : State) (a : AisleId) (e : End) (x : Credit) : (s.setCredit a e x).cmp = s.cmp := rfl
@[simp] theorem State.setCredit_ale (s : State) (a : AisleId) (e : End) (x : Credit) : (s.setCredit a e x).ale = s.ale := rfl
@[simp] theorem State.setCredit_crt (s : State) (a : AisleId) (e : End) (x : Credit) : (s.setCredit a e x).crt = s.crt := rfl
@[simp] theorem State.setCredit_swu_inputs (s : State) (a : AisleId) (e : End) (x : Credit) : (s.setCredit a e x).swu.inputs = s.swu.inputs := rfl
@[simp] theorem State.setCredit_swu_waves (s : State) (a : AisleId) (e : End) (x : Credit) : (s.setCredit a e x).swu.waves = s.swu.waves := rfl
@[simp] theorem State.setCredit_aic (s : State) (a : AisleId) (e : End) (x : Credit) : (s.setCredit a e x).aic = s.aic := rfl
@[simp] theorem State.setCredit_flg (s : State) (a : AisleId) (e : End) (x : Credit) : (s.setCredit a e x).flg = s.flg := rfl
@[simp] theorem State.setCredit_now (s : State) (a : AisleId) (e : End) (x : Credit) : (s.setCredit a e x).now = s.now := rfl
@[simp] theorem State.setCredit_events (s : State) (a : AisleId) (e : End) (x : Credit) : (s.setCredit a e x).events = s.events := rfl
@[simp] theorem State.setCredit_pending (s : State) (a : AisleId) (e : End) (x : Credit) : (s.setCredit a e x).pending = s.pending := rfl
@[simp] theorem State.setSlot_liu (s : State) (i : Fin 256) (x : Slot) : (s.setSlot i x).liu = s.liu := rfl
@[simp] theorem State.setSlot_jpl_freeList (s : State) (i : Fin 256) (x : Slot) : (s.setSlot i x).jpl.freeList = s.jpl.freeList := rfl
@[simp] theorem State.setSlot_jpl_live (s : State) (i : Fin 256) (x : Slot) : (s.setSlot i x).jpl.live = s.jpl.live := rfl
@[simp] theorem State.setSlot_jpl_quota (s : State) (i : Fin 256) (x : Slot) : (s.setSlot i x).jpl.quota = s.jpl.quota := rfl
@[simp] theorem State.setSlot_jpl_agingMode (s : State) (i : Fin 256) (x : Slot) : (s.setSlot i x).jpl.agingMode = s.jpl.agingMode := rfl
@[simp] theorem State.setSlot_jpl_startCount (s : State) (i : Fin 256) (x : Slot) : (s.setSlot i x).jpl.startCount = s.jpl.startCount := rfl
@[simp] theorem State.setSlot_jpl_weight (s : State) (i : Fin 256) (x : Slot) : (s.setSlot i x).jpl.weight = s.jpl.weight := rfl
@[simp] theorem State.setSlot_jpl_counter (s : State) (i : Fin 256) (x : Slot) : (s.setSlot i x).jpl.counter = s.jpl.counter := rfl
@[simp] theorem State.setSlot_jpl_entryOrder (s : State) (i : Fin 256) (x : Slot) : (s.setSlot i x).jpl.entryOrder = s.jpl.entryOrder := rfl
@[simp] theorem State.setSlot_jpl_closingWait (s : State) (i : Fin 256) (x : Slot) : (s.setSlot i x).jpl.closingWait = s.jpl.closingWait := rfl
@[simp] theorem State.setSlot_cmp (s : State) (i : Fin 256) (x : Slot) : (s.setSlot i x).cmp = s.cmp := rfl
@[simp] theorem State.setSlot_ale (s : State) (i : Fin 256) (x : Slot) : (s.setSlot i x).ale = s.ale := rfl
@[simp] theorem State.setSlot_crt (s : State) (i : Fin 256) (x : Slot) : (s.setSlot i x).crt = s.crt := rfl
@[simp] theorem State.setSlot_swu (s : State) (i : Fin 256) (x : Slot) : (s.setSlot i x).swu = s.swu := rfl
@[simp] theorem State.setSlot_aic (s : State) (i : Fin 256) (x : Slot) : (s.setSlot i x).aic = s.aic := rfl
@[simp] theorem State.setSlot_flg (s : State) (i : Fin 256) (x : Slot) : (s.setSlot i x).flg = s.flg := rfl
@[simp] theorem State.setSlot_now (s : State) (i : Fin 256) (x : Slot) : (s.setSlot i x).now = s.now := rfl
@[simp] theorem State.setSlot_events (s : State) (i : Fin 256) (x : Slot) : (s.setSlot i x).events = s.events := rfl
@[simp] theorem State.setSlot_pending (s : State) (i : Fin 256) (x : Slot) : (s.setSlot i x).pending = s.pending := rfl
@[simp] theorem State.setClosingWait_liu (s : State) (l : OrderLink) (x : List Handle) : (s.setClosingWait l x).liu = s.liu := rfl
@[simp] theorem State.setClosingWait_jpl_slots (s : State) (l : OrderLink) (x : List Handle) : (s.setClosingWait l x).jpl.slots = s.jpl.slots := rfl
@[simp] theorem State.setClosingWait_jpl_freeList (s : State) (l : OrderLink) (x : List Handle) : (s.setClosingWait l x).jpl.freeList = s.jpl.freeList := rfl
@[simp] theorem State.setClosingWait_jpl_live (s : State) (l : OrderLink) (x : List Handle) : (s.setClosingWait l x).jpl.live = s.jpl.live := rfl
@[simp] theorem State.setClosingWait_jpl_quota (s : State) (l : OrderLink) (x : List Handle) : (s.setClosingWait l x).jpl.quota = s.jpl.quota := rfl
@[simp] theorem State.setClosingWait_jpl_agingMode (s : State) (l : OrderLink) (x : List Handle) : (s.setClosingWait l x).jpl.agingMode = s.jpl.agingMode := rfl
@[simp] theorem State.setClosingWait_jpl_startCount (s : State) (l : OrderLink) (x : List Handle) : (s.setClosingWait l x).jpl.startCount = s.jpl.startCount := rfl
@[simp] theorem State.setClosingWait_jpl_weight (s : State) (l : OrderLink) (x : List Handle) : (s.setClosingWait l x).jpl.weight = s.jpl.weight := rfl
@[simp] theorem State.setClosingWait_jpl_counter (s : State) (l : OrderLink) (x : List Handle) : (s.setClosingWait l x).jpl.counter = s.jpl.counter := rfl
@[simp] theorem State.setClosingWait_jpl_entryOrder (s : State) (l : OrderLink) (x : List Handle) : (s.setClosingWait l x).jpl.entryOrder = s.jpl.entryOrder := rfl
@[simp] theorem State.setClosingWait_cmp (s : State) (l : OrderLink) (x : List Handle) : (s.setClosingWait l x).cmp = s.cmp := rfl
@[simp] theorem State.setClosingWait_ale (s : State) (l : OrderLink) (x : List Handle) : (s.setClosingWait l x).ale = s.ale := rfl
@[simp] theorem State.setClosingWait_crt (s : State) (l : OrderLink) (x : List Handle) : (s.setClosingWait l x).crt = s.crt := rfl
@[simp] theorem State.setClosingWait_swu (s : State) (l : OrderLink) (x : List Handle) : (s.setClosingWait l x).swu = s.swu := rfl
@[simp] theorem State.setClosingWait_aic (s : State) (l : OrderLink) (x : List Handle) : (s.setClosingWait l x).aic = s.aic := rfl
@[simp] theorem State.setClosingWait_flg (s : State) (l : OrderLink) (x : List Handle) : (s.setClosingWait l x).flg = s.flg := rfl
@[simp] theorem State.setClosingWait_now (s : State) (l : OrderLink) (x : List Handle) : (s.setClosingWait l x).now = s.now := rfl
@[simp] theorem State.setClosingWait_events (s : State) (l : OrderLink) (x : List Handle) : (s.setClosingWait l x).events = s.events := rfl
@[simp] theorem State.setClosingWait_pending (s : State) (l : OrderLink) (x : List Handle) : (s.setClosingWait l x).pending = s.pending := rfl
@[simp] theorem State.setFaultKind_liu (s : State) (k : FaultKind) (x : FaultControl) : (s.setFaultKind k x).liu = s.liu := rfl
@[simp] theorem State.setFaultKind_jpl (s : State) (k : FaultKind) (x : FaultControl) : (s.setFaultKind k x).jpl = s.jpl := rfl
@[simp] theorem State.setFaultKind_cmp (s : State) (k : FaultKind) (x : FaultControl) : (s.setFaultKind k x).cmp = s.cmp := rfl
@[simp] theorem State.setFaultKind_ale (s : State) (k : FaultKind) (x : FaultControl) : (s.setFaultKind k x).ale = s.ale := rfl
@[simp] theorem State.setFaultKind_crt (s : State) (k : FaultKind) (x : FaultControl) : (s.setFaultKind k x).crt = s.crt := rfl
@[simp] theorem State.setFaultKind_swu (s : State) (k : FaultKind) (x : FaultControl) : (s.setFaultKind k x).swu = s.swu := rfl
@[simp] theorem State.setFaultKind_aic (s : State) (k : FaultKind) (x : FaultControl) : (s.setFaultKind k x).aic = s.aic := rfl
@[simp] theorem State.setFaultKind_flg_capture (s : State) (k : FaultKind) (x : FaultControl) : (s.setFaultKind k x).flg.capture = s.flg.capture := rfl
@[simp] theorem State.setFaultKind_flg_further (s : State) (k : FaultKind) (x : FaultControl) : (s.setFaultKind k x).flg.further = s.flg.further := rfl
@[simp] theorem State.setFaultKind_flg_holds (s : State) (k : FaultKind) (x : FaultControl) : (s.setFaultKind k x).flg.holds = s.flg.holds := rfl
@[simp] theorem State.setFaultKind_flg_halt (s : State) (k : FaultKind) (x : FaultControl) : (s.setFaultKind k x).flg.halt = s.flg.halt := rfl
@[simp] theorem State.setFaultKind_now (s : State) (k : FaultKind) (x : FaultControl) : (s.setFaultKind k x).now = s.now := rfl
@[simp] theorem State.setFaultKind_events (s : State) (k : FaultKind) (x : FaultControl) : (s.setFaultKind k x).events = s.events := rfl
@[simp] theorem State.setFaultKind_pending (s : State) (k : FaultKind) (x : FaultControl) : (s.setFaultKind k x).pending = s.pending := rfl
@[simp] theorem State.setFaultHold_liu (s : State) (a : AisleId) (x : FaultHold) : (s.setFaultHold a x).liu = s.liu := rfl
@[simp] theorem State.setFaultHold_jpl (s : State) (a : AisleId) (x : FaultHold) : (s.setFaultHold a x).jpl = s.jpl := rfl
@[simp] theorem State.setFaultHold_cmp (s : State) (a : AisleId) (x : FaultHold) : (s.setFaultHold a x).cmp = s.cmp := rfl
@[simp] theorem State.setFaultHold_ale (s : State) (a : AisleId) (x : FaultHold) : (s.setFaultHold a x).ale = s.ale := rfl
@[simp] theorem State.setFaultHold_crt (s : State) (a : AisleId) (x : FaultHold) : (s.setFaultHold a x).crt = s.crt := rfl
@[simp] theorem State.setFaultHold_swu (s : State) (a : AisleId) (x : FaultHold) : (s.setFaultHold a x).swu = s.swu := rfl
@[simp] theorem State.setFaultHold_aic (s : State) (a : AisleId) (x : FaultHold) : (s.setFaultHold a x).aic = s.aic := rfl
@[simp] theorem State.setFaultHold_flg_kinds (s : State) (a : AisleId) (x : FaultHold) : (s.setFaultHold a x).flg.kinds = s.flg.kinds := rfl
@[simp] theorem State.setFaultHold_flg_capture (s : State) (a : AisleId) (x : FaultHold) : (s.setFaultHold a x).flg.capture = s.flg.capture := rfl
@[simp] theorem State.setFaultHold_flg_further (s : State) (a : AisleId) (x : FaultHold) : (s.setFaultHold a x).flg.further = s.flg.further := rfl
@[simp] theorem State.setFaultHold_flg_halt (s : State) (a : AisleId) (x : FaultHold) : (s.setFaultHold a x).flg.halt = s.flg.halt := rfl
@[simp] theorem State.setFaultHold_now (s : State) (a : AisleId) (x : FaultHold) : (s.setFaultHold a x).now = s.now := rfl
@[simp] theorem State.setFaultHold_events (s : State) (a : AisleId) (x : FaultHold) : (s.setFaultHold a x).events = s.events := rfl
@[simp] theorem State.setFaultHold_pending (s : State) (a : AisleId) (x : FaultHold) : (s.setFaultHold a x).pending = s.pending := rfl
@[simp] theorem State.setTx_liu_rate (s : State) (k : Link) (x : List Message) : (s.setTx k x).liu.rate = s.liu.rate := rfl
@[simp] theorem State.setTx_liu_rx (s : State) (k : Link) (x : List Message) : (s.setTx k x).liu.rx = s.liu.rx := rfl
@[simp] theorem State.setTx_liu_finishing (s : State) (k : Link) (x : List Message) : (s.setTx k x).liu.finishing = s.liu.finishing := rfl
@[simp] theorem State.setTx_liu_active (s : State) (k : Link) (x : List Message) : (s.setTx k x).liu.active = s.liu.active := rfl
@[simp] theorem State.setTx_liu_queue (s : State) (k : Link) (x : List Message) : (s.setTx k x).liu.queue = s.liu.queue := rfl
@[simp] theorem State.setTx_liu_lastFetched (s : State) (k : Link) (x : List Message) : (s.setTx k x).liu.lastFetched = s.liu.lastFetched := rfl
@[simp] theorem State.setTx_liu_attn (s : State) (k : Link) (x : List Message) : (s.setTx k x).liu.attn = s.liu.attn := rfl
@[simp] theorem State.setTx_liu_restarting (s : State) (k : Link) (x : List Message) : (s.setTx k x).liu.restarting = s.liu.restarting := rfl
@[simp] theorem State.setTx_jpl (s : State) (k : Link) (x : List Message) : (s.setTx k x).jpl = s.jpl := rfl
@[simp] theorem State.setTx_cmp (s : State) (k : Link) (x : List Message) : (s.setTx k x).cmp = s.cmp := rfl
@[simp] theorem State.setTx_ale (s : State) (k : Link) (x : List Message) : (s.setTx k x).ale = s.ale := rfl
@[simp] theorem State.setTx_crt (s : State) (k : Link) (x : List Message) : (s.setTx k x).crt = s.crt := rfl
@[simp] theorem State.setTx_swu (s : State) (k : Link) (x : List Message) : (s.setTx k x).swu = s.swu := rfl
@[simp] theorem State.setTx_aic (s : State) (k : Link) (x : List Message) : (s.setTx k x).aic = s.aic := rfl
@[simp] theorem State.setTx_flg (s : State) (k : Link) (x : List Message) : (s.setTx k x).flg = s.flg := rfl
@[simp] theorem State.setTx_now (s : State) (k : Link) (x : List Message) : (s.setTx k x).now = s.now := rfl
@[simp] theorem State.setTx_events (s : State) (k : Link) (x : List Message) : (s.setTx k x).events = s.events := rfl
@[simp] theorem State.setTx_pending (s : State) (k : Link) (x : List Message) : (s.setTx k x).pending = s.pending := rfl
@[simp] theorem State.setRx_liu_rate (s : State) (k : Link) (x : Receiver) : (s.setRx k x).liu.rate = s.liu.rate := rfl
@[simp] theorem State.setRx_liu_tx (s : State) (k : Link) (x : Receiver) : (s.setRx k x).liu.tx = s.liu.tx := rfl
@[simp] theorem State.setRx_liu_finishing (s : State) (k : Link) (x : Receiver) : (s.setRx k x).liu.finishing = s.liu.finishing := rfl
@[simp] theorem State.setRx_liu_active (s : State) (k : Link) (x : Receiver) : (s.setRx k x).liu.active = s.liu.active := rfl
@[simp] theorem State.setRx_liu_queue (s : State) (k : Link) (x : Receiver) : (s.setRx k x).liu.queue = s.liu.queue := rfl
@[simp] theorem State.setRx_liu_lastFetched (s : State) (k : Link) (x : Receiver) : (s.setRx k x).liu.lastFetched = s.liu.lastFetched := rfl
@[simp] theorem State.setRx_liu_attn (s : State) (k : Link) (x : Receiver) : (s.setRx k x).liu.attn = s.liu.attn := rfl
@[simp] theorem State.setRx_liu_restarting (s : State) (k : Link) (x : Receiver) : (s.setRx k x).liu.restarting = s.liu.restarting := rfl
@[simp] theorem State.setRx_jpl (s : State) (k : Link) (x : Receiver) : (s.setRx k x).jpl = s.jpl := rfl
@[simp] theorem State.setRx_cmp (s : State) (k : Link) (x : Receiver) : (s.setRx k x).cmp = s.cmp := rfl
@[simp] theorem State.setRx_ale (s : State) (k : Link) (x : Receiver) : (s.setRx k x).ale = s.ale := rfl
@[simp] theorem State.setRx_crt (s : State) (k : Link) (x : Receiver) : (s.setRx k x).crt = s.crt := rfl
@[simp] theorem State.setRx_swu (s : State) (k : Link) (x : Receiver) : (s.setRx k x).swu = s.swu := rfl
@[simp] theorem State.setRx_aic (s : State) (k : Link) (x : Receiver) : (s.setRx k x).aic = s.aic := rfl
@[simp] theorem State.setRx_flg (s : State) (k : Link) (x : Receiver) : (s.setRx k x).flg = s.flg := rfl
@[simp] theorem State.setRx_now (s : State) (k : Link) (x : Receiver) : (s.setRx k x).now = s.now := rfl
@[simp] theorem State.setRx_events (s : State) (k : Link) (x : Receiver) : (s.setRx k x).events = s.events := rfl
@[simp] theorem State.setRx_pending (s : State) (k : Link) (x : Receiver) : (s.setRx k x).pending = s.pending := rfl
@[simp] theorem State.setQueue_liu_rate (s : State) (l : OrderLink) (x : List Notice) : (s.setQueue l x).liu.rate = s.liu.rate := rfl
@[simp] theorem State.setQueue_liu_rx (s : State) (l : OrderLink) (x : List Notice) : (s.setQueue l x).liu.rx = s.liu.rx := rfl
@[simp] theorem State.setQueue_liu_finishing (s : State) (l : OrderLink) (x : List Notice) : (s.setQueue l x).liu.finishing = s.liu.finishing := rfl
@[simp] theorem State.setQueue_liu_tx (s : State) (l : OrderLink) (x : List Notice) : (s.setQueue l x).liu.tx = s.liu.tx := rfl
@[simp] theorem State.setQueue_liu_active (s : State) (l : OrderLink) (x : List Notice) : (s.setQueue l x).liu.active = s.liu.active := rfl
@[simp] theorem State.setQueue_liu_lastFetched (s : State) (l : OrderLink) (x : List Notice) : (s.setQueue l x).liu.lastFetched = s.liu.lastFetched := rfl
@[simp] theorem State.setQueue_liu_restarting (s : State) (l : OrderLink) (x : List Notice) : (s.setQueue l x).liu.restarting = s.liu.restarting := rfl
@[simp] theorem State.setQueue_jpl (s : State) (l : OrderLink) (x : List Notice) : (s.setQueue l x).jpl = s.jpl := rfl
@[simp] theorem State.setQueue_cmp (s : State) (l : OrderLink) (x : List Notice) : (s.setQueue l x).cmp = s.cmp := rfl
@[simp] theorem State.setQueue_ale (s : State) (l : OrderLink) (x : List Notice) : (s.setQueue l x).ale = s.ale := rfl
@[simp] theorem State.setQueue_crt (s : State) (l : OrderLink) (x : List Notice) : (s.setQueue l x).crt = s.crt := rfl
@[simp] theorem State.setQueue_swu (s : State) (l : OrderLink) (x : List Notice) : (s.setQueue l x).swu = s.swu := rfl
@[simp] theorem State.setQueue_aic (s : State) (l : OrderLink) (x : List Notice) : (s.setQueue l x).aic = s.aic := rfl
@[simp] theorem State.setQueue_flg (s : State) (l : OrderLink) (x : List Notice) : (s.setQueue l x).flg = s.flg := rfl
@[simp] theorem State.setQueue_now (s : State) (l : OrderLink) (x : List Notice) : (s.setQueue l x).now = s.now := rfl
@[simp] theorem State.setQueue_events (s : State) (l : OrderLink) (x : List Notice) : (s.setQueue l x).events = s.events := rfl
@[simp] theorem State.setQueue_pending (s : State) (l : OrderLink) (x : List Notice) : (s.setQueue l x).pending = s.pending := rfl
@[simp] theorem State.raise_liu (s : State) (e : Instr) : (s.raise e).liu = s.liu := rfl
@[simp] theorem State.raise_jpl (s : State) (e : Instr) : (s.raise e).jpl = s.jpl := rfl
@[simp] theorem State.raise_cmp (s : State) (e : Instr) : (s.raise e).cmp = s.cmp := rfl
@[simp] theorem State.raise_ale (s : State) (e : Instr) : (s.raise e).ale = s.ale := rfl
@[simp] theorem State.raise_crt (s : State) (e : Instr) : (s.raise e).crt = s.crt := rfl
@[simp] theorem State.raise_swu (s : State) (e : Instr) : (s.raise e).swu = s.swu := rfl
@[simp] theorem State.raise_aic (s : State) (e : Instr) : (s.raise e).aic = s.aic := rfl
@[simp] theorem State.raise_flg (s : State) (e : Instr) : (s.raise e).flg = s.flg := rfl
@[simp] theorem State.raise_now (s : State) (e : Instr) : (s.raise e).now = s.now := rfl
@[simp] theorem State.raise_pending (s : State) (e : Instr) : (s.raise e).pending = s.pending := rfl
@[simp] theorem State.raiseAll_liu (s : State) (es : List Instr) : (s.raiseAll es).liu = s.liu := rfl
@[simp] theorem State.raiseAll_jpl (s : State) (es : List Instr) : (s.raiseAll es).jpl = s.jpl := rfl
@[simp] theorem State.raiseAll_cmp (s : State) (es : List Instr) : (s.raiseAll es).cmp = s.cmp := rfl
@[simp] theorem State.raiseAll_ale (s : State) (es : List Instr) : (s.raiseAll es).ale = s.ale := rfl
@[simp] theorem State.raiseAll_crt (s : State) (es : List Instr) : (s.raiseAll es).crt = s.crt := rfl
@[simp] theorem State.raiseAll_swu (s : State) (es : List Instr) : (s.raiseAll es).swu = s.swu := rfl
@[simp] theorem State.raiseAll_aic (s : State) (es : List Instr) : (s.raiseAll es).aic = s.aic := rfl
@[simp] theorem State.raiseAll_flg (s : State) (es : List Instr) : (s.raiseAll es).flg = s.flg := rfl
@[simp] theorem State.raiseAll_now (s : State) (es : List Instr) : (s.raiseAll es).now = s.now := rfl
@[simp] theorem State.raiseAll_pending (s : State) (es : List Instr) : (s.raiseAll es).pending = s.pending := rfl
@[simp] theorem State.take_liu (s : State) (e : Instr) : (s.take e).liu = s.liu := rfl
@[simp] theorem State.take_jpl (s : State) (e : Instr) : (s.take e).jpl = s.jpl := rfl
@[simp] theorem State.take_cmp (s : State) (e : Instr) : (s.take e).cmp = s.cmp := rfl
@[simp] theorem State.take_ale (s : State) (e : Instr) : (s.take e).ale = s.ale := rfl
@[simp] theorem State.take_crt (s : State) (e : Instr) : (s.take e).crt = s.crt := rfl
@[simp] theorem State.take_swu (s : State) (e : Instr) : (s.take e).swu = s.swu := rfl
@[simp] theorem State.take_aic (s : State) (e : Instr) : (s.take e).aic = s.aic := rfl
@[simp] theorem State.take_flg (s : State) (e : Instr) : (s.take e).flg = s.flg := rfl
@[simp] theorem State.take_now (s : State) (e : Instr) : (s.take e).now = s.now := rfl
@[simp] theorem State.take_pending (s : State) (e : Instr) : (s.take e).pending = s.pending := rfl
@[simp] theorem State.forget_liu (s : State) (e : Instr) : (s.forget e).liu = s.liu := rfl
@[simp] theorem State.forget_jpl (s : State) (e : Instr) : (s.forget e).jpl = s.jpl := rfl
@[simp] theorem State.forget_cmp (s : State) (e : Instr) : (s.forget e).cmp = s.cmp := rfl
@[simp] theorem State.forget_ale (s : State) (e : Instr) : (s.forget e).ale = s.ale := rfl
@[simp] theorem State.forget_crt (s : State) (e : Instr) : (s.forget e).crt = s.crt := rfl
@[simp] theorem State.forget_swu (s : State) (e : Instr) : (s.forget e).swu = s.swu := rfl
@[simp] theorem State.forget_aic (s : State) (e : Instr) : (s.forget e).aic = s.aic := rfl
@[simp] theorem State.forget_flg (s : State) (e : Instr) : (s.forget e).flg = s.flg := rfl
@[simp] theorem State.forget_now (s : State) (e : Instr) : (s.forget e).now = s.now := rfl
@[simp] theorem State.forget_pending (s : State) (e : Instr) : (s.forget e).pending = s.pending := rfl

/-! ## An update of one bank leaves what the readers of other banks give -/

@[simp] theorem State.setCrane_rail (s : State) (c : CraneId) (x : Crane) (b : AisleId) : (s.setCrane c x).rail b = s.rail b := rfl
@[simp] theorem State.setCrane_aisle (s : State) (c : CraneId) (x : Crane) (b : AisleId) : (s.setCrane c x).aisle b = s.aisle b := rfl
@[simp] theorem State.setCrane_profile_q (s : State) (c : CraneId) (x : Crane) (b : AisleId) : (s.setCrane c x).profile? b = s.profile? b := rfl
@[simp] theorem State.setCrane_configured (s : State) (c : CraneId) (x : Crane) (b : AisleId) : (s.setCrane c x).configured b = s.configured b := rfl
@[simp] theorem State.setCrane_isTandem (s : State) (c : CraneId) (x : Crane) (b : AisleId) : (s.setCrane c x).isTandem b = s.isTandem b := rfl
@[simp] theorem State.setCrane_stationExists (s : State) (c : CraneId) (x : Crane) (b : AisleId) (e' : End) : (s.setCrane c x).stationExists b e' = s.stationExists b e' := rfl
@[simp] theorem State.setCrane_cell (s : State) (c : CraneId) (x : Crane) (q : CellAddr) : (s.setCrane c x).cell q = s.cell q := rfl
@[simp] theorem State.setCrane_hold (s : State) (c : CraneId) (x : Crane) (b : AisleId) : (s.setCrane c x).hold b = s.hold b := rfl
@[simp] theorem State.setCrane_parkOwed (s : State) (c : CraneId) (x : Crane) (d : CraneId) : (s.setCrane c x).parkOwed d = s.parkOwed d := rfl
@[simp] theorem State.setCrane_holdBack (s : State) (c : CraneId) (x : Crane) (d : CraneId) : (s.setCrane c x).holdBack d = s.holdBack d := rfl
@[simp] theorem State.setCrane_input (s : State) (c : CraneId) (x : Crane) (b : AisleId) (e' : End) : (s.setCrane c x).input b e' = s.input b e' := rfl
@[simp] theorem State.setCrane_credit (s : State) (c : CraneId) (x : Crane) (b : AisleId) (e' : End) : (s.setCrane c x).credit b e' = s.credit b e' := rfl
@[simp] theorem State.setCrane_wave_q (s : State) (c : CraneId) (x : Crane) (n : Nat) : (s.setCrane c x).wave? n = s.wave? n := rfl
@[simp] theorem State.setCrane_slot (s : State) (c : CraneId) (x : Crane) (n : Fin 256) : (s.setCrane c x).slot n = s.slot n := rfl
@[simp] theorem State.setCrane_job_q (s : State) (c : CraneId) (x : Crane) (h : Handle) : (s.setCrane c x).job? h = s.job? h := rfl
@[simp] theorem State.setCrane_jobs (s : State) (c : CraneId) (x : Crane) : (s.setCrane c x).jobs = s.jobs := rfl
@[simp] theorem State.setCrane_faultKind (s : State) (c : CraneId) (x : Crane) (q : FaultKind) : (s.setCrane c x).faultKind q = s.faultKind q := rfl
@[simp] theorem State.setCrane_faultHold (s : State) (c : CraneId) (x : Crane) (b : AisleId) : (s.setCrane c x).faultHold b = s.faultHold b := rfl
@[simp] theorem State.setCrane_tx (s : State) (c : CraneId) (x : Crane) (k' : Link) : (s.setCrane c x).tx k' = s.tx k' := rfl
@[simp] theorem State.setCrane_rx (s : State) (c : CraneId) (x : Crane) (k' : Link) : (s.setCrane c x).rx k' = s.rx k' := rfl
@[simp] theorem State.setCrane_finishing (s : State) (c : CraneId) (x : Crane) (k' : Link) : (s.setCrane c x).finishing k' = s.finishing k' := rfl
@[simp] theorem State.setCrane_queue (s : State) (c : CraneId) (x : Crane) (l' : OrderLink) : (s.setCrane c x).queue l' = s.queue l' := rfl
@[simp] theorem State.setRail_crane (s : State) (a : AisleId) (x : Option (PerEnd RailEntry)) (d : CraneId) : (s.setRail a x).crane d = s.crane d := rfl
@[simp] theorem State.setRail_aisle (s : State) (a : AisleId) (x : Option (PerEnd RailEntry)) (b : AisleId) : (s.setRail a x).aisle b = s.aisle b := rfl
@[simp] theorem State.setRail_profile_q (s : State) (a : AisleId) (x : Option (PerEnd RailEntry)) (b : AisleId) : (s.setRail a x).profile? b = s.profile? b := rfl
@[simp] theorem State.setRail_configured (s : State) (a : AisleId) (x : Option (PerEnd RailEntry)) (b : AisleId) : (s.setRail a x).configured b = s.configured b := rfl
@[simp] theorem State.setRail_isTandem (s : State) (a : AisleId) (x : Option (PerEnd RailEntry)) (b : AisleId) : (s.setRail a x).isTandem b = s.isTandem b := rfl
@[simp] theorem State.setRail_stationExists (s : State) (a : AisleId) (x : Option (PerEnd RailEntry)) (b : AisleId) (e' : End) : (s.setRail a x).stationExists b e' = s.stationExists b e' := rfl
@[simp] theorem State.setRail_cell (s : State) (a : AisleId) (x : Option (PerEnd RailEntry)) (q : CellAddr) : (s.setRail a x).cell q = s.cell q := rfl
@[simp] theorem State.setRail_hold (s : State) (a : AisleId) (x : Option (PerEnd RailEntry)) (b : AisleId) : (s.setRail a x).hold b = s.hold b := rfl
@[simp] theorem State.setRail_parkOwed (s : State) (a : AisleId) (x : Option (PerEnd RailEntry)) (d : CraneId) : (s.setRail a x).parkOwed d = s.parkOwed d := rfl
@[simp] theorem State.setRail_holdBack (s : State) (a : AisleId) (x : Option (PerEnd RailEntry)) (d : CraneId) : (s.setRail a x).holdBack d = s.holdBack d := rfl
@[simp] theorem State.setRail_input (s : State) (a : AisleId) (x : Option (PerEnd RailEntry)) (b : AisleId) (e' : End) : (s.setRail a x).input b e' = s.input b e' := rfl
@[simp] theorem State.setRail_credit (s : State) (a : AisleId) (x : Option (PerEnd RailEntry)) (b : AisleId) (e' : End) : (s.setRail a x).credit b e' = s.credit b e' := rfl
@[simp] theorem State.setRail_wave_q (s : State) (a : AisleId) (x : Option (PerEnd RailEntry)) (n : Nat) : (s.setRail a x).wave? n = s.wave? n := rfl
@[simp] theorem State.setRail_slot (s : State) (a : AisleId) (x : Option (PerEnd RailEntry)) (n : Fin 256) : (s.setRail a x).slot n = s.slot n := rfl
@[simp] theorem State.setRail_job_q (s : State) (a : AisleId) (x : Option (PerEnd RailEntry)) (h : Handle) : (s.setRail a x).job? h = s.job? h := rfl
@[simp] theorem State.setRail_jobs (s : State) (a : AisleId) (x : Option (PerEnd RailEntry)) : (s.setRail a x).jobs = s.jobs := rfl
@[simp] theorem State.setRail_faultKind (s : State) (a : AisleId) (x : Option (PerEnd RailEntry)) (q : FaultKind) : (s.setRail a x).faultKind q = s.faultKind q := rfl
@[simp] theorem State.setRail_faultHold (s : State) (a : AisleId) (x : Option (PerEnd RailEntry)) (b : AisleId) : (s.setRail a x).faultHold b = s.faultHold b := rfl
@[simp] theorem State.setRail_tx (s : State) (a : AisleId) (x : Option (PerEnd RailEntry)) (k' : Link) : (s.setRail a x).tx k' = s.tx k' := rfl
@[simp] theorem State.setRail_rx (s : State) (a : AisleId) (x : Option (PerEnd RailEntry)) (k' : Link) : (s.setRail a x).rx k' = s.rx k' := rfl
@[simp] theorem State.setRail_finishing (s : State) (a : AisleId) (x : Option (PerEnd RailEntry)) (k' : Link) : (s.setRail a x).finishing k' = s.finishing k' := rfl
@[simp] theorem State.setRail_queue (s : State) (a : AisleId) (x : Option (PerEnd RailEntry)) (l' : OrderLink) : (s.setRail a x).queue l' = s.queue l' := rfl
@[simp] theorem State.setAisle_crane (s : State) (a : AisleId) (x : Aisle) (d : CraneId) : (s.setAisle a x).crane d = s.crane d := rfl
@[simp] theorem State.setAisle_rail (s : State) (a : AisleId) (x : Aisle) (b : AisleId) : (s.setAisle a x).rail b = s.rail b := rfl
@[simp] theorem State.setAisle_hold (s : State) (a : AisleId) (x : Aisle) (b : AisleId) : (s.setAisle a x).hold b = s.hold b := rfl
@[simp] theorem State.setAisle_parkOwed (s : State) (a : AisleId) (x : Aisle) (d : CraneId) : (s.setAisle a x).parkOwed d = s.parkOwed d := rfl
@[simp] theorem State.setAisle_holdBack (s : State) (a : AisleId) (x : Aisle) (d : CraneId) : (s.setAisle a x).holdBack d = s.holdBack d := rfl
@[simp] theorem State.setAisle_input (s : State) (a : AisleId) (x : Aisle) (b : AisleId) (e' : End) : (s.setAisle a x).input b e' = s.input b e' := rfl
@[simp] theorem State.setAisle_credit (s : State) (a : AisleId) (x : Aisle) (b : AisleId) (e' : End) : (s.setAisle a x).credit b e' = s.credit b e' := rfl
@[simp] theorem State.setAisle_wave_q (s : State) (a : AisleId) (x : Aisle) (n : Nat) : (s.setAisle a x).wave? n = s.wave? n := rfl
@[simp] theorem State.setAisle_slot (s : State) (a : AisleId) (x : Aisle) (n : Fin 256) : (s.setAisle a x).slot n = s.slot n := rfl
@[simp] theorem State.setAisle_job_q (s : State) (a : AisleId) (x : Aisle) (h : Handle) : (s.setAisle a x).job? h = s.job? h := rfl
@[simp] theorem State.setAisle_jobs (s : State) (a : AisleId) (x : Aisle) : (s.setAisle a x).jobs = s.jobs := rfl
@[simp] theorem State.setAisle_faultKind (s : State) (a : AisleId) (x : Aisle) (q : FaultKind) : (s.setAisle a x).faultKind q = s.faultKind q := rfl
@[simp] theorem State.setAisle_faultHold (s : State) (a : AisleId) (x : Aisle) (b : AisleId) : (s.setAisle a x).faultHold b = s.faultHold b := rfl
@[simp] theorem State.setAisle_tx (s : State) (a : AisleId) (x : Aisle) (k' : Link) : (s.setAisle a x).tx k' = s.tx k' := rfl
@[simp] theorem State.setAisle_rx (s : State) (a : AisleId) (x : Aisle) (k' : Link) : (s.setAisle a x).rx k' = s.rx k' := rfl
@[simp] theorem State.setAisle_finishing (s : State) (a : AisleId) (x : Aisle) (k' : Link) : (s.setAisle a x).finishing k' = s.finishing k' := rfl
@[simp] theorem State.setAisle_queue (s : State) (a : AisleId) (x : Aisle) (l' : OrderLink) : (s.setAisle a x).queue l' = s.queue l' := rfl
@[simp] theorem State.setHold_crane (s : State) (a : AisleId) (x : AisleHold) (d : CraneId) : (s.setHold a x).crane d = s.crane d := rfl
@[simp] theorem State.setHold_rail (s : State) (a : AisleId) (x : AisleHold) (b : AisleId) : (s.setHold a x).rail b = s.rail b := rfl
@[simp] theorem State.setHold_aisle (s : State) (a : AisleId) (x : AisleHold) (b : AisleId) : (s.setHold a x).aisle b = s.aisle b := rfl
@[simp] theorem State.setHold_profile_q (s : State) (a : AisleId) (x : AisleHold) (b : AisleId) : (s.setHold a x).profile? b = s.profile? b := rfl
@[simp] theorem State.setHold_configured (s : State) (a : AisleId) (x : AisleHold) (b : AisleId) : (s.setHold a x).configured b = s.configured b := rfl
@[simp] theorem State.setHold_isTandem (s : State) (a : AisleId) (x : AisleHold) (b : AisleId) : (s.setHold a x).isTandem b = s.isTandem b := rfl
@[simp] theorem State.setHold_stationExists (s : State) (a : AisleId) (x : AisleHold) (b : AisleId) (e' : End) : (s.setHold a x).stationExists b e' = s.stationExists b e' := rfl
@[simp] theorem State.setHold_cell (s : State) (a : AisleId) (x : AisleHold) (q : CellAddr) : (s.setHold a x).cell q = s.cell q := rfl
@[simp] theorem State.setHold_parkOwed (s : State) (a : AisleId) (x : AisleHold) (d : CraneId) : (s.setHold a x).parkOwed d = s.parkOwed d := rfl
@[simp] theorem State.setHold_holdBack (s : State) (a : AisleId) (x : AisleHold) (d : CraneId) : (s.setHold a x).holdBack d = s.holdBack d := rfl
@[simp] theorem State.setHold_input (s : State) (a : AisleId) (x : AisleHold) (b : AisleId) (e' : End) : (s.setHold a x).input b e' = s.input b e' := rfl
@[simp] theorem State.setHold_credit (s : State) (a : AisleId) (x : AisleHold) (b : AisleId) (e' : End) : (s.setHold a x).credit b e' = s.credit b e' := rfl
@[simp] theorem State.setHold_wave_q (s : State) (a : AisleId) (x : AisleHold) (n : Nat) : (s.setHold a x).wave? n = s.wave? n := rfl
@[simp] theorem State.setHold_slot (s : State) (a : AisleId) (x : AisleHold) (n : Fin 256) : (s.setHold a x).slot n = s.slot n := rfl
@[simp] theorem State.setHold_job_q (s : State) (a : AisleId) (x : AisleHold) (h : Handle) : (s.setHold a x).job? h = s.job? h := rfl
@[simp] theorem State.setHold_jobs (s : State) (a : AisleId) (x : AisleHold) : (s.setHold a x).jobs = s.jobs := rfl
@[simp] theorem State.setHold_faultKind (s : State) (a : AisleId) (x : AisleHold) (q : FaultKind) : (s.setHold a x).faultKind q = s.faultKind q := rfl
@[simp] theorem State.setHold_faultHold (s : State) (a : AisleId) (x : AisleHold) (b : AisleId) : (s.setHold a x).faultHold b = s.faultHold b := rfl
@[simp] theorem State.setHold_tx (s : State) (a : AisleId) (x : AisleHold) (k' : Link) : (s.setHold a x).tx k' = s.tx k' := rfl
@[simp] theorem State.setHold_rx (s : State) (a : AisleId) (x : AisleHold) (k' : Link) : (s.setHold a x).rx k' = s.rx k' := rfl
@[simp] theorem State.setHold_finishing (s : State) (a : AisleId) (x : AisleHold) (k' : Link) : (s.setHold a x).finishing k' = s.finishing k' := rfl
@[simp] theorem State.setHold_queue (s : State) (a : AisleId) (x : AisleHold) (l' : OrderLink) : (s.setHold a x).queue l' = s.queue l' := rfl
@[simp] theorem State.setParkOwed_crane (s : State) (c : CraneId) (x : Bool) (d : CraneId) : (s.setParkOwed c x).crane d = s.crane d := rfl
@[simp] theorem State.setParkOwed_rail (s : State) (c : CraneId) (x : Bool) (b : AisleId) : (s.setParkOwed c x).rail b = s.rail b := rfl
@[simp] theorem State.setParkOwed_aisle (s : State) (c : CraneId) (x : Bool) (b : AisleId) : (s.setParkOwed c x).aisle b = s.aisle b := rfl
@[simp] theorem State.setParkOwed_profile_q (s : State) (c : CraneId) (x : Bool) (b : AisleId) : (s.setParkOwed c x).profile? b = s.profile? b := rfl
@[simp] theorem State.setParkOwed_configured (s : State) (c : CraneId) (x : Bool) (b : AisleId) : (s.setParkOwed c x).configured b = s.configured b := rfl
@[simp] theorem State.setParkOwed_isTandem (s : State) (c : CraneId) (x : Bool) (b : AisleId) : (s.setParkOwed c x).isTandem b = s.isTandem b := rfl
@[simp] theorem State.setParkOwed_stationExists (s : State) (c : CraneId) (x : Bool) (b : AisleId) (e' : End) : (s.setParkOwed c x).stationExists b e' = s.stationExists b e' := rfl
@[simp] theorem State.setParkOwed_cell (s : State) (c : CraneId) (x : Bool) (q : CellAddr) : (s.setParkOwed c x).cell q = s.cell q := rfl
@[simp] theorem State.setParkOwed_hold (s : State) (c : CraneId) (x : Bool) (b : AisleId) : (s.setParkOwed c x).hold b = s.hold b := rfl
@[simp] theorem State.setParkOwed_holdBack (s : State) (c : CraneId) (x : Bool) (d : CraneId) : (s.setParkOwed c x).holdBack d = s.holdBack d := rfl
@[simp] theorem State.setParkOwed_input (s : State) (c : CraneId) (x : Bool) (b : AisleId) (e' : End) : (s.setParkOwed c x).input b e' = s.input b e' := rfl
@[simp] theorem State.setParkOwed_credit (s : State) (c : CraneId) (x : Bool) (b : AisleId) (e' : End) : (s.setParkOwed c x).credit b e' = s.credit b e' := rfl
@[simp] theorem State.setParkOwed_wave_q (s : State) (c : CraneId) (x : Bool) (n : Nat) : (s.setParkOwed c x).wave? n = s.wave? n := rfl
@[simp] theorem State.setParkOwed_slot (s : State) (c : CraneId) (x : Bool) (n : Fin 256) : (s.setParkOwed c x).slot n = s.slot n := rfl
@[simp] theorem State.setParkOwed_job_q (s : State) (c : CraneId) (x : Bool) (h : Handle) : (s.setParkOwed c x).job? h = s.job? h := rfl
@[simp] theorem State.setParkOwed_jobs (s : State) (c : CraneId) (x : Bool) : (s.setParkOwed c x).jobs = s.jobs := rfl
@[simp] theorem State.setParkOwed_faultKind (s : State) (c : CraneId) (x : Bool) (q : FaultKind) : (s.setParkOwed c x).faultKind q = s.faultKind q := rfl
@[simp] theorem State.setParkOwed_faultHold (s : State) (c : CraneId) (x : Bool) (b : AisleId) : (s.setParkOwed c x).faultHold b = s.faultHold b := rfl
@[simp] theorem State.setParkOwed_tx (s : State) (c : CraneId) (x : Bool) (k' : Link) : (s.setParkOwed c x).tx k' = s.tx k' := rfl
@[simp] theorem State.setParkOwed_rx (s : State) (c : CraneId) (x : Bool) (k' : Link) : (s.setParkOwed c x).rx k' = s.rx k' := rfl
@[simp] theorem State.setParkOwed_finishing (s : State) (c : CraneId) (x : Bool) (k' : Link) : (s.setParkOwed c x).finishing k' = s.finishing k' := rfl
@[simp] theorem State.setParkOwed_queue (s : State) (c : CraneId) (x : Bool) (l' : OrderLink) : (s.setParkOwed c x).queue l' = s.queue l' := rfl
@[simp] theorem State.setHoldBack_crane (s : State) (c : CraneId) (x : HoldBack) (d : CraneId) : (s.setHoldBack c x).crane d = s.crane d := rfl
@[simp] theorem State.setHoldBack_rail (s : State) (c : CraneId) (x : HoldBack) (b : AisleId) : (s.setHoldBack c x).rail b = s.rail b := rfl
@[simp] theorem State.setHoldBack_aisle (s : State) (c : CraneId) (x : HoldBack) (b : AisleId) : (s.setHoldBack c x).aisle b = s.aisle b := rfl
@[simp] theorem State.setHoldBack_profile_q (s : State) (c : CraneId) (x : HoldBack) (b : AisleId) : (s.setHoldBack c x).profile? b = s.profile? b := rfl
@[simp] theorem State.setHoldBack_configured (s : State) (c : CraneId) (x : HoldBack) (b : AisleId) : (s.setHoldBack c x).configured b = s.configured b := rfl
@[simp] theorem State.setHoldBack_isTandem (s : State) (c : CraneId) (x : HoldBack) (b : AisleId) : (s.setHoldBack c x).isTandem b = s.isTandem b := rfl
@[simp] theorem State.setHoldBack_stationExists (s : State) (c : CraneId) (x : HoldBack) (b : AisleId) (e' : End) : (s.setHoldBack c x).stationExists b e' = s.stationExists b e' := rfl
@[simp] theorem State.setHoldBack_cell (s : State) (c : CraneId) (x : HoldBack) (q : CellAddr) : (s.setHoldBack c x).cell q = s.cell q := rfl
@[simp] theorem State.setHoldBack_hold (s : State) (c : CraneId) (x : HoldBack) (b : AisleId) : (s.setHoldBack c x).hold b = s.hold b := rfl
@[simp] theorem State.setHoldBack_parkOwed (s : State) (c : CraneId) (x : HoldBack) (d : CraneId) : (s.setHoldBack c x).parkOwed d = s.parkOwed d := rfl
@[simp] theorem State.setHoldBack_input (s : State) (c : CraneId) (x : HoldBack) (b : AisleId) (e' : End) : (s.setHoldBack c x).input b e' = s.input b e' := rfl
@[simp] theorem State.setHoldBack_credit (s : State) (c : CraneId) (x : HoldBack) (b : AisleId) (e' : End) : (s.setHoldBack c x).credit b e' = s.credit b e' := rfl
@[simp] theorem State.setHoldBack_wave_q (s : State) (c : CraneId) (x : HoldBack) (n : Nat) : (s.setHoldBack c x).wave? n = s.wave? n := rfl
@[simp] theorem State.setHoldBack_slot (s : State) (c : CraneId) (x : HoldBack) (n : Fin 256) : (s.setHoldBack c x).slot n = s.slot n := rfl
@[simp] theorem State.setHoldBack_job_q (s : State) (c : CraneId) (x : HoldBack) (h : Handle) : (s.setHoldBack c x).job? h = s.job? h := rfl
@[simp] theorem State.setHoldBack_jobs (s : State) (c : CraneId) (x : HoldBack) : (s.setHoldBack c x).jobs = s.jobs := rfl
@[simp] theorem State.setHoldBack_faultKind (s : State) (c : CraneId) (x : HoldBack) (q : FaultKind) : (s.setHoldBack c x).faultKind q = s.faultKind q := rfl
@[simp] theorem State.setHoldBack_faultHold (s : State) (c : CraneId) (x : HoldBack) (b : AisleId) : (s.setHoldBack c x).faultHold b = s.faultHold b := rfl
@[simp] theorem State.setHoldBack_tx (s : State) (c : CraneId) (x : HoldBack) (k' : Link) : (s.setHoldBack c x).tx k' = s.tx k' := rfl
@[simp] theorem State.setHoldBack_rx (s : State) (c : CraneId) (x : HoldBack) (k' : Link) : (s.setHoldBack c x).rx k' = s.rx k' := rfl
@[simp] theorem State.setHoldBack_finishing (s : State) (c : CraneId) (x : HoldBack) (k' : Link) : (s.setHoldBack c x).finishing k' = s.finishing k' := rfl
@[simp] theorem State.setHoldBack_queue (s : State) (c : CraneId) (x : HoldBack) (l' : OrderLink) : (s.setHoldBack c x).queue l' = s.queue l' := rfl
@[simp] theorem State.setInput_crane (s : State) (a : AisleId) (e : End) (x : InputRecord) (d : CraneId) : (s.setInput a e x).crane d = s.crane d := rfl
@[simp] theorem State.setInput_rail (s : State) (a : AisleId) (e : End) (x : InputRecord) (b : AisleId) : (s.setInput a e x).rail b = s.rail b := rfl
@[simp] theorem State.setInput_aisle (s : State) (a : AisleId) (e : End) (x : InputRecord) (b : AisleId) : (s.setInput a e x).aisle b = s.aisle b := rfl
@[simp] theorem State.setInput_profile_q (s : State) (a : AisleId) (e : End) (x : InputRecord) (b : AisleId) : (s.setInput a e x).profile? b = s.profile? b := rfl
@[simp] theorem State.setInput_configured (s : State) (a : AisleId) (e : End) (x : InputRecord) (b : AisleId) : (s.setInput a e x).configured b = s.configured b := rfl
@[simp] theorem State.setInput_isTandem (s : State) (a : AisleId) (e : End) (x : InputRecord) (b : AisleId) : (s.setInput a e x).isTandem b = s.isTandem b := rfl
@[simp] theorem State.setInput_stationExists (s : State) (a : AisleId) (e : End) (x : InputRecord) (b : AisleId) (e' : End) : (s.setInput a e x).stationExists b e' = s.stationExists b e' := rfl
@[simp] theorem State.setInput_cell (s : State) (a : AisleId) (e : End) (x : InputRecord) (q : CellAddr) : (s.setInput a e x).cell q = s.cell q := rfl
@[simp] theorem State.setInput_hold (s : State) (a : AisleId) (e : End) (x : InputRecord) (b : AisleId) : (s.setInput a e x).hold b = s.hold b := rfl
@[simp] theorem State.setInput_parkOwed (s : State) (a : AisleId) (e : End) (x : InputRecord) (d : CraneId) : (s.setInput a e x).parkOwed d = s.parkOwed d := rfl
@[simp] theorem State.setInput_holdBack (s : State) (a : AisleId) (e : End) (x : InputRecord) (d : CraneId) : (s.setInput a e x).holdBack d = s.holdBack d := rfl
@[simp] theorem State.setInput_credit (s : State) (a : AisleId) (e : End) (x : InputRecord) (b : AisleId) (e' : End) : (s.setInput a e x).credit b e' = s.credit b e' := rfl
@[simp] theorem State.setInput_wave_q (s : State) (a : AisleId) (e : End) (x : InputRecord) (n : Nat) : (s.setInput a e x).wave? n = s.wave? n := rfl
@[simp] theorem State.setInput_slot (s : State) (a : AisleId) (e : End) (x : InputRecord) (n : Fin 256) : (s.setInput a e x).slot n = s.slot n := rfl
@[simp] theorem State.setInput_job_q (s : State) (a : AisleId) (e : End) (x : InputRecord) (h : Handle) : (s.setInput a e x).job? h = s.job? h := rfl
@[simp] theorem State.setInput_jobs (s : State) (a : AisleId) (e : End) (x : InputRecord) : (s.setInput a e x).jobs = s.jobs := rfl
@[simp] theorem State.setInput_faultKind (s : State) (a : AisleId) (e : End) (x : InputRecord) (q : FaultKind) : (s.setInput a e x).faultKind q = s.faultKind q := rfl
@[simp] theorem State.setInput_faultHold (s : State) (a : AisleId) (e : End) (x : InputRecord) (b : AisleId) : (s.setInput a e x).faultHold b = s.faultHold b := rfl
@[simp] theorem State.setInput_tx (s : State) (a : AisleId) (e : End) (x : InputRecord) (k' : Link) : (s.setInput a e x).tx k' = s.tx k' := rfl
@[simp] theorem State.setInput_rx (s : State) (a : AisleId) (e : End) (x : InputRecord) (k' : Link) : (s.setInput a e x).rx k' = s.rx k' := rfl
@[simp] theorem State.setInput_finishing (s : State) (a : AisleId) (e : End) (x : InputRecord) (k' : Link) : (s.setInput a e x).finishing k' = s.finishing k' := rfl
@[simp] theorem State.setInput_queue (s : State) (a : AisleId) (e : End) (x : InputRecord) (l' : OrderLink) : (s.setInput a e x).queue l' = s.queue l' := rfl
@[simp] theorem State.setCredit_crane (s : State) (a : AisleId) (e : End) (x : Credit) (d : CraneId) : (s.setCredit a e x).crane d = s.crane d := rfl
@[simp] theorem State.setCredit_rail (s : State) (a : AisleId) (e : End) (x : Credit) (b : AisleId) : (s.setCredit a e x).rail b = s.rail b := rfl
@[simp] theorem State.setCredit_aisle (s : State) (a : AisleId) (e : End) (x : Credit) (b : AisleId) : (s.setCredit a e x).aisle b = s.aisle b := rfl
@[simp] theorem State.setCredit_profile_q (s : State) (a : AisleId) (e : End) (x : Credit) (b : AisleId) : (s.setCredit a e x).profile? b = s.profile? b := rfl
@[simp] theorem State.setCredit_configured (s : State) (a : AisleId) (e : End) (x : Credit) (b : AisleId) : (s.setCredit a e x).configured b = s.configured b := rfl
@[simp] theorem State.setCredit_isTandem (s : State) (a : AisleId) (e : End) (x : Credit) (b : AisleId) : (s.setCredit a e x).isTandem b = s.isTandem b := rfl
@[simp] theorem State.setCredit_stationExists (s : State) (a : AisleId) (e : End) (x : Credit) (b : AisleId) (e' : End) : (s.setCredit a e x).stationExists b e' = s.stationExists b e' := rfl
@[simp] theorem State.setCredit_cell (s : State) (a : AisleId) (e : End) (x : Credit) (q : CellAddr) : (s.setCredit a e x).cell q = s.cell q := rfl
@[simp] theorem State.setCredit_hold (s : State) (a : AisleId) (e : End) (x : Credit) (b : AisleId) : (s.setCredit a e x).hold b = s.hold b := rfl
@[simp] theorem State.setCredit_parkOwed (s : State) (a : AisleId) (e : End) (x : Credit) (d : CraneId) : (s.setCredit a e x).parkOwed d = s.parkOwed d := rfl
@[simp] theorem State.setCredit_holdBack (s : State) (a : AisleId) (e : End) (x : Credit) (d : CraneId) : (s.setCredit a e x).holdBack d = s.holdBack d := rfl
@[simp] theorem State.setCredit_input (s : State) (a : AisleId) (e : End) (x : Credit) (b : AisleId) (e' : End) : (s.setCredit a e x).input b e' = s.input b e' := rfl
@[simp] theorem State.setCredit_wave_q (s : State) (a : AisleId) (e : End) (x : Credit) (n : Nat) : (s.setCredit a e x).wave? n = s.wave? n := rfl
@[simp] theorem State.setCredit_slot (s : State) (a : AisleId) (e : End) (x : Credit) (n : Fin 256) : (s.setCredit a e x).slot n = s.slot n := rfl
@[simp] theorem State.setCredit_job_q (s : State) (a : AisleId) (e : End) (x : Credit) (h : Handle) : (s.setCredit a e x).job? h = s.job? h := rfl
@[simp] theorem State.setCredit_jobs (s : State) (a : AisleId) (e : End) (x : Credit) : (s.setCredit a e x).jobs = s.jobs := rfl
@[simp] theorem State.setCredit_faultKind (s : State) (a : AisleId) (e : End) (x : Credit) (q : FaultKind) : (s.setCredit a e x).faultKind q = s.faultKind q := rfl
@[simp] theorem State.setCredit_faultHold (s : State) (a : AisleId) (e : End) (x : Credit) (b : AisleId) : (s.setCredit a e x).faultHold b = s.faultHold b := rfl
@[simp] theorem State.setCredit_tx (s : State) (a : AisleId) (e : End) (x : Credit) (k' : Link) : (s.setCredit a e x).tx k' = s.tx k' := rfl
@[simp] theorem State.setCredit_rx (s : State) (a : AisleId) (e : End) (x : Credit) (k' : Link) : (s.setCredit a e x).rx k' = s.rx k' := rfl
@[simp] theorem State.setCredit_finishing (s : State) (a : AisleId) (e : End) (x : Credit) (k' : Link) : (s.setCredit a e x).finishing k' = s.finishing k' := rfl
@[simp] theorem State.setCredit_queue (s : State) (a : AisleId) (e : End) (x : Credit) (l' : OrderLink) : (s.setCredit a e x).queue l' = s.queue l' := rfl
@[simp] theorem State.setSlot_crane (s : State) (i : Fin 256) (x : Slot) (d : CraneId) : (s.setSlot i x).crane d = s.crane d := rfl
@[simp] theorem State.setSlot_rail (s : State) (i : Fin 256) (x : Slot) (b : AisleId) : (s.setSlot i x).rail b = s.rail b := rfl
@[simp] theorem State.setSlot_aisle (s : State) (i : Fin 256) (x : Slot) (b : AisleId) : (s.setSlot i x).aisle b = s.aisle b := rfl
@[simp] theorem State.setSlot_profile_q (s : State) (i : Fin 256) (x : Slot) (b : AisleId) : (s.setSlot i x).profile? b = s.profile? b := rfl
@[simp] theorem State.setSlot_configured (s : State) (i : Fin 256) (x : Slot) (b : AisleId) : (s.setSlot i x).configured b = s.configured b := rfl
@[simp] theorem State.setSlot_isTandem (s : State) (i : Fin 256) (x : Slot) (b : AisleId) : (s.setSlot i x).isTandem b = s.isTandem b := rfl
@[simp] theorem State.setSlot_stationExists (s : State) (i : Fin 256) (x : Slot) (b : AisleId) (e' : End) : (s.setSlot i x).stationExists b e' = s.stationExists b e' := rfl
@[simp] theorem State.setSlot_cell (s : State) (i : Fin 256) (x : Slot) (q : CellAddr) : (s.setSlot i x).cell q = s.cell q := rfl
@[simp] theorem State.setSlot_hold (s : State) (i : Fin 256) (x : Slot) (b : AisleId) : (s.setSlot i x).hold b = s.hold b := rfl
@[simp] theorem State.setSlot_parkOwed (s : State) (i : Fin 256) (x : Slot) (d : CraneId) : (s.setSlot i x).parkOwed d = s.parkOwed d := rfl
@[simp] theorem State.setSlot_holdBack (s : State) (i : Fin 256) (x : Slot) (d : CraneId) : (s.setSlot i x).holdBack d = s.holdBack d := rfl
@[simp] theorem State.setSlot_input (s : State) (i : Fin 256) (x : Slot) (b : AisleId) (e' : End) : (s.setSlot i x).input b e' = s.input b e' := rfl
@[simp] theorem State.setSlot_credit (s : State) (i : Fin 256) (x : Slot) (b : AisleId) (e' : End) : (s.setSlot i x).credit b e' = s.credit b e' := rfl
@[simp] theorem State.setSlot_wave_q (s : State) (i : Fin 256) (x : Slot) (n : Nat) : (s.setSlot i x).wave? n = s.wave? n := rfl
@[simp] theorem State.setSlot_faultKind (s : State) (i : Fin 256) (x : Slot) (q : FaultKind) : (s.setSlot i x).faultKind q = s.faultKind q := rfl
@[simp] theorem State.setSlot_faultHold (s : State) (i : Fin 256) (x : Slot) (b : AisleId) : (s.setSlot i x).faultHold b = s.faultHold b := rfl
@[simp] theorem State.setSlot_tx (s : State) (i : Fin 256) (x : Slot) (k' : Link) : (s.setSlot i x).tx k' = s.tx k' := rfl
@[simp] theorem State.setSlot_rx (s : State) (i : Fin 256) (x : Slot) (k' : Link) : (s.setSlot i x).rx k' = s.rx k' := rfl
@[simp] theorem State.setSlot_finishing (s : State) (i : Fin 256) (x : Slot) (k' : Link) : (s.setSlot i x).finishing k' = s.finishing k' := rfl
@[simp] theorem State.setSlot_queue (s : State) (i : Fin 256) (x : Slot) (l' : OrderLink) : (s.setSlot i x).queue l' = s.queue l' := rfl
@[simp] theorem State.setClosingWait_crane (s : State) (l : OrderLink) (x : List Handle) (d : CraneId) : (s.setClosingWait l x).crane d = s.crane d := rfl
@[simp] theorem State.setClosingWait_rail (s : State) (l : OrderLink) (x : List Handle) (b : AisleId) : (s.setClosingWait l x).rail b = s.rail b := rfl
@[simp] theorem State.setClosingWait_aisle (s : State) (l : OrderLink) (x : List Handle) (b : AisleId) : (s.setClosingWait l x).aisle b = s.aisle b := rfl
@[simp] theorem State.setClosingWait_profile_q (s : State) (l : OrderLink) (x : List Handle) (b : AisleId) : (s.setClosingWait l x).profile? b = s.profile? b := rfl
@[simp] theorem State.setClosingWait_configured (s : State) (l : OrderLink) (x : List Handle) (b : AisleId) : (s.setClosingWait l x).configured b = s.configured b := rfl
@[simp] theorem State.setClosingWait_isTandem (s : State) (l : OrderLink) (x : List Handle) (b : AisleId) : (s.setClosingWait l x).isTandem b = s.isTandem b := rfl
@[simp] theorem State.setClosingWait_stationExists (s : State) (l : OrderLink) (x : List Handle) (b : AisleId) (e' : End) : (s.setClosingWait l x).stationExists b e' = s.stationExists b e' := rfl
@[simp] theorem State.setClosingWait_cell (s : State) (l : OrderLink) (x : List Handle) (q : CellAddr) : (s.setClosingWait l x).cell q = s.cell q := rfl
@[simp] theorem State.setClosingWait_hold (s : State) (l : OrderLink) (x : List Handle) (b : AisleId) : (s.setClosingWait l x).hold b = s.hold b := rfl
@[simp] theorem State.setClosingWait_parkOwed (s : State) (l : OrderLink) (x : List Handle) (d : CraneId) : (s.setClosingWait l x).parkOwed d = s.parkOwed d := rfl
@[simp] theorem State.setClosingWait_holdBack (s : State) (l : OrderLink) (x : List Handle) (d : CraneId) : (s.setClosingWait l x).holdBack d = s.holdBack d := rfl
@[simp] theorem State.setClosingWait_input (s : State) (l : OrderLink) (x : List Handle) (b : AisleId) (e' : End) : (s.setClosingWait l x).input b e' = s.input b e' := rfl
@[simp] theorem State.setClosingWait_credit (s : State) (l : OrderLink) (x : List Handle) (b : AisleId) (e' : End) : (s.setClosingWait l x).credit b e' = s.credit b e' := rfl
@[simp] theorem State.setClosingWait_wave_q (s : State) (l : OrderLink) (x : List Handle) (n : Nat) : (s.setClosingWait l x).wave? n = s.wave? n := rfl
@[simp] theorem State.setClosingWait_slot (s : State) (l : OrderLink) (x : List Handle) (n : Fin 256) : (s.setClosingWait l x).slot n = s.slot n := rfl
@[simp] theorem State.setClosingWait_job_q (s : State) (l : OrderLink) (x : List Handle) (h : Handle) : (s.setClosingWait l x).job? h = s.job? h := rfl
@[simp] theorem State.setClosingWait_jobs (s : State) (l : OrderLink) (x : List Handle) : (s.setClosingWait l x).jobs = s.jobs := rfl
@[simp] theorem State.setClosingWait_faultKind (s : State) (l : OrderLink) (x : List Handle) (q : FaultKind) : (s.setClosingWait l x).faultKind q = s.faultKind q := rfl
@[simp] theorem State.setClosingWait_faultHold (s : State) (l : OrderLink) (x : List Handle) (b : AisleId) : (s.setClosingWait l x).faultHold b = s.faultHold b := rfl
@[simp] theorem State.setClosingWait_tx (s : State) (l : OrderLink) (x : List Handle) (k' : Link) : (s.setClosingWait l x).tx k' = s.tx k' := rfl
@[simp] theorem State.setClosingWait_rx (s : State) (l : OrderLink) (x : List Handle) (k' : Link) : (s.setClosingWait l x).rx k' = s.rx k' := rfl
@[simp] theorem State.setClosingWait_finishing (s : State) (l : OrderLink) (x : List Handle) (k' : Link) : (s.setClosingWait l x).finishing k' = s.finishing k' := rfl
@[simp] theorem State.setClosingWait_queue (s : State) (l : OrderLink) (x : List Handle) (l' : OrderLink) : (s.setClosingWait l x).queue l' = s.queue l' := rfl
@[simp] theorem State.setFaultKind_crane (s : State) (k : FaultKind) (x : FaultControl) (d : CraneId) : (s.setFaultKind k x).crane d = s.crane d := rfl
@[simp] theorem State.setFaultKind_rail (s : State) (k : FaultKind) (x : FaultControl) (b : AisleId) : (s.setFaultKind k x).rail b = s.rail b := rfl
@[simp] theorem State.setFaultKind_aisle (s : State) (k : FaultKind) (x : FaultControl) (b : AisleId) : (s.setFaultKind k x).aisle b = s.aisle b := rfl
@[simp] theorem State.setFaultKind_profile_q (s : State) (k : FaultKind) (x : FaultControl) (b : AisleId) : (s.setFaultKind k x).profile? b = s.profile? b := rfl
@[simp] theorem State.setFaultKind_configured (s : State) (k : FaultKind) (x : FaultControl) (b : AisleId) : (s.setFaultKind k x).configured b = s.configured b := rfl
@[simp] theorem State.setFaultKind_isTandem (s : State) (k : FaultKind) (x : FaultControl) (b : AisleId) : (s.setFaultKind k x).isTandem b = s.isTandem b := rfl
@[simp] theorem State.setFaultKind_stationExists (s : State) (k : FaultKind) (x : FaultControl) (b : AisleId) (e' : End) : (s.setFaultKind k x).stationExists b e' = s.stationExists b e' := rfl
@[simp] theorem State.setFaultKind_cell (s : State) (k : FaultKind) (x : FaultControl) (q : CellAddr) : (s.setFaultKind k x).cell q = s.cell q := rfl
@[simp] theorem State.setFaultKind_hold (s : State) (k : FaultKind) (x : FaultControl) (b : AisleId) : (s.setFaultKind k x).hold b = s.hold b := rfl
@[simp] theorem State.setFaultKind_parkOwed (s : State) (k : FaultKind) (x : FaultControl) (d : CraneId) : (s.setFaultKind k x).parkOwed d = s.parkOwed d := rfl
@[simp] theorem State.setFaultKind_holdBack (s : State) (k : FaultKind) (x : FaultControl) (d : CraneId) : (s.setFaultKind k x).holdBack d = s.holdBack d := rfl
@[simp] theorem State.setFaultKind_input (s : State) (k : FaultKind) (x : FaultControl) (b : AisleId) (e' : End) : (s.setFaultKind k x).input b e' = s.input b e' := rfl
@[simp] theorem State.setFaultKind_credit (s : State) (k : FaultKind) (x : FaultControl) (b : AisleId) (e' : End) : (s.setFaultKind k x).credit b e' = s.credit b e' := rfl
@[simp] theorem State.setFaultKind_wave_q (s : State) (k : FaultKind) (x : FaultControl) (n : Nat) : (s.setFaultKind k x).wave? n = s.wave? n := rfl
@[simp] theorem State.setFaultKind_slot (s : State) (k : FaultKind) (x : FaultControl) (n : Fin 256) : (s.setFaultKind k x).slot n = s.slot n := rfl
@[simp] theorem State.setFaultKind_job_q (s : State) (k : FaultKind) (x : FaultControl) (h : Handle) : (s.setFaultKind k x).job? h = s.job? h := rfl
@[simp] theorem State.setFaultKind_jobs (s : State) (k : FaultKind) (x : FaultControl) : (s.setFaultKind k x).jobs = s.jobs := rfl
@[simp] theorem State.setFaultKind_faultHold (s : State) (k : FaultKind) (x : FaultControl) (b : AisleId) : (s.setFaultKind k x).faultHold b = s.faultHold b := rfl
@[simp] theorem State.setFaultKind_tx (s : State) (k : FaultKind) (x : FaultControl) (k' : Link) : (s.setFaultKind k x).tx k' = s.tx k' := rfl
@[simp] theorem State.setFaultKind_rx (s : State) (k : FaultKind) (x : FaultControl) (k' : Link) : (s.setFaultKind k x).rx k' = s.rx k' := rfl
@[simp] theorem State.setFaultKind_finishing (s : State) (k : FaultKind) (x : FaultControl) (k' : Link) : (s.setFaultKind k x).finishing k' = s.finishing k' := rfl
@[simp] theorem State.setFaultKind_queue (s : State) (k : FaultKind) (x : FaultControl) (l' : OrderLink) : (s.setFaultKind k x).queue l' = s.queue l' := rfl
@[simp] theorem State.setFaultHold_crane (s : State) (a : AisleId) (x : FaultHold) (d : CraneId) : (s.setFaultHold a x).crane d = s.crane d := rfl
@[simp] theorem State.setFaultHold_rail (s : State) (a : AisleId) (x : FaultHold) (b : AisleId) : (s.setFaultHold a x).rail b = s.rail b := rfl
@[simp] theorem State.setFaultHold_aisle (s : State) (a : AisleId) (x : FaultHold) (b : AisleId) : (s.setFaultHold a x).aisle b = s.aisle b := rfl
@[simp] theorem State.setFaultHold_profile_q (s : State) (a : AisleId) (x : FaultHold) (b : AisleId) : (s.setFaultHold a x).profile? b = s.profile? b := rfl
@[simp] theorem State.setFaultHold_configured (s : State) (a : AisleId) (x : FaultHold) (b : AisleId) : (s.setFaultHold a x).configured b = s.configured b := rfl
@[simp] theorem State.setFaultHold_isTandem (s : State) (a : AisleId) (x : FaultHold) (b : AisleId) : (s.setFaultHold a x).isTandem b = s.isTandem b := rfl
@[simp] theorem State.setFaultHold_stationExists (s : State) (a : AisleId) (x : FaultHold) (b : AisleId) (e' : End) : (s.setFaultHold a x).stationExists b e' = s.stationExists b e' := rfl
@[simp] theorem State.setFaultHold_cell (s : State) (a : AisleId) (x : FaultHold) (q : CellAddr) : (s.setFaultHold a x).cell q = s.cell q := rfl
@[simp] theorem State.setFaultHold_hold (s : State) (a : AisleId) (x : FaultHold) (b : AisleId) : (s.setFaultHold a x).hold b = s.hold b := rfl
@[simp] theorem State.setFaultHold_parkOwed (s : State) (a : AisleId) (x : FaultHold) (d : CraneId) : (s.setFaultHold a x).parkOwed d = s.parkOwed d := rfl
@[simp] theorem State.setFaultHold_holdBack (s : State) (a : AisleId) (x : FaultHold) (d : CraneId) : (s.setFaultHold a x).holdBack d = s.holdBack d := rfl
@[simp] theorem State.setFaultHold_input (s : State) (a : AisleId) (x : FaultHold) (b : AisleId) (e' : End) : (s.setFaultHold a x).input b e' = s.input b e' := rfl
@[simp] theorem State.setFaultHold_credit (s : State) (a : AisleId) (x : FaultHold) (b : AisleId) (e' : End) : (s.setFaultHold a x).credit b e' = s.credit b e' := rfl
@[simp] theorem State.setFaultHold_wave_q (s : State) (a : AisleId) (x : FaultHold) (n : Nat) : (s.setFaultHold a x).wave? n = s.wave? n := rfl
@[simp] theorem State.setFaultHold_slot (s : State) (a : AisleId) (x : FaultHold) (n : Fin 256) : (s.setFaultHold a x).slot n = s.slot n := rfl
@[simp] theorem State.setFaultHold_job_q (s : State) (a : AisleId) (x : FaultHold) (h : Handle) : (s.setFaultHold a x).job? h = s.job? h := rfl
@[simp] theorem State.setFaultHold_jobs (s : State) (a : AisleId) (x : FaultHold) : (s.setFaultHold a x).jobs = s.jobs := rfl
@[simp] theorem State.setFaultHold_faultKind (s : State) (a : AisleId) (x : FaultHold) (q : FaultKind) : (s.setFaultHold a x).faultKind q = s.faultKind q := rfl
@[simp] theorem State.setFaultHold_tx (s : State) (a : AisleId) (x : FaultHold) (k' : Link) : (s.setFaultHold a x).tx k' = s.tx k' := rfl
@[simp] theorem State.setFaultHold_rx (s : State) (a : AisleId) (x : FaultHold) (k' : Link) : (s.setFaultHold a x).rx k' = s.rx k' := rfl
@[simp] theorem State.setFaultHold_finishing (s : State) (a : AisleId) (x : FaultHold) (k' : Link) : (s.setFaultHold a x).finishing k' = s.finishing k' := rfl
@[simp] theorem State.setFaultHold_queue (s : State) (a : AisleId) (x : FaultHold) (l' : OrderLink) : (s.setFaultHold a x).queue l' = s.queue l' := rfl
@[simp] theorem State.setTx_crane (s : State) (k : Link) (x : List Message) (d : CraneId) : (s.setTx k x).crane d = s.crane d := rfl
@[simp] theorem State.setTx_rail (s : State) (k : Link) (x : List Message) (b : AisleId) : (s.setTx k x).rail b = s.rail b := rfl
@[simp] theorem State.setTx_aisle (s : State) (k : Link) (x : List Message) (b : AisleId) : (s.setTx k x).aisle b = s.aisle b := rfl
@[simp] theorem State.setTx_profile_q (s : State) (k : Link) (x : List Message) (b : AisleId) : (s.setTx k x).profile? b = s.profile? b := rfl
@[simp] theorem State.setTx_configured (s : State) (k : Link) (x : List Message) (b : AisleId) : (s.setTx k x).configured b = s.configured b := rfl
@[simp] theorem State.setTx_isTandem (s : State) (k : Link) (x : List Message) (b : AisleId) : (s.setTx k x).isTandem b = s.isTandem b := rfl
@[simp] theorem State.setTx_stationExists (s : State) (k : Link) (x : List Message) (b : AisleId) (e' : End) : (s.setTx k x).stationExists b e' = s.stationExists b e' := rfl
@[simp] theorem State.setTx_cell (s : State) (k : Link) (x : List Message) (q : CellAddr) : (s.setTx k x).cell q = s.cell q := rfl
@[simp] theorem State.setTx_hold (s : State) (k : Link) (x : List Message) (b : AisleId) : (s.setTx k x).hold b = s.hold b := rfl
@[simp] theorem State.setTx_parkOwed (s : State) (k : Link) (x : List Message) (d : CraneId) : (s.setTx k x).parkOwed d = s.parkOwed d := rfl
@[simp] theorem State.setTx_holdBack (s : State) (k : Link) (x : List Message) (d : CraneId) : (s.setTx k x).holdBack d = s.holdBack d := rfl
@[simp] theorem State.setTx_input (s : State) (k : Link) (x : List Message) (b : AisleId) (e' : End) : (s.setTx k x).input b e' = s.input b e' := rfl
@[simp] theorem State.setTx_credit (s : State) (k : Link) (x : List Message) (b : AisleId) (e' : End) : (s.setTx k x).credit b e' = s.credit b e' := rfl
@[simp] theorem State.setTx_wave_q (s : State) (k : Link) (x : List Message) (n : Nat) : (s.setTx k x).wave? n = s.wave? n := rfl
@[simp] theorem State.setTx_slot (s : State) (k : Link) (x : List Message) (n : Fin 256) : (s.setTx k x).slot n = s.slot n := rfl
@[simp] theorem State.setTx_job_q (s : State) (k : Link) (x : List Message) (h : Handle) : (s.setTx k x).job? h = s.job? h := rfl
@[simp] theorem State.setTx_jobs (s : State) (k : Link) (x : List Message) : (s.setTx k x).jobs = s.jobs := rfl
@[simp] theorem State.setTx_faultKind (s : State) (k : Link) (x : List Message) (q : FaultKind) : (s.setTx k x).faultKind q = s.faultKind q := rfl
@[simp] theorem State.setTx_faultHold (s : State) (k : Link) (x : List Message) (b : AisleId) : (s.setTx k x).faultHold b = s.faultHold b := rfl
@[simp] theorem State.setTx_rx (s : State) (k : Link) (x : List Message) (k' : Link) : (s.setTx k x).rx k' = s.rx k' := rfl
@[simp] theorem State.setTx_finishing (s : State) (k : Link) (x : List Message) (k' : Link) : (s.setTx k x).finishing k' = s.finishing k' := rfl
@[simp] theorem State.setTx_queue (s : State) (k : Link) (x : List Message) (l' : OrderLink) : (s.setTx k x).queue l' = s.queue l' := rfl
@[simp] theorem State.setRx_crane (s : State) (k : Link) (x : Receiver) (d : CraneId) : (s.setRx k x).crane d = s.crane d := rfl
@[simp] theorem State.setRx_rail (s : State) (k : Link) (x : Receiver) (b : AisleId) : (s.setRx k x).rail b = s.rail b := rfl
@[simp] theorem State.setRx_aisle (s : State) (k : Link) (x : Receiver) (b : AisleId) : (s.setRx k x).aisle b = s.aisle b := rfl
@[simp] theorem State.setRx_profile_q (s : State) (k : Link) (x : Receiver) (b : AisleId) : (s.setRx k x).profile? b = s.profile? b := rfl
@[simp] theorem State.setRx_configured (s : State) (k : Link) (x : Receiver) (b : AisleId) : (s.setRx k x).configured b = s.configured b := rfl
@[simp] theorem State.setRx_isTandem (s : State) (k : Link) (x : Receiver) (b : AisleId) : (s.setRx k x).isTandem b = s.isTandem b := rfl
@[simp] theorem State.setRx_stationExists (s : State) (k : Link) (x : Receiver) (b : AisleId) (e' : End) : (s.setRx k x).stationExists b e' = s.stationExists b e' := rfl
@[simp] theorem State.setRx_cell (s : State) (k : Link) (x : Receiver) (q : CellAddr) : (s.setRx k x).cell q = s.cell q := rfl
@[simp] theorem State.setRx_hold (s : State) (k : Link) (x : Receiver) (b : AisleId) : (s.setRx k x).hold b = s.hold b := rfl
@[simp] theorem State.setRx_parkOwed (s : State) (k : Link) (x : Receiver) (d : CraneId) : (s.setRx k x).parkOwed d = s.parkOwed d := rfl
@[simp] theorem State.setRx_holdBack (s : State) (k : Link) (x : Receiver) (d : CraneId) : (s.setRx k x).holdBack d = s.holdBack d := rfl
@[simp] theorem State.setRx_input (s : State) (k : Link) (x : Receiver) (b : AisleId) (e' : End) : (s.setRx k x).input b e' = s.input b e' := rfl
@[simp] theorem State.setRx_credit (s : State) (k : Link) (x : Receiver) (b : AisleId) (e' : End) : (s.setRx k x).credit b e' = s.credit b e' := rfl
@[simp] theorem State.setRx_wave_q (s : State) (k : Link) (x : Receiver) (n : Nat) : (s.setRx k x).wave? n = s.wave? n := rfl
@[simp] theorem State.setRx_slot (s : State) (k : Link) (x : Receiver) (n : Fin 256) : (s.setRx k x).slot n = s.slot n := rfl
@[simp] theorem State.setRx_job_q (s : State) (k : Link) (x : Receiver) (h : Handle) : (s.setRx k x).job? h = s.job? h := rfl
@[simp] theorem State.setRx_jobs (s : State) (k : Link) (x : Receiver) : (s.setRx k x).jobs = s.jobs := rfl
@[simp] theorem State.setRx_faultKind (s : State) (k : Link) (x : Receiver) (q : FaultKind) : (s.setRx k x).faultKind q = s.faultKind q := rfl
@[simp] theorem State.setRx_faultHold (s : State) (k : Link) (x : Receiver) (b : AisleId) : (s.setRx k x).faultHold b = s.faultHold b := rfl
@[simp] theorem State.setRx_tx (s : State) (k : Link) (x : Receiver) (k' : Link) : (s.setRx k x).tx k' = s.tx k' := rfl
@[simp] theorem State.setRx_finishing (s : State) (k : Link) (x : Receiver) (k' : Link) : (s.setRx k x).finishing k' = s.finishing k' := rfl
@[simp] theorem State.setRx_queue (s : State) (k : Link) (x : Receiver) (l' : OrderLink) : (s.setRx k x).queue l' = s.queue l' := rfl
@[simp] theorem State.setQueue_crane (s : State) (l : OrderLink) (x : List Notice) (d : CraneId) : (s.setQueue l x).crane d = s.crane d := rfl
@[simp] theorem State.setQueue_rail (s : State) (l : OrderLink) (x : List Notice) (b : AisleId) : (s.setQueue l x).rail b = s.rail b := rfl
@[simp] theorem State.setQueue_aisle (s : State) (l : OrderLink) (x : List Notice) (b : AisleId) : (s.setQueue l x).aisle b = s.aisle b := rfl
@[simp] theorem State.setQueue_profile_q (s : State) (l : OrderLink) (x : List Notice) (b : AisleId) : (s.setQueue l x).profile? b = s.profile? b := rfl
@[simp] theorem State.setQueue_configured (s : State) (l : OrderLink) (x : List Notice) (b : AisleId) : (s.setQueue l x).configured b = s.configured b := rfl
@[simp] theorem State.setQueue_isTandem (s : State) (l : OrderLink) (x : List Notice) (b : AisleId) : (s.setQueue l x).isTandem b = s.isTandem b := rfl
@[simp] theorem State.setQueue_stationExists (s : State) (l : OrderLink) (x : List Notice) (b : AisleId) (e' : End) : (s.setQueue l x).stationExists b e' = s.stationExists b e' := rfl
@[simp] theorem State.setQueue_cell (s : State) (l : OrderLink) (x : List Notice) (q : CellAddr) : (s.setQueue l x).cell q = s.cell q := rfl
@[simp] theorem State.setQueue_hold (s : State) (l : OrderLink) (x : List Notice) (b : AisleId) : (s.setQueue l x).hold b = s.hold b := rfl
@[simp] theorem State.setQueue_parkOwed (s : State) (l : OrderLink) (x : List Notice) (d : CraneId) : (s.setQueue l x).parkOwed d = s.parkOwed d := rfl
@[simp] theorem State.setQueue_holdBack (s : State) (l : OrderLink) (x : List Notice) (d : CraneId) : (s.setQueue l x).holdBack d = s.holdBack d := rfl
@[simp] theorem State.setQueue_input (s : State) (l : OrderLink) (x : List Notice) (b : AisleId) (e' : End) : (s.setQueue l x).input b e' = s.input b e' := rfl
@[simp] theorem State.setQueue_credit (s : State) (l : OrderLink) (x : List Notice) (b : AisleId) (e' : End) : (s.setQueue l x).credit b e' = s.credit b e' := rfl
@[simp] theorem State.setQueue_wave_q (s : State) (l : OrderLink) (x : List Notice) (n : Nat) : (s.setQueue l x).wave? n = s.wave? n := rfl
@[simp] theorem State.setQueue_slot (s : State) (l : OrderLink) (x : List Notice) (n : Fin 256) : (s.setQueue l x).slot n = s.slot n := rfl
@[simp] theorem State.setQueue_job_q (s : State) (l : OrderLink) (x : List Notice) (h : Handle) : (s.setQueue l x).job? h = s.job? h := rfl
@[simp] theorem State.setQueue_jobs (s : State) (l : OrderLink) (x : List Notice) : (s.setQueue l x).jobs = s.jobs := rfl
@[simp] theorem State.setQueue_faultKind (s : State) (l : OrderLink) (x : List Notice) (q : FaultKind) : (s.setQueue l x).faultKind q = s.faultKind q := rfl
@[simp] theorem State.setQueue_faultHold (s : State) (l : OrderLink) (x : List Notice) (b : AisleId) : (s.setQueue l x).faultHold b = s.faultHold b := rfl
@[simp] theorem State.setQueue_tx (s : State) (l : OrderLink) (x : List Notice) (k' : Link) : (s.setQueue l x).tx k' = s.tx k' := rfl
@[simp] theorem State.setQueue_rx (s : State) (l : OrderLink) (x : List Notice) (k' : Link) : (s.setQueue l x).rx k' = s.rx k' := rfl
@[simp] theorem State.setQueue_finishing (s : State) (l : OrderLink) (x : List Notice) (k' : Link) : (s.setQueue l x).finishing k' = s.finishing k' := rfl
@[simp] theorem State.raise_crane (s : State) (e : Instr) (d : CraneId) : (s.raise e).crane d = s.crane d := rfl
@[simp] theorem State.raise_rail (s : State) (e : Instr) (b : AisleId) : (s.raise e).rail b = s.rail b := rfl
@[simp] theorem State.raise_aisle (s : State) (e : Instr) (b : AisleId) : (s.raise e).aisle b = s.aisle b := rfl
@[simp] theorem State.raise_profile_q (s : State) (e : Instr) (b : AisleId) : (s.raise e).profile? b = s.profile? b := rfl
@[simp] theorem State.raise_configured (s : State) (e : Instr) (b : AisleId) : (s.raise e).configured b = s.configured b := rfl
@[simp] theorem State.raise_isTandem (s : State) (e : Instr) (b : AisleId) : (s.raise e).isTandem b = s.isTandem b := rfl
@[simp] theorem State.raise_stationExists (s : State) (e : Instr) (b : AisleId) (e' : End) : (s.raise e).stationExists b e' = s.stationExists b e' := rfl
@[simp] theorem State.raise_cell (s : State) (e : Instr) (q : CellAddr) : (s.raise e).cell q = s.cell q := rfl
@[simp] theorem State.raise_hold (s : State) (e : Instr) (b : AisleId) : (s.raise e).hold b = s.hold b := rfl
@[simp] theorem State.raise_parkOwed (s : State) (e : Instr) (d : CraneId) : (s.raise e).parkOwed d = s.parkOwed d := rfl
@[simp] theorem State.raise_holdBack (s : State) (e : Instr) (d : CraneId) : (s.raise e).holdBack d = s.holdBack d := rfl
@[simp] theorem State.raise_input (s : State) (e : Instr) (b : AisleId) (e' : End) : (s.raise e).input b e' = s.input b e' := rfl
@[simp] theorem State.raise_credit (s : State) (e : Instr) (b : AisleId) (e' : End) : (s.raise e).credit b e' = s.credit b e' := rfl
@[simp] theorem State.raise_wave_q (s : State) (e : Instr) (n : Nat) : (s.raise e).wave? n = s.wave? n := rfl
@[simp] theorem State.raise_slot (s : State) (e : Instr) (n : Fin 256) : (s.raise e).slot n = s.slot n := rfl
@[simp] theorem State.raise_job_q (s : State) (e : Instr) (h : Handle) : (s.raise e).job? h = s.job? h := rfl
@[simp] theorem State.raise_jobs (s : State) (e : Instr) : (s.raise e).jobs = s.jobs := rfl
@[simp] theorem State.raise_faultKind (s : State) (e : Instr) (q : FaultKind) : (s.raise e).faultKind q = s.faultKind q := rfl
@[simp] theorem State.raise_faultHold (s : State) (e : Instr) (b : AisleId) : (s.raise e).faultHold b = s.faultHold b := rfl
@[simp] theorem State.raise_tx (s : State) (e : Instr) (k' : Link) : (s.raise e).tx k' = s.tx k' := rfl
@[simp] theorem State.raise_rx (s : State) (e : Instr) (k' : Link) : (s.raise e).rx k' = s.rx k' := rfl
@[simp] theorem State.raise_finishing (s : State) (e : Instr) (k' : Link) : (s.raise e).finishing k' = s.finishing k' := rfl
@[simp] theorem State.raise_queue (s : State) (e : Instr) (l' : OrderLink) : (s.raise e).queue l' = s.queue l' := rfl
@[simp] theorem State.raiseAll_crane (s : State) (es : List Instr) (d : CraneId) : (s.raiseAll es).crane d = s.crane d := rfl
@[simp] theorem State.raiseAll_rail (s : State) (es : List Instr) (b : AisleId) : (s.raiseAll es).rail b = s.rail b := rfl
@[simp] theorem State.raiseAll_aisle (s : State) (es : List Instr) (b : AisleId) : (s.raiseAll es).aisle b = s.aisle b := rfl
@[simp] theorem State.raiseAll_profile_q (s : State) (es : List Instr) (b : AisleId) : (s.raiseAll es).profile? b = s.profile? b := rfl
@[simp] theorem State.raiseAll_configured (s : State) (es : List Instr) (b : AisleId) : (s.raiseAll es).configured b = s.configured b := rfl
@[simp] theorem State.raiseAll_isTandem (s : State) (es : List Instr) (b : AisleId) : (s.raiseAll es).isTandem b = s.isTandem b := rfl
@[simp] theorem State.raiseAll_stationExists (s : State) (es : List Instr) (b : AisleId) (e' : End) : (s.raiseAll es).stationExists b e' = s.stationExists b e' := rfl
@[simp] theorem State.raiseAll_cell (s : State) (es : List Instr) (q : CellAddr) : (s.raiseAll es).cell q = s.cell q := rfl
@[simp] theorem State.raiseAll_hold (s : State) (es : List Instr) (b : AisleId) : (s.raiseAll es).hold b = s.hold b := rfl
@[simp] theorem State.raiseAll_parkOwed (s : State) (es : List Instr) (d : CraneId) : (s.raiseAll es).parkOwed d = s.parkOwed d := rfl
@[simp] theorem State.raiseAll_holdBack (s : State) (es : List Instr) (d : CraneId) : (s.raiseAll es).holdBack d = s.holdBack d := rfl
@[simp] theorem State.raiseAll_input (s : State) (es : List Instr) (b : AisleId) (e' : End) : (s.raiseAll es).input b e' = s.input b e' := rfl
@[simp] theorem State.raiseAll_credit (s : State) (es : List Instr) (b : AisleId) (e' : End) : (s.raiseAll es).credit b e' = s.credit b e' := rfl
@[simp] theorem State.raiseAll_wave_q (s : State) (es : List Instr) (n : Nat) : (s.raiseAll es).wave? n = s.wave? n := rfl
@[simp] theorem State.raiseAll_slot (s : State) (es : List Instr) (n : Fin 256) : (s.raiseAll es).slot n = s.slot n := rfl
@[simp] theorem State.raiseAll_job_q (s : State) (es : List Instr) (h : Handle) : (s.raiseAll es).job? h = s.job? h := rfl
@[simp] theorem State.raiseAll_jobs (s : State) (es : List Instr) : (s.raiseAll es).jobs = s.jobs := rfl
@[simp] theorem State.raiseAll_faultKind (s : State) (es : List Instr) (q : FaultKind) : (s.raiseAll es).faultKind q = s.faultKind q := rfl
@[simp] theorem State.raiseAll_faultHold (s : State) (es : List Instr) (b : AisleId) : (s.raiseAll es).faultHold b = s.faultHold b := rfl
@[simp] theorem State.raiseAll_tx (s : State) (es : List Instr) (k' : Link) : (s.raiseAll es).tx k' = s.tx k' := rfl
@[simp] theorem State.raiseAll_rx (s : State) (es : List Instr) (k' : Link) : (s.raiseAll es).rx k' = s.rx k' := rfl
@[simp] theorem State.raiseAll_finishing (s : State) (es : List Instr) (k' : Link) : (s.raiseAll es).finishing k' = s.finishing k' := rfl
@[simp] theorem State.raiseAll_queue (s : State) (es : List Instr) (l' : OrderLink) : (s.raiseAll es).queue l' = s.queue l' := rfl
@[simp] theorem State.take_crane (s : State) (e : Instr) (d : CraneId) : (s.take e).crane d = s.crane d := rfl
@[simp] theorem State.take_rail (s : State) (e : Instr) (b : AisleId) : (s.take e).rail b = s.rail b := rfl
@[simp] theorem State.take_aisle (s : State) (e : Instr) (b : AisleId) : (s.take e).aisle b = s.aisle b := rfl
@[simp] theorem State.take_profile_q (s : State) (e : Instr) (b : AisleId) : (s.take e).profile? b = s.profile? b := rfl
@[simp] theorem State.take_configured (s : State) (e : Instr) (b : AisleId) : (s.take e).configured b = s.configured b := rfl
@[simp] theorem State.take_isTandem (s : State) (e : Instr) (b : AisleId) : (s.take e).isTandem b = s.isTandem b := rfl
@[simp] theorem State.take_stationExists (s : State) (e : Instr) (b : AisleId) (e' : End) : (s.take e).stationExists b e' = s.stationExists b e' := rfl
@[simp] theorem State.take_cell (s : State) (e : Instr) (q : CellAddr) : (s.take e).cell q = s.cell q := rfl
@[simp] theorem State.take_hold (s : State) (e : Instr) (b : AisleId) : (s.take e).hold b = s.hold b := rfl
@[simp] theorem State.take_parkOwed (s : State) (e : Instr) (d : CraneId) : (s.take e).parkOwed d = s.parkOwed d := rfl
@[simp] theorem State.take_holdBack (s : State) (e : Instr) (d : CraneId) : (s.take e).holdBack d = s.holdBack d := rfl
@[simp] theorem State.take_input (s : State) (e : Instr) (b : AisleId) (e' : End) : (s.take e).input b e' = s.input b e' := rfl
@[simp] theorem State.take_credit (s : State) (e : Instr) (b : AisleId) (e' : End) : (s.take e).credit b e' = s.credit b e' := rfl
@[simp] theorem State.take_wave_q (s : State) (e : Instr) (n : Nat) : (s.take e).wave? n = s.wave? n := rfl
@[simp] theorem State.take_slot (s : State) (e : Instr) (n : Fin 256) : (s.take e).slot n = s.slot n := rfl
@[simp] theorem State.take_job_q (s : State) (e : Instr) (h : Handle) : (s.take e).job? h = s.job? h := rfl
@[simp] theorem State.take_jobs (s : State) (e : Instr) : (s.take e).jobs = s.jobs := rfl
@[simp] theorem State.take_faultKind (s : State) (e : Instr) (q : FaultKind) : (s.take e).faultKind q = s.faultKind q := rfl
@[simp] theorem State.take_faultHold (s : State) (e : Instr) (b : AisleId) : (s.take e).faultHold b = s.faultHold b := rfl
@[simp] theorem State.take_tx (s : State) (e : Instr) (k' : Link) : (s.take e).tx k' = s.tx k' := rfl
@[simp] theorem State.take_rx (s : State) (e : Instr) (k' : Link) : (s.take e).rx k' = s.rx k' := rfl
@[simp] theorem State.take_finishing (s : State) (e : Instr) (k' : Link) : (s.take e).finishing k' = s.finishing k' := rfl
@[simp] theorem State.take_queue (s : State) (e : Instr) (l' : OrderLink) : (s.take e).queue l' = s.queue l' := rfl
@[simp] theorem State.forget_crane (s : State) (e : Instr) (d : CraneId) : (s.forget e).crane d = s.crane d := rfl
@[simp] theorem State.forget_rail (s : State) (e : Instr) (b : AisleId) : (s.forget e).rail b = s.rail b := rfl
@[simp] theorem State.forget_aisle (s : State) (e : Instr) (b : AisleId) : (s.forget e).aisle b = s.aisle b := rfl
@[simp] theorem State.forget_profile_q (s : State) (e : Instr) (b : AisleId) : (s.forget e).profile? b = s.profile? b := rfl
@[simp] theorem State.forget_configured (s : State) (e : Instr) (b : AisleId) : (s.forget e).configured b = s.configured b := rfl
@[simp] theorem State.forget_isTandem (s : State) (e : Instr) (b : AisleId) : (s.forget e).isTandem b = s.isTandem b := rfl
@[simp] theorem State.forget_stationExists (s : State) (e : Instr) (b : AisleId) (e' : End) : (s.forget e).stationExists b e' = s.stationExists b e' := rfl
@[simp] theorem State.forget_cell (s : State) (e : Instr) (q : CellAddr) : (s.forget e).cell q = s.cell q := rfl
@[simp] theorem State.forget_hold (s : State) (e : Instr) (b : AisleId) : (s.forget e).hold b = s.hold b := rfl
@[simp] theorem State.forget_parkOwed (s : State) (e : Instr) (d : CraneId) : (s.forget e).parkOwed d = s.parkOwed d := rfl
@[simp] theorem State.forget_holdBack (s : State) (e : Instr) (d : CraneId) : (s.forget e).holdBack d = s.holdBack d := rfl
@[simp] theorem State.forget_input (s : State) (e : Instr) (b : AisleId) (e' : End) : (s.forget e).input b e' = s.input b e' := rfl
@[simp] theorem State.forget_credit (s : State) (e : Instr) (b : AisleId) (e' : End) : (s.forget e).credit b e' = s.credit b e' := rfl
@[simp] theorem State.forget_wave_q (s : State) (e : Instr) (n : Nat) : (s.forget e).wave? n = s.wave? n := rfl
@[simp] theorem State.forget_slot (s : State) (e : Instr) (n : Fin 256) : (s.forget e).slot n = s.slot n := rfl
@[simp] theorem State.forget_job_q (s : State) (e : Instr) (h : Handle) : (s.forget e).job? h = s.job? h := rfl
@[simp] theorem State.forget_jobs (s : State) (e : Instr) : (s.forget e).jobs = s.jobs := rfl
@[simp] theorem State.forget_faultKind (s : State) (e : Instr) (q : FaultKind) : (s.forget e).faultKind q = s.faultKind q := rfl
@[simp] theorem State.forget_faultHold (s : State) (e : Instr) (b : AisleId) : (s.forget e).faultHold b = s.faultHold b := rfl
@[simp] theorem State.forget_tx (s : State) (e : Instr) (k' : Link) : (s.forget e).tx k' = s.tx k' := rfl
@[simp] theorem State.forget_rx (s : State) (e : Instr) (k' : Link) : (s.forget e).rx k' = s.rx k' := rfl
@[simp] theorem State.forget_finishing (s : State) (e : Instr) (k' : Link) : (s.forget e).finishing k' = s.finishing k' := rfl
@[simp] theorem State.forget_queue (s : State) (e : Instr) (l' : OrderLink) : (s.forget e).queue l' = s.queue l' := rfl

/-! ## An update in its own bank -/

@[simp] theorem PerLink.get_set {α : Type} (p : PerLink α) (l k : OrderLink) (x : α) :
    (p.set l x).get k = if k = l then x else p.get k := by
  cases l <;> cases k <;> rfl

@[simp] theorem PerEnd.get_set {α : Type} (p : PerEnd α) (e f : End) (x : α) :
    (p.set e x).get f = if f = e then x else p.get f := by
  cases e <;> cases f <;> rfl

/-- Reading a bank after one record of it is written. -/
theorem vector_get_set {α : Type} {n : Nat} (v : Vector α n) (i j : Fin n) (x : α) :
    (v.set i x)[j] = if j = i then x else v[j] := by
  by_cases h : j = i
  · subst h; simp
  · have h' : i.val ≠ j.val := fun e => h (Fin.ext e.symm)
    simp [h, h']

@[simp] theorem State.setCrane_crane (s : State) (c d : CraneId) (x : Crane) :
    (s.setCrane c x).crane d = if d = c then x else s.crane d := vector_get_set ..

@[simp] theorem State.setRail_rail (s : State) (a b : AisleId) (x : Option (PerEnd RailEntry)) :
    (s.setRail a x).rail b = if b = a then x else s.rail b := vector_get_set ..

@[simp] theorem State.setAisle_aisle (s : State) (a b : AisleId) (x : Aisle) :
    (s.setAisle a x).aisle b = if b = a then x else s.aisle b := vector_get_set ..

@[simp] theorem State.setHold_hold (s : State) (a b : AisleId) (x : AisleHold) :
    (s.setHold a x).hold b = if b = a then x else s.hold b := vector_get_set ..

@[simp] theorem State.setParkOwed_parkOwed (s : State) (c d : CraneId) (x : Bool) :
    (s.setParkOwed c x).parkOwed d = if d = c then x else s.parkOwed d := vector_get_set ..

@[simp] theorem State.setHoldBack_holdBack (s : State) (c d : CraneId) (x : HoldBack) :
    (s.setHoldBack c x).holdBack d = if d = c then x else s.holdBack d := vector_get_set ..

@[simp] theorem State.setSlot_slot (s : State) (i j : Fin 256) (x : Slot) :
    (s.setSlot i x).slot j = if j = i then x else s.slot j := vector_get_set ..

@[simp] theorem State.setFaultHold_faultHold (s : State) (a b : AisleId) (x : FaultHold) :
    (s.setFaultHold a x).faultHold b = if b = a then x else s.faultHold b := vector_get_set ..

theorem kindIndex_injective {j k : FaultKind} (h : kindIndex j = kindIndex k) : j = k := by
  cases j <;> cases k <;> first | rfl | exact absurd h (by decide)

@[simp] theorem State.setFaultKind_faultKind (s : State) (k j : FaultKind) (x : FaultControl) :
    (s.setFaultKind k x).faultKind j = if j = k then x else s.faultKind j := by
  refine (vector_get_set ..).trans ?_
  by_cases h : j = k
  · simp [h]
  · simp [h, show kindIndex j ≠ kindIndex k from fun e => h (kindIndex_injective e), State.faultKind]

theorem linkIndex_injective {j k : Link} (h : linkIndex j = linkIndex k) : j = k := by
  rcases j with (l | _) | _ | c <;> rcases k with (m | _) | _ | d <;> first
    | rfl
    | (simp only [linkIndex, Fin.ext_iff] at h; simp at h; done)
    | (simp only [linkIndex, Fin.ext_iff] at h; simp at h; exact congrArg Link.crane (Fin.ext h))

@[simp] theorem State.setTx_tx (s : State) (k j : Link) (x : List Message) :
    (s.setTx k x).tx j = if j = k then x else s.tx j := by
  refine (vector_get_set ..).trans ?_
  by_cases h : j = k
  · simp [h]
  · simp [h, show linkIndex j ≠ linkIndex k from fun e => h (linkIndex_injective e), State.tx]

@[simp] theorem State.setRx_rx (s : State) (k j : Link) (x : Receiver) :
    (s.setRx k x).rx j = if j = k then x else s.rx j := by
  refine (vector_get_set ..).trans ?_
  by_cases h : j = k
  · simp [h]
  · simp [h, show linkIndex j ≠ linkIndex k from fun e => h (linkIndex_injective e), State.rx]

@[simp] theorem State.setFinishing_finishing (s : State) (k j : Link) (x : Option Message) :
    (s.setFinishing k x).finishing j = if j = k then x else s.finishing j := by
  refine (vector_get_set ..).trans ?_
  by_cases h : j = k
  · simp [h]
  · simp [h, show linkIndex j ≠ linkIndex k from fun e => h (linkIndex_injective e), State.finishing]

@[simp] theorem State.setFinishing_liu_rate (s : State) (k : Link) (x : Option Message) : (s.setFinishing k x).liu.rate = s.liu.rate := rfl
@[simp] theorem State.setFinishing_liu_tx (s : State) (k : Link) (x : Option Message) : (s.setFinishing k x).liu.tx = s.liu.tx := rfl
@[simp] theorem State.setFinishing_liu_rx (s : State) (k : Link) (x : Option Message) : (s.setFinishing k x).liu.rx = s.liu.rx := rfl
@[simp] theorem State.setFinishing_liu_active (s : State) (k : Link) (x : Option Message) : (s.setFinishing k x).liu.active = s.liu.active := rfl
@[simp] theorem State.setFinishing_liu_queue (s : State) (k : Link) (x : Option Message) : (s.setFinishing k x).liu.queue = s.liu.queue := rfl
@[simp] theorem State.setFinishing_liu_lastFetched (s : State) (k : Link) (x : Option Message) : (s.setFinishing k x).liu.lastFetched = s.liu.lastFetched := rfl
@[simp] theorem State.setFinishing_liu_attn (s : State) (k : Link) (x : Option Message) : (s.setFinishing k x).liu.attn = s.liu.attn := rfl
@[simp] theorem State.setFinishing_liu_restarting (s : State) (k : Link) (x : Option Message) : (s.setFinishing k x).liu.restarting = s.liu.restarting := rfl
@[simp] theorem State.setFinishing_jpl (s : State) (k : Link) (x : Option Message) : (s.setFinishing k x).jpl = s.jpl := rfl
@[simp] theorem State.setFinishing_cmp (s : State) (k : Link) (x : Option Message) : (s.setFinishing k x).cmp = s.cmp := rfl
@[simp] theorem State.setFinishing_ale (s : State) (k : Link) (x : Option Message) : (s.setFinishing k x).ale = s.ale := rfl
@[simp] theorem State.setFinishing_crt (s : State) (k : Link) (x : Option Message) : (s.setFinishing k x).crt = s.crt := rfl
@[simp] theorem State.setFinishing_swu (s : State) (k : Link) (x : Option Message) : (s.setFinishing k x).swu = s.swu := rfl
@[simp] theorem State.setFinishing_aic (s : State) (k : Link) (x : Option Message) : (s.setFinishing k x).aic = s.aic := rfl
@[simp] theorem State.setFinishing_flg (s : State) (k : Link) (x : Option Message) : (s.setFinishing k x).flg = s.flg := rfl
@[simp] theorem State.setFinishing_now (s : State) (k : Link) (x : Option Message) : (s.setFinishing k x).now = s.now := rfl
@[simp] theorem State.setFinishing_events (s : State) (k : Link) (x : Option Message) : (s.setFinishing k x).events = s.events := rfl
@[simp] theorem State.setFinishing_pending (s : State) (k : Link) (x : Option Message) : (s.setFinishing k x).pending = s.pending := rfl
@[simp] theorem State.setFinishing_crane (s : State) (k : Link) (x : Option Message) (d : CraneId) : (s.setFinishing k x).crane d = s.crane d := rfl
@[simp] theorem State.setFinishing_rail (s : State) (k : Link) (x : Option Message) (b : AisleId) : (s.setFinishing k x).rail b = s.rail b := rfl
@[simp] theorem State.setFinishing_aisle (s : State) (k : Link) (x : Option Message) (b : AisleId) : (s.setFinishing k x).aisle b = s.aisle b := rfl
@[simp] theorem State.setFinishing_profile_q (s : State) (k : Link) (x : Option Message) (b : AisleId) : (s.setFinishing k x).profile? b = s.profile? b := rfl
@[simp] theorem State.setFinishing_configured (s : State) (k : Link) (x : Option Message) (b : AisleId) : (s.setFinishing k x).configured b = s.configured b := rfl
@[simp] theorem State.setFinishing_isTandem (s : State) (k : Link) (x : Option Message) (b : AisleId) : (s.setFinishing k x).isTandem b = s.isTandem b := rfl
@[simp] theorem State.setFinishing_stationExists (s : State) (k : Link) (x : Option Message) (b : AisleId) (e' : End) : (s.setFinishing k x).stationExists b e' = s.stationExists b e' := rfl
@[simp] theorem State.setFinishing_cell (s : State) (k : Link) (x : Option Message) (q : CellAddr) : (s.setFinishing k x).cell q = s.cell q := rfl
@[simp] theorem State.setFinishing_hold (s : State) (k : Link) (x : Option Message) (b : AisleId) : (s.setFinishing k x).hold b = s.hold b := rfl
@[simp] theorem State.setFinishing_parkOwed (s : State) (k : Link) (x : Option Message) (d : CraneId) : (s.setFinishing k x).parkOwed d = s.parkOwed d := rfl
@[simp] theorem State.setFinishing_holdBack (s : State) (k : Link) (x : Option Message) (d : CraneId) : (s.setFinishing k x).holdBack d = s.holdBack d := rfl
@[simp] theorem State.setFinishing_input (s : State) (k : Link) (x : Option Message) (b : AisleId) (e' : End) : (s.setFinishing k x).input b e' = s.input b e' := rfl
@[simp] theorem State.setFinishing_credit (s : State) (k : Link) (x : Option Message) (b : AisleId) (e' : End) : (s.setFinishing k x).credit b e' = s.credit b e' := rfl
@[simp] theorem State.setFinishing_wave_q (s : State) (k : Link) (x : Option Message) (n : Nat) : (s.setFinishing k x).wave? n = s.wave? n := rfl
@[simp] theorem State.setFinishing_slot (s : State) (k : Link) (x : Option Message) (n : Fin 256) : (s.setFinishing k x).slot n = s.slot n := rfl
@[simp] theorem State.setFinishing_job_q (s : State) (k : Link) (x : Option Message) (h : Handle) : (s.setFinishing k x).job? h = s.job? h := rfl
@[simp] theorem State.setFinishing_jobs (s : State) (k : Link) (x : Option Message) : (s.setFinishing k x).jobs = s.jobs := rfl
@[simp] theorem State.setFinishing_faultKind (s : State) (k : Link) (x : Option Message) (q : FaultKind) : (s.setFinishing k x).faultKind q = s.faultKind q := rfl
@[simp] theorem State.setFinishing_faultHold (s : State) (k : Link) (x : Option Message) (b : AisleId) : (s.setFinishing k x).faultHold b = s.faultHold b := rfl
@[simp] theorem State.setFinishing_tx (s : State) (k : Link) (x : Option Message) (k' : Link) : (s.setFinishing k x).tx k' = s.tx k' := rfl
@[simp] theorem State.setFinishing_rx (s : State) (k : Link) (x : Option Message) (k' : Link) : (s.setFinishing k x).rx k' = s.rx k' := rfl
@[simp] theorem State.setFinishing_queue (s : State) (k : Link) (x : Option Message) (l' : OrderLink) : (s.setFinishing k x).queue l' = s.queue l' := rfl

@[simp] theorem State.setQueue_queue (s : State) (l m : OrderLink) (x : List Notice) :
    (s.setQueue l x).queue m = if m = l then x else s.queue m := PerLink.get_set ..

@[simp] theorem State.setQueue_attn (s : State) (l m : OrderLink) (x : List Notice) :
    (s.setQueue l x).liu.attn.get m = if m = l then !x.isEmpty else s.liu.attn.get m := PerLink.get_set ..

@[simp] theorem State.setInput_input (s : State) (a b : AisleId) (e f : End) (x : InputRecord) :
    (s.setInput a e x).input b f = if b = a ∧ f = e then x else s.input b f := by
  have h : (s.setInput a e x).swu.inputs[b] = if b = a then s.swu.inputs[a].set e x else s.swu.inputs[b] :=
    vector_get_set ..
  simp only [State.input, h]
  by_cases hb : b = a
  · subst hb; simp
  · simp [hb]

@[simp] theorem State.setCredit_credit (s : State) (a b : AisleId) (e f : End) (x : Credit) :
    (s.setCredit a e x).credit b f = if b = a ∧ f = e then x else s.credit b f := by
  have h : (s.setCredit a e x).swu.credits[b] = if b = a then s.swu.credits[a].set e x else s.swu.credits[b] :=
    vector_get_set ..
  simp only [State.credit, h]
  by_cases hb : b = a
  · subst hb; simp
  · simp [hb]

@[simp] theorem State.raise_events (s : State) (e : Instr) : (s.raise e).events = s.events ++ [e] := rfl

@[simp] theorem State.raiseAll_events (s : State) (es : List Instr) : (s.raiseAll es).events = s.events ++ es := rfl

@[simp] theorem State.take_events (s : State) (e : Instr) : (s.take e).events = s.events.erase e := rfl

@[simp] theorem State.forget_events (s : State) (e : Instr) :
    (s.forget e).events = s.events.filter (· ≠ e) := rfl

end Sys2Proof.Machine
end

