-- ==== Sys2Proof/Laws/Cells.lean ====
section
/-! SUPPORT. The table of cell records: reading after a write, its canonical form, and that two cells of an aisle have
different offsets (R5). -/

namespace Sys2Proof.Machine

/-! ## The table -/

/-- The least offset of a table lies above a bound. -/
def tableAbove (k : Nat) : List (Nat × Cell) → Prop
  | [] => True
  | (i, _) :: _ => k < i

theorem tableWf_cons (i : Nat) (x : Cell) (t : List (Nat × Cell)) :
    tableWf ((i, x) :: t) = true ↔ x ≠ Cell.initial ∧ tableAbove i t ∧ tableWf t = true := by
  cases t with
  | nil => simp [tableWf, tableAbove]
  | cons y t => obtain ⟨k, y⟩ := y; simp [tableWf, tableAbove, and_assoc]

theorem tableGet_above {k : Nat} {t : List (Nat × Cell)} (h : tableWf t = true) (ha : tableAbove k t) :
    tableGet t k = Cell.initial := by
  induction t with
  | nil => rfl
  | cons y t ih =>
    obtain ⟨i, y⟩ := y
    obtain ⟨-, hb, hw⟩ := (tableWf_cons ..).1 h
    have hi : k < i := ha
    simp only [tableGet, show i ≠ k by omega, if_false]
    refine ih hw ?_
    cases t with
    | nil => trivial
    | cons z t => exact Nat.lt_trans hi hb

theorem tableAbove_set {j k : Nat} {t : List (Nat × Cell)} (x : Cell) (h : tableWf t = true) (ha : tableAbove j t)
    (hk : j < k) : tableAbove j (tableSet t k x) := by
  cases t with
  | nil => simp only [tableSet]; split <;> simp [tableAbove, hk]
  | cons y t =>
    obtain ⟨i, y⟩ := y
    have hji : j < i := ha
    simp only [tableSet]
    repeat' split
    all_goals first
      | exact hk
      | exact hji
      | skip
    obtain ⟨-, hb, -⟩ := (tableWf_cons ..).1 h
    cases t with
    | nil => trivial
    | cons z t => exact Nat.lt_trans hji hb

/-- A write keeps the canonical form. -/
theorem tableSet_wf (t : List (Nat × Cell)) (k : Nat) (x : Cell) (h : tableWf t = true) :
    tableWf (tableSet t k x) = true := by
  induction t with
  | nil => simp only [tableSet]; split <;> simp_all [tableWf]
  | cons y t ih =>
    obtain ⟨i, y⟩ := y
    obtain ⟨hy, ha, hw⟩ := (tableWf_cons ..).1 h
    simp only [tableSet]
    split
    · split
      · exact h
      · next hki hx => exact (tableWf_cons ..).2 ⟨hx, hki, h⟩
    · split
      · next hki =>
        subst hki
        split
        · exact hw
        · next hx => exact (tableWf_cons ..).2 ⟨hx, ha, hw⟩
      · exact (tableWf_cons ..).2 ⟨hy, tableAbove_set x hw ha (by omega), ih hw⟩

/-- Reading after a write: the record written at its offset, every other record as before. -/
theorem tableGet_set (t : List (Nat × Cell)) (k j : Nat) (x : Cell) (h : tableWf t = true) :
    tableGet (tableSet t k x) j = if j = k then x else tableGet t j := by
  induction t with
  | nil =>
    simp only [tableSet]
    split
    · next hx => simp [tableGet, hx]
    · simp only [tableGet, eq_comm (a := k)]
  | cons y t ih =>
    obtain ⟨i, y⟩ := y
    obtain ⟨-, ha, hw⟩ := (tableWf_cons ..).1 h
    simp only [tableSet]
    split
    · next hki =>
      have hk : tableGet ((i, y) :: t) k = Cell.initial := tableGet_above h hki
      split
      · next hx => by_cases hj : j = k <;> simp_all
      · simp only [tableGet, eq_comm (a := k)]
    · split
      · next hki =>
        subst hki
        split
        · next hx =>
          by_cases hj : j = k
          · subst hj; simp [tableGet_above hw ha, hx]
          · simp [tableGet, hj, Ne.symm hj]
        · by_cases hj : j = k
          · simp [tableGet, hj]
          · simp [tableGet, hj, Ne.symm hj]
      · next hki =>
        by_cases hj : j = k
        · subst hj; simp [tableGet, Ne.symm hki, ih hw]
        · simp [tableGet, hj, ih hw]

/-! ## Offsets (R5) -/

theorem Side.code_lt (x : Side) : x.code < 2 := by cases x <;> decide

/-- Positions in mixed radix are equal only digit by digit. -/
theorem digits_eq {m a b x y : Nat} (hb : b < m) (hy : y < m) (h : a * m + b = x * m + y) : a = x ∧ b = y := by
  have h1 : (a * m + b) % m = (x * m + y) % m := by rw [h]
  have h2 : (a * m + b) / m = (x * m + y) / m := by rw [h]
  have hm : 0 < m := by omega
  rw [Nat.mul_comm a, Nat.mul_comm x] at h1 h2
  simp only [Nat.mul_add_mod, Nat.mod_eq_of_lt hb, Nat.mod_eq_of_lt hy] at h1
  rw [Nat.mul_add_div hm, Nat.mul_add_div hm, Nat.div_eq_of_lt hb, Nat.div_eq_of_lt hy] at h2
  exact ⟨by omega, h1⟩

/-- Two cells of one aisle that both exist have different offsets (R5). -/
theorem Geometry.offset_injective (g : Geometry) {c d : CellAddr} (hc : g.hasCell c = true) (hd : g.hasCell d = true)
    (ha : c.aisle = d.aisle) (h : g.offset c = g.offset d) : c = d := by
  simp only [Geometry.hasCell, Bool.and_eq_true, Bool.or_eq_true, decide_eq_true_eq] at hc hd
  obtain ⟨⟨⟨⟨c1, c2⟩, c3⟩, c4⟩, c5⟩ := hc
  obtain ⟨⟨⟨⟨d1, d2⟩, d3⟩, d4⟩, d5⟩ := hd
  have dc : ∀ x : CellAddr, (x.depth = .near ∨ g.doubleDeep = true) → x.depth.code < g.depth := by
    intro x hx
    rcases hx with hx | hx
    · simp [hx, Geometry.depth, Depth.code]; split <;> omega
    · simp [hx, Geometry.depth]; cases x.depth <;> decide
  obtain ⟨h1, hz⟩ := digits_eq (dc c c5) (dc d d5) h
  obtain ⟨h2, hl⟩ := digits_eq (m := g.levels) (by omega) (by omega) h1
  obtain ⟨hs, hb⟩ := digits_eq (m := g.bays) (by omega) (by omega) h2
  obtain ⟨a, s, b, l, z⟩ := c
  obtain ⟨a', s', b', l', z'⟩ := d
  simp only [CellAddr.mk.injEq]
  refine ⟨ha, ?_, by simp at *; omega, by simp at *; omega, ?_⟩
  · revert hs; cases s <;> cases s' <;> simp [Side.code]
  · revert hz; cases z <;> cases z' <;> simp [Depth.code]

/-! ## Cells -/

/-- A cell exists where its aisle is configured and its place lies in the geometry (R17). -/
def State.existing (s : State) (c : CellAddr) : Prop := ∃ p, s.profile? c.aisle = some p ∧ p.geo.hasCell c = true

theorem State.cell_of_existing {s : State} {c : CellAddr} {p : Profile} (h : s.profile? c.aisle = some p)
    (hc : p.geo.hasCell c = true) : s.cell c = tableGet (s.aisle c.aisle).cells (p.geo.offset c) := by
  simp only [State.cell, h, hc, if_true]

/-- A cell that does not exist reads as an unlisted one. -/
theorem State.cell_of_not_existing {s : State} {c : CellAddr} (h : ¬ s.existing c) : s.cell c = Cell.initial := by
  simp only [State.cell]
  split
  · next p hp => exact if_neg fun hc => h ⟨p, hp, hc⟩
  · rfl

@[simp] theorem State.putCell_profile (s : State) (c : CellAddr) (x : Cell) (a : AisleId) :
    (s.putCell c x).profile? a = s.profile? a := by
  simp only [State.putCell]
  split
  · split
    · simp only [State.profile?, State.setAisle_aisle]; split <;> simp_all
    · rfl
  · rfl

/-- What a write of a cell leaves: that record at an existing cell, every other record as before. -/
theorem State.cell_putCell {s : State} (hw : MapWf s) (c d : CellAddr) (x : Cell) (hc : s.existing c) :
    (s.putCell c x).cell d = if d = c then x else s.cell d := by
  obtain ⟨p, hp, hg⟩ := hc
  have hput : s.putCell c x = s.setAisle c.aisle
      { s.aisle c.aisle with cells := tableSet (s.aisle c.aisle).cells (p.geo.offset c) x } := by
    simp only [State.putCell, hp, hg, if_true]
  by_cases he : s.existing d
  · obtain ⟨q, hq, hd⟩ := he
    rw [State.cell_of_existing (p := q) (by simpa using hq) hd, State.cell_of_existing hq hd, hput]
    by_cases ha : d.aisle = c.aisle
    · have hqp : q = p := by rw [ha] at hq; exact Option.some.inj (hq.symm.trans hp)
      subst hqp
      simp only [State.setAisle_aisle, ha, if_true, tableGet_set _ _ _ _ (hw c.aisle)]
      by_cases hdc : d = c
      · simp [hdc]
      · rw [if_neg hdc, if_neg fun h => hdc (q.geo.offset_injective hd hg ha h)]
    · rw [State.setAisle_aisle, if_neg ha, if_neg fun h => ha (by rw [h])]
  · have hne : d ≠ c := fun h => he (h ▸ ⟨p, hp, hg⟩)
    rw [if_neg hne, State.cell_of_not_existing he, State.cell_of_not_existing]
    rintro ⟨q, hq, hd⟩
    exact he ⟨q, by simpa using hq, hd⟩

/-- A write of a cell that does not exist changes nothing. -/
theorem State.putCell_of_not_existing {s : State} {c : CellAddr} (x : Cell) (h : ¬ s.existing c) :
    s.putCell c x = s := by
  simp only [State.putCell]
  split
  · next p hp => exact if_neg fun hc => h ⟨p, hp, hc⟩
  · rfl

/-- A write of a cell keeps the canonical form. -/
theorem State.putCell_wf {s : State} (c : CellAddr) (x : Cell) (h : MapWf s) : MapWf (s.putCell c x) := by
  intro a
  simp only [State.putCell]
  split
  · split
    · simp only [State.setAisle_aisle]
      split
      · exact tableSet_wf _ _ _ (h c.aisle)
      · exact h a
    · exact h a
  · exact h a

/-- The Cell Map is in canonical form right after reset. -/
theorem reset_mapWf : MapWf State.reset := by intro a; revert a; decide

end Sys2Proof.Machine
end

