-- ==== Sys2Proof/Laws/Change.lean ====
section
/-! SUPPORT. What the part's shared operations can do to a state, said once: each is a sequence of the elementary changes
listed in `Change`. An invariant that every elementary change keeps is kept by all of them; a field that no elementary
change touches is touched by none of them. -/

namespace Sys2Proof.Machine

/-- A write of a cell record that the pair rule allows: a cell is newly reserved only where R13 lets it be, and a near
cell in front of a reserved deep cell stays EMPTY. -/
def CellStep (s : State) (c : CellAddr) (x : Cell) : Prop :=
  (x.state.isReserved = true → s.pairAllows c = true ∨ x.state = (s.cell c).state)
    ∧ (s.frontsReserved c = true → (s.cell c).state = .empty → x.state = .empty)

/-- A job's record goes: its slot's generation advances and the slot joins the tail of the free list, and its link's live
count falls (R38 steps 1 to 4). -/
def State.vacate (s : State) (h : Handle) (j : Job) : State :=
  let s := s.setSlot h.slot { gen := h.gen + 1, job := none }
  let s := { s with jpl := { s.jpl with freeList := s.jpl.freeList ++ [h.slot] } }
  s.countLive j.origin (· - 1)

/-- The elementary changes of the shared operations. -/
inductive Change (s : State) : State → Prop
  | crane (c : CraneId) (x : Crane) : x.mapping = (s.crane c).mapping →
      (x.strikes ≤ 7 ∨ x.strikes ≤ (s.crane c).strikes) → Change s (s.setCrane c x)
  | rail (a : AisleId) (x : Option (PerEnd RailEntry)) : Change s (s.setRail a x)
  | parkOwed (c : CraneId) (b : Bool) : Change s (s.setParkOwed c b)
  | holdBack (c : CraneId) (x : HoldBack) : Change s (s.setHoldBack c x)
  | input (a : AisleId) (e : End) (x : InputRecord) : Change s (s.setInput a e x)
  | credit (a : AisleId) (e : End) (x : Credit) : Change s (s.setCredit a e x)
  | tx (k : Link) (ms : List Message) : (∀ l, k ≠ .order l) → Change s (s.setTx k ms)
  | events (es : List Instr) : Change s { s with events := es }
  | notice (l : OrderLink) (n : Notice) : s.hasRoom l = true → Change s (s.setQueue l (s.queue l ++ [n]))
  | closingWait (l : OrderLink) (w : List Handle) : Change s (s.setClosingWait l w)
  | holdState (a : AisleId) (x : HoldState) : Change s (s.setHoldState a x)
  | applyPending (a : AisleId) (p : Profile) (q : PendingProfile) : (s.aisle a).profile = some p →
      Change s (s.setAisle a { s.aisle a with profile := some { p with op := q.op }, pendingProfile := none })
  | cell (c : CellAddr) (x : Cell) : CellStep s c x → Change s (s.putCell c x)
  | job (i : Fin 256) (j j' : Job) : (s.slot i).job = some j → j'.handle = j.handle → j'.age = j.age →
      j'.origin = j.origin → Change s (s.setSlot i { gen := (s.slot i).gen, job := some j' })
  | create (j : Job) : s.nextHandle = some j.handle → (j.age = 0 ∨ ∃ k x, (s.slot k).job = some x ∧ j.age = x.age) →
      Change s (s.createJob j)
  | vacate (h : Handle) (j : Job) : s.job? h = some j → Change s (s.vacate h j)
  | rewrite (x y : CellAddr) : Change s (s.rewrite x y)
  | aged : Change s s.ageStep
  | counter (n : Nat) : Change s { s with jpl := { s.jpl with counter := n } }
  | waves (ws : List Wave) : ws.length ≤ s.swu.waves.length → Change s { s with swu := { s.swu with waves := ws } }

/-- Any number of elementary changes in a row. -/
def Changes (r s : State) : Prop := Relation.ReflTransGen Change r s

theorem Changes.refl (s : State) : Changes s s := Relation.ReflTransGen.refl

theorem Changes.trans {r s t : State} (h : Changes r s) (k : Changes s t) : Changes r t := Relation.ReflTransGen.trans h k

theorem Changes.step {r s t : State} (h : Changes r s) (k : Change s t) : Changes r t := Relation.ReflTransGen.tail h k

/-- An invariant that every elementary change keeps is kept by any number of them. -/
theorem Changes.keep {P : State → Prop} (hP : ∀ s t, Change s t → P s → P t) {r s : State} (h : Changes r s) (hr : P r) :
    P s := by
  induction h with
  | refl => exact hr
  | tail _ hc ih => exact hP _ _ hc ih

/-- A reading that no elementary change alters is altered by none of them in a row. -/
theorem Changes.same {α : Type} {f : State → α} (hf : ∀ s t, Change s t → f t = f s) {r s : State} (h : Changes r s) :
    f s = f r := by
  induction h with
  | refl => rfl
  | tail _ hc ih => exact (hf _ _ hc).trans ih

/-! ## Lists of operations and choices -/

theorem Changes.each {α : Type} {r : State} {f : State → α → State} (xs : List α)
    (hf : ∀ s x, Changes r s → Changes r (f s x)) {s : State} (h : Changes r s) : Changes r (s.each xs f) := by
  induction xs generalizing s with
  | nil => exact h
  | cons x xs ih => exact ih (hf s x h)

theorem crane_ne_order (c : CraneId) (l : OrderLink) : Link.crane c ≠ .order l := fun h => by cases h

theorem station_ne_order (l : OrderLink) : Link.station ≠ .order l := fun h => by cases h

theorem Changes.ite {r s t : State} {p : Prop} [Decidable p] (h : Changes r s) (k : Changes r t) :
    Changes r (if p then s else t) := by
  split <;> assumption

/-! ## Elementary operations -/

theorem Changes.setCrane {r s : State} (h : Changes r s) (c : CraneId) (x : Crane) (hm : x.mapping = (s.crane c).mapping) (hs : x.strikes ≤ 7 ∨ x.strikes ≤ (s.crane c).strikes) : Changes r (s.setCrane c x) :=
  h.step (.crane c x hm hs)

theorem Changes.setRail {r s : State} (h : Changes r s) (a : AisleId) (x : Option (PerEnd RailEntry)) : Changes r (s.setRail a x) :=
  h.step (.rail a x)

theorem Changes.setParkOwed {r s : State} (h : Changes r s) (c : CraneId) (b : Bool) : Changes r (s.setParkOwed c b) :=
  h.step (.parkOwed c b)

theorem Changes.setHoldBack {r s : State} (h : Changes r s) (c : CraneId) (x : HoldBack) : Changes r (s.setHoldBack c x) :=
  h.step (.holdBack c x)

theorem Changes.setInput {r s : State} (h : Changes r s) (a : AisleId) (e : End) (x : InputRecord) : Changes r (s.setInput a e x) :=
  h.step (.input a e x)

theorem Changes.setCredit {r s : State} (h : Changes r s) (a : AisleId) (e : End) (x : Credit) : Changes r (s.setCredit a e x) :=
  h.step (.credit a e x)

theorem Changes.setTx {r s : State} (h : Changes r s) (k : Link) (ms : List Message) (hk : ∀ l, k ≠ .order l) : Changes r (s.setTx k ms) :=
  h.step (.tx k ms hk)

theorem Changes.setClosingWait {r s : State} (h : Changes r s) (l : OrderLink) (w : List Handle) : Changes r (s.setClosingWait l w) :=
  h.step (.closingWait l w)

theorem Changes.setHoldState {r s : State} (h : Changes r s) (a : AisleId) (x : HoldState) : Changes r (s.setHoldState a x) :=
  h.step (.holdState a x)

theorem Changes.raise {r s : State} (h : Changes r s) (e : Instr) : Changes r (s.raise e) :=
  h.step (.events _)

theorem Changes.raiseAll {r s : State} (h : Changes r s) (es : List Instr) : Changes r (s.raiseAll es) :=
  h.step (.events _)

theorem Changes.take {r s : State} (h : Changes r s) (e : Instr) : Changes r (s.take e) :=
  h.step (.events _)

theorem Changes.forget {r s : State} (h : Changes r s) (e : Instr) : Changes r (s.forget e) :=
  h.step (.events _)

theorem Changes.rewrite {r s : State} (h : Changes r s) (x y : CellAddr) : Changes r (s.rewrite x y) :=
  h.step (.rewrite x y)

theorem Changes.ageStep {r s : State} (h : Changes r s) : Changes r (s.ageStep) :=
  h.step .aged

/-! ## Events, faults, notices, frames -/

theorem Changes.select {r s : State} (h : Changes r s) (a : AisleId) : Changes r (s.select a) := by
  unfold State.select
  all_goals repeat' first
    | with_reducible assumption
    | with_reducible apply Changes.raiseAll

theorem Changes.selectAll {r s : State} (h : Changes r s) : Changes r (s.selectAll) := by
  unfold State.selectAll
  all_goals repeat' first
    | with_reducible assumption
    | (with_reducible refine Changes.each _ (fun _ _ _ => ?_) ?_)
    | with_reducible apply Changes.select

theorem Changes.raiseFault {r s : State} (h : Changes r s) (k : FaultKind) (src : FaultSource) (a : Option AisleId) (j : Option Handle) (p : List Byte) : Changes r (s.raiseFault k src a j p) := by
  unfold State.raiseFault
  all_goals repeat' first
    | with_reducible assumption
    | with_reducible apply Changes.raise

theorem Changes.offerNotice {r s : State} (h : Changes r s) (l : OrderLink) (n : Notice) : Changes r (s.offerNotice l n) := by
  unfold State.offerNotice
  split
  · next hr => exact h.step (.notice l n hr)
  · exact h

theorem Changes.offerActive {r s : State} (h : Changes r s) (n : Notice) : Changes r (s.offerActive n) := by
  unfold State.offerActive
  all_goals repeat' first
    | with_reducible assumption
    | (with_reducible refine Changes.each _ (fun _ _ _ => ?_) ?_)
    | with_reducible apply Changes.offerNotice

theorem Changes.send {r s : State} (h : Changes r s) (k : Link) (m : Message) (hk : ∀ l, k ≠ .order l) : Changes r (s.send k m) :=
  Changes.setTx h _ _ hk

/-! ## Jobs -/

theorem Changes.updJob {r s : State} (h : Changes r s) (h' : Handle) (f : Job → Job) (hf : ∀ j, (f j).handle = j.handle ∧ (f j).age = j.age ∧ (f j).origin = j.origin) : Changes r (s.updJob h' f) := by
  unfold State.updJob
  split
  · next j hj =>
    unfold State.job? at hj
    split at hj
    · next hg => rw [← hg]; exact h.step (.job h'.slot j (f j) hj (hf j).1 (hf j).2.1 (hf j).2.2)
    · exact absurd hj (by simp)
  · exact h

theorem Changes.reEvaluate {r s : State} (h : Changes r s) (p : Job → Bool) : Changes r (s.reEvaluate p) := by
  unfold State.reEvaluate
  all_goals repeat' first
    | with_reducible assumption
    | with_reducible apply Changes.raiseAll

theorem Changes.recheckCell {r s : State} (h : Changes r s) (c : CellAddr) (b : Bool) : Changes r (s.recheckCell c b) := by
  unfold State.recheckCell
  all_goals repeat' first
    | with_reducible assumption
    | with_reducible apply Changes.reEvaluate

theorem Changes.recheckAisle {r s : State} (h : Changes r s) (a : AisleId) (cs : List CellAddr) : Changes r (s.recheckAisle a cs) := by
  unfold State.recheckAisle
  all_goals repeat' first
    | with_reducible assumption
    | with_reducible apply Changes.reEvaluate

theorem Changes.becameReady {r s : State} (h : Changes r s) (j : Job) : Changes r (s.becameReady j) := by
  unfold State.becameReady
  repeat' split
  all_goals try dsimp only
  all_goals repeat' first
    | with_reducible assumption
    | with_reducible apply Changes.select
    | with_reducible apply Changes.raise

/-! ## Cells -/

theorem Changes.putCell {r s : State} (h : Changes r s) (c : CellAddr) (x : Cell) (hx : CellStep s c x) : Changes r (s.putCell c x) :=
  h.step (.cell c x hx)

theorem frontsReserved_of_pairAllows {s : State} {c : CellAddr} (h : s.pairAllows c = true) : s.frontsReserved c = false := by
  unfold State.pairAllows at h
  unfold State.frontsReserved
  by_cases hd : s.isDoubleDeep c.aisle <;> cases hc : c.depth <;> simp_all

theorem Changes.reserveDrop {r s t : State} (h : Changes r s) (c : CellAddr) (j : Handle) (ht : s.reserveDrop c j = some t) :
    Changes r t := by
  unfold State.reserveDrop at ht
  split at ht
  · next hc =>
    cases ht
    refine Changes.recheckCell (Changes.putCell h _ _ ⟨fun _ => Or.inl hc.2, fun hf => ?_⟩) _ _
    simp [frontsReserved_of_pairAllows hc.2] at hf
  · exact absurd ht (by simp)

theorem Changes.reservePick {r s t : State} (h : Changes r s) (c : CellAddr) (j : Handle) (ht : s.reservePick c j = some t) :
    Changes r t := by
  unfold State.reservePick at ht
  split at ht
  · next k hk =>
    split at ht
    · next hc =>
      cases ht
      refine Changes.recheckCell (Changes.putCell h _ _ ⟨fun _ => Or.inl hc, fun _ he => ?_⟩) _ _
      simp [hk] at he
    · exact absurd ht (by simp)
  · exact absurd ht (by simp)

theorem Changes.release {r s : State} (h : Changes r s) (c : CellAddr) (j : Handle) : Changes r (s.release c j) := by
  unfold State.release
  repeat' split
  all_goals first
    | exact h
    | exact Changes.recheckCell (Changes.putCell h _ _ ⟨fun hx => absurd hx (by simp [CellState.isReserved]), fun _ he => by simp_all⟩) _ _

theorem Changes.release_q {r s : State} (h : Changes r s) (c : Option CellAddr) (j : Handle) : Changes r (s.release? c j) := by
  unfold State.release?
  repeat' split
  all_goals repeat' first
    | with_reducible assumption
    | with_reducible apply Changes.release

theorem Changes.pickMade {r s : State} (h : Changes r s) (c : CellAddr) (j : Handle) : Changes r (s.pickMade c j).1 := by
  unfold State.pickMade
  repeat' split
  all_goals first
    | exact h
    | exact Changes.recheckCell (Changes.putCell h _ _ ⟨fun hx => absurd hx (by simp [CellState.isReserved]), fun _ he => by simp_all⟩) _ _

theorem Changes.dropMade {r s : State} (h : Changes r s) (c : CellAddr) (j : Handle) (k : Class) : Changes r (s.dropMade c j k) := by
  unfold State.dropMade
  split
  · exact Changes.putCell h _ _ ⟨fun hx => absurd hx (by simp [CellState.isReserved]), fun _ he => by simp_all⟩
  · exact h

theorem Changes.foundOccupied {r s : State} (h : Changes r s) (c : CellAddr) (j : Handle) : Changes r (s.foundOccupied c j) := by
  unfold State.foundOccupied
  split
  · exact Changes.recheckCell (Changes.putCell h _ _ ⟨fun hx => absurd hx (by simp [CellState.isReserved]), fun _ he => by simp_all⟩) _ _
  · exact h

theorem Changes.foundEmpty {r s : State} (h : Changes r s) (c : CellAddr) (j : Handle) : Changes r (s.foundEmpty c j) := by
  unfold State.foundEmpty
  repeat' split
  all_goals first
    | exact h
    | exact Changes.recheckCell (Changes.putCell h _ _ ⟨fun hx => absurd hx (by simp [CellState.isReserved]), fun _ he => by simp_all⟩) _ _

theorem Changes.declareFull {r s : State} (h : Changes r s) (c : CellAddr) (j : Handle) (k : Option Class) : Changes r (s.declareFull c j k) := by
  unfold State.declareFull
  split
  · next ha =>
    refine Changes.putCell h _ _ ⟨fun hx => absurd hx (by simp [CellState.isReserved]), fun hf he => ?_⟩
    simp [State.declareAccepts, he, hf] at ha
  · exact Changes.putCell h _ _ ⟨fun _ => Or.inr rfl, fun _ he => he⟩

/-! ## Positions and intervals -/

theorem Changes.setPosition {r s : State} (h : Changes r s) (c : CraneId) (x : Point) : Changes r (s.setPosition c x) := by
  unfold State.setPosition
  repeat' split
  all_goals try dsimp only
  all_goals repeat' first
    | with_reducible assumption
    | with_reducible apply Changes.setCrane
    | with_reducible apply Changes.ite
    | rfl
    | exact Or.inr (Nat.le_refl _)

theorem Changes.updEntry {r s : State} (h : Changes r s) (a : AisleId) (e : End) (f : RailEntry → RailEntry) : Changes r (s.updEntry a e f) := by
  unfold State.updEntry
  repeat' split
  all_goals repeat' first
    | with_reducible assumption
    | with_reducible apply Changes.setRail

theorem Changes.updOwn {r s : State} (h : Changes r s) (c : CraneId) (f : RailEntry → RailEntry) : Changes r (s.updOwn c f) := by
  unfold State.updOwn
  repeat' split
  all_goals repeat' first
    | with_reducible assumption
    | with_reducible apply Changes.updEntry

theorem Changes.grant {r s : State} (h : Changes r s) (c : CraneId) (i : Interval) : Changes r (s.grant c i) := by
  unfold State.grant
  all_goals repeat' first
    | with_reducible assumption
    | with_reducible apply Changes.updOwn

theorem Changes.shrink {r s : State} (h : Changes r s) (c : CraneId) (i : Interval) : Changes r (s.shrink c i) := by
  unfold State.shrink
  repeat' split
  all_goals repeat' first
    | with_reducible assumption
    | with_reducible apply Changes.grant
    | with_reducible apply Changes.select

theorem Changes.endClaim {r s : State} (h : Changes r s) (a : AisleId) (e : End) : Changes r (s.endClaim a e) := by
  unfold State.endClaim
  repeat' split
  all_goals repeat' first
    | with_reducible assumption
    | with_reducible apply Changes.updEntry
    | with_reducible apply Changes.select

theorem Changes.checkRail {r s : State} (h : Changes r s) (a : AisleId) : Changes r (s.checkRail a) := by
  unfold State.checkRail
  repeat' split
  all_goals repeat' first
    | with_reducible assumption
    | with_reducible apply Changes.raiseFault

theorem Changes.railReport {r s : State} (h : Changes r s) (c : CraneId) (bay : Nat) (xs : List Step) (j : Option Handle) (p : List Byte) : Changes r (s.railReport c bay xs j p) := by
  unfold State.railReport
  repeat' split
  all_goals repeat' first
    | with_reducible assumption
    | with_reducible apply Changes.shrink
    | with_reducible apply Changes.raiseFault

/-! ## Changes of a crane's state -/

theorem Changes.startOfferTimer {r s : State} (h : Changes r s) (c : CraneId) : Changes r (s.startOfferTimer c) := by
  unfold State.startOfferTimer
  all_goals try dsimp only
  all_goals repeat' first
    | with_reducible assumption
    | with_reducible apply Changes.setCrane
    | with_reducible apply Changes.forget
    | with_reducible apply Changes.ite
    | rfl
    | exact Or.inr (Nat.le_refl _)

theorem Changes.stopOfferTimer {r s : State} (h : Changes r s) (c : CraneId) : Changes r (s.stopOfferTimer c) := by
  unfold State.stopOfferTimer
  all_goals try dsimp only
  all_goals repeat' first
    | with_reducible assumption
    | with_reducible apply Changes.setCrane
    | with_reducible apply Changes.forget
    | with_reducible apply Changes.ite
    | rfl
    | exact Or.inr (Nat.le_refl _)

theorem Changes.startParkTimer {r s : State} (h : Changes r s) (c : CraneId) : Changes r (s.startParkTimer c) := by
  unfold State.startParkTimer
  all_goals try dsimp only
  all_goals repeat' first
    | with_reducible assumption
    | with_reducible apply Changes.setCrane
    | with_reducible apply Changes.forget
    | with_reducible apply Changes.ite
    | rfl
    | exact Or.inr (Nat.le_refl _)

theorem Changes.stopParkTimer {r s : State} (h : Changes r s) (c : CraneId) : Changes r (s.stopParkTimer c) := by
  unfold State.stopParkTimer
  all_goals try dsimp only
  all_goals repeat' first
    | with_reducible assumption
    | with_reducible apply Changes.setCrane
    | with_reducible apply Changes.forget
    | with_reducible apply Changes.ite
    | rfl
    | exact Or.inr (Nat.le_refl _)

theorem Changes.startBackoffTimer {r s : State} (h : Changes r s) (c : CraneId) : Changes r (s.startBackoffTimer c) := by
  unfold State.startBackoffTimer
  all_goals try dsimp only
  all_goals repeat' first
    | with_reducible assumption
    | with_reducible apply Changes.setCrane
    | with_reducible apply Changes.forget
    | with_reducible apply Changes.ite
    | rfl
    | exact Or.inr (Nat.le_refl _)

theorem Changes.stopBackoffTimer {r s : State} (h : Changes r s) (c : CraneId) : Changes r (s.stopBackoffTimer c) := by
  unfold State.stopBackoffTimer
  all_goals try dsimp only
  all_goals repeat' first
    | with_reducible assumption
    | with_reducible apply Changes.setCrane
    | with_reducible apply Changes.forget
    | with_reducible apply Changes.ite
    | rfl
    | exact Or.inr (Nat.le_refl _)

theorem Changes.startHoldBack {r s : State} (h : Changes r s) (c : CraneId) : Changes r (s.startHoldBack c) := by
  unfold State.startHoldBack
  all_goals repeat' first
    | with_reducible assumption
    | with_reducible apply Changes.setHoldBack
    | with_reducible apply Changes.forget

theorem Changes.stopHoldBack {r s : State} (h : Changes r s) (c : CraneId) : Changes r (s.stopHoldBack c) := by
  unfold State.stopHoldBack
  all_goals try dsimp only
  all_goals repeat' first
    | with_reducible assumption
    | with_reducible apply Changes.setHoldBack
    | with_reducible apply Changes.forget

theorem Changes.stopDeadline {r s : State} (h : Changes r s) (c : CraneId) : Changes r (s.stopDeadline c) := by
  unfold State.stopDeadline
  all_goals try dsimp only
  all_goals repeat' first
    | with_reducible assumption
    | with_reducible apply Changes.setCrane
    | with_reducible apply Changes.forget
    | with_reducible apply Changes.ite
    | rfl
    | exact Or.inr (Nat.le_refl _)

theorem Changes.startDeadline {r s : State} (h : Changes r s) (c : CraneId) (x : Point) : Changes r (s.startDeadline c x) := by
  unfold State.startDeadline
  repeat' split
  all_goals try dsimp only
  all_goals repeat' first
    | with_reducible assumption
    | with_reducible apply Changes.setCrane
    | with_reducible apply Changes.forget
    | with_reducible apply Changes.ite
    | rfl
    | exact Or.inr (Nat.le_refl _)

theorem Changes.testPending {r s : State} (h : Changes r s) (a : AisleId) : Changes r (s.testPending a) := by
  unfold State.testPending
  split
  · next p q hp hq =>
    split
    · exact h
    · exact Changes.checkRail (Changes.select (Changes.offerNotice (h.step (.applyPending a p q hp)) _ _) _) _
  · exact h

theorem Changes.enterHeld {r s : State} (h : Changes r s) (a : AisleId) : Changes r (s.enterHeld a) := by
  unfold State.enterHeld
  all_goals try dsimp only
  all_goals repeat' first
    | with_reducible assumption
    | (with_reducible refine Changes.each _ (fun _ _ _ => ?_) ?_)
    | with_reducible apply Changes.offerNotice
    | with_reducible apply Changes.setHoldState

theorem Changes.testHold {r s : State} (h : Changes r s) (a : AisleId) : Changes r (s.testHold a) := by
  unfold State.testHold
  repeat' split
  all_goals repeat' first
    | with_reducible assumption
    | with_reducible apply Changes.enterHeld
    | with_reducible apply Changes.setHoldState

theorem Changes.leaveWaiting {r s : State} (h : Changes r s) (c : CraneId) : Changes r (s.leaveWaiting c) := by
  unfold State.leaveWaiting
  all_goals try dsimp only
  all_goals repeat' first
    | with_reducible assumption
    | with_reducible apply Changes.stopHoldBack
    | with_reducible apply Changes.endClaim
    | with_reducible apply Changes.ite
    | split

theorem Changes.enterState {r s : State} (h : Changes r s) (c : CraneId) (x : CraneState) : Changes r (s.enterState c x) := by
  unfold State.enterState
  all_goals try dsimp only
  all_goals repeat' first
    | with_reducible assumption
    | with_reducible apply Changes.leaveWaiting
    | with_reducible apply Changes.setCrane
    | with_reducible apply Changes.setParkOwed
    | with_reducible apply Changes.testPending
    | with_reducible apply Changes.select
    | with_reducible apply Changes.testHold
    | with_reducible apply Changes.ite
    | rfl
    | exact Or.inr (Nat.le_refl _)
    | split

theorem Changes.leaveBackoff {r s : State} (h : Changes r s) (c : CraneId) : Changes r (s.leaveBackoff c) := by
  unfold State.leaveBackoff
  repeat' split
  all_goals try dsimp only
  all_goals repeat' first
    | with_reducible assumption
    | with_reducible apply Changes.setCrane
    | with_reducible apply Changes.stopBackoffTimer
    | with_reducible apply Changes.ite
    | rfl
    | exact Or.inr (Nat.le_refl _)
    | exact Or.inl (Nat.zero_le _)

theorem Changes.widenToPark {r s : State} (h : Changes r s) (c : CraneId) : Changes r (s.widenToPark c) := by
  unfold State.widenToPark
  split
  · exact Changes.grant h c _
  · exact h

theorem Changes.tellPark {r s : State} (h : Changes r s) (c : CraneId) : Changes r (s.tellPark c) := by
  unfold State.tellPark
  repeat' first
    | with_reducible assumption
    | with_reducible apply Changes.widenToPark
    | with_reducible apply Changes.send
    | exact crane_ne_order _

theorem Changes.sendPark {r s : State} (h : Changes r s) (c : CraneId) : Changes r (s.sendPark c) := by
  unfold State.sendPark
  all_goals try dsimp only
  all_goals repeat' first
    | with_reducible assumption
    | with_reducible apply Changes.enterState
    | with_reducible apply Changes.startParkTimer
    | with_reducible apply Changes.tellPark
    | with_reducible apply Changes.leaveBackoff
    | with_reducible apply Changes.ite

theorem Changes.goIdle {r s : State} (h : Changes r s) (c : CraneId) : Changes r (s.goIdle c) := by
  unfold State.goIdle
  repeat' split
  all_goals repeat' first
    | with_reducible assumption
    | with_reducible apply Changes.sendPark
    | with_reducible apply Changes.enterState

theorem Changes.goIdleOrPark {r s : State} (h : Changes r s) (c : CraneId) : Changes r (s.goIdleOrPark c) := by
  unfold State.goIdleOrPark
  repeat' split
  all_goals repeat' first
    | with_reducible assumption
    | with_reducible apply Changes.sendPark
    | with_reducible apply Changes.enterState

/-! ## Units -/

theorem Changes.updCredit {r s : State} (h : Changes r s) (a : AisleId) (e : End) (f : Credit → Credit) : Changes r (s.updCredit a e f) := by
  unfold State.updCredit
  repeat' split
  all_goals repeat' first
    | with_reducible assumption
    | with_reducible apply Changes.setCredit
    | with_reducible apply Changes.select

theorem Changes.updBound {r s : State} (h : Changes r s) (c : CraneId) (j : Job) (f : Credit → Credit) : Changes r (s.updBound c j f) := by
  unfold State.updBound
  repeat' split
  all_goals repeat' first
    | with_reducible assumption
    | with_reducible apply Changes.updCredit

theorem Changes.dropPartner {r s : State} (h : Changes r s) (j : Job) : Changes r (s.dropPartner j) := by
  unfold State.dropPartner
  repeat' split
  all_goals repeat' first
    | with_reducible assumption
    | with_reducible apply Changes.updJob
    | with_reducible apply Changes.ite
    | (intro _; exact ⟨rfl, rfl, rfl⟩)

theorem Changes.returnToReady {r s : State} (h : Changes r s) (c : CraneId) (h' : Handle) : Changes r (s.returnToReady c h') := by
  unfold State.returnToReady
  repeat' split
  all_goals try dsimp only
  all_goals repeat' first
    | with_reducible assumption
    | with_reducible apply Changes.becameReady
    | with_reducible apply Changes.updBound
    | with_reducible apply Changes.release_q
    | with_reducible apply Changes.updJob
    | with_reducible apply Changes.dropPartner
    | with_reducible apply Changes.ite
    | (intro _; exact ⟨rfl, rfl, rfl⟩)

theorem Changes.fall {r s : State} (h : Changes r s) (c : CraneId) (bays : List Nat) : Changes r (s.fall c bays) := by
  unfold State.fall
  repeat' split
  all_goals repeat' first
    | with_reducible assumption
    | with_reducible apply Changes.shrink

theorem Changes.endRedirect {r s : State} (h : Changes r s) (c : CraneId) : Changes r (s.endRedirect c) := by
  unfold State.endRedirect
  repeat' split
  all_goals try dsimp only
  all_goals repeat' first
    | with_reducible assumption
    | with_reducible apply Changes.select
    | with_reducible apply Changes.updBound
    | with_reducible apply Changes.release_q
    | with_reducible apply Changes.updJob
    | with_reducible apply Changes.stopOfferTimer
    | with_reducible apply Changes.setCrane
    | with_reducible apply Changes.ite
    | rfl
    | exact Or.inr (Nat.le_refl _)
    | (intro _; exact ⟨rfl, rfl, rfl⟩)
    | split

theorem Changes.withdrawRedirect {r s : State} (h : Changes r s) (c : CraneId) : Changes r (s.withdrawRedirect c) := by
  unfold State.withdrawRedirect
  repeat' split
  all_goals repeat' first
    | with_reducible assumption
    | with_reducible apply Changes.endRedirect
    | with_reducible apply Changes.send
    | with_reducible apply Changes.ite
    | exact crane_ne_order _

theorem Changes.late {r s : State} (h : Changes r s) (c : CraneId) : Changes r (s.late c) := by
  unfold State.late
  all_goals try dsimp only
  all_goals repeat' first
    | with_reducible assumption
    | with_reducible apply Changes.fall
    | with_reducible apply Changes.endRedirect

theorem Changes.withdraw {r s : State} (h : Changes r s) (c : CraneId) (keep : Nat) : Changes r (s.withdraw c keep) := by
  unfold State.withdraw
  repeat' split
  all_goals try dsimp only
  all_goals repeat' first
    | with_reducible assumption
    | with_reducible apply Changes.stopDeadline
    | with_reducible apply Changes.setCrane
    | with_reducible apply Changes.send
    | with_reducible apply Changes.ite
    | rfl
    | exact Or.inr (Nat.le_refl _)
    | exact crane_ne_order _

theorem Changes.endUnit {r s : State} (h : Changes r s) (c : CraneId) : Changes r (s.endUnit c) := by
  unfold State.endUnit
  all_goals try dsimp only
  all_goals repeat' first
    | with_reducible assumption
    | with_reducible apply Changes.fall
    | with_reducible apply Changes.withdrawRedirect
    | with_reducible apply Changes.stopOfferTimer
    | with_reducible apply Changes.stopDeadline
    | with_reducible apply Changes.setCrane
    | with_reducible apply Changes.ite
    | rfl
    | exact Or.inr (Nat.le_refl _)

theorem Changes.finishUnit {r s : State} (h : Changes r s) (c : CraneId) : Changes r (s.finishUnit c) := by
  unfold State.finishUnit
  all_goals repeat' first
    | with_reducible assumption
    | with_reducible apply Changes.goIdle
    | with_reducible apply Changes.endUnit

theorem Changes.afterWithdraw {r s : State} (h : Changes r s) (c : CraneId) : Changes r (s.afterWithdraw c) := by
  unfold State.afterWithdraw
  repeat' split
  all_goals repeat' first
    | with_reducible assumption
    | with_reducible apply Changes.finishUnit
    | with_reducible apply Changes.fall

theorem Changes.giveBack {r s : State} (h : Changes r s) (c : CraneId) : Changes r (s.giveBack c) := by
  unfold State.giveBack
  all_goals try dsimp only
  all_goals repeat' first
    | with_reducible assumption
    | (with_reducible refine Changes.each _ (fun _ _ _ => ?_) ?_)
    | with_reducible apply Changes.returnToReady
    | with_reducible apply Changes.stopOfferTimer
    | with_reducible apply Changes.stopDeadline
    | with_reducible apply Changes.setCrane
    | with_reducible apply Changes.ite
    | rfl
    | exact Or.inr (Nat.le_refl _)

/-! ## The life of a job -/

theorem Changes.updWave {r s : State} (h : Changes r s) (id : Nat) (f : Wave → Wave) : Changes r (s.updWave id f) :=
  h.step (.waves _ (by simp))

theorem Changes.freeWave {r s : State} (h : Changes r s) (id : Nat) : Changes r (s.freeWave id) :=
  h.step (.waves _ (List.length_filter_le ..))

theorem Changes.waveLeft {r s : State} (h : Changes r s) (w : Option WaveRef) : Changes r (s.waveLeft w) := by
  unfold State.waveLeft
  repeat' split
  all_goals repeat' first
    | with_reducible assumption
    | with_reducible apply Changes.freeWave
    | with_reducible apply Changes.updWave

theorem Changes.createJob {r s : State} (h : Changes r s) (j : Job) (hj : s.nextHandle = some j.handle) (ha : j.age = 0 ∨ ∃ k x, (s.slot k).job = some x ∧ j.age = x.age) : Changes r (s.createJob j) :=
  h.step (.create j hj ha)

theorem Changes.leavePool {r s : State} (h : Changes r s) (h' : Handle) : Changes r (s.leavePool h') := by
  unfold State.leavePool
  split
  · exact h
  · next j hj => exact Changes.reEvaluate (Changes.waveLeft (h.step (.vacate h' j hj)) _) _

theorem Changes.payNotice {r s : State} (h : Changes r s) (h' : Handle) (l : OrderLink) (n : Notice) (hr : s.hasRoom l = true) : Changes r (s.payNotice h' l n) := by
  unfold State.payNotice
  exact Changes.updJob (h.step (.notice l n hr)) _ _ fun _ => ⟨rfl, rfl, rfl⟩

theorem Changes.placeClosing {r s : State} (h : Changes r s) (h' : Handle) (l : OrderLink) : Changes r (s.placeClosing h' l) := by
  unfold State.placeClosing
  split
  · split
    · next hr => exact Changes.payNotice h _ _ _ hr
    · exact Changes.setClosingWait h _ _
  · exact h

theorem Changes.leaveIfPaid {r s : State} (h : Changes r s) (h' : Handle) : Changes r (s.leaveIfPaid h') := by
  unfold State.leaveIfPaid
  repeat' split
  all_goals repeat' first
    | with_reducible assumption
    | with_reducible apply Changes.leavePool

theorem Changes.offerClosing {r s : State} (h : Changes r s) (h' : Handle) : Changes r (s.offerClosing h') := by
  unfold State.offerClosing
  repeat' split
  all_goals repeat' first
    | with_reducible assumption
    | (with_reducible refine Changes.each _ (fun _ _ _ => ?_) ?_)
    | with_reducible apply Changes.leaveIfPaid
    | with_reducible apply Changes.placeClosing

theorem Changes.closeStart {r s : State} (h : Changes r s) (h' : Handle) (o : JobOutcome) (m : Bool) (f : Credit → Credit) : Changes r (s.closeStart h' o m f) := by
  unfold State.closeStart
  repeat' split
  all_goals try dsimp only
  all_goals repeat' first
    | with_reducible assumption
    | with_reducible apply Changes.updBound
    | with_reducible apply Changes.release_q
    | with_reducible apply Changes.updJob
    | with_reducible apply Changes.dropPartner
    | with_reducible apply Changes.ite
    | (intro _; exact ⟨rfl, rfl, rfl⟩)

theorem Changes.clearWaits {r s : State} (h : Changes r s) (j : Job) : Changes r (s.clearWaits j) := by
  unfold State.clearWaits
  split
  · refine Changes.updJob h _ _ fun x => ?_
    split <;> exact ⟨rfl, rfl, rfl⟩
  · exact h

theorem Changes.cancelRelocation {r s : State} (h : Changes r s) (x : Job) : Changes r (s.cancelRelocation x) := by
  unfold State.cancelRelocation
  repeat' split
  all_goals try dsimp only
  all_goals repeat' first
    | with_reducible assumption
    | with_reducible apply Changes.clearWaits
    | with_reducible apply Changes.closeStart
    | with_reducible apply Changes.withdraw
    | with_reducible apply Changes.withdrawRedirect

theorem Changes.closeRetrieveStart {r s : State} (h : Changes r s) (h' : Handle) (o : JobOutcome) (f : Credit → Credit) : Changes r (s.closeRetrieveStart h' o f) := by
  unfold State.closeRetrieveStart
  repeat' split
  all_goals repeat' first
    | with_reducible assumption
    | with_reducible apply Changes.cancelRelocation
    | with_reducible apply Changes.closeStart

theorem Changes.closeRetrieveEnd {r s : State} (h : Changes r s) (h' : Handle) (x : Option Job) : Changes r (s.closeRetrieveEnd h' x) := by
  unfold State.closeRetrieveEnd
  dsimp only
  repeat' split
  all_goals repeat' first
    | with_reducible assumption
    | with_reducible apply Changes.finishUnit
    | with_reducible apply Changes.offerClosing

theorem Changes.closeRetrieve {r s : State} (h : Changes r s) (h' : Handle) (o : JobOutcome) (f : Credit → Credit) : Changes r (s.closeRetrieve h' o f) :=
  Changes.closeRetrieveEnd (Changes.closeRetrieveStart h h' o f) _ _

theorem Changes.pend {r s : State} (h : Changes r s) (h' : Handle) (x : PendingReason) : Changes r (s.pend h' x) := by
  unfold State.pend
  all_goals repeat' first
    | with_reducible assumption
    | with_reducible apply Changes.updJob
    | with_reducible apply Changes.ite
    | (intro _; exact ⟨rfl, rfl, rfl⟩)

theorem Changes.evaluateKept {r s : State} (h : Changes r s) (h' : Handle) (j : Job) (cs : List CellAddr) : Changes r (s.evaluateKept h' j cs) := by
  unfold State.evaluateKept
  repeat' split
  all_goals try dsimp only
  all_goals repeat' first
    | with_reducible assumption
    | with_reducible apply Changes.pend
    | with_reducible apply Changes.becameReady
    | with_reducible apply Changes.updJob
    | with_reducible apply Changes.raise
    | with_reducible apply Changes.ite
    | (intro _; exact ⟨rfl, rfl, rfl⟩)

theorem Changes.keepCandidates {r s : State} (h : Changes r s) (h' : Handle) (cs : List CellAddr) : Changes r (s.keepCandidates h' cs) :=
  Changes.updJob h _ _ fun _ => ⟨rfl, rfl, rfl⟩

theorem Changes.evaluate {r s : State} (h : Changes r s) (h' : Handle) : Changes r (s.evaluate h') := by
  unfold State.evaluate
  dsimp only
  repeat' split
  all_goals repeat' first
    | with_reducible assumption
    | with_reducible apply Changes.evaluateKept
    | with_reducible apply Changes.closeRetrieve
    | with_reducible apply Changes.keepCandidates

theorem Changes.closeStore {r s : State} (h : Changes r s) (h' : Handle) (o : JobOutcome) : Changes r (s.closeStore h' o) := by
  unfold State.closeStore
  all_goals repeat' first
    | with_reducible assumption
    | with_reducible apply Changes.offerClosing
    | with_reducible apply Changes.closeStart

theorem Changes.evaluateServed {r s : State} (h : Changes r s) (q k : Handle) : Changes r (s.evaluateServed q k) := by
  unfold State.evaluateServed
  dsimp only
  repeat' split
  all_goals repeat' first
    | with_reducible assumption
    | with_reducible apply Changes.closeRetrieveEnd
    | with_reducible apply Changes.offerClosing
    | with_reducible apply Changes.closeRetrieveStart
    | with_reducible apply Changes.keepCandidates
    | with_reducible apply Changes.evaluate

theorem Changes.endRelocation {r s : State} (h : Changes r s) (h' : Handle) (j : Job) : Changes r (s.endRelocation h' j) := by
  unfold State.endRelocation
  split
  · exact Changes.evaluateServed (Changes.clearWaits h _) _ _
  · exact Changes.offerClosing (Changes.clearWaits h _) _

theorem Changes.closeRelocation {r s : State} (h : Changes r s) (h' : Handle) (o : JobOutcome) (m : Bool) : Changes r (s.closeRelocation h' o m) := by
  unfold State.closeRelocation
  split
  · exact h
  · exact Changes.endRelocation (Changes.closeStart h _ _ _ _) _ _

theorem Changes.close {r s : State} (h : Changes r s) (h' : Handle) (o : JobOutcome) (m : Bool) (f : Credit → Credit) : Changes r (s.close h' o m f) := by
  unfold State.close
  repeat' split
  all_goals repeat' first
    | with_reducible assumption
    | with_reducible apply Changes.closeStore
    | with_reducible apply Changes.closeRetrieve
    | with_reducible apply Changes.closeRelocation

theorem Changes.rewrite_q {r s : State} (h : Changes r s) (x y : Option CellAddr) : Changes r (s.rewrite? x y) := by
  unfold State.rewrite?
  repeat' split
  all_goals repeat' first
    | with_reducible assumption
    | with_reducible apply Changes.rewrite

/-! ## Aisles -/

theorem Changes.drainLoaded {r s : State} (h : Changes r s) (c : CraneId) (h' : Handle) : Changes r (s.drainLoaded c h') := by
  unfold State.drainLoaded
  repeat' split
  all_goals try dsimp only
  all_goals repeat' first
    | with_reducible assumption
    | (with_reducible refine Changes.each _ (fun _ _ _ => ?_) ?_)
    | with_reducible apply Changes.fall
    | with_reducible apply Changes.returnToReady
    | with_reducible apply Changes.withdraw
    | with_reducible apply Changes.ite

theorem Changes.drainCrane {r s : State} (h : Changes r s) (c : CraneId) : Changes r (s.drainCrane c) := by
  unfold State.drainCrane
  repeat' split
  all_goals try dsimp only
  all_goals repeat' first
    | with_reducible assumption
    | (with_reducible refine Changes.each _ (fun _ _ _ => ?_) ?_)
    | with_reducible apply Changes.sendPark
    | with_reducible apply Changes.endUnit
    | with_reducible apply Changes.returnToReady
    | with_reducible apply Changes.withdraw
    | with_reducible apply Changes.withdrawRedirect
    | with_reducible apply Changes.setParkOwed
    | with_reducible apply Changes.drainLoaded

theorem Changes.drain {r s : State} (h : Changes r s) (a : AisleId) : Changes r (s.drain a) := by
  unfold State.drain
  all_goals try dsimp only
  all_goals repeat' first
    | with_reducible assumption
    | (with_reducible refine Changes.each _ (fun _ _ _ => ?_) ?_)
    | with_reducible apply Changes.testHold
    | with_reducible apply Changes.drainCrane
    | with_reducible apply Changes.setHoldState

theorem Changes.resume {r s : State} (h : Changes r s) (c : CraneId) : Changes r (s.resume c) := by
  unfold State.resume
  repeat' split
  all_goals repeat' first
    | with_reducible assumption
    | with_reducible apply Changes.enterState
    | with_reducible apply Changes.fall
    | with_reducible apply Changes.stopParkTimer
    | with_reducible apply Changes.send
    | with_reducible apply Changes.ite
    | exact crane_ne_order _

theorem Changes.endHold {r s : State} (h : Changes r s) (a : AisleId) : Changes r (s.endHold a) := by
  unfold State.endHold
  all_goals try dsimp only
  all_goals repeat' first
    | with_reducible assumption
    | (with_reducible refine Changes.each _ (fun _ _ _ => ?_) ?_)
    | with_reducible apply Changes.select
    | with_reducible apply Changes.resume
    | with_reducible apply Changes.setParkOwed
    | with_reducible apply Changes.setHoldState

theorem Changes.configureHold {r s : State} (h : Changes r s) (a : AisleId) : Changes r (s.configureHold a) := by
  unfold State.configureHold
  repeat' split
  all_goals repeat' first
    | with_reducible assumption
    | with_reducible apply Changes.drain
    | with_reducible apply Changes.setHoldState

theorem Changes.checkPosition {r s : State} (h : Changes r s) (g : Geometry) (c : CraneId) : Changes r (s.checkPosition g c) := by
  unfold State.checkPosition
  repeat' split
  all_goals try dsimp only
  all_goals repeat' first
    | with_reducible assumption
    | with_reducible apply Changes.setCrane
    | with_reducible apply Changes.ite
    | rfl
    | exact Or.inr (Nat.le_refl _)

theorem Changes.rebuildRail {r s : State} (h : Changes r s) (a : AisleId) : Changes r (s.rebuildRail a) := by
  unfold State.rebuildRail
  repeat' split
  all_goals try dsimp only
  all_goals repeat' first
    | with_reducible assumption
    | (with_reducible refine Changes.each _ (fun _ _ _ => ?_) ?_)
    | with_reducible apply Changes.checkRail
    | with_reducible apply Changes.setRail
    | with_reducible apply Changes.checkPosition

theorem Changes.dropRearStations {r s : State} (h : Changes r s) (a : AisleId) : Changes r (s.dropRearStations a) := by
  unfold State.dropRearStations
  repeat' split
  all_goals try dsimp only
  all_goals repeat' first
    | with_reducible assumption
    | with_reducible apply Changes.setCredit
    | with_reducible apply Changes.setInput

/-! ## The load check -/

theorem Changes.rejectLoad {r s : State} (h : Changes r s) (j : Job) (a : AisleId) (e : End) (x : Pallet) (y : RejectReason) (k : Link) (p : List Byte) : Changes r (s.rejectLoad j a e x y k p) := by
  unfold State.rejectLoad
  all_goals try dsimp only
  all_goals repeat' first
    | with_reducible assumption
    | with_reducible apply Changes.raiseFault
    | with_reducible apply Changes.send
    | with_reducible apply Changes.setInput
    | with_reducible apply Changes.closeStore
    | with_reducible apply Changes.ite
    | exact crane_ne_order _
    | exact station_ne_order

theorem Changes.askSlot {r s : State} (h : Changes r s) (h' : Handle) : Changes r (s.askSlot h') := by
  unfold State.askSlot
  all_goals repeat' first
    | with_reducible assumption
    | with_reducible apply Changes.raise
    | with_reducible apply Changes.updJob
    | with_reducible apply Changes.ite
    | (intro _; exact ⟨rfl, rfl, rfl⟩)

theorem Changes.redirectStore {r s : State} (h : Changes r s) (j : Job) (c : CellAddr) : Changes r (s.redirectStore j c) := by
  unfold State.redirectStore
  repeat' split
  all_goals try dsimp only
  all_goals repeat' first
    | with_reducible assumption
    | with_reducible apply Changes.askSlot
    | with_reducible apply Changes.offerNotice
    | with_reducible apply Changes.updJob
    | with_reducible apply Changes.release
    | with_reducible apply Changes.ite
    | (intro _; exact ⟨rfl, rfl, rfl⟩)

theorem Changes.loadCheck {r s : State} (h : Changes r s) (j : Job) (a : AisleId) (e : End) (x : Pallet) (k : Link)
    (p : List Byte) : Changes r (s.loadCheck j a e x k p).1 := by
  unfold State.loadCheck
  repeat' split
  all_goals dsimp only
  all_goals repeat' first
    | with_reducible assumption
    | with_reducible apply Changes.rejectLoad
    | with_reducible apply Changes.askSlot
    | with_reducible apply Changes.becameReady
    | with_reducible apply Changes.redirectStore
    | with_reducible apply Changes.updJob
    | (intro _; exact ⟨rfl, rfl, rfl⟩)
    | split

theorem Changes.matchStore {r s : State} (h : Changes r s) (j : Job) (a : AisleId) (e : End) (x : Pallet) (k : Link)
    (p : List Byte) : Changes r (s.matchStore j a e x k p).1 :=
  Changes.loadCheck (Changes.setInput h _ _ _) _ _ _ _ _ _

/-! ## Allotment -/

theorem Changes.standby {r s : State} (h : Changes r s) (c : CraneId) : Changes r (s.standby c) := by
  unfold State.standby
  all_goals repeat' first
    | with_reducible assumption
    | with_reducible apply Changes.send
    | with_reducible apply Changes.ite
    | exact crane_ne_order _

theorem Changes.advanceCounter {r s : State} (h : Changes r s) (c : CraneId) : Changes r (s.advanceCounter c) := by
  unfold State.advanceCounter
  all_goals try dsimp only
  all_goals repeat' first
    | with_reducible assumption
    | with_reducible apply Changes.setCrane
    | with_reducible apply Changes.ite
    | rfl
    | exact Or.inr (Nat.le_refl _)

theorem Changes.markOffered {r s : State} (h : Changes r s) (c : CraneId) (n : BitVec 8) (u : Proposal) (j : Job) : Changes r (s.markOffered c n u j) := by
  unfold State.markOffered
  all_goals try dsimp only
  all_goals repeat' first
    | with_reducible assumption
    | with_reducible apply Changes.updBound
    | with_reducible apply Changes.updJob
    | with_reducible apply Changes.ite
    | (intro _; exact ⟨rfl, rfl, rfl⟩)

theorem Changes.reserveUnit {r s t : State} (h : Changes r s) (u : Proposal) (ht : s.reserveUnit u = some t) : Changes r t := by
  unfold State.reserveUnit at ht
  split at ht
  · exact h.reservePick _ _ ht
  · cases ht; exact h

theorem Changes.makeOffer {r s : State} (h : Changes r s) (c : CraneId) (u : Proposal) : Changes r (s.makeOffer c u) := by
  unfold State.makeOffer
  all_goals try dsimp only
  all_goals repeat' first
    | with_reducible assumption
    | (with_reducible refine Changes.each _ (fun _ _ _ => ?_) ?_)
    | with_reducible apply Changes.enterState
    | with_reducible apply Changes.startOfferTimer
    | with_reducible apply Changes.send
    | with_reducible apply Changes.setCrane
    | with_reducible apply Changes.advanceCounter
    | with_reducible apply Changes.stopHoldBack
    | with_reducible apply Changes.grant
    | with_reducible apply Changes.markOffered
    | with_reducible apply Changes.ite
    | rfl
    | exact Or.inr (Nat.le_refl _)
    | exact crane_ne_order _

theorem Changes.offer {r s : State} (h : Changes r s) (c : CraneId) (u : Proposal) : Changes r (s.offer c u) := by
  unfold State.offer
  split
  · next t ht => exact Changes.makeOffer (h.reserveUnit u ht) _ _
  · exact Changes.raise h _

theorem Changes.makeClear {r s : State} (h : Changes r s) (c : CraneId) (a : AisleId) (e : End) (i : Interval) (t : Nat) : Changes r (s.makeClear c a e i t) := by
  unfold State.makeClear
  repeat' split
  all_goals try dsimp only
  all_goals repeat' first
    | with_reducible assumption
    | with_reducible apply Changes.updEntry
    | with_reducible apply Changes.startParkTimer
    | with_reducible apply Changes.send
    | with_reducible apply Changes.enterState
    | with_reducible apply Changes.updOwn
    | with_reducible apply Changes.stopHoldBack
    | with_reducible apply Changes.ite
    | exact crane_ne_order _

theorem Changes.takeWinner {r s : State} (h : Changes r s) (c : CraneId) (p : Profile) (a : AisleId) (e : End) (u : Proposal) : Changes r (s.takeWinner c p a e u) := by
  unfold State.takeWinner
  repeat' split
  all_goals repeat' first
    | with_reducible assumption
    | with_reducible apply Changes.makeClear
    | with_reducible apply Changes.offer

theorem Changes.decideWinner {r s : State} (h : Changes r s) (c : CraneId) (p : Profile) (a : AisleId) (e : End) (u : Proposal) : Changes r (s.decideWinner c p a e u) := by
  unfold State.decideWinner
  repeat' split
  all_goals repeat' first
    | with_reducible assumption
    | with_reducible apply Changes.takeWinner
    | with_reducible apply Changes.startHoldBack
    | with_reducible apply Changes.standby

theorem Changes.runSelection {r s : State} (h : Changes r s) (c : CraneId) : Changes r (s.runSelection c) := by
  unfold State.runSelection
  repeat' split
  all_goals repeat' first
    | with_reducible assumption
    | with_reducible apply Changes.standby
    | with_reducible apply Changes.decideWinner
    | with_reducible apply Changes.stopHoldBack

theorem Changes.makeRedirect {r s : State} (h : Changes r s) (c : CraneId) (j : Job) (u : Proposal) : Changes r (s.makeRedirect c j u) := by
  unfold State.makeRedirect
  split
  · exact h
  · next t ht =>
    have h := h.reserveUnit u ht
    dsimp only
    repeat' first
      | with_reducible assumption
      | with_reducible apply Changes.startOfferTimer
      | with_reducible apply Changes.send
      | with_reducible apply Changes.setCrane
      | with_reducible apply Changes.advanceCounter
      | with_reducible apply Changes.grant
      | with_reducible apply Changes.updBound
      | with_reducible apply Changes.updJob
      | exact crane_ne_order _
      | rfl
      | exact Or.inr (Nat.le_refl _)
      | (intro _; exact ⟨rfl, rfl, rfl⟩)

theorem Changes.runPreemption {r s : State} (h : Changes r s) (h' : Handle) : Changes r (s.runPreemption h') := by
  unfold State.runPreemption
  repeat' split
  all_goals repeat' first
    | with_reducible assumption
    | with_reducible apply Changes.makeRedirect

theorem Changes.runSlotSearch {r s : State} (h : Changes r s) (h' : Handle) : Changes r (s.runSlotSearch h') := by
  unfold State.runSlotSearch
  repeat' split
  all_goals first
    | exact h
    | exact Changes.pend h _ _
    | skip
  next t ht =>
    have h := h.reserveDrop _ _ ht
    apply Changes.becameReady
    apply Changes.updJob h
    exact fun _ => ⟨rfl, rfl, rfl⟩

@[simp] theorem State.putCell_jpl (s : State) (c : CellAddr) (x : Cell) : (s.putCell c x).jpl = s.jpl := by
  unfold State.putCell
  repeat' split
  all_goals rfl

/-- A reservation leaves the Job Pool as it stands. -/
theorem State.reserveDrop_jpl {s t : State} {c : CellAddr} {h : Handle} (ht : s.reserveDrop c h = some t) : t.jpl = s.jpl := by
  unfold State.reserveDrop at ht
  split at ht
  · cases ht; exact State.putCell_jpl ..
  · exact absurd ht (by simp)

theorem State.reservePick_jpl {s t : State} {c : CellAddr} {h : Handle} (ht : s.reservePick c h = some t) : t.jpl = s.jpl := by
  unfold State.reservePick at ht
  repeat' split at ht
  all_goals first
    | (cases ht; exact State.putCell_jpl ..)
    | exact absurd ht (by simp)

/-- The handle the head of the free list gives names its slot's generation. -/
theorem State.nextHandle_gen {s : State} {h : Handle} (hn : s.nextHandle = some h) : h.gen = (s.slot h.slot).gen := by
  unfold State.nextHandle at hn
  cases hl : s.jpl.freeList.head? <;> simp only [hl, Option.map_none, Option.map_some] at hn
  · exact absurd hn (by simp)
  · cases hn; rfl

theorem State.nextHandle_congr {s t : State} (h : t.jpl = s.jpl) : t.nextHandle = s.nextHandle := by
  unfold State.nextHandle State.slot
  rw [h]

/-- A live job is the record of its slot. -/
theorem State.slot_of_job? {s : State} {h : Handle} {j : Job} (hj : s.job? h = some j) :
    (s.slot h.slot).gen = h.gen ∧ (s.slot h.slot).job = some j := by
  unfold State.job? at hj
  split at hj
  · next hg => exact ⟨hg, hj⟩
  · exact absurd hj (by simp)

theorem Changes.runRelocation {r s : State} (h : Changes r s) (q : Handle) : Changes r (s.runRelocation q) := by
  unfold State.runRelocation
  repeat' split
  all_goals first
    | exact h
    | exact Changes.pend h _ _
    | skip
  next j hj _ _ c _ _ k hk =>
  unfold State.relocate
  dsimp only
  repeat' split
  · exact Changes.pend h _ _
  · exact Changes.evaluate h _
  · next t ht _ _ => exact Changes.pend (Changes.release (h.reservePick _ _ ht) _ _) _ _
  · next t ht _ u hu =>
    have hc := (h.reservePick _ _ ht).reserveDrop _ _ hu
    have hp : u.jpl = s.jpl := (State.reserveDrop_jpl hu).trans (State.reservePick_jpl ht)
    have hs : ∀ i, u.slot i = s.slot i := fun i => by unfold State.slot; rw [hp]
    unfold State.createRelocation
    dsimp only
    apply Changes.becameReady
    refine Changes.updJob (Changes.createJob hc _ ?_ (Or.inr ?_)) _ _ (fun _ => ?_)
    rotate_left
    · exact ⟨q.slot, j, by rw [hs]; exact (State.slot_of_job? hj).2, rfl⟩
    · exact ⟨rfl, rfl, rfl⟩
    · exact (State.nextHandle_congr hp).trans hk

theorem Changes.reEvaluateJob {r s : State} (h : Changes r s) (h' : Handle) : Changes r (s.reEvaluateJob h') := by
  unfold State.reEvaluateJob
  repeat' split
  all_goals repeat' first
    | with_reducible assumption
    | with_reducible apply Changes.evaluate
    | with_reducible apply Changes.raise

/-! ## Crane messages -/

theorem Changes.stale {r s : State} (h : Changes r s) (c : CraneId) (j : Option Handle) (p : List Byte) : Changes r (s.stale c j p) := by
  unfold State.stale
  all_goals repeat' first
    | with_reducible assumption
    | with_reducible apply Changes.raiseFault

theorem Changes.abandonClear {r s : State} (h : Changes r s) (c : CraneId) : Changes r (s.abandonClear c) := by
  unfold State.abandonClear
  all_goals try dsimp only
  all_goals repeat' first
    | with_reducible assumption
    | with_reducible apply Changes.endClaim
    | with_reducible apply Changes.updOwn
    | with_reducible apply Changes.stopParkTimer
    | with_reducible apply Changes.ite
    | split

theorem Changes.strand {r s : State} (h : Changes r s) (c : CraneId) (h' : Handle) : Changes r (s.strand c h') := by
  unfold State.strand
  refine Changes.each _ (fun s x h => ?_) (Changes.updJob (Changes.stopDeadline h _) _ _ fun _ => ⟨rfl, rfl, rfl⟩)
  split
  · apply Changes.returnToReady
    apply Changes.setCrane h
    · rfl
    · exact Or.inr (Nat.le_refl _)
  · exact h

theorem Changes.breakWork {r s : State} (h : Changes r s) (c : CraneId) : Changes r (s.breakWork c) := by
  unfold State.breakWork
  all_goals try dsimp only
  all_goals repeat' first
    | with_reducible assumption
    | with_reducible apply Changes.strand
    | with_reducible apply Changes.giveBack
    | with_reducible apply Changes.endRedirect
    | with_reducible apply Changes.ite
    | split

theorem Changes.announceRail {r s : State} (h : Changes r s) (c : CraneId) (bay : Nat) (p : List Byte) : Changes r (s.announceRail c bay p) := by
  unfold State.announceRail
  repeat' split
  all_goals repeat' first
    | with_reducible assumption
    | with_reducible apply Changes.raiseFault
    | with_reducible apply Changes.grant

theorem Changes.restartBreach {r s : State} (h : Changes r s) (c : CraneId) (bay : Nat) (p : List Byte) : Changes r (s.restartBreach c bay p) := by
  unfold State.restartBreach
  repeat' split
  all_goals repeat' first
    | with_reducible assumption
    | with_reducible apply Changes.raiseFault

theorem Changes.raiseRestart {r s : State} (h : Changes r s) (c : CraneId) (p : List Byte) : Changes r (s.raiseRestart c p) := by
  unfold State.raiseRestart
  all_goals repeat' first
    | with_reducible assumption
    | with_reducible apply Changes.raiseFault

theorem Changes.restartGivesUp {r s : State} (h : Changes r s) (c : CraneId) : Changes r (s.restartGivesUp c) := by
  unfold State.restartGivesUp
  repeat' split
  all_goals repeat' first
    | with_reducible assumption
    | with_reducible apply Changes.breakWork
    | with_reducible apply Changes.abandonClear
    | with_reducible apply Changes.stopParkTimer

theorem Changes.restartGoes {r s : State} (h : Changes r s) (c : CraneId) : Changes r (s.restartGoes c) := by
  unfold State.restartGoes
  repeat' split
  all_goals try dsimp only
  all_goals repeat' first
    | with_reducible assumption
    | with_reducible apply Changes.enterState
    | with_reducible apply Changes.goIdleOrPark
    | with_reducible apply Changes.fall
    | with_reducible apply Changes.ite
    | split

theorem Changes.hello {r s : State} (h : Changes r s) (c : CraneId) (x : Point) (p : List Byte) : Changes r (s.hello c x p) := by
  unfold State.hello
  repeat' split
  all_goals try dsimp only
  all_goals repeat' first
    | with_reducible assumption
    | with_reducible apply Changes.goIdleOrPark
    | with_reducible apply Changes.announceRail
    | with_reducible apply Changes.setPosition
    | with_reducible apply Changes.raiseRestart
    | with_reducible apply Changes.restartGoes
    | with_reducible apply Changes.restartGivesUp
    | with_reducible apply Changes.restartBreach

theorem Changes.report {r s : State} (h : Changes r s) (c : CraneId) (x : Point) (p : List Byte) : Changes r (s.report c x p) := by
  unfold State.report
  all_goals repeat' first
    | with_reducible assumption
    | with_reducible apply Changes.setPosition
    | with_reducible apply Changes.railReport

theorem Changes.ask {r s : State} (h : Changes r s) (c : CraneId) (x : Point) (p : List Byte) : Changes r (s.ask c x p) := by
  unfold State.ask
  all_goals try dsimp only
  all_goals repeat' first
    | with_reducible assumption
    | with_reducible apply Changes.raise
    | with_reducible apply Changes.enterState
    | with_reducible apply Changes.setHoldBack
    | with_reducible apply Changes.updOwn
    | with_reducible apply Changes.send
    | with_reducible apply Changes.tellPark
    | with_reducible apply Changes.stale
    | with_reducible apply Changes.report
    | with_reducible apply Changes.ite
    | exact crane_ne_order _
    | exact station_ne_order
    | split

theorem Changes.pos {r s : State} (h : Changes r s) (c : CraneId) (x : Point) (p : List Byte) : Changes r (s.pos c x p) := by
  unfold State.pos
  all_goals repeat' first
    | with_reducible assumption
    | with_reducible apply Changes.report

theorem Changes.ageCount {r s : State} (h : Changes r s) : Changes r (s.ageCount) := by
  unfold State.ageCount
  repeat' split
  · exact h
  · exact h.ageStep
  · exact h.step (.counter _)

theorem Changes.ageAccept {r s : State} (h : Changes r s) : Changes r (s.ageAccept) := by
  unfold State.ageAccept
  repeat' split
  all_goals repeat' first
    | with_reducible assumption
    | with_reducible apply Changes.ageCount

theorem Changes.acceptOffer {r s : State} (h : Changes r s) (c : CraneId) : Changes r (s.acceptOffer c) := by
  unfold State.acceptOffer
  dsimp only
  apply Changes.ageAccept
  apply Changes.startDeadline
  apply Changes.enterState
  apply Changes.setCrane
  · apply Changes.each _ _ (Changes.stopOfferTimer h _)
    intro s x h
    apply Changes.updJob h
    exact fun _ => ⟨rfl, rfl, rfl⟩
  · rfl
  · exact Or.inl (Nat.zero_le _)

theorem Changes.acceptRedirect {r s : State} (h : Changes r s) (c : CraneId) (x : Redirect) : Changes r (s.acceptRedirect c x) := by
  unfold State.acceptRedirect
  all_goals try dsimp only
  all_goals repeat' first
    | with_reducible assumption
    | (with_reducible refine Changes.each _ (fun _ _ _ => ?_) ?_)
    | with_reducible apply Changes.startDeadline
    | with_reducible apply Changes.fall
    | with_reducible apply Changes.updJob
    | with_reducible apply Changes.returnToReady
    | with_reducible apply Changes.setCrane
    | with_reducible apply Changes.stopDeadline
    | with_reducible apply Changes.stopOfferTimer
    | with_reducible apply Changes.ite
    | rfl
    | exact Or.inr (Nat.le_refl _)
    | (intro _; exact ⟨rfl, rfl, rfl⟩)

theorem Changes.answerRedirect {r s : State} (h : Changes r s) (c : CraneId) (x : Redirect) (p : List Byte) : Changes r (s.answerRedirect c x p) := by
  unfold State.answerRedirect
  repeat' split
  all_goals repeat' first
    | with_reducible assumption
    | with_reducible apply Changes.acceptRedirect
    | with_reducible apply Changes.late
    | with_reducible apply Changes.stale
    | with_reducible apply Changes.send
    | with_reducible apply Changes.ite
    | exact crane_ne_order _

theorem Changes.accept {r s : State} (h : Changes r s) (c : CraneId) (n : BitVec 8) (p : List Byte) : Changes r (s.accept c n p) := by
  unfold State.accept
  repeat' split
  all_goals repeat' first
    | with_reducible assumption
    | with_reducible apply Changes.acceptOffer
    | with_reducible apply Changes.answerRedirect
    | with_reducible apply Changes.stale
    | with_reducible apply Changes.send
    | with_reducible apply Changes.ite
    | exact crane_ne_order _

theorem Changes.strikePolicy {r s : State} (h : Changes r s) (c : CraneId) (p : List Byte) : Changes r (s.strikePolicy c p) := by
  unfold State.strikePolicy
  repeat' split
  all_goals repeat' first
    | with_reducible assumption
    | with_reducible apply Changes.goIdle
    | with_reducible apply Changes.enterState
    | with_reducible apply Changes.raiseFault
    | with_reducible apply Changes.startBackoffTimer

theorem Changes.missOffer {r s : State} (h : Changes r s) (c : CraneId) (p : List Byte) : Changes r (s.missOffer c p) := by
  unfold State.missOffer
  dsimp only
  apply Changes.strikePolicy
  apply Changes.setCrane
  · exact Changes.fall (Changes.giveBack h _) _ _
  · rfl
  · exact Or.inl (Nat.min_le_right ..)

theorem Changes.refuseOffer {r s : State} (h : Changes r s) (c : CraneId) (n : BitVec 8) (x : Nat) (p : List Byte) : Changes r (s.refuseOffer c n x p) := by
  unfold State.refuseOffer
  all_goals try dsimp only
  all_goals repeat' first
    | with_reducible assumption
    | with_reducible apply Changes.missOffer
    | with_reducible apply Changes.late
    | with_reducible apply Changes.stale
    | with_reducible apply Changes.setCrane
    | with_reducible apply Changes.ite
    | with_reducible apply Changes.ite
    | rfl
    | exact Or.inr (Nat.le_refl _)

theorem Changes.answerLate {r s : State} (h : Changes r s) (c : CraneId) (n : BitVec 8) (p : List Byte) : Changes r (s.answerLate c n p) := by
  unfold State.answerLate
  repeat' split
  all_goals repeat' first
    | with_reducible assumption
    | with_reducible apply Changes.late
    | with_reducible apply Changes.stale

theorem Changes.clearedRail {r s : State} (h : Changes r s) (c : CraneId) (bay : Nat) (p : List Byte) : Changes r (s.clearedRail c bay p) := by
  unfold State.clearedRail
  repeat' split
  all_goals repeat' first
    | with_reducible assumption
    | with_reducible apply Changes.shrink
    | with_reducible apply Changes.raiseFault

theorem Changes.returnFromClear {r s : State} (h : Changes r s) (c : CraneId) (b : Bool) : Changes r (s.returnFromClear c b) := by
  unfold State.returnFromClear
  repeat' split
  all_goals try dsimp only
  all_goals repeat' first
    | with_reducible assumption
    | with_reducible apply Changes.sendPark
    | with_reducible apply Changes.enterState
    | with_reducible apply Changes.raise
    | with_reducible apply Changes.ite

theorem Changes.selectClaimant {r s : State} (h : Changes r s) (c : CraneId) : Changes r (s.selectClaimant c) := by
  unfold State.selectClaimant
  repeat' split
  all_goals repeat' first
    | with_reducible assumption
    | with_reducible apply Changes.raise

theorem Changes.cleared {r s : State} (h : Changes r s) (c : CraneId) (x : Point) (p : List Byte) : Changes r (s.cleared c x p) := by
  unfold State.cleared
  repeat' split
  all_goals try dsimp only
  all_goals repeat' first
    | with_reducible assumption
    | with_reducible apply Changes.selectClaimant
    | with_reducible apply Changes.returnFromClear
    | with_reducible apply Changes.updOwn
    | with_reducible apply Changes.stopParkTimer
    | with_reducible apply Changes.setPosition
    | with_reducible apply Changes.clearedRail
    | with_reducible apply Changes.stale

theorem Changes.parked {r s : State} (h : Changes r s) (c : CraneId) (p : List Byte) : Changes r (s.parked c p) := by
  unfold State.parked
  repeat' split
  all_goals try dsimp only
  all_goals repeat' first
    | with_reducible assumption
    | with_reducible apply Changes.enterState
    | with_reducible apply Changes.shrink
    | with_reducible apply Changes.setPosition
    | with_reducible apply Changes.stopParkTimer
    | with_reducible apply Changes.stale

theorem Changes.faultTreats {r s : State} (h : Changes r s) (c : CraneId) : Changes r (s.faultTreats c) := by
  unfold State.faultTreats
  repeat' split
  all_goals try dsimp only
  all_goals repeat' first
    | with_reducible assumption
    | with_reducible apply Changes.breakWork
    | with_reducible apply Changes.abandonClear
    | with_reducible apply Changes.stopParkTimer
    | with_reducible apply Changes.leaveBackoff
    | with_reducible apply Changes.setCrane
    | with_reducible apply Changes.ite
    | rfl
    | exact Or.inr (Nat.le_refl _)

theorem Changes.craneFault {r s : State} (h : Changes r s) (c : CraneId) (n : Nat) (p : List Byte) : Changes r (s.craneFault c n p) := by
  unfold State.craneFault
  all_goals try dsimp only
  all_goals repeat' first
    | with_reducible assumption
    | with_reducible apply Changes.enterState
    | with_reducible apply Changes.faultTreats
    | with_reducible apply Changes.raiseFault
    | with_reducible apply Changes.setCrane
    | with_reducible apply Changes.ite
    | rfl
    | exact Or.inr (Nat.le_refl _)

theorem Changes.recoverLoaded {r s : State} (h : Changes r s) (c : CraneId) (h' : Handle) : Changes r (s.recoverLoaded c h') := by
  unfold State.recoverLoaded
  all_goals try dsimp only
  all_goals repeat' first
    | with_reducible assumption
    | with_reducible apply Changes.startDeadline
    | with_reducible apply Changes.setParkOwed
    | with_reducible apply Changes.enterState
    | with_reducible apply Changes.fall
    | with_reducible apply Changes.updJob
    | with_reducible apply Changes.ite
    | with_reducible apply Changes.ite
    | (intro _; exact ⟨rfl, rfl, rfl⟩)

theorem Changes.recovered {r s : State} (h : Changes r s) (c : CraneId) (p : List Byte) : Changes r (s.recovered c p) := by
  unfold State.recovered
  repeat' split
  all_goals repeat' first
    | with_reducible assumption
    | with_reducible apply Changes.recoverLoaded
    | with_reducible apply Changes.goIdleOrPark
    | with_reducible apply Changes.fall
    | with_reducible apply Changes.stale

/-! ## Step reports -/

theorem Changes.unfit {r s : State} (h : Changes r s) (c : CraneId) (h' : Handle) (p : List Byte) : Changes r (s.unfit c h' p) := by
  unfold State.unfit
  repeat' split
  all_goals repeat' first
    | with_reducible assumption
    | with_reducible apply Changes.raiseFault
    | with_reducible apply Changes.stale

theorem Changes.reachStep {r s : State} (h : Changes r s) (c : CraneId) (j : Job) (x : Step) (xs : List Step) (p : List Byte) : Changes r (s.reachStep c j x xs p) := by
  unfold State.reachStep
  all_goals try dsimp only
  all_goals repeat' first
    | with_reducible assumption
    | with_reducible apply Changes.setPosition
    | with_reducible apply Changes.railReport
    | with_reducible apply Changes.stopDeadline

theorem Changes.advanceStep {r s : State} (h : Changes r s) (c : CraneId) : Changes r (s.advanceStep c) := by
  unfold State.advanceStep
  repeat' split
  all_goals try dsimp only
  all_goals repeat' first
    | with_reducible assumption
    | with_reducible apply Changes.setCrane
    | with_reducible apply Changes.ite
    | rfl
    | exact Or.inr (Nat.le_refl _)

theorem Changes.takePallet {r s : State} (h : Changes r s) (j : Job) : Changes r (s.takePallet j) := by
  unfold State.takePallet
  all_goals repeat' first
    | with_reducible assumption
    | with_reducible apply Changes.send
    | with_reducible apply Changes.setInput
    | with_reducible apply Changes.ite
    | exact crane_ne_order _
    | exact station_ne_order

theorem Changes.pickCarried {r s : State} (h : Changes r s) (j : Job) : Changes r (s.pickCarried j) := by
  unfold State.pickCarried
  split
  · exact Changes.updJob (Changes.pickMade h _ _) _ _ fun _ => ⟨rfl, rfl, rfl⟩
  · exact h

theorem Changes.pickEffects {r s : State} (h : Changes r s) (j : Job) : Changes r (s.pickEffects j) := by
  unfold State.pickEffects
  repeat' split
  all_goals repeat' first
    | with_reducible assumption
    | with_reducible apply Changes.takePallet
    | with_reducible apply Changes.pickCarried

theorem Changes.picked {r s : State} (h : Changes r s) (c : CraneId) (j : Job) (u : WorkUnit) (x : Step) (p : List Byte) : Changes r (s.picked c j u x p) := by
  unfold State.picked
  all_goals try dsimp only
  all_goals repeat' first
    | with_reducible assumption
    | with_reducible apply Changes.startDeadline
    | with_reducible apply Changes.advanceStep
    | with_reducible apply Changes.pickEffects
    | with_reducible apply Changes.updJob
    | with_reducible apply Changes.stopOfferTimer
    | with_reducible apply Changes.reachStep
    | with_reducible apply Changes.ite
    | (intro _; exact ⟨rfl, rfl, rfl⟩)

theorem Changes.dropAt {r s : State} (h : Changes r s) (j : Job) (c : Option CellAddr) (k : Option Class) (b : Bool) : Changes r (s.dropAt j c k b) := by
  unfold State.dropAt
  repeat' split
  all_goals try dsimp only
  all_goals repeat' first
    | with_reducible assumption
    | with_reducible apply Changes.recheckCell
    | with_reducible apply Changes.rewrite_q
    | with_reducible apply Changes.dropMade

theorem Changes.dropEffects {r s : State} (h : Changes r s) (j : Job) : Changes r (s.dropEffects j) := by
  unfold State.dropEffects
  repeat' split
  all_goals repeat' first
    | with_reducible assumption
    | with_reducible apply Changes.dropAt

theorem Changes.leaveUnit {r s : State} (h : Changes r s) (c : CraneId) (h' : Handle) : Changes r (s.leaveUnit c h') := by
  unfold State.leaveUnit
  repeat' split
  all_goals try dsimp only
  all_goals repeat' first
    | with_reducible assumption
    | with_reducible apply Changes.setCrane
    | with_reducible apply Changes.ite
    | rfl
    | exact Or.inr (Nat.le_refl _)

theorem Changes.nextStep {r s : State} (h : Changes r s) (c : CraneId) (x : Step) : Changes r (s.nextStep c x) := by
  unfold State.nextStep
  split
  · exact Changes.finishUnit h _
  · exact Changes.startDeadline h _ _

theorem Changes.closeDropped {r s : State} (h : Changes r s) (c : CraneId) (j : Job) (x : Step) : Changes r (s.closeDropped c j x) := by
  unfold State.closeDropped
  split
  · exact Changes.endRelocation (Changes.nextStep (Changes.closeStart h _ _ _ _) _ _) _ _
  · exact Changes.nextStep (Changes.close h _ _ _ _) _ _

theorem Changes.dropped {r s : State} (h : Changes r s) (c : CraneId) (j : Job) (u : WorkUnit) (x : Step) (p : List Byte) : Changes r (s.dropped c j u x p) :=
  Changes.closeDropped (Changes.leaveUnit (Changes.dropEffects (Changes.reachStep h _ _ _ _ _) _) _ _) _ _ _

theorem Changes.reportFinding {r s : State} (h : Changes r s) (c : CraneId) (j : Job) (d : CellAddr) (x : Finding) (k : FaultKind) (p : List Byte) : Changes r (s.reportFinding c j d x k p) := by
  unfold State.reportFinding
  all_goals try dsimp only
  all_goals repeat' first
    | with_reducible assumption
    | with_reducible apply Changes.offerActive
    | with_reducible apply Changes.raiseFault

theorem Changes.noteRedirect {r s : State} (h : Changes r s) (j : Job) (x y : CellAddr) : Changes r (s.noteRedirect j x y) := by
  unfold State.noteRedirect
  repeat' split
  all_goals repeat' first
    | with_reducible assumption
    | with_reducible apply Changes.offerNotice

theorem Changes.newDrop {r s : State} (h : Changes r s) (c : CraneId) (j : Job) (x y : CellAddr) : Changes r (s.newDrop c j x y) := by
  unfold State.newDrop
  refine Changes.noteRedirect (Changes.startDeadline (Changes.send ?_ _ _ (crane_ne_order _)) _ _) _ _ _
  have h1 := Changes.updOwn (Changes.updJob h j.handle (fun z => z.redrop y) fun z => by
    unfold Job.redrop; split <;> exact ⟨rfl, rfl, rfl⟩) c fun r => { r with granted := r.redirectTo y.bay }
  split
  · exact Changes.setCrane h1 _ _ rfl (Or.inr (Nat.le_refl _))
  · exact h1

theorem Changes.strandAt {r s : State} (h : Changes r s) (c : CraneId) (j : Job) (u : WorkUnit) : Changes r (s.strandAt c j u) := by
  unfold State.strandAt
  repeat' split
  all_goals try dsimp only
  all_goals repeat' first
    | with_reducible assumption
    | (with_reducible refine Changes.each _ (fun _ _ _ => ?_) ?_)
    | with_reducible apply Changes.fall
    | with_reducible apply Changes.returnToReady
    | with_reducible apply Changes.withdraw
    | with_reducible apply Changes.updJob
    | with_reducible apply Changes.ite
    | with_reducible apply Changes.ite
    | (intro _; exact ⟨rfl, rfl, rfl⟩)

theorem Changes.redirectDrop {r s : State} (h : Changes r s) (c : CraneId) (j : Job) (u : WorkUnit) (d : CellAddr) : Changes r (s.redirectDrop c j u d) := by
  unfold State.redirectDrop
  repeat' split
  · exact Changes.strandAt h _ _ _
  · next t ht => exact Changes.newDrop (h.reserveDrop _ _ ht) _ _ _ _
  · exact Changes.strandAt h _ _ _

theorem Changes.cellOccupied {r s : State} (h : Changes r s) (c : CraneId) (j : Job) (u : WorkUnit) (x : Step) (p : List Byte) : Changes r (s.cellOccupied c j u x p) := by
  unfold State.cellOccupied
  repeat' split
  all_goals try dsimp only
  all_goals repeat' first
    | with_reducible assumption
    | with_reducible apply Changes.redirectDrop
    | with_reducible apply Changes.reportFinding
    | with_reducible apply Changes.foundOccupied
    | with_reducible apply Changes.reachStep

theorem Changes.emptyRetrieval {r s : State} (h : Changes r s) (c : CraneId) (j : Job) (d : CellAddr) : Changes r (s.emptyRetrieval c j d) := by
  unfold State.emptyRetrieval
  all_goals try dsimp only
  all_goals repeat' first
    | with_reducible assumption
    | with_reducible apply Changes.evaluate
    | with_reducible apply Changes.updBound
    | with_reducible apply Changes.updJob
    | with_reducible apply Changes.dropPartner
    | with_reducible apply Changes.ite
    | (intro _; exact ⟨rfl, rfl, rfl⟩)

theorem Changes.emptyEffects {r s : State} (h : Changes r s) (c : CraneId) (j : Job) (d : CellAddr) : Changes r (s.emptyEffects c j d) := by
  unfold State.emptyEffects
  split
  · exact Changes.finishUnit (Changes.emptyRetrieval h _ _ _) _
  · exact Changes.endRelocation (Changes.finishUnit (Changes.closeStart h _ _ _ _) _) _ _
  · exact Changes.finishUnit h _

theorem Changes.cellEmpty {r s : State} (h : Changes r s) (c : CraneId) (j : Job) (u : WorkUnit) (x : Step) (p : List Byte) : Changes r (s.cellEmpty c j u x p) := by
  unfold State.cellEmpty
  repeat' split
  all_goals try dsimp only
  all_goals repeat' first
    | with_reducible assumption
    | with_reducible apply Changes.emptyEffects
    | with_reducible apply Changes.reportFinding
    | with_reducible apply Changes.foundEmpty
    | with_reducible apply Changes.reachStep

/-! ## Timers -/

theorem Changes.offerLapse {r s : State} (h : Changes r s) (c : CraneId) : Changes r (s.offerLapse c) := by
  unfold State.offerLapse
  repeat' split
  all_goals repeat' first
    | with_reducible assumption
    | with_reducible apply Changes.missOffer
    | with_reducible apply Changes.withdrawRedirect
    | with_reducible apply Changes.stopOfferTimer

theorem Changes.holdBackEnds {r s : State} (h : Changes r s) (c : CraneId) : Changes r (s.holdBackEnds c) := by
  unfold State.holdBackEnds
  repeat' split
  all_goals repeat' first
    | with_reducible assumption
    | with_reducible apply Changes.raise
    | with_reducible apply Changes.stopHoldBack

theorem Changes.parkTimeout {r s : State} (h : Changes r s) (c : CraneId) : Changes r (s.parkTimeout c) := by
  unfold State.parkTimeout
  all_goals repeat' first
    | with_reducible assumption
    | with_reducible apply Changes.raiseFault
    | with_reducible apply Changes.enterState

theorem Changes.parkLapse {r s : State} (h : Changes r s) (c : CraneId) : Changes r (s.parkLapse c) := by
  unfold State.parkLapse
  repeat' split
  all_goals repeat' first
    | with_reducible assumption
    | with_reducible apply Changes.parkTimeout
    | with_reducible apply Changes.stopParkTimer
    | with_reducible apply Changes.abandonClear

theorem Changes.backoffEnds {r s : State} (h : Changes r s) (c : CraneId) : Changes r (s.backoffEnds c) := by
  unfold State.backoffEnds
  repeat' split
  all_goals try dsimp only
  all_goals repeat' first
    | with_reducible assumption
    | with_reducible apply Changes.enterState
    | with_reducible apply Changes.send
    | with_reducible apply Changes.leaveBackoff
    | with_reducible apply Changes.stopBackoffTimer
    | with_reducible apply Changes.ite
    | exact crane_ne_order _

theorem Changes.deadlineEnds {r s : State} (h : Changes r s) (c : CraneId) : Changes r (s.deadlineEnds c) := by
  unfold State.deadlineEnds
  repeat' split
  all_goals try dsimp only
  all_goals repeat' first
    | with_reducible assumption
    | with_reducible apply Changes.raiseFault
    | with_reducible apply Changes.updJob
    | with_reducible apply Changes.stopDeadline
    | with_reducible apply Changes.ite
    | (intro _; exact ⟨rfl, rfl, rfl⟩)

theorem Changes.ageTick {r s : State} (h : Changes r s) : Changes r (s.ageTick) := by
  unfold State.ageTick
  repeat' split
  all_goals repeat' first
    | with_reducible assumption
    | with_reducible apply Changes.ageCount

/-! ## Events between the blocks, and commands -/

theorem Changes.handOver {r s : State} (h : Changes r s) (h' : Handle) (l : OrderLink) (p : List Byte) : Changes r (s.handOver h' l p) := by
  unfold State.handOver
  repeat' split
  all_goals first
    | exact h
    | exact Changes.matchStore h _ _ _ _ _ _

theorem Changes.fillFrom {r s : State} (h : Changes r s) (l : OrderLink) (hs : List Handle) : Changes r (s.fillFrom l hs) := by
  induction hs generalizing s with
  | nil => exact Changes.setClosingWait h _ _
  | cons x xs ih =>
    unfold State.fillFrom
    repeat' split
    · next hr _ n _ => exact ih (Changes.leaveIfPaid (Changes.payNotice h _ _ _ hr) _)
    · exact ih h
    · exact Changes.setClosingWait h _ _

theorem Changes.withdrawJob {r s : State} (h : Changes r s) (c : CraneId) (h' : Handle) : Changes r (s.withdrawJob c h') := by
  unfold State.withdrawJob
  repeat' split
  all_goals try dsimp only
  all_goals repeat' first
    | with_reducible assumption
    | (with_reducible refine Changes.each _ (fun _ _ _ => ?_) ?_)
    | with_reducible apply Changes.returnToReady
    | with_reducible apply Changes.withdraw

theorem Changes.unmatch {r s : State} (h : Changes r s) (j : Job) : Changes r (s.unmatch j) := by
  unfold State.unmatch
  repeat' split
  all_goals repeat' first
    | with_reducible assumption
    | with_reducible apply Changes.setInput

theorem Changes.cancelJob {r s : State} (h : Changes r s) (j : Job) : Changes r (s.cancelJob j) := by
  unfold State.cancelJob
  repeat' split
  all_goals try dsimp only
  all_goals repeat' first
    | with_reducible assumption
    | with_reducible apply Changes.close
    | with_reducible apply Changes.withdrawJob
    | with_reducible apply Changes.unmatch
    | with_reducible apply Changes.afterWithdraw

theorem Changes.resolveRewrite {r s : State} (h : Changes r s) (j : Job) (d : Disposition) : Changes r (s.resolveRewrite j d) := by
  unfold State.resolveRewrite
  repeat' split
  all_goals repeat' first
    | with_reducible assumption
    | with_reducible apply Changes.rewrite_q

theorem Changes.resolveCrane {r s : State} (h : Changes r s) (c : CraneId) : Changes r (s.resolveCrane c) := by
  unfold State.resolveCrane
  repeat' split
  all_goals try dsimp only
  all_goals repeat' first
    | with_reducible assumption
    | with_reducible apply Changes.finishUnit
    | with_reducible apply Changes.setCrane
    | with_reducible apply Changes.ite
    | rfl
    | exact Or.inr (Nat.le_refl _)

theorem Changes.declare {r s : State} (h : Changes r s) (j : Job) (d : Disposition) (k : Option Class) :
    Changes r (s.declare j d k).1 := by
  unfold State.declare
  split
  · exact Changes.declareFull h _ _ _
  · exact h

theorem Changes.recheckDeclared {r s : State} (h : Changes r s) (j : Job) (d : Disposition) (b : Bool) :
    Changes r (s.recheckDeclared j d b) := by
  unfold State.recheckDeclared
  split
  · exact Changes.recheckCell h _ _
  · exact h

theorem Changes.resolveJob {r s : State} (h : Changes r s) (j : Job) (d : Disposition) (k : Option Class) :
    Changes r (s.resolveJob j d k).1 := by
  unfold State.resolveJob
  have h1 := Changes.recheckDeclared (Changes.resolveRewrite (h.declare j d k) j d) j d (s.declare j d k).2
  dsimp only
  split
  · exact Changes.close h1 _ _ _ _
  · exact Changes.resolveCrane (Changes.close (Changes.withdraw h1 _ _) _ _ _ _) _

theorem Changes.serviceOut {r s : State} (h : Changes r s) (c : CraneId) : Changes r (s.serviceOut c) := by
  unfold State.serviceOut
  repeat' split
  all_goals try dsimp only
  all_goals repeat' first
    | with_reducible assumption
    | (with_reducible refine Changes.each _ (fun _ _ _ => ?_) ?_)
    | with_reducible apply Changes.enterState
    | with_reducible apply Changes.leaveBackoff
    | with_reducible apply Changes.endUnit
    | with_reducible apply Changes.returnToReady
    | with_reducible apply Changes.withdraw
    | with_reducible apply Changes.setCrane
    | with_reducible apply Changes.ite
    | rfl
    | exact Or.inr (Nat.le_refl _)

theorem Changes.serviceIn {r s : State} (h : Changes r s) (c : CraneId) : Changes r (s.serviceIn c) := by
  unfold State.serviceIn
  split
  · have h1 := Changes.setCrane h c { s.crane c with strikes := 0, leaveService := false } rfl (Or.inl (Nat.zero_le _))
    dsimp only
    split
    · exact Changes.sendPark h1 _
    · exact Changes.enterState (Changes.send h1 _ _ (crane_ne_order _)) _ _
  · exact Changes.setCrane h _ _ rfl (Or.inr (Nat.le_refl _))

theorem Changes.parkEntry {r s : State} (h : Changes r s) (m : Option (AisleId × End)) : Changes r (s.parkEntry m) := by
  unfold State.parkEntry
  repeat' split
  all_goals try dsimp only
  all_goals repeat' first
    | with_reducible assumption
    | with_reducible apply Changes.updEntry
    | with_reducible apply Changes.select

theorem Changes.testMapping {r s : State} (h : Changes r s) (m : Option (AisleId × End)) : Changes r (s.testMapping m) := by
  unfold State.testMapping
  repeat' split
  all_goals repeat' first
    | with_reducible assumption
    | with_reducible apply Changes.testHold

theorem Changes.waveEntered {r s : State} (h : Changes r s) (w : Option WaveRef) : Changes r (s.waveEntered w) := by
  unfold State.waveEntered
  repeat' split
  all_goals repeat' first
    | with_reducible assumption
    | with_reducible apply Changes.updWave

theorem Changes.takeDock {r s : State} (h : Changes r s) (w : Wave) (n : Nat) : Changes r (s.takeDock w n) := by
  unfold State.takeDock
  all_goals repeat' first
    | with_reducible assumption
    | with_reducible apply Changes.reEvaluate
    | with_reducible apply Changes.updWave

end Sys2Proof.Machine
end

