-- ==== Sys2Proof/Laws/Checks.lean ====
section
/-! SUPPORT. The laws of a run as tests that a concrete state can be put to: each check is decidable, and a state that
passes it has the law. The witnesses of the statements use them. -/

namespace Sys2Proof.Machine

/-- Every cell of the configured aisles. -/
def State.everyCell (s : State) : List CellAddr :=
  (List.finRange 8).flatMap fun a => ((s.profile? a).map fun p => p.geo.allCells a).getD []

theorem Geometry.mem_allCells {g : Geometry} {c : CellAddr} (h : g.hasCell c = true) : c ∈ g.allCells c.aisle := by
  obtain ⟨a, side, bay, level, depth⟩ := c
  simp only [Geometry.hasCell, Bool.and_eq_true, Bool.or_eq_true, decide_eq_true_eq] at h
  obtain ⟨⟨⟨⟨h1, h2⟩, h3⟩, h4⟩, h5⟩ := h
  simp only [Geometry.allCells, Geometry.cellsIn, List.mem_flatMap, List.mem_map]
  refine ⟨side, by cases side <;> simp, bay, ?_, level, ?_, depth, ?_, rfl⟩
  · rw [List.mem_range'_1]; omega
  · rw [List.mem_range'_1]; omega
  · cases depth
    · split <;> simp
    · simp_all

/-- A reserved cell is a cell of a configured aisle. -/
theorem State.mem_everyCell {s : State} {c : CellAddr} (h : (s.cell c).state.isReserved = true) : c ∈ s.everyCell := by
  unfold State.cell at h
  split at h
  · next p hp =>
    split at h
    · next hc =>
      refine List.mem_flatMap.mpr ⟨c.aisle, List.mem_finRange _, ?_⟩
      rw [hp]
      exact Geometry.mem_allCells hc
    · cases h
  · cases h

/-- The slots of the Job Pool, each with its number. -/
def State.numberedSlots (s : State) : List (Slot × Fin 256) := s.jpl.slots.toList.zip (List.finRange 256)

theorem State.mem_numberedSlots (s : State) (x : Slot) (i : Fin 256) : (x, i) ∈ s.numberedSlots ↔ x = s.slot i := by
  unfold State.numberedSlots State.slot
  rw [List.mem_iff_getElem]
  simp only [List.length_zip, Vector.length_toList, List.length_finRange, Nat.min_self, List.getElem_zip,
    Vector.getElem_toList, List.getElem_finRange, Prod.mk.injEq]
  constructor
  · rintro ⟨n, hn, rfl, rfl⟩
    rfl
  · rintro rfl
    exact ⟨i.val, i.isLt, rfl, by simp⟩

/-! ## The laws of `Lawful` -/

/-- The check of `Lawful`. -/
abbrev LawfulCheck (s : State) : Prop :=
  (∀ a : AisleId, tableWf (s.aisle a).cells = true ∧ ((s.hold a).gack = true ↔ (s.hold a).state = .held))
  ∧ (∀ c ∈ s.everyCell, s.isDoubleDeep c.aisle = true → c.depth = .deep → (s.cell c).state.isReserved = true →
      (s.cell (nearOf c)).state = .empty)
  ∧ (∀ l ∈ [OrderLink.o0, .o1], (s.queue l).length ≤ Config.queueCapacity ∧ (s.liu.attn.get l = true ↔ s.queue l ≠ []))
  ∧ (∀ c : CraneId, (s.crane c).strikes ≤ 7 ∧ ∀ m ∈ (s.crane c).mapping, s.craneAt m.1 m.2 = some c)
  ∧ s.swu.waves.length ≤ Config.waveCapacity
  ∧ ∀ x ∈ s.numberedSlots, ∀ j ∈ x.1.job, j.age ≤ 255 ∧ j.handle = { slot := x.2, gen := x.1.gen }

theorem lawful_of_check {s : State} (h : LawfulCheck s) : Lawful s := by
  obtain ⟨ha, hp, hq, hc, hw, hj⟩ := h
  exact
    { map := fun a => (ha a).1, gack := fun a => (ha a).2, wave := hw
      pair := fun c h1 h2 h3 => hp c (State.mem_everyCell h3) h1 h2 h3
      queue := fun l => hq l (by cases l <;> simp)
      strike := fun c => (hc c).1, role := fun c a e hm => (hc c).2 (a, e) hm
      age := fun i j h => (hj _ ((s.mem_numberedSlots _ i).mpr rfl) j h).1
      handle := fun i j h => (hj _ ((s.mem_numberedSlots _ i).mpr rfl) j h).2 }

/-! ## The laws of `PoolLawful` -/

/-- The check of the counts of `PoolLawful`: the live counts of the links and of the waves, and the reserve. -/
abbrev CountsCheck (s : State) : Prop :=
  (∀ l ∈ [OrderLink.o0, .o1], s.jpl.live.get l = s.jobs.countP fun j => decide (j.origin = .order l))
  ∧ (s.jobs.countP fun j => decide (j.origin ≠ .internal)) ≤ 248
  ∧ (s.swu.waves.map (·.id)).Nodup
  ∧ (∀ x ∈ s.swu.waves, x.live = s.jobs.countP fun j => decide (j.wave.map (·.id) = some x.id))
  ∧ ∀ j ∈ s.jobs, ∀ w ∈ j.wave, ∃ x ∈ s.swu.waves, x.id = w.id

/-- The check of `PoolLawful`: the counts, and the free list has the free slots in rising order. -/
abbrev PoolCheck (s : State) : Prop :=
  s.jpl.freeList = (s.numberedSlots.filter fun x => x.1.job.isNone).map (·.2) ∧ CountsCheck s

theorem poolLawful_of_check {s : State} (h : PoolCheck s) : PoolLawful s := by
  obtain ⟨hf, hl, hr, hw⟩ := h
  refine ⟨⟨?_, fun i => ?_⟩, fun l => hl l (by cases l <;> simp), hr, hw⟩
  · rw [hf]
    refine List.Sublist.nodup ((List.filter_sublist).map _) ?_
    unfold State.numberedSlots
    rw [List.map_snd_zip (by simp)]
    exact List.nodup_finRange 256
  · rw [hf]
    simp only [List.mem_map, List.mem_filter, Prod.exists, exists_eq_right, State.mem_numberedSlots, exists_eq_left,
      Option.isNone_iff_eq_none]

/-! ## The laws of `WorkLawful` -/

/-- Whether a reserved cell is held by a live job as R11 says. -/
def State.heldRightly (s : State) (c : CellAddr) : Bool :=
  match (s.cell c).state with
  | .inReserved h => (s.job? h).any fun j => decide (j.state ≠ .closing ∧ j.dropCell = some c)
  | .outReserved h _ => (s.job? h).any fun j => decide (j.state ≠ .closing ∧ j.state ≠ .loaded ∧ j.sourceCell = some c)
  | _ => true

/-- The check of `ReservationLaw`. -/
abbrev ReservationCheck (s : State) : Prop :=
  (∀ c ∈ s.everyCell, s.heldRightly c = true)
  ∧ ∀ j ∈ s.jobs, j.state ≠ .closing →
      (∀ c ∈ j.dropCell, s.hasCell j.aisle c = true ∧ (j.stranded = false → (s.cell c).state = .inReserved j.handle))
      ∧ ∀ c ∈ j.sourceCell, s.hasCell j.aisle c = true
        ∧ (j.state ≠ .loaded → ∃ k : Class, (s.cell c).state = .outReserved j.handle k)

theorem reservationLaw_of_check {s : State} (h : ReservationCheck s) : ReservationLaw s := by
  obtain ⟨hc, hj⟩ := h
  refine ⟨fun c g _ hs => ?_, fun c g k _ hs => ?_, hj⟩
  all_goals
    have hr := hc c (State.mem_everyCell (by rw [hs]; rfl))
    unfold State.heldRightly at hr
    rw [hs, Option.any_eq_true] at hr
    obtain ⟨j, hj, hp⟩ := hr
    exact ⟨j, hj, of_decide_eq_true hp⟩

/-- The check of `UnitLaw`. -/
abbrev UnitCheck (s : State) : Prop :=
  (∀ c : CraneId, ∀ u ∈ (s.crane c).unit, u.jobs ≠ [] ∧ u.jobs.Nodup ∧ ∀ h ∈ u.jobs, ∃ j ∈ s.job? h,
      j.state.atWork = true ∧ j.unit = some { crane := c, number := u.number })
  ∧ ∀ j ∈ s.jobs, (j.state.atWork = true ↔ j.unit ≠ none)
      ∧ ∀ w ∈ j.unit, ∃ u ∈ (s.crane w.crane).unit, u.number = w.number ∧ j.handle ∈ u.jobs

/-- The check of `CraneUnitLaw`. -/
abbrev CraneUnitCheck (s : State) : Prop :=
  ∀ c : CraneId, ((s.crane c).mapping = none → (s.crane c).state = .absent)
    ∧ ((s.crane c).state = .offered → ∃ u ∈ (s.crane c).unit, ∀ h ∈ u.jobs, ∃ j ∈ s.job? h, j.state = .offered)
    ∧ ((s.crane c).state = .working → ∃ u ∈ (s.crane c).unit, (∀ h ∈ u.jobs, ∃ j ∈ s.job? h, j.state ≠ .offered)
        ∧ ∀ h ∈ u.jobs, ∀ j ∈ s.job? h, j.state = .loaded → ∀ g ∈ u.jobs, ∀ k ∈ s.job? g, k.state = .loaded → g = h)
    ∧ ((s.crane c).state = .faulted → ∀ u ∈ (s.crane c).unit, ∃ h ∈ u.jobs, ∃ j ∈ s.job? h, u.jobs = [h]
        ∧ j.state = .loaded ∧ j.stranded = true)
    ∧ ((s.crane c).state ∉ [CraneState.offered, .working, .faulted] → (s.crane c).unit = none)

theorem craneUnitLaw_of_check {s : State} (h : CraneUnitCheck s) : CraneUnitLaw s := by
  intro c
  obtain ⟨h1, h2, h3, h4, h5⟩ := h c
  refine ⟨h1, ?_⟩
  split
  · next hs => exact h2 hs
  · next hs => exact h3 hs
  · next hs =>
    intro u hu
    obtain ⟨g, -, j, hj, hg, hl, hst⟩ := h4 hs u hu
    exact ⟨g, j, hg, hj, hl, hst⟩
  · next n1 n2 n3 => exact h5 (by simpa using ⟨n1, n2, n3⟩)

/-- The steps of a stranded job's unit: its drop, at the station of its crane's end for a retrieve, else at a cell. -/
def State.strandedRightly (s : State) (a : AisleId) (e : End) (j : Job) (h : Handle) (u : WorkUnit) : Bool :=
  match u.remaining with
  | [⟨.drop, p, g⟩] => decide (g = h) &&
      (if j.kind = .retrieve then decide (p = .station a true e)
       else match p with
        | .cell d => s.hasCell a d
        | _ => false)
  | _ => false

/-- The order of a unit's jobs: one without a partner, or a store and a retrieve that name each other. -/
def State.pairedRightly (s : State) (u : WorkUnit) : Bool :=
  match u.jobs with
  | [h] => (s.job? h).all fun j => decide (j.partner = none)
  | [g, h] => (s.job? g).any (fun j => decide (j.kind = .store ∧ j.partner = some h))
      && (s.job? h).any fun k => decide (k.kind = .retrieve ∧ k.partner = some g ∧ k.state ≠ .loaded)
  | [] => true
  | _ => false

/-- The check of `StepsLaw`. -/
abbrev StepsCheck (s : State) : Prop :=
  ∀ c : CraneId, ∀ m ∈ (s.crane c).mapping, ∀ u ∈ (s.crane c).unit,
    1 ≤ u.current
    ∧ ((s.crane c).state = .offered → u.current = 1)
    ∧ ((∀ h ∈ u.jobs, ∀ j ∈ s.job? h, j.stranded = false) →
        u.remaining = (u.jobs.filterMap s.job?).flatMap fun j => j.stepsLeft m.1 m.2)
    ∧ (∀ h ∈ u.jobs, ∀ j ∈ s.job? h, j.aisle = m.1
        ∧ (j.stranded = true → u.jobs = [h] ∧ s.strandedRightly m.1 m.2 j h u = true))
    ∧ s.pairedRightly u = true

theorem stepsLaw_of_check {s : State} (h : StepsCheck s) : StepsLaw s := by
  intro c a e u hm hu
  obtain ⟨h1, h2, h3, h4, h5⟩ := h c (a, e) hm u hu
  refine ⟨h1, h2, h3, fun g hg j hj => ⟨(h4 g hg j hj).1, fun hs => ?_⟩, ?_, ?_⟩
  · obtain ⟨h6, h7⟩ := (h4 g hg j hj).2 hs
    refine ⟨h6, ?_⟩
    unfold State.strandedRightly at h7
    split at h7
    · next p f hr =>
      rw [Bool.and_eq_true, decide_eq_true_eq] at h7
      obtain ⟨rfl, h8⟩ := h7
      refine ⟨p, hr, ?_⟩
      split at h8
      · next hk => rw [if_pos hk]; exact of_decide_eq_true h8
      · next hk =>
        rw [if_neg hk]
        split at h8
        · next d => exact ⟨d, rfl, h8⟩
        · cases h8
    · cases h7
  · intro g hg j hj
    unfold State.pairedRightly at h5
    rw [hg] at h5
    simpa [hj] using h5
  · intro g f more hg
    unfold State.pairedRightly at h5
    rw [hg] at h5
    cases more with
    | cons x more => cases h5
    | nil =>
      rw [Bool.and_eq_true, Option.any_eq_true, Option.any_eq_true] at h5
      obtain ⟨⟨j, hj, hp⟩, k, hk, hq⟩ := h5
      exact ⟨rfl, ⟨j, hj, of_decide_eq_true hp⟩, k, hk, of_decide_eq_true hq⟩

/-- The check of `RedirectLaw`. -/
abbrev RedirectCheck (s : State) : Prop :=
  (∀ c : CraneId, ∀ r ∈ (s.crane c).redirect, (s.crane c).state = .working ∧ ∃ j ∈ s.job? r.job,
      j.state = .ready ∧ j.promised = some { crane := c, number := r.number }
      ∧ ∀ m ∈ (s.crane c).mapping, j.aisle = m.1 ∧ r.steps = j.stepsLeft m.1 m.2)
  ∧ ∀ j ∈ s.jobs, ∀ w ∈ j.promised, ∃ r ∈ (s.crane w.crane).redirect, r.number = w.number ∧ r.job = j.handle

theorem redirectLaw_of_check {s : State} (h : RedirectCheck s) : RedirectLaw s := by
  refine ⟨fun c r hr => ?_, h.2⟩
  obtain ⟨h1, j, hj, h2, h3, h4⟩ := h.1 c r hr
  exact ⟨h1, j, hj, h2, h3, fun a e hm => h4 (a, e) hm⟩

/-- The check of `JobLaw`, in two parts: the cells a job records, and its state's fields. -/
abbrev JobCellsCheck (s : State) : Prop :=
  ∀ j ∈ s.jobs,
    (j.kind = .retrieve → j.chosen ≠ none → j.state.atWork = true ∨ j.promised ≠ none ∨ j.state = .closing)
    ∧ (j.kind = .retrieve → j.target = none)
    ∧ (j.kind = .retrieve → (j.state.atWork = true ∨ j.promised ≠ none) → j.chosen ≠ none)
    ∧ (j.kind = .store → j.target = none ∧ (j.state.atWork = true ∨ j.state = .ready → j.chosen ≠ none))
    ∧ (j.kind = .store → j.state = .pending → j.chosen = j.destination)

/-- The second part of the check of `JobLaw`. -/
abbrev JobStateCheck (s : State) : Prop :=
  ∀ j ∈ s.jobs,
    s.configured j.aisle = true
    ∧ (j.kind = .relocate → j.chosen ≠ none ∧ j.target ≠ none ∧ j.state ≠ .pending)
    ∧ (j.stranded = true → j.state = .loaded ∨ j.state = .closing)
    ∧ (j.partner ≠ none → j.state.atWork = true)
    ∧ (j.state = .closing ↔ j.notice ≠ none)
    ∧ (∀ c ∈ j.candidates, s.hasCell j.aisle c = true)

theorem jobLaw_of_checks {s : State} (h : JobCellsCheck s) (g : JobStateCheck s) : JobLaw s := by
  intro j hj
  obtain ⟨h1, h2, h3, h4, h5⟩ := h j hj
  obtain ⟨g1, g2⟩ := g j hj
  exact ⟨g1, h1, h2, h3, h4, h5, g2⟩

/-- The check of the laws of output credits and of wave windows. -/
abbrev FlowCheck (s : State) : Prop :=
  (∀ a : AisleId, ∀ e ∈ [End.front, .rear], (s.credit a e).inFlight = s.jobs.countP (s.isBound a e))
  ∧ ∀ j ∈ s.jobs, j.kind = .retrieve → (j.state = .ready ∨ j.state.atWork = true) → s.inWindow j = true

theorem creditLaw_of_check {s : State} (h : FlowCheck s) : CreditLaw s := fun a e => h.1 a e (by cases e <;> simp)

/-- All the checks, as one test. -/
def State.passesChecks (s : State) : Bool :=
  decide (LawfulCheck s) && decide (PoolCheck s) && decide (ReservationCheck s) && decide (UnitCheck s)
    && decide (CraneUnitCheck s) && decide (StepsCheck s) && decide (RedirectCheck s) && decide (JobCellsCheck s)
    && decide (JobStateCheck s) && decide (FlowCheck s)

/-- A state that passes the test has the laws. -/
theorem State.passesChecks_laws {s : State} (h : s.passesChecks = true) : Lawful s ∧ PoolLawful s ∧ WorkLawful s := by
  simp only [State.passesChecks, Bool.and_eq_true, decide_eq_true_eq] at h
  obtain ⟨⟨⟨⟨⟨⟨⟨⟨⟨h1, h2⟩, h3⟩, h4⟩, h5⟩, h6⟩, h7⟩, h8⟩, h9⟩, h10⟩ := h
  exact ⟨lawful_of_check h1, poolLawful_of_check h2,
    { reservation := reservationLaw_of_check h3, unit := h4, crane := craneUnitLaw_of_check h5,
      steps := stepsLaw_of_check h6, redirect := redirectLaw_of_check h7, job := jobLaw_of_checks h8 h9,
      credit := creditLaw_of_check h10, window := h10.2 }⟩

end Sys2Proof.Machine
end

