-- ==== Sys2Proof/Laws/Invariants.lean ====
section
/-! SUPPORT. What the elementary changes keep: the fields that none of the shared operations touches, and the laws that
each of them leaves standing. -/

namespace Sys2Proof.Machine

/-! ## Fields no shared operation touches -/

/-- The part of the state that no shared operation touches: the queue of commands, the clock, the Fault Log, the
receivers and what the links keep of their commands, the settings, the crane map, the sources of the holds, the
geometries, the frames a restart lets complete, and the frames that wait on the order links. -/
structure Fixed where
  pending : List Instr
  now : Nat
  flg : FaultLog
  rate : LineRate
  rx : Vector Receiver 15
  finishing : Vector (Option Message) 15
  active : PerLink Bool
  lastFetched : PerLink (List Notice)
  restarting : Option RestartPending
  quota : PerLink Nat
  aging : AgingMode × Nat × Nat
  allotment : Bool × Bool × Nat × Vector Nat 4 × Nat
  tracking : Nat × Nat × Nat × Nat × Nat × RefusalPolicy
  mappings : CraneId → Option (AisleId × End)
  sources : AisleId → HoldSources
  geometry : AisleId → Option Geometry
  orderTx : OrderLink → List Message

/-- That part of a state. -/
def fixed (s : State) : Fixed where
  pending := s.pending
  now := s.now
  flg := s.flg
  rate := s.liu.rate
  rx := s.liu.rx
  finishing := s.liu.finishing
  active := s.liu.active
  lastFetched := s.liu.lastFetched
  restarting := s.liu.restarting
  quota := s.jpl.quota
  aging := (s.jpl.agingMode, s.jpl.startCount, s.jpl.weight)
  allotment := (s.ale.pairing, s.ale.preemption, s.ale.tPair, s.ale.offsets, s.ale.waste)
  tracking := (s.crt.tOffer, s.crt.tPark, s.crt.tBackoff, s.crt.factor, s.crt.strikeLimit, s.crt.policy)
  mappings := fun c => (s.crane c).mapping
  sources := fun a => (s.hold a).sources
  geometry := fun a => (s.profile? a).map (·.geo)
  orderTx := fun l => s.tx (.order l)

theorem fixed_setCrane (s : State) (c : CraneId) (x : Crane) (h : x.mapping = (s.crane c).mapping) :
    fixed (s.setCrane c x) = fixed s := by
  have : (fun d => ((s.setCrane c x).crane d).mapping) = fun d => (s.crane d).mapping := by
    funext d
    rw [State.setCrane_crane]
    split <;> simp_all
  unfold fixed
  rw [this]
  rfl

theorem fixed_setTx (s : State) (k : Link) (ms : List Message) (h : ∀ l, k ≠ .order l) :
    fixed (s.setTx k ms) = fixed s := by
  have : (fun l => (s.setTx k ms).tx (.order l)) = fun l => s.tx (.order l) := by
    funext l
    rw [State.setTx_tx, if_neg (h l).symm]
  unfold fixed
  rw [this]
  rfl

theorem fixed_setHoldState (s : State) (a : AisleId) (x : HoldState) : fixed (s.setHoldState a x) = fixed s := by
  have : (fun b => ((s.setHoldState a x).hold b).sources) = fun b => (s.hold b).sources := by
    funext b
    rw [State.setHoldState, State.setHold_hold]
    split <;> simp_all
  unfold fixed
  rw [this]
  rfl

theorem fixed_setAisle (s : State) (a : AisleId) (x : Aisle)
    (h : x.profile.map (·.geo) = (s.profile? a).map (·.geo)) : fixed (s.setAisle a x) = fixed s := by
  have : (fun b => ((s.setAisle a x).profile? b).map (·.geo)) = fun b => (s.profile? b).map (·.geo) := by
    funext b
    rw [State.profile?, State.setAisle_aisle]
    split
    · next hb => rw [h, hb]
    · rfl
  unfold fixed
  rw [this]
  rfl

theorem fixed_putCell (s : State) (c : CellAddr) (x : Cell) : fixed (s.putCell c x) = fixed s := by
  unfold State.putCell
  repeat' split
  all_goals first
    | rfl
    | exact fixed_setAisle _ _ _ rfl

/-- What a job's entry and a job's leaving touch: the Job Pool alone. -/
theorem State.countLive_slot (s : State) (o : Origin) (f : Nat → Nat) (i : Fin 256) :
    (s.countLive o f).slot i = s.slot i := by unfold State.countLive; split <;> rfl

theorem State.createJob_slot (s : State) (j : Job) (i : Fin 256) :
    (s.createJob j).slot i =
      if i = j.handle.slot then { gen := j.handle.gen, job := some { j with entryOrder := s.jpl.entryOrder } }
      else s.slot i := by
  unfold State.createJob
  rw [State.countLive_slot]
  exact State.setSlot_slot ..

theorem State.vacate_slot (s : State) (h : Handle) (j : Job) (i : Fin 256) :
    (s.vacate h j).slot i = if i = h.slot then { gen := h.gen + 1, job := none } else s.slot i := by
  unfold State.vacate
  rw [State.countLive_slot]
  exact State.setSlot_slot ..

theorem State.createJob_others (s : State) (j : Job) :
    ∃ p : JobPool, s.createJob j = { s with jpl := p } ∧ p.quota = s.jpl.quota ∧ p.agingMode = s.jpl.agingMode
      ∧ p.startCount = s.jpl.startCount ∧ p.weight = s.jpl.weight := by
  unfold State.createJob State.countLive
  split <;> exact ⟨_, rfl, rfl, rfl, rfl, rfl⟩

theorem State.vacate_others (s : State) (h : Handle) (j : Job) :
    ∃ p : JobPool, s.vacate h j = { s with jpl := p } ∧ p.quota = s.jpl.quota ∧ p.agingMode = s.jpl.agingMode
      ∧ p.startCount = s.jpl.startCount ∧ p.weight = s.jpl.weight := by
  unfold State.vacate State.countLive
  dsimp only
  split <;> exact ⟨_, rfl, rfl, rfl, rfl, rfl⟩

theorem Change.fixed {s t : State} (h : Change s t) : fixed t = fixed s := by
  cases h
  case crane c x hm _ => exact fixed_setCrane s c x hm
  case holdState a x => exact fixed_setHoldState s a x
  case tx k ms hk => exact fixed_setTx s k ms hk
  case cell c x _ => exact fixed_putCell s c x
  case applyPending a p q hp => exact fixed_setAisle _ _ _ (by rw [State.profile?, hp]; rfl)
  case aged => unfold State.ageStep; split <;> rfl
  case create j _ _ =>
    obtain ⟨p, hp, h1, h2, h3, h4⟩ := s.createJob_others j
    rw [hp]
    simp only [Sys2Proof.Machine.fixed, h1, h2, h3, h4]
    rfl
  case vacate h j _ =>
    obtain ⟨p, hp, h1, h2, h3, h4⟩ := s.vacate_others h j
    rw [hp]
    simp only [Sys2Proof.Machine.fixed, h1, h2, h3, h4]
    rfl
  all_goals rfl

/-- No shared operation touches the fixed part. -/
theorem Changes.fixed {r s : State} (h : Changes r s) : fixed s = fixed r := h.same fun _ _ k => k.fixed

/-- The queue of commands stands through every shared operation. -/
theorem Changes.pending {r s : State} (h : Changes r s) : s.pending = r.pending := congrArg Fixed.pending h.fixed

theorem Changes.flg {r s : State} (h : Changes r s) : s.flg = r.flg := congrArg Fixed.flg h.fixed

theorem Changes.restarting {r s : State} (h : Changes r s) : s.liu.restarting = r.liu.restarting :=
  congrArg Fixed.restarting h.fixed

theorem Changes.mapping {r s : State} (h : Changes r s) (c : CraneId) : (s.crane c).mapping = (r.crane c).mapping :=
  congrFun (congrArg Fixed.mappings h.fixed) c

theorem Changes.sources {r s : State} (h : Changes r s) (a : AisleId) : (s.hold a).sources = (r.hold a).sources :=
  congrFun (congrArg Fixed.sources h.fixed) a

theorem Changes.geometry {r s : State} (h : Changes r s) (a : AisleId) :
    (s.profile? a).map (·.geo) = (r.profile? a).map (·.geo) := congrFun (congrArg Fixed.geometry h.fixed) a

theorem Changes.orderTx {r s : State} (h : Changes r s) (l : OrderLink) : s.tx (.order l) = r.tx (.order l) :=
  congrFun (congrArg Fixed.orderTx h.fixed) l

/-! ## Laws every shared operation keeps -/

@[simp] theorem State.putCell_aic (s : State) (c : CellAddr) (x : Cell) : (s.putCell c x).aic = s.aic := by
  unfold State.putCell
  repeat' split
  all_goals rfl

@[simp] theorem State.putCell_liu (s : State) (c : CellAddr) (x : Cell) : (s.putCell c x).liu = s.liu := by
  unfold State.putCell
  repeat' split
  all_goals rfl

@[simp] theorem State.putCell_crt (s : State) (c : CellAddr) (x : Cell) : (s.putCell c x).crt = s.crt := by
  unfold State.putCell
  repeat' split
  all_goals rfl

@[simp] theorem State.putCell_swu (s : State) (c : CellAddr) (x : Cell) : (s.putCell c x).swu = s.swu := by
  unfold State.putCell
  repeat' split
  all_goals rfl

theorem State.slot_eq {s t : State} (h : t.jpl.slots = s.jpl.slots) (i : Fin 256) : t.slot i = s.slot i := by
  unfold State.slot; rw [h]

@[simp] theorem State.ageStep_aic (s : State) : s.ageStep.aic = s.aic := by unfold State.ageStep; split <;> rfl
@[simp] theorem State.ageStep_liu (s : State) : s.ageStep.liu = s.liu := by unfold State.ageStep; split <;> rfl
@[simp] theorem State.ageStep_crt (s : State) : s.ageStep.crt = s.crt := by unfold State.ageStep; split <;> rfl
@[simp] theorem State.ageStep_swu (s : State) : s.ageStep.swu = s.swu := by unfold State.ageStep; split <;> rfl
@[simp] theorem State.ageStep_cmp (s : State) : s.ageStep.cmp = s.cmp := by unfold State.ageStep; split <;> rfl

theorem mapWf_of_cmp {s t : State} (h : t.cmp = s.cmp) (hs : MapWf s) : MapWf t := by
  intro a
  have := hs a
  unfold State.aisle at *
  rwa [h]

theorem Change.mapWf {s t : State} (h : Change s t) (hs : MapWf s) : MapWf t := by
  cases h
  case cell c x _ => exact State.putCell_wf c x hs
  case applyPending a p q _ =>
    intro b
    rw [State.setAisle_aisle]
    split
    · exact hs a
    · exact hs b
  case aged => exact mapWf_of_cmp (by simp) hs
  case create j _ _ =>
    obtain ⟨p, hp, -⟩ := s.createJob_others j
    rw [hp]
    exact mapWf_of_cmp rfl hs
  case vacate h j _ =>
    obtain ⟨p, hp, -⟩ := s.vacate_others h j
    rw [hp]
    exact mapWf_of_cmp rfl hs
  all_goals exact mapWf_of_cmp rfl hs

theorem gackLaw_of_aic {s t : State} (h : t.aic.holds = s.aic.holds) (hs : GackLaw s) : GackLaw t := by
  intro a
  have := hs a
  unfold State.hold at *
  rwa [h]

theorem Change.gackLaw {s t : State} (h : Change s t) (hs : GackLaw s) : GackLaw t := by
  cases h
  case holdState a x =>
    intro b
    rw [State.setHoldState, State.setHold_hold]
    split
    · simp
    · exact hs b
  case cell c x _ => exact gackLaw_of_aic (by simp) hs
  case aged => exact gackLaw_of_aic (by simp) hs
  case create j _ _ =>
    obtain ⟨p, hp, -⟩ := s.createJob_others j
    rw [hp]
    exact gackLaw_of_aic rfl hs
  case vacate h j _ =>
    obtain ⟨p, hp, -⟩ := s.vacate_others h j
    rw [hp]
    exact gackLaw_of_aic rfl hs
  all_goals exact gackLaw_of_aic rfl hs

theorem queueLaw_of_liu {s t : State} (h : t.liu.queue = s.liu.queue) (k : t.liu.attn = s.liu.attn) (hs : QueueLaw s) :
    QueueLaw t := by
  intro l
  have := hs l
  unfold State.queue at *
  rwa [h, k]

theorem queueLaw_setQueue {s : State} (l : OrderLink) (q : List Notice) (hq : q.length ≤ Config.queueCapacity)
    (hs : QueueLaw s) : QueueLaw (s.setQueue l q) := by
  intro m
  rw [State.setQueue_queue, State.setQueue_attn]
  split
  · exact ⟨hq, by cases q <;> simp⟩
  · exact hs m

theorem Change.queueLaw {s t : State} (h : Change s t) (hs : QueueLaw s) : QueueLaw t := by
  cases h
  case notice l n hr =>
    refine queueLaw_setQueue l _ ?_ hs
    simp only [State.hasRoom, decide_eq_true_eq] at hr
    simpa using hr
  case cell c x _ => exact queueLaw_of_liu (by simp) (by simp) hs
  case aged => exact queueLaw_of_liu (by simp) (by simp) hs
  case create j _ _ =>
    obtain ⟨p, hp, -⟩ := s.createJob_others j
    rw [hp]
    exact queueLaw_of_liu rfl rfl hs
  case vacate h j _ =>
    obtain ⟨p, hp, -⟩ := s.vacate_others h j
    rw [hp]
    exact queueLaw_of_liu rfl rfl hs
  all_goals exact queueLaw_of_liu rfl rfl hs

theorem strikeLaw_of_crt {s t : State} (h : t.crt.cranes = s.crt.cranes) (hs : StrikeLaw s) : StrikeLaw t := by
  intro c
  have := hs c
  unfold State.crane at *
  rwa [h]

theorem Change.strikeLaw {s t : State} (h : Change s t) (hs : StrikeLaw s) : StrikeLaw t := by
  cases h
  case crane c x _ hx =>
    intro d
    rw [State.setCrane_crane]
    split
    · rcases hx with hx | hx
      · exact hx
      · exact Nat.le_trans hx (hs c)
    · exact hs d
  case cell c x _ => exact strikeLaw_of_crt (by simp) hs
  case aged => exact strikeLaw_of_crt (by simp) hs
  case create j _ _ =>
    obtain ⟨p, hp, -⟩ := s.createJob_others j
    rw [hp]
    exact strikeLaw_of_crt rfl hs
  case vacate h j _ =>
    obtain ⟨p, hp, -⟩ := s.vacate_others h j
    rw [hp]
    exact strikeLaw_of_crt rfl hs
  all_goals exact strikeLaw_of_crt rfl hs

theorem Change.waveLaw {s t : State} (h : Change s t) (hs : WaveLaw s) : WaveLaw t := by
  unfold WaveLaw at *
  cases h
  case waves ws hw => exact Nat.le_trans hw hs
  case cell c x _ => simpa using hs
  case aged => simpa using hs
  case create j _ _ =>
    obtain ⟨p, hp, -⟩ := s.createJob_others j
    rwa [hp]
  case vacate h j _ =>
    obtain ⟨p, hp, -⟩ := s.vacate_others h j
    rwa [hp]
  all_goals exact hs

/-! ## Laws of the job records -/

theorem slot_map (v : Vector Slot 256) (f : Slot → Slot) (i : Fin 256) : (v.map f)[i] = f v[i] :=
  Vector.getElem_map f i.isLt

theorem State.rewrite_slot (s : State) (x y : CellAddr) (i : Fin 256) :
    (s.rewrite x y).slot i = { s.slot i with job := (s.slot i).job.map (s.rewriteJob x y) } := slot_map ..

theorem Job.rewrite_same (j : Job) (x y : CellAddr) : (j.rewrite x y).handle = j.handle ∧ (j.rewrite x y).age = j.age := by
  unfold Job.rewrite
  dsimp only
  repeat' split
  all_goals exact ⟨rfl, rfl⟩

theorem State.rewriteJob_same (s : State) (j : Job) (x y : CellAddr) :
    (s.rewriteJob x y j).handle = j.handle ∧ (s.rewriteJob x y j).age = j.age := by
  unfold State.rewriteJob
  split
  · exact ⟨rfl, rfl⟩
  · exact j.rewrite_same x y

theorem State.ageStep_slot (s : State) (i : Fin 256) :
    s.ageStep.slot i =
      if s.jpl.startCount = 0 then s.slot i else { s.slot i with job := (s.slot i).job.map Job.ageOnce } := by
  unfold State.ageStep
  split
  · rfl
  · exact slot_map ..

theorem Job.ageOnce_handle (j : Job) : j.ageOnce.handle = j.handle := by unfold Job.ageOnce; split <;> rfl

theorem Job.ageOnce_age {j : Job} (h : j.age ≤ 255) : j.ageOnce.age ≤ 255 := by
  unfold Job.ageOnce
  split
  · exact Nat.min_le_right ..
  · exact h

theorem ageLaw_of_slots {s t : State} (h : t.jpl.slots = s.jpl.slots) (hs : AgeLaw s) : AgeLaw t := by
  intro i j hj
  rw [State.slot_eq h] at hj
  exact hs i j hj

theorem Change.ageLaw {s t : State} (h : Change s t) (hs : AgeLaw s) : AgeLaw t := by
  cases h
  case job i j j' hj _ ha _ =>
    intro k x hx
    rw [State.setSlot_slot] at hx
    split at hx
    · cases hx; rw [ha]; exact hs i j hj
    · exact hs k x hx
  case create j hn ha =>
    intro k x hx
    rw [State.createJob_slot] at hx
    split at hx
    · cases hx
      rcases ha with ha | ⟨m, y, hy, ha⟩
      · exact ha ▸ Nat.zero_le _
      · exact ha ▸ hs m y hy
    · exact hs k x hx
  case vacate h j _ =>
    intro k x hx
    rw [State.vacate_slot] at hx
    split at hx
    · exact absurd hx (by simp)
    · exact hs k x hx
  case rewrite a b =>
    intro k x hx
    rw [State.rewrite_slot] at hx
    obtain ⟨y, hy, rfl⟩ := Option.map_eq_some_iff.1 hx
    rw [(s.rewriteJob_same y a b).2]
    exact hs k y hy
  case aged =>
    intro k x hx
    rw [State.ageStep_slot] at hx
    split at hx
    · exact hs k x hx
    · obtain ⟨y, hy, rfl⟩ := Option.map_eq_some_iff.1 hx
      exact Job.ageOnce_age (hs k y hy)
  case cell c x _ => exact ageLaw_of_slots (by simp) hs
  all_goals exact ageLaw_of_slots rfl hs

theorem handleLaw_of_slots {s t : State} (h : t.jpl.slots = s.jpl.slots) (hs : HandleLaw s) : HandleLaw t := by
  intro i j hj
  rw [State.slot_eq h] at hj ⊢
  exact hs i j hj

theorem Change.handleLaw {s t : State} (h : Change s t) (hs : HandleLaw s) : HandleLaw t := by
  cases h
  case job i j j' hj hh _ _ =>
    intro k x hx
    rw [State.setSlot_slot] at hx ⊢
    split at hx
    · next hk => subst hk; cases hx; rw [hh]; simpa using hs k j hj
    · next hk => simpa [hk] using hs k x hx
  case create j hn _ =>
    intro k x hx
    rw [State.createJob_slot] at hx ⊢
    split at hx
    · next hk => subst hk; cases hx; simp
    · next hk => simpa [hk] using hs k x hx
  case vacate h j _ =>
    intro k x hx
    rw [State.vacate_slot] at hx ⊢
    split at hx
    · exact absurd hx (by simp)
    · next hk => simpa [hk] using hs k x hx
  case rewrite a b =>
    intro k x hx
    rw [State.rewrite_slot] at hx ⊢
    obtain ⟨y, hy, rfl⟩ := Option.map_eq_some_iff.1 hx
    rw [(s.rewriteJob_same y a b).1]
    exact hs k y hy
  case aged =>
    intro k x hx
    rw [State.ageStep_slot] at hx ⊢
    split at hx
    · next hc => simpa [hc] using hs k x hx
    · next hc =>
      obtain ⟨y, hy, rfl⟩ := Option.map_eq_some_iff.1 hx
      rw [Job.ageOnce_handle]
      simpa [hc] using hs k y hy
  case cell c x _ => exact handleLaw_of_slots (by simp) hs
  all_goals exact handleLaw_of_slots rfl hs

/-! ## The pair rule (R13) -/

/-- The pair rule reads only the cells and which aisles are double-deep. -/
theorem pairLaw_of_cells {s t : State} (hd : ∀ a, t.isDoubleDeep a = s.isDoubleDeep a) (hc : ∀ c, t.cell c = s.cell c)
    (hs : PairLaw s) : PairLaw t := by
  intro c h1 h2 h3
  rw [hd] at h1
  rw [hc] at h3 ⊢
  exact hs c h1 h2 h3

theorem near_ne_deep (c : CellAddr) (h : c.depth = .deep) : nearOf c ≠ c := by
  intro e
  have := congrArg CellAddr.depth e
  rw [h] at this
  cases this

theorem State.putCell_isDoubleDeep (s : State) (c : CellAddr) (x : Cell) (a : AisleId) :
    (s.putCell c x).isDoubleDeep a = s.isDoubleDeep a := by
  unfold State.isDoubleDeep
  rw [State.putCell_profile]

theorem pairLaw_putCell {s : State} {c : CellAddr} {x : Cell} (hw : MapWf s) (hx : CellStep s c x) (hs : PairLaw s) :
    PairLaw (s.putCell c x) := by
  by_cases he : s.existing c
  · intro d h1 h2 h3
    rw [State.putCell_isDoubleDeep] at h1
    rw [State.cell_putCell hw c _ x he] at h3 ⊢
    have hold : (s.cell d).state.isReserved = true → (s.cell (nearOf d)).state = .empty := hs d h1 h2
    split at h3
    · next hd =>
      subst hd
      rw [if_neg (near_ne_deep d h2)]
      rcases hx.1 h3 with hp | hp
      · simp only [State.pairAllows, h1, if_true, h2, decide_eq_true_eq] at hp
        exact hp
      · exact hold (hp ▸ h3)
    · split
      · next hn =>
        refine hx.2 ?_ ?_
        · have ha : c.aisle = d.aisle := by rw [← hn]; rfl
          have hdep : c.depth = .near := by rw [← hn]; rfl
          have hdeep : deepOf c = d := by
            rw [← hn]; obtain ⟨_, _, _, _, z⟩ := d; cases z
            · exact absurd h2 (by simp)
            · rfl
          simp [State.frontsReserved, ha, h1, hdep, hdeep, h3]
        · rw [← hn]; exact hold h3
      · exact hold h3
  · rw [State.putCell_of_not_existing x he]
    exact hs

theorem State.cell_eq_of_cmp {s t : State} (h : t.cmp = s.cmp) (c : CellAddr) : t.cell c = s.cell c := by
  unfold State.cell State.profile? State.aisle
  rw [h]

theorem State.isDoubleDeep_eq_of_cmp {s t : State} (h : t.cmp = s.cmp) (a : AisleId) :
    t.isDoubleDeep a = s.isDoubleDeep a := by
  unfold State.isDoubleDeep State.profile? State.aisle
  rw [h]

theorem pairLaw_of_cmp {s t : State} (h : t.cmp = s.cmp) (hs : PairLaw s) : PairLaw t :=
  pairLaw_of_cells (State.isDoubleDeep_eq_of_cmp h) (State.cell_eq_of_cmp h) hs

theorem Change.pairLaw {s t : State} (h : Change s t) (hw : MapWf s) (hs : PairLaw s) : PairLaw t := by
  cases h
  case cell c x hx => exact pairLaw_putCell hw hx hs
  case applyPending a p q hp =>
    have hpr : ∀ b, ((s.setAisle a { s.aisle a with profile := some { p with op := q.op }, pendingProfile := none }).profile? b).map (·.geo)
        = (s.profile? b).map (·.geo) := by
      intro b
      simp only [State.profile?, State.setAisle_aisle]
      split
      · next hb => subst hb; rw [hp]; rfl
      · rfl
    refine pairLaw_of_cells (fun b => ?_) (fun c => ?_) hs
    · have := hpr b
      unfold State.isDoubleDeep
      revert this
      cases State.profile? _ b <;> cases s.profile? b <;> simp
      intro h; rw [h]
    · have := hpr c.aisle
      have hcells : ((s.setAisle a { s.aisle a with profile := some { p with op := q.op }, pendingProfile := none }).aisle c.aisle).cells
          = (s.aisle c.aisle).cells := by
        rw [State.setAisle_aisle]
        split
        · next hb => rw [hb]
        · rfl
      unfold State.cell
      rw [hcells]
      revert this
      cases State.profile? _ c.aisle <;> cases s.profile? c.aisle <;> simp
      intro h; rw [h]
  case aged => exact pairLaw_of_cmp (by simp) hs
  case create j _ _ =>
    obtain ⟨p, hp, -⟩ := s.createJob_others j
    rw [hp]
    exact pairLaw_of_cmp rfl hs
  case vacate h j _ =>
    obtain ⟨p, hp, -⟩ := s.vacate_others h j
    rw [hp]
    exact pairLaw_of_cmp rfl hs
  all_goals exact pairLaw_of_cmp rfl hs

end Sys2Proof.Machine
end

