-- ==== Sys2Proof/Laws/Commands.lean ====
section
/-! SUPPORT. What the shared frame of a command, of a crane message and of an expiry makes of its own meaning: one lemma
for each case of R126, R196 and R201. -/

namespace Sys2Proof.Machine

@[simp] theorem State.activate_tx (s : State) (k j : Link) : (s.activate k).tx j = s.tx j := by
  unfold State.activate; split <;> rfl

@[simp] theorem State.activate_restarting (s : State) (k : Link) :
    (s.activate k).liu.restarting = s.liu.restarting := by
  unfold State.activate; split <;> rfl

@[simp] theorem State.activate_waitingReplies (s : State) (k j : Link) :
    (s.activate k).waitingReplies j = s.waitingReplies j := by
  simp [State.waitingReplies]

@[simp] theorem State.take_waitingReplies (s : State) (i : Instr) (j : Link) :
    (s.take i).waitingReplies j = s.waitingReplies j := rfl

/-- Activation of a link writes its activity flag alone. -/
theorem State.activate_order (s : State) (l : OrderLink) :
    s.activate (.order l) = { s with liu := { s.liu with active := s.liu.active.set l true } } := rfl

theorem State.insertTx_end (s : State) (k : Link) (m : Message) :
    s.insertTx k (s.tx k).length m = s.setTx k (s.tx k ++ [m]) := by
  simp [State.insertTx]

/-- A command a link takes: its block's answer, with the reply placed ahead of the frames the event formed for the
link. -/
theorem State.command_heard {s : State} {k : Link} (h : Hears s k) (e : Instr) (code : Byte) (p : List Byte)
    (act : State → Answer) :
    s.command e k code p act =
      (act (s.heard e k)).state.insertTx k (s.tx k).length (.reply ((act (s.heard e k)).reply code)) := by
  obtain ⟨hr, hw⟩ := h
  have hr' : ((s.take e).liu.restarting.isSome) = false := by simp [hr]
  have hw' : ¬ Config.replyLimit ≤ ((s.take e).activate k).waitingReplies k := by simpa using hw
  simp only [State.command, hr', hw', if_false, Bool.false_eq_true, State.activate_tx, State.take_tx, State.heard]

/-- A command while a restart waits is spent and nothing more (R201). -/
theorem State.command_restarting {s : State} {k : Link} (h : s.liu.restarting ≠ none) (e : Instr) (code : Byte)
    (p : List Byte) (act : State → Answer) : s.command e k code p act = s.take e := by
  have : ((s.take e).liu.restarting.isSome) = true := by
    cases hx : s.liu.restarting with
    | none => exact absurd hx h
    | some x => simp [hx]
  simp only [State.command, this, if_true]

/-- A command while four replies wait is discarded with LINK_FRAME (R196). -/
theorem State.command_full {s : State} {k : Link} (hr : s.liu.restarting = none)
    (hw : Config.replyLimit ≤ s.waitingReplies k) (e : Instr) (code : Byte) (p : List Byte) (act : State → Answer) :
    s.command e k code p act = (s.heard e k).raiseFault .linkFrame (.link k) none none (frameTail code p) := by
  have hr' : ((s.take e).liu.restarting.isSome) = false := by simp [hr]
  have hw' : Config.replyLimit ≤ ((s.take e).activate k).waitingReplies k := by simpa using hw
  simp only [State.command, hr', hw', if_true, if_false, Bool.false_eq_true, State.heard]

/-- An answer that places no frame on its own link has its reply at the end of the list. -/
theorem State.command_replied {s : State} {k : Link} (h : Hears s k) (e : Instr) (code : Byte) (p : List Byte)
    (act : State → Answer) (ht : (act (s.heard e k)).state.tx k = s.tx k) :
    s.command e k code p act = (act (s.heard e k)).state.replied k ((act (s.heard e k)).reply code) := by
  rw [State.command_heard h, State.replied, ← State.insertTx_end, ht]

/-- An order command whose meaning is a run of the shared operations has its reply at the end of its link's list. -/
theorem State.command_changes {s : State} {l : OrderLink} (h : Hears s (.order l)) (e : Instr) (code : Byte)
    (p : List Byte) (act : State → Answer)
    (hc : Changes (s.heard e (.order l)) (act (s.heard e (.order l))).state) :
    s.command e (.order l) code p act =
      (act (s.heard e (.order l))).state.replied (.order l) ((act (s.heard e (.order l))).reply code) := by
  refine State.command_replied h e code p act ?_
  rw [hc.orderTx]
  rfl

/-! ## Crane messages -/

/-- A message of an announced crane whose fields read is taken by its meaning (R126). -/
theorem State.craneMessage_read {α : Type} {s : State} {c : CraneId} (h : Announced s c) (e : Instr) (p : List Byte)
    (hello : Bool) (names : Option Handle) (read : State → Option α) (act : State → α → State) {x : α}
    (hx : read (s.take e) = some x) : s.craneMessage e c p hello names read act = act (s.take e) x := by
  obtain ⟨hr, hm, hs⟩ := h
  have hr' : ((s.take e).liu.restarting.isSome) = false := by simp [hr]
  simp only [State.craneMessage, hr', Bool.false_eq_true, if_false, State.take_crane, hm, hs, false_and, or_self, hx]

/-- A message of an announced crane whose fields do not read is discarded with STALE_MESSAGE (R126). -/
theorem State.craneMessage_unread {α : Type} {s : State} {c : CraneId} (h : Announced s c) (e : Instr) (p : List Byte)
    (hello : Bool) (names : Option Handle) (read : State → Option α) (act : State → α → State)
    (hx : read (s.take e) = none) :
    s.craneMessage e c p hello names read act = (s.take e).stale c (names.bind (s.take e).liveHandle) p := by
  obtain ⟨hr, hm, hs⟩ := h
  have hr' : ((s.take e).liu.restarting.isSome) = false := by simp [hr]
  simp only [State.craneMessage, hr', Bool.false_eq_true, if_false, State.take_crane, hm, hs, false_and, or_self, hx]

/-- A HELLO of a mapped crane whose position reads is taken by its meaning, in every state of the crane (R126, R131). -/
theorem State.craneMessage_hello {α : Type} {s : State} {c : CraneId} (hr : s.liu.restarting = none)
    (hm : (s.crane c).mapping ≠ none) (e : Instr) (p : List Byte) (names : Option Handle) (read : State → Option α)
    (act : State → α → State) {x : α} (hx : read (s.take e) = some x) :
    s.craneMessage e c p true names read act = act (s.take e) x := by
  have hr' : ((s.take e).liu.restarting.isSome) = false := by simp [hr]
  simp only [State.craneMessage, hr', Bool.false_eq_true, if_false, State.take_crane, hm, and_false, or_self, hx,
    Bool.true_eq_false]

/-- A message while a restart waits is spent and nothing more (R201). -/
theorem State.craneMessage_restarting {α : Type} {s : State} {c : CraneId} (h : s.liu.restarting ≠ none) (e : Instr)
    (p : List Byte) (hello : Bool) (names : Option Handle) (read : State → Option α) (act : State → α → State) :
    s.craneMessage e c p hello names read act = s.take e := by
  have : ((s.take e).liu.restarting.isSome) = true := by
    cases hx : s.liu.restarting with
    | none => exact absurd hx h
    | some x => simp [hx]
  simp only [State.craneMessage, this, if_true]

/-! ## Expiries -/

theorem State.expiry_taken {s : State} (h : s.liu.restarting = none) (e : Instr) (act : State → State) :
    s.expiry e act = act (s.take e) := by
  simp [State.expiry, h]

theorem State.expiry_restarting {s : State} (h : s.liu.restarting ≠ none) (e : Instr) (act : State → State) :
    s.expiry e act = s.take e := by
  have : ((s.take e).liu.restarting.isSome) = true := by
    cases hx : s.liu.restarting with
    | none => exact absurd hx h
    | some x => simp [hx]
  simp only [State.expiry, this, if_true]

/-! ## Meanings as runs of the shared operations -/

theorem Changes.craneMessage {α : Type} {r s : State} (h : Changes r s) (e : Instr) (c : CraneId) (p : List Byte)
    (hello : Bool) (names : Option Handle) (read : State → Option α) (act : State → α → State)
    (ha : ∀ t x, Changes r t → Changes r (act t x)) : Changes r (s.craneMessage e c p hello names read act) := by
  have h := Changes.take h e
  unfold State.craneMessage
  dsimp only
  repeat' split
  · exact h
  · exact Changes.stale h _ _ _
  · exact Changes.stale h _ _ _
  · exact ha _ _ h

theorem Changes.expiry {r s : State} (h : Changes r s) (e : Instr) (act : State → State)
    (ha : ∀ t, Changes r t → Changes r (act t)) : Changes r (s.expiry e act) := by
  have h := Changes.take h e
  unfold State.expiry
  dsimp only
  split
  · exact h
  · exact ha _ h

theorem Changes.stepReport {r s : State} (h : Changes r s) (e : Instr) (c : CraneId) (k : ReportKind) (p : List Byte)
    (act : State → Job → WorkUnit → Step → State) (ha : ∀ t j u x, Changes r t → Changes r (act t j u x)) :
    Changes r (s.stepReport e c k p act) := by
  unfold State.stepReport
  refine Changes.craneMessage h _ _ _ _ _ _ _ fun t x ht => ?_
  split
  · exact ha _ _ _ _ ht
  · exact Changes.unfit ht _ _ _

end Sys2Proof.Machine
end

