-- ==== Sys2Proof/Laws/Frames.lean ====
section
/-! SUPPORT. What the shared operations can touch, said once for each: `Frame ps r s` says that s differs from r in the
parts listed in ps alone. The lemma of an operation carries a frame over it whose list holds all the operation touches;
the readings of the last section turn a frame into equations. -/

namespace Sys2Proof.Machine

/-- The parts of a state that the shared operations write. `rest` is all they never write. -/
inductive Part where
  | crane (c : CraneId) | rail | holdBack | parkOwed | holds | profiles | cells | jobs | pool | counter | input
  | credit | waves | tx (k : Link) | queue | events | rest
  deriving DecidableEq

/-- Two states agree in a part. -/
def Part.same (p : Part) (r s : State) : Prop :=
  match p with
  | .crane c => s.crane c = r.crane c
  | .rail => s.crt.rail = r.crt.rail
  | .holdBack => s.ale.holdBack = r.ale.holdBack
  | .parkOwed => s.aic.parkOwed = r.aic.parkOwed
  | .holds => s.aic.holds = r.aic.holds
  | .profiles => ∀ a, (s.aisle a).profile = (r.aisle a).profile ∧ (s.aisle a).pendingProfile = (r.aisle a).pendingProfile
  | .cells => ∀ a, (s.aisle a).cells = (r.aisle a).cells
  | .jobs => s.jpl.slots = r.jpl.slots
  | .pool => s.jpl.freeList = r.jpl.freeList ∧ s.jpl.live = r.jpl.live ∧ s.jpl.entryOrder = r.jpl.entryOrder
      ∧ s.jpl.closingWait = r.jpl.closingWait
  | .counter => s.jpl.counter = r.jpl.counter
  | .input => s.swu.inputs = r.swu.inputs
  | .credit => s.swu.credits = r.swu.credits
  | .waves => s.swu.waves = r.swu.waves
  | .tx k => s.tx k = r.tx k
  | .queue => s.liu.queue = r.liu.queue ∧ s.liu.attn = r.liu.attn
  | .events => s.events = r.events
  | .rest => s.flg = r.flg ∧ s.now = r.now ∧ s.pending = r.pending
      ∧ s.liu = { r.liu with tx := s.liu.tx, queue := s.liu.queue, attn := s.liu.attn }
      ∧ s.jpl = { r.jpl with
          slots := s.jpl.slots, freeList := s.jpl.freeList, live := s.jpl.live, entryOrder := s.jpl.entryOrder,
          closingWait := s.jpl.closingWait, counter := s.jpl.counter }
      ∧ s.ale = { r.ale with holdBack := s.ale.holdBack }
      ∧ s.crt = { r.crt with cranes := s.crt.cranes, rail := s.crt.rail }
      ∧ ∀ a, (s.profile? a).map (·.geo) = (r.profile? a).map (·.geo)

/-- The second state differs from the first in the listed parts alone. -/
def Frame (ps : List Part) (r s : State) : Prop := ∀ p, p ∉ ps → p.same r s

/-- The parts of every crane. -/
def Part.cranes : List Part := (List.finRange 12).map .crane

/-- The transmit lists of every crane. -/
def Part.craneTxs : List Part := (List.finRange 12).map fun c => .tx (.crane c)

@[simp] theorem Part.mem_cranes (p : Part) : p ∈ Part.cranes ↔ ∃ c, .crane c = p := by simp [Part.cranes]

@[simp] theorem Part.mem_craneTxs (p : Part) : p ∈ Part.craneTxs ↔ ∃ c, .tx (.crane c) = p := by simp [Part.craneTxs]

@[simp] theorem Part.cranes_subset (ps : List Part) : Part.cranes ⊆ ps ↔ ∀ c, Part.crane c ∈ ps := by
  simp [Part.cranes, List.subset_def]

@[simp] theorem Part.craneTxs_subset (ps : List Part) : Part.craneTxs ⊆ ps ↔ ∀ c, Part.tx (.crane c) ∈ ps := by
  simp [Part.craneTxs, List.subset_def]

theorem Part.same_refl (p : Part) (s : State) : p.same s s := by cases p <;> simp [Part.same]

theorem Part.same_trans {p : Part} {r s t : State} (h : p.same r s) (k : p.same s t) : p.same r t := by
  cases p <;> simp only [Part.same] at * <;> try exact k.trans h
  · exact fun a => ⟨(k a).1.trans (h a).1, (k a).2.trans (h a).2⟩
  · exact fun c => (k c).trans (h c)
  · exact ⟨k.1.trans h.1, k.2.1.trans h.2.1, k.2.2.1.trans h.2.2.1, k.2.2.2.trans h.2.2.2⟩
  · exact ⟨k.1.trans h.1, k.2.trans h.2⟩
  · obtain ⟨a1, a2, a3, a4, a5, a6, a7, a8⟩ := h
    obtain ⟨b1, b2, b3, b4, b5, b6, b7, b8⟩ := k
    refine ⟨b1.trans a1, b2.trans a2, b3.trans a3, ?_, ?_, ?_, ?_, fun a => (b8 a).trans (a8 a)⟩
    · rw [b4, a4]
    · rw [b5, a5]
    · rw [b6, a6]
    · rw [b7, a7]

theorem Frame.refl (ps : List Part) (s : State) : Frame ps s s := fun p _ => p.same_refl s

theorem Frame.trans {ps : List Part} {r s t : State} (h : Frame ps r s) (k : Frame ps s t) : Frame ps r t :=
  fun p hp => Part.same_trans (h p hp) (k p hp)

theorem Frame.mono {ps qs : List Part} {r s : State} (h : Frame ps r s) (hq : ps ⊆ qs) : Frame qs r s :=
  fun p hp => h p fun hm => hp (hq hm)

theorem Frame.ite {ps : List Part} {r s t : State} {p : Prop} [Decidable p] (h : Frame ps r s) (k : Frame ps r t) :
    Frame ps r (if p then s else t) := by
  split <;> assumption

theorem Frame.each {α : Type} {ps : List Part} {r : State} {f : State → α → State} (xs : List α)
    (hf : ∀ s x, Frame ps r s → Frame ps r (f s x)) {s : State} (h : Frame ps r s) : Frame ps r (s.each xs f) := by
  induction xs generalizing s with
  | nil => exact h
  | cons x xs ih => exact ih (hf s x h)

/-! ## One update -/

/-- A state that differs from a framed one in a single listed part. -/
theorem Frame.one {ps : List Part} {q : Part} {r s t : State} (h : Frame ps r s) (k : ∀ p, p ≠ q → p.same s t)
    (hp : [q] ⊆ ps) : Frame ps r t :=
  h.trans fun p hn => k p fun e => hn (hp (by simp [e]))

theorem Frame.setCrane {ps : List Part} {r s : State} (h : Frame ps r s) (c : CraneId) (x : Crane)
    (hp : [.crane c] ⊆ ps) : Frame ps r (s.setCrane c x) := by
  refine h.one (fun p hn => ?_) hp
  cases p <;> first
    | exact rfl
    | exact absurd rfl hn
    | exact fun _ => rfl
    | exact fun _ => ⟨rfl, rfl⟩
    | exact ⟨rfl, rfl⟩
    | exact ⟨rfl, rfl, rfl, rfl⟩
    | exact ⟨rfl, rfl, rfl, rfl, rfl, rfl, rfl, fun _ => rfl⟩
    | (next d => exact (s.setCrane_crane c d x).trans (if_neg fun e => hn (congrArg Part.crane e)))

theorem Frame.setRail {ps : List Part} {r s : State} (h : Frame ps r s) (a : AisleId) (x : Option (PerEnd RailEntry))
    (hp : [.rail] ⊆ ps) : Frame ps r (s.setRail a x) := by
  refine h.one (fun p hn => ?_) hp
  cases p <;> first
    | exact rfl
    | exact absurd rfl hn
    | exact fun _ => rfl
    | exact fun _ => ⟨rfl, rfl⟩
    | exact ⟨rfl, rfl⟩
    | exact ⟨rfl, rfl, rfl, rfl⟩
    | exact ⟨rfl, rfl, rfl, rfl, rfl, rfl, rfl, fun _ => rfl⟩

theorem Frame.setParkOwed {ps : List Part} {r s : State} (h : Frame ps r s) (c : CraneId) (b : Bool)
    (hp : [.parkOwed] ⊆ ps) : Frame ps r (s.setParkOwed c b) := by
  refine h.one (fun p hn => ?_) hp
  cases p <;> first
    | exact rfl
    | exact absurd rfl hn
    | exact fun _ => rfl
    | exact fun _ => ⟨rfl, rfl⟩
    | exact ⟨rfl, rfl⟩
    | exact ⟨rfl, rfl, rfl, rfl⟩
    | exact ⟨rfl, rfl, rfl, rfl, rfl, rfl, rfl, fun _ => rfl⟩

theorem Frame.setHoldBack {ps : List Part} {r s : State} (h : Frame ps r s) (c : CraneId) (x : HoldBack)
    (hp : [.holdBack] ⊆ ps) : Frame ps r (s.setHoldBack c x) := by
  refine h.one (fun p hn => ?_) hp
  cases p <;> first
    | exact rfl
    | exact absurd rfl hn
    | exact fun _ => rfl
    | exact fun _ => ⟨rfl, rfl⟩
    | exact ⟨rfl, rfl⟩
    | exact ⟨rfl, rfl, rfl, rfl⟩
    | exact ⟨rfl, rfl, rfl, rfl, rfl, rfl, rfl, fun _ => rfl⟩

theorem Frame.setInput {ps : List Part} {r s : State} (h : Frame ps r s) (a : AisleId) (e : End) (x : InputRecord)
    (hp : [.input] ⊆ ps) : Frame ps r (s.setInput a e x) := by
  refine h.one (fun p hn => ?_) hp
  cases p <;> first
    | exact rfl
    | exact absurd rfl hn
    | exact fun _ => rfl
    | exact fun _ => ⟨rfl, rfl⟩
    | exact ⟨rfl, rfl⟩
    | exact ⟨rfl, rfl, rfl, rfl⟩
    | exact ⟨rfl, rfl, rfl, rfl, rfl, rfl, rfl, fun _ => rfl⟩

theorem Frame.setCredit {ps : List Part} {r s : State} (h : Frame ps r s) (a : AisleId) (e : End) (x : Credit)
    (hp : [.credit] ⊆ ps) : Frame ps r (s.setCredit a e x) := by
  refine h.one (fun p hn => ?_) hp
  cases p <;> first
    | exact rfl
    | exact absurd rfl hn
    | exact fun _ => rfl
    | exact fun _ => ⟨rfl, rfl⟩
    | exact ⟨rfl, rfl⟩
    | exact ⟨rfl, rfl, rfl, rfl⟩
    | exact ⟨rfl, rfl, rfl, rfl, rfl, rfl, rfl, fun _ => rfl⟩

theorem Frame.setTx {ps : List Part} {r s : State} (h : Frame ps r s) (k : Link) (ms : List Message)
    (hp : [.tx k] ⊆ ps) : Frame ps r (s.setTx k ms) := by
  refine h.one (fun p hn => ?_) hp
  cases p <;> first
    | exact rfl
    | exact absurd rfl hn
    | exact fun _ => rfl
    | exact fun _ => ⟨rfl, rfl⟩
    | exact ⟨rfl, rfl⟩
    | exact ⟨rfl, rfl, rfl, rfl⟩
    | exact ⟨rfl, rfl, rfl, rfl, rfl, rfl, rfl, fun _ => rfl⟩
    | (next j => exact (s.setTx_tx k j ms).trans (if_neg fun e => hn (congrArg Part.tx e)))

theorem Frame.setQueue {ps : List Part} {r s : State} (h : Frame ps r s) (l : OrderLink) (q : List Notice)
    (hp : [.queue] ⊆ ps) : Frame ps r (s.setQueue l q) := by
  refine h.one (fun p hn => ?_) hp
  cases p <;> first
    | exact rfl
    | exact absurd rfl hn
    | exact fun _ => rfl
    | exact fun _ => ⟨rfl, rfl⟩
    | exact ⟨rfl, rfl⟩
    | exact ⟨rfl, rfl, rfl, rfl⟩
    | exact ⟨rfl, rfl, rfl, rfl, rfl, rfl, rfl, fun _ => rfl⟩

theorem Frame.jobsOnly {ps : List Part} {r s : State} (h : Frame ps r s) (v : Vector Slot 256)
    (hp : [.jobs] ⊆ ps) : Frame ps r { s with jpl := { s.jpl with slots := v } } := by
  refine h.one (fun p hn => ?_) hp
  cases p <;> first
    | exact rfl
    | exact absurd rfl hn
    | exact fun _ => rfl
    | exact fun _ => ⟨rfl, rfl⟩
    | exact ⟨rfl, rfl⟩
    | exact ⟨rfl, rfl, rfl, rfl⟩
    | exact ⟨rfl, rfl, rfl, rfl, rfl, rfl, rfl, fun _ => rfl⟩

theorem Frame.setSlot {ps : List Part} {r s : State} (h : Frame ps r s) (i : Fin 256) (x : Slot) (hp : [.jobs] ⊆ ps) :
    Frame ps r (s.setSlot i x) := h.jobsOnly _ hp

theorem Frame.setClosingWait {ps : List Part} {r s : State} (h : Frame ps r s) (l : OrderLink) (w : List Handle)
    (hp : [.pool] ⊆ ps) : Frame ps r (s.setClosingWait l w) := by
  refine h.one (fun p hn => ?_) hp
  cases p <;> first
    | exact rfl
    | exact absurd rfl hn
    | exact fun _ => rfl
    | exact fun _ => ⟨rfl, rfl⟩
    | exact ⟨rfl, rfl⟩
    | exact ⟨rfl, rfl, rfl, rfl⟩
    | exact ⟨rfl, rfl, rfl, rfl, rfl, rfl, rfl, fun _ => rfl⟩

theorem Frame.freeList {ps : List Part} {r s : State} (h : Frame ps r s) (x : List (Fin 256))
    (hp : [.pool] ⊆ ps) : Frame ps r { s with jpl := { s.jpl with freeList := x } } := by
  refine h.one (fun p hn => ?_) hp
  cases p <;> first
    | exact rfl
    | exact absurd rfl hn
    | exact fun _ => rfl
    | exact fun _ => ⟨rfl, rfl⟩
    | exact ⟨rfl, rfl⟩
    | exact ⟨rfl, rfl, rfl, rfl⟩
    | exact ⟨rfl, rfl, rfl, rfl, rfl, rfl, rfl, fun _ => rfl⟩

theorem Frame.live {ps : List Part} {r s : State} (h : Frame ps r s) (x : PerLink Nat)
    (hp : [.pool] ⊆ ps) : Frame ps r { s with jpl := { s.jpl with live := x } } := by
  refine h.one (fun p hn => ?_) hp
  cases p <;> first
    | exact rfl
    | exact absurd rfl hn
    | exact fun _ => rfl
    | exact fun _ => ⟨rfl, rfl⟩
    | exact ⟨rfl, rfl⟩
    | exact ⟨rfl, rfl, rfl, rfl⟩
    | exact ⟨rfl, rfl, rfl, rfl, rfl, rfl, rfl, fun _ => rfl⟩

theorem Frame.entered {ps : List Part} {r s : State} (h : Frame ps r s) (x : List (Fin 256)) (n : BitVec 32)
    (hp : [.pool] ⊆ ps) : Frame ps r { s with jpl := { s.jpl with freeList := x, entryOrder := n } } := by
  refine h.one (fun p hn => ?_) hp
  cases p <;> first
    | exact rfl
    | exact absurd rfl hn
    | exact fun _ => rfl
    | exact fun _ => ⟨rfl, rfl⟩
    | exact ⟨rfl, rfl⟩
    | exact ⟨rfl, rfl, rfl, rfl⟩
    | exact ⟨rfl, rfl, rfl, rfl, rfl, rfl, rfl, fun _ => rfl⟩

theorem Frame.counter {ps : List Part} {r s : State} (h : Frame ps r s) (n : Nat)
    (hp : [.counter] ⊆ ps) : Frame ps r { s with jpl := { s.jpl with counter := n } } := by
  refine h.one (fun p hn => ?_) hp
  cases p <;> first
    | exact rfl
    | exact absurd rfl hn
    | exact fun _ => rfl
    | exact fun _ => ⟨rfl, rfl⟩
    | exact ⟨rfl, rfl⟩
    | exact ⟨rfl, rfl, rfl, rfl⟩
    | exact ⟨rfl, rfl, rfl, rfl, rfl, rfl, rfl, fun _ => rfl⟩

theorem Frame.waves {ps : List Part} {r s : State} (h : Frame ps r s) (ws : List Wave)
    (hp : [.waves] ⊆ ps) : Frame ps r { s with swu := { s.swu with waves := ws } } := by
  refine h.one (fun p hn => ?_) hp
  cases p <;> first
    | exact rfl
    | exact absurd rfl hn
    | exact fun _ => rfl
    | exact fun _ => ⟨rfl, rfl⟩
    | exact ⟨rfl, rfl⟩
    | exact ⟨rfl, rfl, rfl, rfl⟩
    | exact ⟨rfl, rfl, rfl, rfl, rfl, rfl, rfl, fun _ => rfl⟩

theorem Frame.events {ps : List Part} {r s : State} (h : Frame ps r s) (es : List Instr)
    (hp : [.events] ⊆ ps) : Frame ps r { s with events := es } := by
  refine h.one (fun p hn => ?_) hp
  cases p <;> first
    | exact rfl
    | exact absurd rfl hn
    | exact fun _ => rfl
    | exact fun _ => ⟨rfl, rfl⟩
    | exact ⟨rfl, rfl⟩
    | exact ⟨rfl, rfl, rfl, rfl⟩
    | exact ⟨rfl, rfl, rfl, rfl, rfl, rfl, rfl, fun _ => rfl⟩

theorem Frame.setHold {ps : List Part} {r s : State} (h : Frame ps r s) (a : AisleId) (x : AisleHold)
    (hp : [.holds] ⊆ ps) : Frame ps r (s.setHold a x) := by
  refine h.one (fun p hn => ?_) hp
  cases p <;> first
    | exact rfl
    | exact absurd rfl hn
    | exact fun _ => rfl
    | exact fun _ => ⟨rfl, rfl⟩
    | exact ⟨rfl, rfl⟩
    | exact ⟨rfl, rfl, rfl, rfl⟩
    | exact ⟨rfl, rfl, rfl, rfl, rfl, rfl, rfl, fun _ => rfl⟩

theorem Frame.countLive {ps : List Part} {r s : State} (h : Frame ps r s) (o : Origin) (f : Nat → Nat)
    (hp : [.pool] ⊆ ps) : Frame ps r (s.countLive o f) := by
  unfold State.countLive
  split
  · exact h.live _ hp
  · exact h

theorem Frame.createJob {ps : List Part} {r s : State} (h : Frame ps r s) (j : Job) (hp : [.jobs, .pool] ⊆ ps) :
    Frame ps r (s.createJob j) := by
  unfold State.createJob
  exact Frame.countLive (Frame.entered (Frame.setSlot h _ _ (List.Subset.trans (by simp) hp)) _ _
    (List.Subset.trans (by simp) hp)) _ _ (List.Subset.trans (by simp) hp)

theorem Frame.updWave {ps : List Part} {r s : State} (h : Frame ps r s) (id : Nat) (f : Wave → Wave)
    (hp : [.waves] ⊆ ps) :
    Frame ps r (s.updWave id f) := h.waves _ hp

theorem Frame.freeWave {ps : List Part} {r s : State} (h : Frame ps r s) (id : Nat) (hp : [.waves] ⊆ ps) :
    Frame ps r (s.freeWave id) := h.waves _ hp

theorem Frame.raise {ps : List Part} {r s : State} (h : Frame ps r s) (e : Instr) (hp : [.events] ⊆ ps) :
    Frame ps r (s.raise e) := h.events _ hp

theorem Frame.raiseAll {ps : List Part} {r s : State} (h : Frame ps r s) (es : List Instr) (hp : [.events] ⊆ ps) :
    Frame ps r (s.raiseAll es) := h.events _ hp

theorem Frame.take {ps : List Part} {r s : State} (h : Frame ps r s) (e : Instr) (hp : [.events] ⊆ ps) :
    Frame ps r (s.take e) := h.events _ hp

theorem Frame.forget {ps : List Part} {r s : State} (h : Frame ps r s) (e : Instr) (hp : [.events] ⊆ ps) :
    Frame ps r (s.forget e) := h.events _ hp

theorem Frame.setHoldState {ps : List Part} {r s : State} (h : Frame ps r s) (a : AisleId) (x : HoldState)
    (hp : [.holds] ⊆ ps) :
    Frame ps r (s.setHoldState a x) := h.setHold _ _ hp

theorem Frame.rewrite {ps : List Part} {r s : State} (h : Frame ps r s) (x y : CellAddr) (hp : [.jobs] ⊆ ps) :
    Frame ps r (s.rewrite x y) := h.jobsOnly _ hp

theorem Frame.ageStep {ps : List Part} {r s : State} (h : Frame ps r s) (hp : [.jobs, .counter] ⊆ ps) :
    Frame ps r s.ageStep := by
  unfold State.ageStep
  split
  · exact h
  · exact (h.jobsOnly (s.jpl.slots.map fun x => { x with job := x.job.map Job.ageOnce })
      (List.Subset.trans (by simp) hp)).counter s.jpl.startCount (List.Subset.trans (by simp) hp)

theorem Frame.updJob {ps : List Part} {r s : State} (h : Frame ps r s) (i : Handle) (f : Job → Job)
    (hp : [.jobs] ⊆ ps) : Frame ps r (s.updJob i f) := by
  unfold State.updJob
  split
  · exact h.setSlot _ _ hp
  · exact h

theorem Frame.offerNotice {ps : List Part} {r s : State} (h : Frame ps r s) (l : OrderLink) (n : Notice)
    (hp : [.queue] ⊆ ps) : Frame ps r (s.offerNotice l n) := by
  unfold State.offerNotice
  split
  · exact h.setQueue _ _ hp
  · exact h

theorem Frame.putCell {ps : List Part} {r s : State} (h : Frame ps r s) (c : CellAddr) (x : Cell)
    (hp : [.cells] ⊆ ps) : Frame ps r (s.putCell c x) := by
  refine h.trans fun p hn => ?_
  have ha : ∀ b, ((s.putCell c x).aisle b).profile = (s.aisle b).profile
      ∧ ((s.putCell c x).aisle b).pendingProfile = (s.aisle b).pendingProfile := by
    intro b
    unfold State.putCell
    repeat' split
    · rw [State.setAisle_aisle]
      split
      · next hb => subst hb; exact ⟨rfl, rfl⟩
      · exact ⟨rfl, rfl⟩
    all_goals exact ⟨rfl, rfl⟩
  cases p
  case profiles => exact ha
  case cells => exact absurd (hp (by simp)) hn
  case rest =>
    have hg : ∀ b, ((s.putCell c x).profile? b).map (·.geo) = (s.profile? b).map (·.geo) := fun b => by
      rw [State.profile?, (ha b).1]; rfl
    refine ⟨?_, ?_, ?_, ?_, ?_, ?_, ?_, hg⟩ <;> (unfold State.putCell; repeat' split) <;> rfl
  all_goals (unfold State.putCell; repeat' split) <;> first
    | exact rfl
    | exact ⟨rfl, rfl⟩
    | exact ⟨rfl, rfl, rfl, rfl⟩

theorem Frame.putState {ps : List Part} {r s : State} (h : Frame ps r s) (c : CellAddr) (x : CellState)
    (hp : [.cells] ⊆ ps) : Frame ps r (s.putState c x) := h.putCell _ _ hp

/-! ## Events, faults, notices, frames -/

theorem Frame.select {ps : List Part} {r s : State} (h : Frame ps r s) (a : AisleId) (hp : [.events] ⊆ ps) :
    Frame ps r (s.select a) := by
  unfold State.select
  all_goals repeat' first
    | with_reducible assumption
    | with_reducible apply Frame.raiseAll

theorem Frame.selectAll {ps : List Part} {r s : State} (h : Frame ps r s) (hp : [.events] ⊆ ps) :
    Frame ps r (s.selectAll) := by
  unfold State.selectAll
  all_goals repeat' first
    | with_reducible assumption
    | (with_reducible refine Frame.each _ (fun _ _ _ => ?_) ?_)
    | with_reducible apply Frame.select

theorem Frame.raiseFault {ps : List Part} {r s : State} (h : Frame ps r s) (k : FaultKind) (src : FaultSource) (a : Option AisleId) (j : Option Handle) (p : List Byte)
    (hp : [.events] ⊆ ps) :
    Frame ps r (s.raiseFault k src a j p) := by
  unfold State.raiseFault
  all_goals repeat' first
    | with_reducible assumption
    | with_reducible apply Frame.raise

theorem Frame.offerActive {ps : List Part} {r s : State} (h : Frame ps r s) (n : Notice) (hp : [.queue] ⊆ ps) :
    Frame ps r (s.offerActive n) := by
  unfold State.offerActive
  all_goals repeat' first
    | with_reducible assumption
    | (with_reducible refine Frame.each _ (fun _ _ _ => ?_) ?_)
    | with_reducible apply Frame.offerNotice

theorem Frame.send {ps : List Part} {r s : State} (h : Frame ps r s) (k : Link) (m : Message) (hp : [.tx k] ⊆ ps) :
    Frame ps r (s.send k m) := by
  unfold State.send
  all_goals repeat' first
    | with_reducible assumption
    | with_reducible apply Frame.setTx

/-! ## Jobs -/

theorem Frame.reEvaluate {ps : List Part} {r s : State} (h : Frame ps r s) (p : Job → Bool) (hp : [.events] ⊆ ps) :
    Frame ps r (s.reEvaluate p) := by
  unfold State.reEvaluate
  all_goals repeat' first
    | with_reducible assumption
    | with_reducible apply Frame.raiseAll

theorem Frame.recheckCell {ps : List Part} {r s : State} (h : Frame ps r s) (c : CellAddr) (b : Bool)
    (hp : [.events] ⊆ ps) :
    Frame ps r (s.recheckCell c b) := by
  unfold State.recheckCell
  all_goals repeat' first
    | with_reducible assumption
    | with_reducible apply Frame.reEvaluate

theorem Frame.recheckAisle {ps : List Part} {r s : State} (h : Frame ps r s) (a : AisleId) (cs : List CellAddr)
    (hp : [.events] ⊆ ps) :
    Frame ps r (s.recheckAisle a cs) := by
  unfold State.recheckAisle
  all_goals repeat' first
    | with_reducible assumption
    | with_reducible apply Frame.reEvaluate

theorem Frame.becameReady {ps : List Part} {r s : State} (h : Frame ps r s) (j : Job) (hp : [.events] ⊆ ps) :
    Frame ps r (s.becameReady j) := by
  unfold State.becameReady
  repeat' split
  all_goals try dsimp only
  all_goals repeat' first
    | with_reducible assumption
    | with_reducible apply Frame.select
    | with_reducible apply Frame.raise

/-! ## Cells -/

theorem Frame.reserveDrop {ps : List Part} {r s t : State} (h : Frame ps r s) (c : CellAddr) (j : Handle)
    (ht : s.reserveDrop c j = some t) (hp : [.cells, .events] ⊆ ps) : Frame ps r t := by
  unfold State.reserveDrop at ht
  split at ht
  · cases ht
    exact Frame.recheckCell (Frame.putState h _ _ (List.Subset.trans (by simp) hp)) _ _ (List.Subset.trans (by simp) hp)
  · exact absurd ht (by simp)

theorem Frame.reservePick {ps : List Part} {r s t : State} (h : Frame ps r s) (c : CellAddr) (j : Handle)
    (ht : s.reservePick c j = some t) (hp : [.cells, .events] ⊆ ps) : Frame ps r t := by
  unfold State.reservePick at ht
  repeat' split at ht
  all_goals first
    | (cases ht; done)
    | (cases ht
       exact Frame.recheckCell (Frame.putState h _ _ (List.Subset.trans (by simp) hp)) _ _
         (List.Subset.trans (by simp) hp))

theorem Frame.reserveUnit {ps : List Part} {r s t : State} (h : Frame ps r s) (u : Proposal)
    (ht : s.reserveUnit u = some t) (hp : [.cells, .events] ⊆ ps) : Frame ps r t := by
  unfold State.reserveUnit at ht
  split at ht
  · exact h.reservePick _ _ ht hp
  · cases ht; exact h

theorem Frame.pickMade {ps : List Part} {r s : State} (h : Frame ps r s) (c : CellAddr) (j : Handle)
    (hp : [.cells, .events] ⊆ ps) : Frame ps r (s.pickMade c j).1 := by
  unfold State.pickMade
  repeat' split
  all_goals first
    | exact h
    | exact Frame.recheckCell (Frame.putState h _ _ (List.Subset.trans (by simp) hp)) _ _
        (List.Subset.trans (by simp) hp)

theorem Frame.release {ps : List Part} {r s : State} (h : Frame ps r s) (c : CellAddr) (j : Handle)
    (hp : [.cells, .events] ⊆ ps) :
    Frame ps r (s.release c j) := by
  unfold State.release
  repeat' split
  all_goals repeat' first
    | with_reducible assumption
    | with_reducible apply Frame.putState
    | with_reducible apply Frame.recheckCell
    | (refine List.Subset.trans ?_ hp
       simp only [List.cons_subset, List.nil_subset, List.mem_cons, true_or, or_true, and_self]; done)

theorem Frame.release_q {ps : List Part} {r s : State} (h : Frame ps r s) (c : Option CellAddr) (j : Handle)
    (hp : [.cells, .events] ⊆ ps) :
    Frame ps r (s.release? c j) := by
  unfold State.release?
  repeat' split
  all_goals repeat' first
    | with_reducible assumption
    | with_reducible apply Frame.release

theorem Frame.dropMade {ps : List Part} {r s : State} (h : Frame ps r s) (c : CellAddr) (j : Handle) (k : Class)
    (hp : [.cells] ⊆ ps) :
    Frame ps r (s.dropMade c j k) := by
  unfold State.dropMade
  repeat' split
  all_goals repeat' first
    | with_reducible assumption
    | with_reducible apply Frame.putState

theorem Frame.foundOccupied {ps : List Part} {r s : State} (h : Frame ps r s) (c : CellAddr) (j : Handle)
    (hp : [.cells, .events] ⊆ ps) :
    Frame ps r (s.foundOccupied c j) := by
  unfold State.foundOccupied
  repeat' split
  all_goals repeat' first
    | with_reducible assumption
    | with_reducible apply Frame.putCell
    | with_reducible apply Frame.recheckCell
    | (refine List.Subset.trans ?_ hp
       simp only [List.cons_subset, List.nil_subset, List.mem_cons, true_or, or_true, and_self]; done)

theorem Frame.foundEmpty {ps : List Part} {r s : State} (h : Frame ps r s) (c : CellAddr) (j : Handle)
    (hp : [.cells, .events] ⊆ ps) :
    Frame ps r (s.foundEmpty c j) := by
  unfold State.foundEmpty
  repeat' split
  all_goals repeat' first
    | with_reducible assumption
    | with_reducible apply Frame.putCell
    | with_reducible apply Frame.recheckCell
    | (refine List.Subset.trans ?_ hp
       simp only [List.cons_subset, List.nil_subset, List.mem_cons, true_or, or_true, and_self]; done)

theorem Frame.declareFull {ps : List Part} {r s : State} (h : Frame ps r s) (c : CellAddr) (j : Handle) (k : Option Class)
    (hp : [.cells] ⊆ ps) :
    Frame ps r (s.declareFull c j k) := by
  unfold State.declareFull
  repeat' split
  all_goals try dsimp only
  all_goals repeat' first
    | with_reducible assumption
    | with_reducible apply Frame.putState
    | with_reducible apply Frame.putCell

/-! ## Positions and intervals -/

theorem Frame.setPosition {ps : List Part} {r s : State} (h : Frame ps r s) (c : CraneId) (x : Point)
    (hp : [.crane c] ⊆ ps) :
    Frame ps r (s.setPosition c x) := by
  unfold State.setPosition
  repeat' split
  all_goals try dsimp only
  all_goals repeat' first
    | with_reducible assumption
    | with_reducible apply Frame.setCrane

theorem Frame.updEntry {ps : List Part} {r s : State} (h : Frame ps r s) (a : AisleId) (e : End) (f : RailEntry → RailEntry)
    (hp : [.rail] ⊆ ps) :
    Frame ps r (s.updEntry a e f) := by
  unfold State.updEntry
  repeat' split
  all_goals repeat' first
    | with_reducible assumption
    | with_reducible apply Frame.setRail

theorem Frame.updOwn {ps : List Part} {r s : State} (h : Frame ps r s) (c : CraneId) (f : RailEntry → RailEntry)
    (hp : [.rail] ⊆ ps) :
    Frame ps r (s.updOwn c f) := by
  unfold State.updOwn
  repeat' split
  all_goals repeat' first
    | with_reducible assumption
    | with_reducible apply Frame.updEntry

theorem Frame.grant {ps : List Part} {r s : State} (h : Frame ps r s) (c : CraneId) (i : Interval) (hp : [.rail] ⊆ ps) :
    Frame ps r (s.grant c i) := by
  unfold State.grant
  all_goals repeat' first
    | with_reducible assumption
    | with_reducible apply Frame.updOwn

theorem Frame.shrink {ps : List Part} {r s : State} (h : Frame ps r s) (c : CraneId) (i : Interval)
    (hp : [.rail, .events] ⊆ ps) :
    Frame ps r (s.shrink c i) := by
  unfold State.shrink
  repeat' split
  all_goals repeat' first
    | with_reducible assumption
    | with_reducible apply Frame.grant
    | with_reducible apply Frame.select
    | (refine List.Subset.trans ?_ hp
       simp only [List.cons_subset, List.nil_subset, List.mem_cons, true_or, or_true, and_self]; done)

theorem Frame.endClaim {ps : List Part} {r s : State} (h : Frame ps r s) (a : AisleId) (e : End)
    (hp : [.rail, .events] ⊆ ps) :
    Frame ps r (s.endClaim a e) := by
  unfold State.endClaim
  repeat' split
  all_goals repeat' first
    | with_reducible assumption
    | with_reducible apply Frame.updEntry
    | with_reducible apply Frame.select
    | (refine List.Subset.trans ?_ hp
       simp only [List.cons_subset, List.nil_subset, List.mem_cons, true_or, or_true, and_self]; done)

theorem Frame.checkRail {ps : List Part} {r s : State} (h : Frame ps r s) (a : AisleId) (hp : [.events] ⊆ ps) :
    Frame ps r (s.checkRail a) := by
  unfold State.checkRail
  repeat' split
  all_goals repeat' first
    | with_reducible assumption
    | with_reducible apply Frame.raiseFault

theorem Frame.railReport {ps : List Part} {r s : State} (h : Frame ps r s) (c : CraneId) (bay : Nat) (xs : List Step) (j : Option Handle) (p : List Byte)
    (hp : [.rail, .events] ⊆ ps) :
    Frame ps r (s.railReport c bay xs j p) := by
  unfold State.railReport
  repeat' split
  all_goals repeat' first
    | with_reducible assumption
    | with_reducible apply Frame.shrink
    | with_reducible apply Frame.raiseFault
    | (refine List.Subset.trans ?_ hp
       simp only [List.cons_subset, List.nil_subset, List.mem_cons, true_or, or_true, and_self]; done)

/-! ## Changes of a crane's state -/

theorem Frame.startOfferTimer {ps : List Part} {r s : State} (h : Frame ps r s) (c : CraneId)
    (hp : [.crane c, .events] ⊆ ps) :
    Frame ps r (s.startOfferTimer c) := by
  unfold State.startOfferTimer
  all_goals try dsimp only
  all_goals repeat' first
    | with_reducible assumption
    | with_reducible apply Frame.setCrane
    | with_reducible apply Frame.forget
    | (refine List.Subset.trans ?_ hp
       simp only [List.cons_subset, List.nil_subset, List.mem_cons, true_or, or_true, and_self]; done)

theorem Frame.stopOfferTimer {ps : List Part} {r s : State} (h : Frame ps r s) (c : CraneId)
    (hp : [.crane c, .events] ⊆ ps) :
    Frame ps r (s.stopOfferTimer c) := by
  unfold State.stopOfferTimer
  all_goals try dsimp only
  all_goals repeat' first
    | with_reducible assumption
    | with_reducible apply Frame.setCrane
    | with_reducible apply Frame.forget
    | (refine List.Subset.trans ?_ hp
       simp only [List.cons_subset, List.nil_subset, List.mem_cons, true_or, or_true, and_self]; done)

theorem Frame.startParkTimer {ps : List Part} {r s : State} (h : Frame ps r s) (c : CraneId)
    (hp : [.crane c, .events] ⊆ ps) :
    Frame ps r (s.startParkTimer c) := by
  unfold State.startParkTimer
  all_goals try dsimp only
  all_goals repeat' first
    | with_reducible assumption
    | with_reducible apply Frame.setCrane
    | with_reducible apply Frame.forget
    | (refine List.Subset.trans ?_ hp
       simp only [List.cons_subset, List.nil_subset, List.mem_cons, true_or, or_true, and_self]; done)

theorem Frame.stopParkTimer {ps : List Part} {r s : State} (h : Frame ps r s) (c : CraneId)
    (hp : [.crane c, .events] ⊆ ps) :
    Frame ps r (s.stopParkTimer c) := by
  unfold State.stopParkTimer
  all_goals try dsimp only
  all_goals repeat' first
    | with_reducible assumption
    | with_reducible apply Frame.setCrane
    | with_reducible apply Frame.forget
    | (refine List.Subset.trans ?_ hp
       simp only [List.cons_subset, List.nil_subset, List.mem_cons, true_or, or_true, and_self]; done)

theorem Frame.startBackoffTimer {ps : List Part} {r s : State} (h : Frame ps r s) (c : CraneId)
    (hp : [.crane c, .events] ⊆ ps) :
    Frame ps r (s.startBackoffTimer c) := by
  unfold State.startBackoffTimer
  all_goals try dsimp only
  all_goals repeat' first
    | with_reducible assumption
    | with_reducible apply Frame.setCrane
    | with_reducible apply Frame.forget
    | (refine List.Subset.trans ?_ hp
       simp only [List.cons_subset, List.nil_subset, List.mem_cons, true_or, or_true, and_self]; done)

theorem Frame.stopBackoffTimer {ps : List Part} {r s : State} (h : Frame ps r s) (c : CraneId)
    (hp : [.crane c, .events] ⊆ ps) :
    Frame ps r (s.stopBackoffTimer c) := by
  unfold State.stopBackoffTimer
  all_goals try dsimp only
  all_goals repeat' first
    | with_reducible assumption
    | with_reducible apply Frame.setCrane
    | with_reducible apply Frame.forget
    | (refine List.Subset.trans ?_ hp
       simp only [List.cons_subset, List.nil_subset, List.mem_cons, true_or, or_true, and_self]; done)

theorem Frame.startHoldBack {ps : List Part} {r s : State} (h : Frame ps r s) (c : CraneId)
    (hp : [.holdBack, .events] ⊆ ps) :
    Frame ps r (s.startHoldBack c) := by
  unfold State.startHoldBack
  all_goals repeat' first
    | with_reducible assumption
    | with_reducible apply Frame.setHoldBack
    | with_reducible apply Frame.forget
    | (refine List.Subset.trans ?_ hp
       simp only [List.cons_subset, List.nil_subset, List.mem_cons, true_or, or_true, and_self]; done)

theorem Frame.stopHoldBack {ps : List Part} {r s : State} (h : Frame ps r s) (c : CraneId)
    (hp : [.holdBack, .events] ⊆ ps) :
    Frame ps r (s.stopHoldBack c) := by
  unfold State.stopHoldBack
  all_goals try dsimp only
  all_goals repeat' first
    | with_reducible assumption
    | with_reducible apply Frame.setHoldBack
    | with_reducible apply Frame.forget
    | (refine List.Subset.trans ?_ hp
       simp only [List.cons_subset, List.nil_subset, List.mem_cons, true_or, or_true, and_self]; done)

theorem Frame.stopDeadline {ps : List Part} {r s : State} (h : Frame ps r s) (c : CraneId)
    (hp : [.crane c, .events] ⊆ ps) :
    Frame ps r (s.stopDeadline c) := by
  unfold State.stopDeadline
  all_goals try dsimp only
  all_goals repeat' first
    | with_reducible assumption
    | with_reducible apply Frame.setCrane
    | with_reducible apply Frame.forget
    | (refine List.Subset.trans ?_ hp
       simp only [List.cons_subset, List.nil_subset, List.mem_cons, true_or, or_true, and_self]; done)

theorem Frame.startDeadline {ps : List Part} {r s : State} (h : Frame ps r s) (c : CraneId) (x : Point)
    (hp : [.crane c, .events] ⊆ ps) :
    Frame ps r (s.startDeadline c x) := by
  unfold State.startDeadline
  repeat' split
  all_goals try dsimp only
  all_goals repeat' first
    | with_reducible assumption
    | with_reducible apply Frame.setCrane
    | with_reducible apply Frame.forget
    | (refine List.Subset.trans ?_ hp
       simp only [List.cons_subset, List.nil_subset, List.mem_cons, true_or, or_true, and_self]; done)

theorem Frame.applyPending {ps : List Part} {r s : State} (h : Frame ps r s) (a : AisleId) (p : Profile)
    (q : PendingProfile) (ha : (s.aisle a).profile = some p) (hp : [.profiles] ⊆ ps) :
    Frame ps r (s.setAisle a { s.aisle a with profile := some { p with op := q.op }, pendingProfile := none }) := by
  refine h.trans fun x hn => ?_
  have hg : ∀ b, ((s.setAisle a { s.aisle a with
      profile := some { p with op := q.op }, pendingProfile := none }).profile? b).map (·.geo)
        = (s.profile? b).map (·.geo) := by
    intro b
    simp only [State.profile?, State.setAisle_aisle]
    split
    · next hb => subst hb; rw [ha]; rfl
    · rfl
  cases x
  case profiles => exact absurd (hp (by simp)) hn
  case cells =>
    intro b
    rw [State.setAisle_aisle]
    split
    · next hb => rw [hb]
    · rfl
  case rest => exact ⟨rfl, rfl, rfl, rfl, rfl, rfl, rfl, hg⟩
  all_goals first
    | exact rfl
    | exact ⟨rfl, rfl⟩
    | exact ⟨rfl, rfl, rfl, rfl⟩

theorem Frame.testPending {ps : List Part} {r s : State} (h : Frame ps r s) (a : AisleId)
    (hp : [.profiles, .queue, .events] ⊆ ps) :
    Frame ps r (s.testPending a) := by
  unfold State.testPending
  split
  · next p q ha hq =>
    split
    · exact h
    · exact Frame.checkRail (Frame.select (Frame.offerNotice (h.applyPending a p q ha (List.Subset.trans (by simp) hp)) _ _
        (List.Subset.trans (by simp) hp)) _ (List.Subset.trans (by simp) hp)) _ (List.Subset.trans (by simp) hp)
  · exact h

theorem Frame.enterHeld {ps : List Part} {r s : State} (h : Frame ps r s) (a : AisleId) (hp : [.holds, .queue] ⊆ ps) :
    Frame ps r (s.enterHeld a) := by
  unfold State.enterHeld
  all_goals try dsimp only
  all_goals repeat' first
    | with_reducible assumption
    | (with_reducible refine Frame.each _ (fun _ _ _ => ?_) ?_)
    | with_reducible apply Frame.offerNotice
    | with_reducible apply Frame.setHoldState
    | (refine List.Subset.trans ?_ hp
       simp only [List.cons_subset, List.nil_subset, List.mem_cons, true_or, or_true, and_self]; done)

theorem Frame.testHold {ps : List Part} {r s : State} (h : Frame ps r s) (a : AisleId) (hp : [.holds, .queue] ⊆ ps) :
    Frame ps r (s.testHold a) := by
  unfold State.testHold
  repeat' split
  all_goals repeat' first
    | with_reducible assumption
    | with_reducible apply Frame.enterHeld
    | with_reducible apply Frame.setHoldState
    | (refine List.Subset.trans ?_ hp
       simp only [List.cons_subset, List.nil_subset, List.mem_cons, true_or, or_true, and_self]; done)

theorem Frame.leaveWaiting {ps : List Part} {r s : State} (h : Frame ps r s) (c : CraneId)
    (hp : [.rail, .holdBack, .events] ⊆ ps) :
    Frame ps r (s.leaveWaiting c) := by
  unfold State.leaveWaiting
  all_goals try dsimp only
  all_goals repeat' first
    | with_reducible assumption
    | with_reducible apply Frame.stopHoldBack
    | with_reducible apply Frame.endClaim
    | (refine List.Subset.trans ?_ hp
       simp only [List.cons_subset, List.nil_subset, List.mem_cons, true_or, or_true, and_self]; done)
    | (refine List.Subset.trans ?_ hp; simp; done)
    | (apply hp; simp; done)
    | split

theorem Frame.enterState {ps : List Part} {r s : State} (h : Frame ps r s) (c : CraneId) (x : CraneState)
    (hp : [.crane c, .rail, .holdBack, .parkOwed, .holds, .profiles, .queue, .events] ⊆ ps) :
    Frame ps r (s.enterState c x) := by
  unfold State.enterState
  all_goals try dsimp only
  all_goals repeat' first
    | with_reducible assumption
    | with_reducible apply Frame.leaveWaiting
    | with_reducible apply Frame.setCrane
    | with_reducible apply Frame.setParkOwed
    | with_reducible apply Frame.testPending
    | with_reducible apply Frame.select
    | with_reducible apply Frame.testHold
    | (refine List.Subset.trans ?_ hp
       simp only [List.cons_subset, List.nil_subset, List.mem_cons, true_or, or_true, and_self]; done)
    | (refine List.Subset.trans ?_ hp; simp; done)
    | (apply hp; simp; done)
    | split

theorem Frame.leaveBackoff {ps : List Part} {r s : State} (h : Frame ps r s) (c : CraneId)
    (hp : [.crane c, .events] ⊆ ps) :
    Frame ps r (s.leaveBackoff c) := by
  unfold State.leaveBackoff
  repeat' split
  all_goals try dsimp only
  all_goals repeat' first
    | with_reducible assumption
    | with_reducible apply Frame.setCrane
    | with_reducible apply Frame.stopBackoffTimer
    | (refine List.Subset.trans ?_ hp
       simp only [List.cons_subset, List.nil_subset, List.mem_cons, true_or, or_true, and_self]; done)

theorem Frame.widenToPark {ps : List Part} {r s : State} (h : Frame ps r s) (c : CraneId) (hp : [.rail] ⊆ ps) :
    Frame ps r (s.widenToPark c) := by
  unfold State.widenToPark
  split
  · exact Frame.grant h c _ hp
  · exact h

theorem Frame.tellPark {ps : List Part} {r s : State} (h : Frame ps r s) (c : CraneId)
    (hp : [.rail, .tx (.crane c)] ⊆ ps) : Frame ps r (s.tellPark c) := by
  unfold State.tellPark
  repeat' first
    | with_reducible assumption
    | with_reducible apply Frame.widenToPark
    | with_reducible apply Frame.send
    | (refine List.Subset.trans ?_ hp
       simp only [List.cons_subset, List.nil_subset, List.mem_cons, true_or, or_true, and_self]; done)

theorem Frame.sendPark {ps : List Part} {r s : State} (h : Frame ps r s) (c : CraneId)
    (hp : [.crane c, .rail, .holdBack, .parkOwed, .holds, .profiles, .tx (.crane c), .queue, .events] ⊆ ps) :
    Frame ps r (s.sendPark c) := by
  unfold State.sendPark
  all_goals try dsimp only
  all_goals repeat' first
    | with_reducible assumption
    | with_reducible apply Frame.enterState
    | with_reducible apply Frame.startParkTimer
    | with_reducible apply Frame.tellPark
    | with_reducible apply Frame.leaveBackoff
    | (refine List.Subset.trans ?_ hp
       simp only [List.cons_subset, List.nil_subset, List.mem_cons, true_or, or_true, and_self]; done)
    | (refine List.Subset.trans ?_ hp; simp; done)
    | (apply hp; simp; done)
    | split

theorem Frame.goIdle {ps : List Part} {r s : State} (h : Frame ps r s) (c : CraneId)
    (hp : [.crane c, .rail, .holdBack, .parkOwed, .holds, .profiles, .tx (.crane c), .queue, .events] ⊆ ps) :
    Frame ps r (s.goIdle c) := by
  unfold State.goIdle
  repeat' split
  all_goals repeat' first
    | with_reducible assumption
    | with_reducible apply Frame.sendPark
    | with_reducible apply Frame.enterState
    | (refine List.Subset.trans ?_ hp
       simp only [List.cons_subset, List.nil_subset, List.mem_cons, true_or, or_true, and_self]; done)

theorem Frame.goIdleOrPark {ps : List Part} {r s : State} (h : Frame ps r s) (c : CraneId)
    (hp : [.crane c, .rail, .holdBack, .parkOwed, .holds, .profiles, .tx (.crane c), .queue, .events] ⊆ ps) :
    Frame ps r (s.goIdleOrPark c) := by
  unfold State.goIdleOrPark
  repeat' split
  all_goals repeat' first
    | with_reducible assumption
    | with_reducible apply Frame.sendPark
    | with_reducible apply Frame.enterState
    | (refine List.Subset.trans ?_ hp
       simp only [List.cons_subset, List.nil_subset, List.mem_cons, true_or, or_true, and_self]; done)

/-! ## Units -/

theorem Frame.updCredit {ps : List Part} {r s : State} (h : Frame ps r s) (a : AisleId) (e : End) (f : Credit → Credit)
    (hp : [.credit, .events] ⊆ ps) :
    Frame ps r (s.updCredit a e f) := by
  unfold State.updCredit
  repeat' split
  all_goals repeat' first
    | with_reducible assumption
    | with_reducible apply Frame.setCredit
    | with_reducible apply Frame.select
    | (refine List.Subset.trans ?_ hp
       simp only [List.cons_subset, List.nil_subset, List.mem_cons, true_or, or_true, and_self]; done)

theorem Frame.updBound {ps : List Part} {r s : State} (h : Frame ps r s) (c : CraneId) (j : Job) (f : Credit → Credit)
    (hp : [.credit, .events] ⊆ ps) :
    Frame ps r (s.updBound c j f) := by
  unfold State.updBound
  repeat' split
  all_goals repeat' first
    | with_reducible assumption
    | with_reducible apply Frame.updCredit

theorem Frame.dropPartner {ps : List Part} {r s : State} (h : Frame ps r s) (j : Job) (hp : [.jobs] ⊆ ps) :
    Frame ps r (s.dropPartner j) := by
  unfold State.dropPartner
  repeat' split
  all_goals repeat' first
    | with_reducible assumption
    | with_reducible apply Frame.updJob

theorem Frame.returnToReady {ps : List Part} {r s : State} (h : Frame ps r s) (c : CraneId) (h' : Handle)
    (hp : [.cells, .jobs, .credit, .events] ⊆ ps) :
    Frame ps r (s.returnToReady c h') := by
  unfold State.returnToReady
  repeat' split
  all_goals try dsimp only
  all_goals repeat' first
    | with_reducible assumption
    | with_reducible apply Frame.becameReady
    | with_reducible apply Frame.updBound
    | with_reducible apply Frame.release_q
    | with_reducible apply Frame.updJob
    | with_reducible apply Frame.dropPartner
    | (refine List.Subset.trans ?_ hp
       simp only [List.cons_subset, List.nil_subset, List.mem_cons, true_or, or_true, and_self]; done)

theorem Frame.fall {ps : List Part} {r s : State} (h : Frame ps r s) (c : CraneId) (bays : List Nat)
    (hp : [.rail, .events] ⊆ ps) :
    Frame ps r (s.fall c bays) := by
  unfold State.fall
  repeat' split
  all_goals repeat' first
    | with_reducible assumption
    | with_reducible apply Frame.shrink

theorem Frame.endRedirect {ps : List Part} {r s : State} (h : Frame ps r s) (c : CraneId)
    (hp : [.crane c, .cells, .jobs, .credit, .events] ⊆ ps) :
    Frame ps r (s.endRedirect c) := by
  unfold State.endRedirect
  repeat' split
  all_goals try dsimp only
  all_goals repeat' first
    | with_reducible assumption
    | with_reducible apply Frame.select
    | with_reducible apply Frame.updBound
    | with_reducible apply Frame.release_q
    | with_reducible apply Frame.updJob
    | with_reducible apply Frame.stopOfferTimer
    | with_reducible apply Frame.setCrane
    | (refine List.Subset.trans ?_ hp
       simp only [List.cons_subset, List.nil_subset, List.mem_cons, true_or, or_true, and_self]; done)
    | (refine List.Subset.trans ?_ hp; simp; done)
    | (apply hp; simp; done)
    | split

theorem Frame.withdrawRedirect {ps : List Part} {r s : State} (h : Frame ps r s) (c : CraneId)
    (hp : [.crane c, .cells, .jobs, .credit, .tx (.crane c), .events] ⊆ ps) :
    Frame ps r (s.withdrawRedirect c) := by
  unfold State.withdrawRedirect
  repeat' split
  all_goals repeat' first
    | with_reducible assumption
    | with_reducible apply Frame.endRedirect
    | with_reducible apply Frame.send
    | (refine List.Subset.trans ?_ hp
       simp only [List.cons_subset, List.nil_subset, List.mem_cons, true_or, or_true, and_self]; done)

theorem Frame.late {ps : List Part} {r s : State} (h : Frame ps r s) (c : CraneId)
    (hp : [.crane c, .rail, .cells, .jobs, .credit, .events] ⊆ ps) :
    Frame ps r (s.late c) := by
  unfold State.late
  all_goals try dsimp only
  all_goals repeat' first
    | with_reducible assumption
    | with_reducible apply Frame.fall
    | with_reducible apply Frame.endRedirect
    | (refine List.Subset.trans ?_ hp
       simp only [List.cons_subset, List.nil_subset, List.mem_cons, true_or, or_true, and_self]; done)

theorem Frame.withdraw {ps : List Part} {r s : State} (h : Frame ps r s) (c : CraneId) (keep : Nat)
    (hp : [.crane c, .tx (.crane c), .events] ⊆ ps) :
    Frame ps r (s.withdraw c keep) := by
  unfold State.withdraw
  repeat' split
  all_goals try dsimp only
  all_goals repeat' first
    | with_reducible assumption
    | with_reducible apply Frame.stopDeadline
    | with_reducible apply Frame.setCrane
    | with_reducible apply Frame.send
    | (refine List.Subset.trans ?_ hp
       simp only [List.cons_subset, List.nil_subset, List.mem_cons, true_or, or_true, and_self]; done)

theorem Frame.endUnit {ps : List Part} {r s : State} (h : Frame ps r s) (c : CraneId)
    (hp : [.crane c, .rail, .cells, .jobs, .credit, .tx (.crane c), .events] ⊆ ps) :
    Frame ps r (s.endUnit c) := by
  unfold State.endUnit
  all_goals try dsimp only
  all_goals repeat' first
    | with_reducible assumption
    | with_reducible apply Frame.fall
    | with_reducible apply Frame.withdrawRedirect
    | with_reducible apply Frame.stopOfferTimer
    | with_reducible apply Frame.stopDeadline
    | with_reducible apply Frame.setCrane
    | (refine List.Subset.trans ?_ hp
       simp only [List.cons_subset, List.nil_subset, List.mem_cons, true_or, or_true, and_self]; done)

theorem Frame.finishUnit {ps : List Part} {r s : State} (h : Frame ps r s) (c : CraneId)
    (hp : [.crane c, .rail, .holdBack, .parkOwed, .holds, .profiles, .cells, .jobs, .credit, .tx (.crane c), .queue, .events] ⊆ ps) :
    Frame ps r (s.finishUnit c) := by
  unfold State.finishUnit
  all_goals repeat' first
    | with_reducible assumption
    | with_reducible apply Frame.goIdle
    | with_reducible apply Frame.endUnit
    | (refine List.Subset.trans ?_ hp
       simp only [List.cons_subset, List.nil_subset, List.mem_cons, true_or, or_true, and_self]; done)

theorem Frame.afterWithdraw {ps : List Part} {r s : State} (h : Frame ps r s) (c : CraneId)
    (hp : [.crane c, .rail, .holdBack, .parkOwed, .holds, .profiles, .cells, .jobs, .credit, .tx (.crane c), .queue, .events] ⊆ ps) :
    Frame ps r (s.afterWithdraw c) := by
  unfold State.afterWithdraw
  repeat' split
  all_goals repeat' first
    | with_reducible assumption
    | with_reducible apply Frame.finishUnit
    | with_reducible apply Frame.fall
    | (refine List.Subset.trans ?_ hp
       simp only [List.cons_subset, List.nil_subset, List.mem_cons, true_or, or_true, and_self]; done)

theorem Frame.giveBack {ps : List Part} {r s : State} (h : Frame ps r s) (c : CraneId)
    (hp : [.crane c, .cells, .jobs, .credit, .events] ⊆ ps) :
    Frame ps r (s.giveBack c) := by
  unfold State.giveBack
  all_goals try dsimp only
  all_goals repeat' first
    | with_reducible assumption
    | (with_reducible refine Frame.each _ (fun _ _ _ => ?_) ?_)
    | with_reducible apply Frame.returnToReady
    | with_reducible apply Frame.stopOfferTimer
    | with_reducible apply Frame.stopDeadline
    | with_reducible apply Frame.setCrane
    | (refine List.Subset.trans ?_ hp
       simp only [List.cons_subset, List.nil_subset, List.mem_cons, true_or, or_true, and_self]; done)

/-! ## The life of a job -/

theorem Frame.waveLeft {ps : List Part} {r s : State} (h : Frame ps r s) (w : Option WaveRef) (hp : [.waves] ⊆ ps) :
    Frame ps r (s.waveLeft w) := by
  unfold State.waveLeft
  repeat' split
  all_goals repeat' first
    | with_reducible assumption
    | with_reducible apply Frame.freeWave
    | with_reducible apply Frame.updWave

theorem Frame.leavePool {ps : List Part} {r s : State} (h : Frame ps r s) (h' : Handle)
    (hp : [.jobs, .pool, .waves, .events] ⊆ ps) :
    Frame ps r (s.leavePool h') := by
  unfold State.leavePool
  split
  · exact h
  · next j hj =>
    have h1 := (h.setSlot h'.slot { gen := h'.gen + 1, job := none } (List.Subset.trans (by simp) hp)).freeList
      (s.jpl.freeList ++ [h'.slot]) (List.Subset.trans (by simp) hp)
    exact Frame.reEvaluate (Frame.waveLeft (Frame.countLive h1 _ _ (List.Subset.trans (by simp) hp)) _
      (List.Subset.trans (by simp) hp)) _ (List.Subset.trans (by simp) hp)

theorem Frame.payNotice {ps : List Part} {r s : State} (h : Frame ps r s) (h' : Handle) (l : OrderLink) (n : Notice)
    (hp : [.jobs, .queue] ⊆ ps) :
    Frame ps r (s.payNotice h' l n) := by
  unfold State.payNotice
  all_goals repeat' first
    | with_reducible assumption
    | with_reducible apply Frame.setQueue
    | with_reducible apply Frame.updJob
    | (refine List.Subset.trans ?_ hp
       simp only [List.cons_subset, List.nil_subset, List.mem_cons, true_or, or_true, and_self]; done)

theorem Frame.placeClosing {ps : List Part} {r s : State} (h : Frame ps r s) (h' : Handle) (l : OrderLink)
    (hp : [.jobs, .pool, .queue] ⊆ ps) :
    Frame ps r (s.placeClosing h' l) := by
  unfold State.placeClosing
  repeat' split
  all_goals repeat' first
    | with_reducible assumption
    | with_reducible apply Frame.payNotice
    | with_reducible apply Frame.setClosingWait
    | (refine List.Subset.trans ?_ hp
       simp only [List.cons_subset, List.nil_subset, List.mem_cons, true_or, or_true, and_self]; done)

theorem Frame.leaveIfPaid {ps : List Part} {r s : State} (h : Frame ps r s) (h' : Handle)
    (hp : [.jobs, .pool, .waves, .events] ⊆ ps) :
    Frame ps r (s.leaveIfPaid h') := by
  unfold State.leaveIfPaid
  repeat' split
  all_goals repeat' first
    | with_reducible assumption
    | with_reducible apply Frame.leavePool

theorem Frame.offerClosing {ps : List Part} {r s : State} (h : Frame ps r s) (h' : Handle)
    (hp : [.jobs, .pool, .waves, .queue, .events] ⊆ ps) :
    Frame ps r (s.offerClosing h') := by
  unfold State.offerClosing
  repeat' split
  all_goals repeat' first
    | with_reducible assumption
    | (with_reducible refine Frame.each _ (fun _ _ _ => ?_) ?_)
    | with_reducible apply Frame.leaveIfPaid
    | with_reducible apply Frame.placeClosing
    | (refine List.Subset.trans ?_ hp
       simp only [List.cons_subset, List.nil_subset, List.mem_cons, true_or, or_true, and_self]; done)

theorem Frame.closeStart {ps : List Part} {r s : State} (h : Frame ps r s) (h' : Handle) (o : JobOutcome) (m : Bool) (f : Credit → Credit)
    (hp : [.cells, .jobs, .credit, .events] ⊆ ps) :
    Frame ps r (s.closeStart h' o m f) := by
  unfold State.closeStart
  repeat' split
  all_goals try dsimp only
  all_goals repeat' first
    | with_reducible assumption
    | with_reducible apply Frame.updBound
    | with_reducible apply Frame.release_q
    | with_reducible apply Frame.updJob
    | with_reducible apply Frame.dropPartner
    | (refine List.Subset.trans ?_ hp
       simp only [List.cons_subset, List.nil_subset, List.mem_cons, true_or, or_true, and_self]; done)

theorem Frame.clearWaits {ps : List Part} {r s : State} (h : Frame ps r s) (j : Job) (hp : [.jobs] ⊆ ps) :
    Frame ps r (s.clearWaits j) := by
  unfold State.clearWaits
  repeat' split
  all_goals repeat' first
    | with_reducible assumption
    | with_reducible apply Frame.updJob

theorem Frame.cancelRelocation {ps : List Part} {r s : State} (h : Frame ps r s) (x : Job)
    (hp : Part.cranes ++ Part.craneTxs ++ [.rail, .holdBack, .parkOwed, .holds, .profiles, .cells, .jobs, .pool, .credit, .waves, .queue, .events] ⊆ ps) :
    Frame ps r (s.cancelRelocation x) := by
  unfold State.cancelRelocation
  repeat' split
  all_goals try dsimp only
  all_goals repeat' first
    | with_reducible assumption
    | with_reducible apply Frame.clearWaits
    | with_reducible apply Frame.closeStart
    | with_reducible apply Frame.withdraw
    | with_reducible apply Frame.withdrawRedirect
    | (refine List.Subset.trans ?_ hp
       simp only [List.cons_subset, List.nil_subset, List.mem_cons, true_or, or_true, and_self]; done)
    | (refine List.Subset.trans ?_ hp; simp; done)

theorem Frame.closeRetrieveStart {ps : List Part} {r s : State} (h : Frame ps r s) (h' : Handle) (o : JobOutcome) (f : Credit → Credit)
    (hp : Part.cranes ++ Part.craneTxs ++ [.rail, .holdBack, .parkOwed, .holds, .profiles, .cells, .jobs, .pool, .credit, .waves, .queue, .events] ⊆ ps) :
    Frame ps r (s.closeRetrieveStart h' o f) := by
  unfold State.closeRetrieveStart
  repeat' split
  all_goals repeat' first
    | with_reducible assumption
    | with_reducible apply Frame.cancelRelocation
    | with_reducible apply Frame.closeStart
    | (refine List.Subset.trans ?_ hp
       simp only [List.cons_subset, List.nil_subset, List.mem_cons, true_or, or_true, and_self]; done)
    | (refine List.Subset.trans ?_ hp; simp; done)

theorem Frame.closeRetrieveEnd {ps : List Part} {r s : State} (h : Frame ps r s) (h' : Handle) (x : Option Job)
    (hp : Part.cranes ++ Part.craneTxs ++ [.rail, .holdBack, .parkOwed, .holds, .profiles, .cells, .jobs, .pool, .credit, .waves, .queue, .events] ⊆ ps) :
    Frame ps r (s.closeRetrieveEnd h' x) := by
  unfold State.closeRetrieveEnd
  dsimp only
  repeat' split
  all_goals repeat' first
    | with_reducible assumption
    | with_reducible apply Frame.finishUnit
    | with_reducible apply Frame.offerClosing
    | (refine List.Subset.trans ?_ hp
       simp only [List.cons_subset, List.nil_subset, List.mem_cons, true_or, or_true, and_self]; done)
    | (refine List.Subset.trans ?_ hp; simp; done)

theorem Frame.closeRetrieve {ps : List Part} {r s : State} (h : Frame ps r s) (h' : Handle) (o : JobOutcome) (f : Credit → Credit)
    (hp : Part.cranes ++ Part.craneTxs ++ [.rail, .holdBack, .parkOwed, .holds, .profiles, .cells, .jobs, .pool, .credit, .waves, .queue, .events] ⊆ ps) :
    Frame ps r (s.closeRetrieve h' o f) :=
  Frame.closeRetrieveEnd (Frame.closeRetrieveStart h h' o f hp) _ _ hp

theorem Frame.pend {ps : List Part} {r s : State} (h : Frame ps r s) (h' : Handle) (x : PendingReason)
    (hp : [.jobs] ⊆ ps) :
    Frame ps r (s.pend h' x) := by
  unfold State.pend
  all_goals repeat' first
    | with_reducible assumption
    | with_reducible apply Frame.updJob

theorem Frame.evaluateKept {ps : List Part} {r s : State} (h : Frame ps r s) (h' : Handle) (j : Job) (cs : List CellAddr)
    (hp : [.jobs, .events] ⊆ ps) :
    Frame ps r (s.evaluateKept h' j cs) := by
  unfold State.evaluateKept
  repeat' split
  all_goals try dsimp only
  all_goals repeat' first
    | with_reducible assumption
    | with_reducible apply Frame.pend
    | with_reducible apply Frame.becameReady
    | with_reducible apply Frame.updJob
    | with_reducible apply Frame.raise
    | (refine List.Subset.trans ?_ hp
       simp only [List.cons_subset, List.nil_subset, List.mem_cons, true_or, or_true, and_self]; done)

theorem Frame.keepCandidates {ps : List Part} {r s : State} (h : Frame ps r s) (h' : Handle) (cs : List CellAddr) (hp : [.jobs] ⊆ ps) :
    Frame ps r (s.keepCandidates h' cs) :=
  Frame.updJob h _ _ hp

theorem Frame.evaluate {ps : List Part} {r s : State} (h : Frame ps r s) (h' : Handle)
    (hp : Part.cranes ++ Part.craneTxs ++ [.rail, .holdBack, .parkOwed, .holds, .profiles, .cells, .jobs, .pool, .credit, .waves, .queue, .events] ⊆ ps) :
    Frame ps r (s.evaluate h') := by
  unfold State.evaluate
  dsimp only
  repeat' split
  all_goals repeat' first
    | with_reducible assumption
    | with_reducible apply Frame.evaluateKept
    | with_reducible apply Frame.closeRetrieve
    | with_reducible apply Frame.keepCandidates
    | (refine List.Subset.trans ?_ hp
       simp only [List.cons_subset, List.nil_subset, List.mem_cons, true_or, or_true, and_self]; done)
    | (refine List.Subset.trans ?_ hp; simp; done)

theorem Frame.closeStore {ps : List Part} {r s : State} (h : Frame ps r s) (h' : Handle) (o : JobOutcome)
    (hp : [.cells, .jobs, .pool, .credit, .waves, .queue, .events] ⊆ ps) :
    Frame ps r (s.closeStore h' o) := by
  unfold State.closeStore
  all_goals repeat' first
    | with_reducible assumption
    | with_reducible apply Frame.offerClosing
    | with_reducible apply Frame.closeStart
    | (refine List.Subset.trans ?_ hp
       simp only [List.cons_subset, List.nil_subset, List.mem_cons, true_or, or_true, and_self]; done)

theorem Frame.evaluateServed {ps : List Part} {r s : State} (h : Frame ps r s) (q k : Handle)
    (hp : Part.cranes ++ Part.craneTxs ++ [.rail, .holdBack, .parkOwed, .holds, .profiles, .cells, .jobs, .pool, .credit, .waves, .queue, .events] ⊆ ps) :
    Frame ps r (s.evaluateServed q k) := by
  unfold State.evaluateServed
  dsimp only
  repeat' split
  all_goals repeat' first
    | with_reducible assumption
    | with_reducible apply Frame.closeRetrieveEnd
    | with_reducible apply Frame.offerClosing
    | with_reducible apply Frame.closeRetrieveStart
    | with_reducible apply Frame.keepCandidates
    | with_reducible apply Frame.evaluate
    | (refine List.Subset.trans ?_ hp
       simp only [List.cons_subset, List.nil_subset, List.mem_cons, true_or, or_true, and_self]; done)
    | (refine List.Subset.trans ?_ hp; simp; done)

theorem Frame.endRelocation {ps : List Part} {r s : State} (h : Frame ps r s) (h' : Handle) (j : Job)
    (hp : Part.cranes ++ Part.craneTxs ++ [.rail, .holdBack, .parkOwed, .holds, .profiles, .cells, .jobs, .pool, .credit, .waves, .queue, .events] ⊆ ps) :
    Frame ps r (s.endRelocation h' j) := by
  unfold State.endRelocation
  dsimp only
  repeat' split
  all_goals repeat' first
    | with_reducible assumption
    | with_reducible apply Frame.evaluateServed
    | with_reducible apply Frame.offerClosing
    | with_reducible apply Frame.clearWaits
    | (refine List.Subset.trans ?_ hp
       simp only [List.cons_subset, List.nil_subset, List.mem_cons, true_or, or_true, and_self]; done)
    | (refine List.Subset.trans ?_ hp; simp; done)

theorem Frame.closeRelocation {ps : List Part} {r s : State} (h : Frame ps r s) (h' : Handle) (o : JobOutcome) (m : Bool)
    (hp : Part.cranes ++ Part.craneTxs ++ [.rail, .holdBack, .parkOwed, .holds, .profiles, .cells, .jobs, .pool, .credit, .waves, .queue, .events] ⊆ ps) :
    Frame ps r (s.closeRelocation h' o m) := by
  unfold State.closeRelocation
  repeat' split
  all_goals repeat' first
    | with_reducible assumption
    | with_reducible apply Frame.endRelocation
    | with_reducible apply Frame.closeStart
    | (refine List.Subset.trans ?_ hp
       simp only [List.cons_subset, List.nil_subset, List.mem_cons, true_or, or_true, and_self]; done)
    | (refine List.Subset.trans ?_ hp; simp; done)

theorem Frame.close {ps : List Part} {r s : State} (h : Frame ps r s) (h' : Handle) (o : JobOutcome) (m : Bool) (f : Credit → Credit)
    (hp : Part.cranes ++ Part.craneTxs ++ [.rail, .holdBack, .parkOwed, .holds, .profiles, .cells, .jobs, .pool, .credit, .waves, .queue, .events] ⊆ ps) :
    Frame ps r (s.close h' o m f) := by
  unfold State.close
  repeat' split
  all_goals repeat' first
    | with_reducible assumption
    | with_reducible apply Frame.closeStore
    | with_reducible apply Frame.closeRetrieve
    | with_reducible apply Frame.closeRelocation
    | (refine List.Subset.trans ?_ hp
       simp only [List.cons_subset, List.nil_subset, List.mem_cons, true_or, or_true, and_self]; done)
    | (refine List.Subset.trans ?_ hp; simp; done)

theorem Frame.rewrite_q {ps : List Part} {r s : State} (h : Frame ps r s) (x y : Option CellAddr) (hp : [.jobs] ⊆ ps) :
    Frame ps r (s.rewrite? x y) := by
  unfold State.rewrite?
  repeat' split
  all_goals repeat' first
    | with_reducible assumption
    | with_reducible apply Frame.rewrite

/-! ## Aisles -/

theorem Frame.drainLoaded {ps : List Part} {r s : State} (h : Frame ps r s) (c : CraneId) (h' : Handle)
    (hp : [.crane c, .rail, .cells, .jobs, .credit, .tx (.crane c), .events] ⊆ ps) :
    Frame ps r (s.drainLoaded c h') := by
  unfold State.drainLoaded
  repeat' split
  all_goals try dsimp only
  all_goals repeat' first
    | with_reducible assumption
    | with_reducible apply Frame.fall
    | (with_reducible refine Frame.each _ (fun _ _ _ => ?_) ?_)
    | with_reducible apply Frame.returnToReady
    | with_reducible apply Frame.withdraw
    | (refine List.Subset.trans ?_ hp
       simp only [List.cons_subset, List.nil_subset, List.mem_cons, true_or, or_true, and_self]; done)
    | (refine List.Subset.trans ?_ hp; simp; done)
    | (apply hp; simp; done)
    | split

theorem Frame.drainCrane {ps : List Part} {r s : State} (h : Frame ps r s) (c : CraneId)
    (hp : [.crane c, .rail, .holdBack, .parkOwed, .holds, .profiles, .cells, .jobs, .credit, .tx (.crane c), .queue, .events] ⊆ ps) :
    Frame ps r (s.drainCrane c) := by
  unfold State.drainCrane
  repeat' split
  all_goals try dsimp only
  all_goals repeat' first
    | with_reducible assumption
    | with_reducible apply Frame.sendPark
    | with_reducible apply Frame.endUnit
    | (with_reducible refine Frame.each _ (fun _ _ _ => ?_) ?_)
    | with_reducible apply Frame.returnToReady
    | with_reducible apply Frame.withdraw
    | with_reducible apply Frame.withdrawRedirect
    | with_reducible apply Frame.setParkOwed
    | with_reducible apply Frame.drainLoaded
    | (refine List.Subset.trans ?_ hp
       simp only [List.cons_subset, List.nil_subset, List.mem_cons, true_or, or_true, and_self]; done)

theorem Frame.drain {ps : List Part} {r s : State} (h : Frame ps r s) (a : AisleId)
    (hp : Part.cranes ++ Part.craneTxs ++ [.rail, .holdBack, .parkOwed, .holds, .profiles, .cells, .jobs, .credit, .queue, .events] ⊆ ps) :
    Frame ps r (s.drain a) := by
  unfold State.drain
  all_goals try dsimp only
  all_goals repeat' first
    | with_reducible assumption
    | with_reducible apply Frame.testHold
    | (with_reducible refine Frame.each _ (fun _ _ _ => ?_) ?_)
    | with_reducible apply Frame.drainCrane
    | with_reducible apply Frame.setHoldState
    | (refine List.Subset.trans ?_ hp
       simp only [List.cons_subset, List.nil_subset, List.mem_cons, true_or, or_true, and_self]; done)
    | (refine List.Subset.trans ?_ hp; simp; done)

theorem Frame.resume {ps : List Part} {r s : State} (h : Frame ps r s) (c : CraneId)
    (hp : [.crane c, .rail, .holdBack, .parkOwed, .holds, .profiles, .tx (.crane c), .queue, .events] ⊆ ps) :
    Frame ps r (s.resume c) := by
  unfold State.resume
  repeat' split
  all_goals repeat' first
    | with_reducible assumption
    | with_reducible apply Frame.enterState
    | with_reducible apply Frame.fall
    | with_reducible apply Frame.stopParkTimer
    | with_reducible apply Frame.send
    | (refine List.Subset.trans ?_ hp
       simp only [List.cons_subset, List.nil_subset, List.mem_cons, true_or, or_true, and_self]; done)

theorem Frame.endHold {ps : List Part} {r s : State} (h : Frame ps r s) (a : AisleId)
    (hp : Part.cranes ++ Part.craneTxs ++ [.rail, .holdBack, .parkOwed, .holds, .profiles, .queue, .events] ⊆ ps) :
    Frame ps r (s.endHold a) := by
  unfold State.endHold
  all_goals try dsimp only
  all_goals repeat' first
    | with_reducible assumption
    | with_reducible apply Frame.select
    | (with_reducible refine Frame.each _ (fun _ _ _ => ?_) ?_)
    | with_reducible apply Frame.resume
    | with_reducible apply Frame.setParkOwed
    | with_reducible apply Frame.setHoldState
    | (refine List.Subset.trans ?_ hp
       simp only [List.cons_subset, List.nil_subset, List.mem_cons, true_or, or_true, and_self]; done)
    | (refine List.Subset.trans ?_ hp; simp; done)

theorem Frame.configureHold {ps : List Part} {r s : State} (h : Frame ps r s) (a : AisleId)
    (hp : Part.cranes ++ Part.craneTxs ++ [.rail, .holdBack, .parkOwed, .holds, .profiles, .cells, .jobs, .credit, .queue, .events] ⊆ ps) :
    Frame ps r (s.configureHold a) := by
  unfold State.configureHold
  repeat' split
  all_goals repeat' first
    | with_reducible assumption
    | with_reducible apply Frame.drain
    | with_reducible apply Frame.setHoldState
    | (refine List.Subset.trans ?_ hp
       simp only [List.cons_subset, List.nil_subset, List.mem_cons, true_or, or_true, and_self]; done)
    | (refine List.Subset.trans ?_ hp; simp; done)

theorem Frame.checkPosition {ps : List Part} {r s : State} (h : Frame ps r s) (g : Geometry) (c : CraneId)
    (hp : [.crane c] ⊆ ps) :
    Frame ps r (s.checkPosition g c) := by
  unfold State.checkPosition
  repeat' split
  all_goals try dsimp only
  all_goals repeat' first
    | with_reducible assumption
    | with_reducible apply Frame.setCrane

theorem Frame.rebuildRail {ps : List Part} {r s : State} (h : Frame ps r s) (a : AisleId)
    (hp : Part.cranes ++ [.rail, .events] ⊆ ps) :
    Frame ps r (s.rebuildRail a) := by
  unfold State.rebuildRail
  repeat' split
  all_goals try dsimp only
  all_goals repeat' first
    | with_reducible assumption
    | with_reducible apply Frame.checkRail
    | with_reducible apply Frame.setRail
    | (with_reducible refine Frame.each _ (fun _ _ _ => ?_) ?_)
    | with_reducible apply Frame.checkPosition
    | (refine List.Subset.trans ?_ hp
       simp only [List.cons_subset, List.nil_subset, List.mem_cons, true_or, or_true, and_self]; done)
    | (refine List.Subset.trans ?_ hp; simp; done)

theorem Frame.dropRearStations {ps : List Part} {r s : State} (h : Frame ps r s) (a : AisleId)
    (hp : [.input, .credit] ⊆ ps) :
    Frame ps r (s.dropRearStations a) := by
  unfold State.dropRearStations
  repeat' split
  all_goals try dsimp only
  all_goals repeat' first
    | with_reducible assumption
    | with_reducible apply Frame.setCredit
    | with_reducible apply Frame.setInput
    | (refine List.Subset.trans ?_ hp
       simp only [List.cons_subset, List.nil_subset, List.mem_cons, true_or, or_true, and_self]; done)

/-! ## The load check -/

theorem Frame.rejectLoad {ps : List Part} {r s : State} (h : Frame ps r s) (j : Job) (a : AisleId) (e : End) (x : Pallet) (y : RejectReason) (k : Link) (p : List Byte)
    (hp : [.cells, .jobs, .pool, .input, .credit, .waves, .tx .station, .queue, .events] ⊆ ps) :
    Frame ps r (s.rejectLoad j a e x y k p) := by
  unfold State.rejectLoad
  all_goals try dsimp only
  all_goals repeat' first
    | with_reducible assumption
    | with_reducible apply Frame.raiseFault
    | with_reducible apply Frame.send
    | with_reducible apply Frame.setInput
    | with_reducible apply Frame.closeStore
    | (refine List.Subset.trans ?_ hp
       simp only [List.cons_subset, List.nil_subset, List.mem_cons, true_or, or_true, and_self]; done)

theorem Frame.askSlot {ps : List Part} {r s : State} (h : Frame ps r s) (h' : Handle) (hp : [.jobs, .events] ⊆ ps) :
    Frame ps r (s.askSlot h') := by
  unfold State.askSlot
  all_goals repeat' first
    | with_reducible assumption
    | with_reducible apply Frame.raise
    | with_reducible apply Frame.updJob
    | (refine List.Subset.trans ?_ hp
       simp only [List.cons_subset, List.nil_subset, List.mem_cons, true_or, or_true, and_self]; done)

theorem Frame.redirectStore {ps : List Part} {r s : State} (h : Frame ps r s) (j : Job) (c : CellAddr)
    (hp : [.cells, .jobs, .queue, .events] ⊆ ps) :
    Frame ps r (s.redirectStore j c) := by
  unfold State.redirectStore
  repeat' split
  all_goals try dsimp only
  all_goals repeat' first
    | with_reducible assumption
    | with_reducible apply Frame.askSlot
    | with_reducible apply Frame.offerNotice
    | with_reducible apply Frame.updJob
    | with_reducible apply Frame.release
    | (refine List.Subset.trans ?_ hp
       simp only [List.cons_subset, List.nil_subset, List.mem_cons, true_or, or_true, and_self]; done)

/-! ## Allotment -/

theorem Frame.loadCheck {ps : List Part} {r s : State} (h : Frame ps r s) (j : Job) (a : AisleId) (e : End) (x : Pallet)
    (k : Link) (p : List Byte) (hp : [.cells, .jobs, .pool, .input, .credit, .waves, .tx .station, .queue, .events] ⊆ ps) : Frame ps r (s.loadCheck j a e x k p).1 := by
  unfold State.loadCheck
  repeat' split
  all_goals dsimp only
  all_goals repeat' first
    | with_reducible assumption
    | with_reducible apply Frame.rejectLoad
    | with_reducible apply Frame.askSlot
    | with_reducible apply Frame.becameReady
    | with_reducible apply Frame.redirectStore
    | with_reducible apply Frame.updJob
    | (refine List.Subset.trans ?_ hp
       simp only [List.cons_subset, List.nil_subset, List.mem_cons, true_or, or_true, and_self]; done)
    | (refine List.Subset.trans ?_ hp; simp; done)
    | (apply hp; simp; done)
    | split

theorem Frame.matchStore {ps : List Part} {r s : State} (h : Frame ps r s) (j : Job) (a : AisleId) (e : End) (x : Pallet)
    (k : Link) (p : List Byte) (hp : [.cells, .jobs, .pool, .input, .credit, .waves, .tx .station, .queue, .events] ⊆ ps) : Frame ps r (s.matchStore j a e x k p).1 :=
  Frame.loadCheck (Frame.setInput h _ _ _ (List.Subset.trans (by simp) hp)) _ _ _ _ _ _
    (List.Subset.trans (by simp) hp)

theorem Frame.standby {ps : List Part} {r s : State} (h : Frame ps r s) (c : CraneId) (hp : [.tx (.crane c)] ⊆ ps) :
    Frame ps r (s.standby c) := by
  unfold State.standby
  all_goals repeat' first
    | with_reducible assumption
    | with_reducible apply Frame.send

theorem Frame.advanceCounter {ps : List Part} {r s : State} (h : Frame ps r s) (c : CraneId) (hp : [.crane c] ⊆ ps) :
    Frame ps r (s.advanceCounter c) := by
  unfold State.advanceCounter
  all_goals try dsimp only
  all_goals repeat' first
    | with_reducible assumption
    | with_reducible apply Frame.setCrane

theorem Frame.markOffered {ps : List Part} {r s : State} (h : Frame ps r s) (c : CraneId) (n : BitVec 8) (u : Proposal) (j : Job)
    (hp : [.jobs, .credit, .events] ⊆ ps) :
    Frame ps r (s.markOffered c n u j) := by
  unfold State.markOffered
  all_goals try dsimp only
  all_goals repeat' first
    | with_reducible assumption
    | with_reducible apply Frame.updBound
    | with_reducible apply Frame.updJob
    | (refine List.Subset.trans ?_ hp
       simp only [List.cons_subset, List.nil_subset, List.mem_cons, true_or, or_true, and_self]; done)

theorem Frame.makeOffer {ps : List Part} {r s : State} (h : Frame ps r s) (c : CraneId) (u : Proposal)
    (hp : [.crane c, .rail, .holdBack, .parkOwed, .holds, .profiles, .jobs, .credit, .tx (.crane c), .queue, .events] ⊆ ps) :
    Frame ps r (s.makeOffer c u) := by
  unfold State.makeOffer
  all_goals try dsimp only
  all_goals repeat' first
    | with_reducible assumption
    | with_reducible apply Frame.enterState
    | with_reducible apply Frame.startOfferTimer
    | with_reducible apply Frame.send
    | with_reducible apply Frame.setCrane
    | with_reducible apply Frame.advanceCounter
    | with_reducible apply Frame.stopHoldBack
    | with_reducible apply Frame.grant
    | (with_reducible refine Frame.each _ (fun _ _ _ => ?_) ?_)
    | with_reducible apply Frame.markOffered
    | (refine List.Subset.trans ?_ hp
       simp only [List.cons_subset, List.nil_subset, List.mem_cons, true_or, or_true, and_self]; done)

theorem Frame.offer {ps : List Part} {r s : State} (h : Frame ps r s) (c : CraneId) (u : Proposal)
    (hp : [.crane c, .rail, .holdBack, .parkOwed, .holds, .profiles, .cells, .jobs, .credit, .tx (.crane c), .queue, .events] ⊆ ps) :
    Frame ps r (s.offer c u) := by
  unfold State.offer
  repeat' split
  all_goals repeat' first
    | with_reducible assumption
    | with_reducible apply Frame.makeOffer
    | with_reducible apply Frame.raise
    | (refine Frame.reserveUnit ?_ _ (by assumption) ?_)
    | (refine List.Subset.trans ?_ hp
       simp only [List.cons_subset, List.nil_subset, List.mem_cons, true_or, or_true, and_self]; done)

theorem Frame.makeClear {ps : List Part} {r s : State} (h : Frame ps r s) (c : CraneId) (a : AisleId) (e : End) (i : Interval) (t : Nat)
    (hp : Part.cranes ++ Part.craneTxs ++ [.rail, .holdBack, .parkOwed, .holds, .profiles, .queue, .events] ⊆ ps) :
    Frame ps r (s.makeClear c a e i t) := by
  unfold State.makeClear
  repeat' split
  all_goals try dsimp only
  all_goals repeat' first
    | with_reducible assumption
    | with_reducible apply Frame.updEntry
    | with_reducible apply Frame.startParkTimer
    | with_reducible apply Frame.send
    | with_reducible apply Frame.enterState
    | with_reducible apply Frame.updOwn
    | with_reducible apply Frame.stopHoldBack
    | (refine List.Subset.trans ?_ hp
       simp only [List.cons_subset, List.nil_subset, List.mem_cons, true_or, or_true, and_self]; done)
    | (refine List.Subset.trans ?_ hp; simp; done)

theorem Frame.takeWinner {ps : List Part} {r s : State} (h : Frame ps r s) (c : CraneId) (p : Profile) (a : AisleId) (e : End) (u : Proposal)
    (hp : Part.cranes ++ Part.craneTxs ++ [.rail, .holdBack, .parkOwed, .holds, .profiles, .cells, .jobs, .credit, .queue, .events] ⊆ ps) :
    Frame ps r (s.takeWinner c p a e u) := by
  unfold State.takeWinner
  repeat' split
  all_goals repeat' first
    | with_reducible assumption
    | with_reducible apply Frame.makeClear
    | with_reducible apply Frame.offer
    | (refine List.Subset.trans ?_ hp
       simp only [List.cons_subset, List.nil_subset, List.mem_cons, true_or, or_true, and_self]; done)
    | (refine List.Subset.trans ?_ hp; simp; done)

theorem Frame.decideWinner {ps : List Part} {r s : State} (h : Frame ps r s) (c : CraneId) (p : Profile) (a : AisleId) (e : End) (u : Proposal)
    (hp : Part.cranes ++ Part.craneTxs ++ [.rail, .holdBack, .parkOwed, .holds, .profiles, .cells, .jobs, .credit, .queue, .events] ⊆ ps) :
    Frame ps r (s.decideWinner c p a e u) := by
  unfold State.decideWinner
  repeat' split
  all_goals repeat' first
    | with_reducible assumption
    | with_reducible apply Frame.takeWinner
    | with_reducible apply Frame.startHoldBack
    | with_reducible apply Frame.standby
    | (refine List.Subset.trans ?_ hp
       simp only [List.cons_subset, List.nil_subset, List.mem_cons, true_or, or_true, and_self]; done)
    | (refine List.Subset.trans ?_ hp; simp; done)

theorem Frame.runSelection {ps : List Part} {r s : State} (h : Frame ps r s) (c : CraneId)
    (hp : Part.cranes ++ Part.craneTxs ++ [.rail, .holdBack, .parkOwed, .holds, .profiles, .cells, .jobs, .credit, .queue, .events] ⊆ ps) :
    Frame ps r (s.runSelection c) := by
  unfold State.runSelection
  repeat' split
  all_goals repeat' first
    | with_reducible assumption
    | with_reducible apply Frame.standby
    | with_reducible apply Frame.decideWinner
    | with_reducible apply Frame.stopHoldBack
    | (refine List.Subset.trans ?_ hp
       simp only [List.cons_subset, List.nil_subset, List.mem_cons, true_or, or_true, and_self]; done)
    | (refine List.Subset.trans ?_ hp; simp; done)

theorem Frame.makeRedirect {ps : List Part} {r s : State} (h : Frame ps r s) (c : CraneId) (j : Job) (u : Proposal)
    (hp : [.crane c, .rail, .cells, .jobs, .credit, .tx (.crane c), .events] ⊆ ps) :
    Frame ps r (s.makeRedirect c j u) := by
  unfold State.makeRedirect
  repeat' split
  all_goals try dsimp only
  all_goals repeat' first
    | with_reducible assumption
    | with_reducible apply Frame.startOfferTimer
    | with_reducible apply Frame.send
    | with_reducible apply Frame.setCrane
    | with_reducible apply Frame.advanceCounter
    | with_reducible apply Frame.grant
    | with_reducible apply Frame.updBound
    | with_reducible apply Frame.updJob
    | (refine Frame.reserveUnit ?_ _ (by assumption) ?_)
    | (refine List.Subset.trans ?_ hp
       simp only [List.cons_subset, List.nil_subset, List.mem_cons, true_or, or_true, and_self]; done)

theorem Frame.runPreemption {ps : List Part} {r s : State} (h : Frame ps r s) (h' : Handle)
    (hp : Part.cranes ++ Part.craneTxs ++ [.rail, .cells, .jobs, .credit, .events] ⊆ ps) :
    Frame ps r (s.runPreemption h') := by
  unfold State.runPreemption
  repeat' split
  all_goals repeat' first
    | with_reducible assumption
    | with_reducible apply Frame.makeRedirect
    | (refine List.Subset.trans ?_ hp
       simp only [List.cons_subset, List.nil_subset, List.mem_cons, true_or, or_true, and_self]; done)
    | (refine List.Subset.trans ?_ hp; simp; done)

theorem Frame.runSlotSearch {ps : List Part} {r s : State} (h : Frame ps r s) (h' : Handle)
    (hp : [.cells, .jobs, .events] ⊆ ps) :
    Frame ps r (s.runSlotSearch h') := by
  unfold State.runSlotSearch
  repeat' split
  all_goals repeat' first
    | with_reducible assumption
    | with_reducible apply Frame.pend
    | with_reducible apply Frame.becameReady
    | with_reducible apply Frame.updJob
    | (refine Frame.reserveDrop ?_ _ _ (by assumption) ?_)
    | (refine List.Subset.trans ?_ hp
       simp only [List.cons_subset, List.nil_subset, List.mem_cons, true_or, or_true, and_self]; done)

theorem Frame.reEvaluateJob {ps : List Part} {r s : State} (h : Frame ps r s) (h' : Handle)
    (hp : Part.cranes ++ Part.craneTxs ++ [.rail, .holdBack, .parkOwed, .holds, .profiles, .cells, .jobs, .pool, .credit, .waves, .queue, .events] ⊆ ps) :
    Frame ps r (s.reEvaluateJob h') := by
  unfold State.reEvaluateJob
  repeat' split
  all_goals repeat' first
    | with_reducible assumption
    | with_reducible apply Frame.evaluate
    | with_reducible apply Frame.raise
    | (refine List.Subset.trans ?_ hp
       simp only [List.cons_subset, List.nil_subset, List.mem_cons, true_or, or_true, and_self]; done)
    | (refine List.Subset.trans ?_ hp; simp; done)

/-! ## Crane messages -/

theorem Frame.stale {ps : List Part} {r s : State} (h : Frame ps r s) (c : CraneId) (j : Option Handle) (p : List Byte)
    (hp : [.events] ⊆ ps) :
    Frame ps r (s.stale c j p) := by
  unfold State.stale
  all_goals repeat' first
    | with_reducible assumption
    | with_reducible apply Frame.raiseFault

theorem Frame.abandonClear {ps : List Part} {r s : State} (h : Frame ps r s) (c : CraneId)
    (hp : [.crane c, .rail, .events] ⊆ ps) :
    Frame ps r (s.abandonClear c) := by
  unfold State.abandonClear
  all_goals try dsimp only
  all_goals repeat' first
    | with_reducible assumption
    | with_reducible apply Frame.endClaim
    | with_reducible apply Frame.updOwn
    | with_reducible apply Frame.stopParkTimer
    | (refine List.Subset.trans ?_ hp
       simp only [List.cons_subset, List.nil_subset, List.mem_cons, true_or, or_true, and_self]; done)
    | (refine List.Subset.trans ?_ hp; simp; done)
    | (apply hp; simp; done)
    | split

theorem Frame.strand {ps : List Part} {r s : State} (h : Frame ps r s) (c : CraneId) (h' : Handle)
    (hp : [.crane c, .cells, .jobs, .credit, .events] ⊆ ps) :
    Frame ps r (s.strand c h') := by
  unfold State.strand
  all_goals try dsimp only
  all_goals repeat' first
    | with_reducible assumption
    | (with_reducible refine Frame.each _ (fun _ _ _ => ?_) ?_)
    | with_reducible apply Frame.returnToReady
    | with_reducible apply Frame.setCrane
    | with_reducible apply Frame.updJob
    | with_reducible apply Frame.stopDeadline
    | (refine List.Subset.trans ?_ hp
       simp only [List.cons_subset, List.nil_subset, List.mem_cons, true_or, or_true, and_self]; done)
    | (refine List.Subset.trans ?_ hp; simp; done)
    | (apply hp; simp; done)
    | split

theorem Frame.breakWork {ps : List Part} {r s : State} (h : Frame ps r s) (c : CraneId)
    (hp : [.crane c, .cells, .jobs, .credit, .events] ⊆ ps) :
    Frame ps r (s.breakWork c) := by
  unfold State.breakWork
  all_goals try dsimp only
  all_goals repeat' first
    | with_reducible assumption
    | with_reducible apply Frame.strand
    | with_reducible apply Frame.giveBack
    | with_reducible apply Frame.endRedirect
    | (refine List.Subset.trans ?_ hp
       simp only [List.cons_subset, List.nil_subset, List.mem_cons, true_or, or_true, and_self]; done)
    | (refine List.Subset.trans ?_ hp; simp; done)
    | (apply hp; simp; done)
    | split

theorem Frame.announceRail {ps : List Part} {r s : State} (h : Frame ps r s) (c : CraneId) (bay : Nat) (p : List Byte)
    (hp : [.rail, .events] ⊆ ps) :
    Frame ps r (s.announceRail c bay p) := by
  unfold State.announceRail
  repeat' split
  all_goals repeat' first
    | with_reducible assumption
    | with_reducible apply Frame.raiseFault
    | with_reducible apply Frame.grant
    | with_reducible apply Frame.ite
    | (refine List.Subset.trans ?_ hp
       simp only [List.cons_subset, List.nil_subset, List.mem_cons, true_or, or_true, and_self]; done)

theorem Frame.restartBreach {ps : List Part} {r s : State} (h : Frame ps r s) (c : CraneId) (bay : Nat) (p : List Byte)
    (hp : [.events] ⊆ ps) :
    Frame ps r (s.restartBreach c bay p) := by
  unfold State.restartBreach
  repeat' split
  all_goals repeat' first
    | with_reducible assumption
    | with_reducible apply Frame.raiseFault

theorem Frame.raiseRestart {ps : List Part} {r s : State} (h : Frame ps r s) (c : CraneId) (p : List Byte)
    (hp : [.events] ⊆ ps) :
    Frame ps r (s.raiseRestart c p) := by
  unfold State.raiseRestart
  all_goals repeat' first
    | with_reducible assumption
    | with_reducible apply Frame.raiseFault

theorem Frame.restartGivesUp {ps : List Part} {r s : State} (h : Frame ps r s) (c : CraneId)
    (hp : [.crane c, .rail, .cells, .jobs, .credit, .events] ⊆ ps) :
    Frame ps r (s.restartGivesUp c) := by
  unfold State.restartGivesUp
  repeat' split
  all_goals repeat' first
    | with_reducible assumption
    | with_reducible apply Frame.breakWork
    | with_reducible apply Frame.abandonClear
    | with_reducible apply Frame.stopParkTimer
    | (refine List.Subset.trans ?_ hp
       simp only [List.cons_subset, List.nil_subset, List.mem_cons, true_or, or_true, and_self]; done)

theorem Frame.restartGoes {ps : List Part} {r s : State} (h : Frame ps r s) (c : CraneId)
    (hp : [.crane c, .rail, .holdBack, .parkOwed, .holds, .profiles, .tx (.crane c), .queue, .events] ⊆ ps) :
    Frame ps r (s.restartGoes c) := by
  unfold State.restartGoes
  repeat' split
  all_goals try dsimp only
  all_goals repeat' first
    | with_reducible assumption
    | with_reducible apply Frame.enterState
    | with_reducible apply Frame.goIdleOrPark
    | with_reducible apply Frame.fall
    | (refine List.Subset.trans ?_ hp
       simp only [List.cons_subset, List.nil_subset, List.mem_cons, true_or, or_true, and_self]; done)
    | (refine List.Subset.trans ?_ hp; simp; done)
    | (apply hp; simp; done)
    | split

theorem Frame.hello {ps : List Part} {r s : State} (h : Frame ps r s) (c : CraneId) (x : Point) (p : List Byte)
    (hp : [.crane c, .rail, .holdBack, .parkOwed, .holds, .profiles, .cells, .jobs, .credit, .tx (.crane c), .queue, .events] ⊆ ps) :
    Frame ps r (s.hello c x p) := by
  unfold State.hello
  repeat' split
  all_goals try dsimp only
  all_goals repeat' first
    | with_reducible assumption
    | with_reducible apply Frame.goIdleOrPark
    | with_reducible apply Frame.announceRail
    | with_reducible apply Frame.setPosition
    | with_reducible apply Frame.raiseRestart
    | with_reducible apply Frame.restartGoes
    | with_reducible apply Frame.restartGivesUp
    | with_reducible apply Frame.restartBreach
    | (refine List.Subset.trans ?_ hp
       simp only [List.cons_subset, List.nil_subset, List.mem_cons, true_or, or_true, and_self]; done)

theorem Frame.report {ps : List Part} {r s : State} (h : Frame ps r s) (c : CraneId) (x : Point) (p : List Byte)
    (hp : [.crane c, .rail, .events] ⊆ ps) :
    Frame ps r (s.report c x p) := by
  unfold State.report
  all_goals repeat' first
    | with_reducible assumption
    | with_reducible apply Frame.setPosition
    | with_reducible apply Frame.railReport
    | (refine List.Subset.trans ?_ hp
       simp only [List.cons_subset, List.nil_subset, List.mem_cons, true_or, or_true, and_self]; done)

theorem Frame.ask {ps : List Part} {r s : State} (h : Frame ps r s) (c : CraneId) (x : Point) (p : List Byte)
    (hp : [.crane c, .rail, .holdBack, .parkOwed, .holds, .profiles, .tx (.crane c), .queue, .events] ⊆ ps) :
    Frame ps r (s.ask c x p) := by
  unfold State.ask
  all_goals try dsimp only
  all_goals repeat' first
    | with_reducible assumption
    | with_reducible apply Frame.raise
    | with_reducible apply Frame.enterState
    | with_reducible apply Frame.setHoldBack
    | with_reducible apply Frame.updOwn
    | with_reducible apply Frame.send
    | with_reducible apply Frame.tellPark
    | with_reducible apply Frame.stale
    | with_reducible apply Frame.report
    | (refine List.Subset.trans ?_ hp
       simp only [List.cons_subset, List.nil_subset, List.mem_cons, true_or, or_true, and_self]; done)
    | (refine List.Subset.trans ?_ hp; simp; done)
    | (apply hp; simp; done)
    | split

theorem Frame.pos {ps : List Part} {r s : State} (h : Frame ps r s) (c : CraneId) (x : Point) (p : List Byte)
    (hp : [.crane c, .rail, .events] ⊆ ps) :
    Frame ps r (s.pos c x p) := by
  unfold State.pos
  all_goals repeat' first
    | with_reducible assumption
    | with_reducible apply Frame.report

theorem Frame.ageCount {ps : List Part} {r s : State} (h : Frame ps r s) (hp : [.jobs, .counter] ⊆ ps) :
    Frame ps r (s.ageCount) := by
  unfold State.ageCount
  repeat' split
  all_goals try dsimp only
  all_goals repeat' first
    | with_reducible assumption
    | with_reducible apply Frame.ageStep
    | with_reducible apply Frame.counter
    | (refine List.Subset.trans ?_ hp
       simp only [List.cons_subset, List.nil_subset, List.mem_cons, true_or, or_true, and_self]; done)

theorem Frame.ageAccept {ps : List Part} {r s : State} (h : Frame ps r s) (hp : [.jobs, .counter] ⊆ ps) :
    Frame ps r (s.ageAccept) := by
  unfold State.ageAccept
  repeat' split
  all_goals repeat' first
    | with_reducible assumption
    | with_reducible apply Frame.ageCount

theorem Frame.acceptOffer {ps : List Part} {r s : State} (h : Frame ps r s) (c : CraneId)
    (hp : [.crane c, .rail, .holdBack, .parkOwed, .holds, .profiles, .jobs, .counter, .queue, .events] ⊆ ps) :
    Frame ps r (s.acceptOffer c) := by
  unfold State.acceptOffer
  all_goals try dsimp only
  all_goals repeat' first
    | with_reducible assumption
    | with_reducible apply Frame.ageAccept
    | with_reducible apply Frame.startDeadline
    | with_reducible apply Frame.enterState
    | with_reducible apply Frame.setCrane
    | (with_reducible refine Frame.each _ (fun _ _ _ => ?_) ?_)
    | with_reducible apply Frame.updJob
    | with_reducible apply Frame.stopOfferTimer
    | (refine List.Subset.trans ?_ hp
       simp only [List.cons_subset, List.nil_subset, List.mem_cons, true_or, or_true, and_self]; done)

theorem Frame.acceptRedirect {ps : List Part} {r s : State} (h : Frame ps r s) (c : CraneId) (x : Redirect)
    (hp : [.crane c, .rail, .cells, .jobs, .credit, .events] ⊆ ps) :
    Frame ps r (s.acceptRedirect c x) := by
  unfold State.acceptRedirect
  all_goals try dsimp only
  all_goals repeat' first
    | with_reducible assumption
    | with_reducible apply Frame.startDeadline
    | with_reducible apply Frame.fall
    | with_reducible apply Frame.updJob
    | (with_reducible refine Frame.each _ (fun _ _ _ => ?_) ?_)
    | with_reducible apply Frame.returnToReady
    | with_reducible apply Frame.setCrane
    | with_reducible apply Frame.stopDeadline
    | with_reducible apply Frame.stopOfferTimer
    | (refine List.Subset.trans ?_ hp
       simp only [List.cons_subset, List.nil_subset, List.mem_cons, true_or, or_true, and_self]; done)

theorem Frame.answerRedirect {ps : List Part} {r s : State} (h : Frame ps r s) (c : CraneId) (x : Redirect) (p : List Byte)
    (hp : [.crane c, .rail, .cells, .jobs, .credit, .tx (.crane c), .events] ⊆ ps) :
    Frame ps r (s.answerRedirect c x p) := by
  unfold State.answerRedirect
  repeat' split
  all_goals repeat' first
    | with_reducible assumption
    | with_reducible apply Frame.acceptRedirect
    | with_reducible apply Frame.late
    | with_reducible apply Frame.stale
    | with_reducible apply Frame.send
    | (refine List.Subset.trans ?_ hp
       simp only [List.cons_subset, List.nil_subset, List.mem_cons, true_or, or_true, and_self]; done)

theorem Frame.accept {ps : List Part} {r s : State} (h : Frame ps r s) (c : CraneId) (n : BitVec 8) (p : List Byte)
    (hp : [.crane c, .rail, .holdBack, .parkOwed, .holds, .profiles, .cells, .jobs, .counter, .credit, .tx (.crane c), .queue, .events] ⊆ ps) :
    Frame ps r (s.accept c n p) := by
  unfold State.accept
  repeat' split
  all_goals repeat' first
    | with_reducible assumption
    | with_reducible apply Frame.acceptOffer
    | with_reducible apply Frame.answerRedirect
    | with_reducible apply Frame.stale
    | with_reducible apply Frame.send
    | (refine List.Subset.trans ?_ hp
       simp only [List.cons_subset, List.nil_subset, List.mem_cons, true_or, or_true, and_self]; done)

theorem Frame.strikePolicy {ps : List Part} {r s : State} (h : Frame ps r s) (c : CraneId) (p : List Byte)
    (hp : [.crane c, .rail, .holdBack, .parkOwed, .holds, .profiles, .tx (.crane c), .queue, .events] ⊆ ps) :
    Frame ps r (s.strikePolicy c p) := by
  unfold State.strikePolicy
  repeat' split
  all_goals repeat' first
    | with_reducible assumption
    | with_reducible apply Frame.goIdle
    | with_reducible apply Frame.enterState
    | with_reducible apply Frame.raiseFault
    | with_reducible apply Frame.startBackoffTimer
    | (refine List.Subset.trans ?_ hp
       simp only [List.cons_subset, List.nil_subset, List.mem_cons, true_or, or_true, and_self]; done)

theorem Frame.missOffer {ps : List Part} {r s : State} (h : Frame ps r s) (c : CraneId) (p : List Byte)
    (hp : [.crane c, .rail, .holdBack, .parkOwed, .holds, .profiles, .cells, .jobs, .credit, .tx (.crane c), .queue, .events] ⊆ ps) :
    Frame ps r (s.missOffer c p) := by
  unfold State.missOffer
  all_goals try dsimp only
  all_goals repeat' first
    | with_reducible assumption
    | with_reducible apply Frame.strikePolicy
    | with_reducible apply Frame.setCrane
    | with_reducible apply Frame.fall
    | with_reducible apply Frame.giveBack
    | (refine List.Subset.trans ?_ hp
       simp only [List.cons_subset, List.nil_subset, List.mem_cons, true_or, or_true, and_self]; done)

theorem Frame.refuseOffer {ps : List Part} {r s : State} (h : Frame ps r s) (c : CraneId) (n : BitVec 8) (x : Nat) (p : List Byte)
    (hp : [.crane c, .rail, .holdBack, .parkOwed, .holds, .profiles, .cells, .jobs, .credit, .tx (.crane c), .queue, .events] ⊆ ps) :
    Frame ps r (s.refuseOffer c n x p) := by
  unfold State.refuseOffer
  all_goals try dsimp only
  all_goals repeat' first
    | with_reducible assumption
    | with_reducible apply Frame.missOffer
    | with_reducible apply Frame.late
    | with_reducible apply Frame.stale
    | with_reducible apply Frame.setCrane
    | with_reducible apply Frame.ite
    | (refine List.Subset.trans ?_ hp
       simp only [List.cons_subset, List.nil_subset, List.mem_cons, true_or, or_true, and_self]; done)

theorem Frame.answerLate {ps : List Part} {r s : State} (h : Frame ps r s) (c : CraneId) (n : BitVec 8) (p : List Byte)
    (hp : [.crane c, .rail, .cells, .jobs, .credit, .events] ⊆ ps) :
    Frame ps r (s.answerLate c n p) := by
  unfold State.answerLate
  repeat' split
  all_goals repeat' first
    | with_reducible assumption
    | with_reducible apply Frame.late
    | with_reducible apply Frame.stale
    | (refine List.Subset.trans ?_ hp
       simp only [List.cons_subset, List.nil_subset, List.mem_cons, true_or, or_true, and_self]; done)

theorem Frame.clearedRail {ps : List Part} {r s : State} (h : Frame ps r s) (c : CraneId) (bay : Nat) (p : List Byte)
    (hp : [.rail, .events] ⊆ ps) :
    Frame ps r (s.clearedRail c bay p) := by
  unfold State.clearedRail
  repeat' split
  all_goals repeat' first
    | with_reducible assumption
    | with_reducible apply Frame.shrink
    | with_reducible apply Frame.raiseFault
    | (refine List.Subset.trans ?_ hp
       simp only [List.cons_subset, List.nil_subset, List.mem_cons, true_or, or_true, and_self]; done)

theorem Frame.returnFromClear {ps : List Part} {r s : State} (h : Frame ps r s) (c : CraneId) (b : Bool)
    (hp : [.crane c, .rail, .holdBack, .parkOwed, .holds, .profiles, .tx (.crane c), .queue, .events] ⊆ ps) :
    Frame ps r (s.returnFromClear c b) := by
  unfold State.returnFromClear
  repeat' split
  all_goals try dsimp only
  all_goals repeat' first
    | with_reducible assumption
    | with_reducible apply Frame.sendPark
    | with_reducible apply Frame.enterState
    | with_reducible apply Frame.raise
    | with_reducible apply Frame.ite
    | (refine List.Subset.trans ?_ hp
       simp only [List.cons_subset, List.nil_subset, List.mem_cons, true_or, or_true, and_self]; done)

theorem Frame.selectClaimant {ps : List Part} {r s : State} (h : Frame ps r s) (c : CraneId) (hp : [.events] ⊆ ps) :
    Frame ps r (s.selectClaimant c) := by
  unfold State.selectClaimant
  repeat' split
  all_goals repeat' first
    | with_reducible assumption
    | with_reducible apply Frame.raise

theorem Frame.cleared {ps : List Part} {r s : State} (h : Frame ps r s) (c : CraneId) (x : Point) (p : List Byte)
    (hp : [.crane c, .rail, .holdBack, .parkOwed, .holds, .profiles, .tx (.crane c), .queue, .events] ⊆ ps) :
    Frame ps r (s.cleared c x p) := by
  unfold State.cleared
  repeat' split
  all_goals try dsimp only
  all_goals repeat' first
    | with_reducible assumption
    | with_reducible apply Frame.selectClaimant
    | with_reducible apply Frame.returnFromClear
    | with_reducible apply Frame.updOwn
    | with_reducible apply Frame.stopParkTimer
    | with_reducible apply Frame.setPosition
    | with_reducible apply Frame.clearedRail
    | with_reducible apply Frame.stale
    | (refine List.Subset.trans ?_ hp
       simp only [List.cons_subset, List.nil_subset, List.mem_cons, true_or, or_true, and_self]; done)

theorem Frame.parked {ps : List Part} {r s : State} (h : Frame ps r s) (c : CraneId) (p : List Byte)
    (hp : [.crane c, .rail, .holdBack, .parkOwed, .holds, .profiles, .queue, .events] ⊆ ps) :
    Frame ps r (s.parked c p) := by
  unfold State.parked
  repeat' split
  all_goals try dsimp only
  all_goals repeat' first
    | with_reducible assumption
    | with_reducible apply Frame.enterState
    | with_reducible apply Frame.shrink
    | with_reducible apply Frame.setPosition
    | with_reducible apply Frame.stopParkTimer
    | with_reducible apply Frame.stale
    | (refine List.Subset.trans ?_ hp
       simp only [List.cons_subset, List.nil_subset, List.mem_cons, true_or, or_true, and_self]; done)

theorem Frame.faultTreats {ps : List Part} {r s : State} (h : Frame ps r s) (c : CraneId)
    (hp : [.crane c, .rail, .cells, .jobs, .credit, .events] ⊆ ps) :
    Frame ps r (s.faultTreats c) := by
  unfold State.faultTreats
  repeat' split
  all_goals try dsimp only
  all_goals repeat' first
    | with_reducible assumption
    | with_reducible apply Frame.breakWork
    | with_reducible apply Frame.abandonClear
    | with_reducible apply Frame.stopParkTimer
    | with_reducible apply Frame.leaveBackoff
    | with_reducible apply Frame.setCrane
    | (refine List.Subset.trans ?_ hp
       simp only [List.cons_subset, List.nil_subset, List.mem_cons, true_or, or_true, and_self]; done)

theorem Frame.craneFault {ps : List Part} {r s : State} (h : Frame ps r s) (c : CraneId) (n : Nat) (p : List Byte)
    (hp : [.crane c, .rail, .holdBack, .parkOwed, .holds, .profiles, .cells, .jobs, .credit, .queue, .events] ⊆ ps) :
    Frame ps r (s.craneFault c n p) := by
  unfold State.craneFault
  all_goals try dsimp only
  all_goals repeat' first
    | with_reducible assumption
    | with_reducible apply Frame.enterState
    | with_reducible apply Frame.faultTreats
    | with_reducible apply Frame.raiseFault
    | with_reducible apply Frame.setCrane
    | (refine List.Subset.trans ?_ hp
       simp only [List.cons_subset, List.nil_subset, List.mem_cons, true_or, or_true, and_self]; done)

theorem Frame.recoverLoaded {ps : List Part} {r s : State} (h : Frame ps r s) (c : CraneId) (h' : Handle)
    (hp : [.crane c, .rail, .holdBack, .parkOwed, .holds, .profiles, .jobs, .queue, .events] ⊆ ps) :
    Frame ps r (s.recoverLoaded c h') := by
  unfold State.recoverLoaded
  all_goals try dsimp only
  all_goals repeat' first
    | with_reducible assumption
    | with_reducible apply Frame.startDeadline
    | with_reducible apply Frame.setParkOwed
    | with_reducible apply Frame.enterState
    | with_reducible apply Frame.fall
    | with_reducible apply Frame.updJob
    | with_reducible apply Frame.ite
    | (refine List.Subset.trans ?_ hp
       simp only [List.cons_subset, List.nil_subset, List.mem_cons, true_or, or_true, and_self]; done)

theorem Frame.recovered {ps : List Part} {r s : State} (h : Frame ps r s) (c : CraneId) (p : List Byte)
    (hp : [.crane c, .rail, .holdBack, .parkOwed, .holds, .profiles, .jobs, .tx (.crane c), .queue, .events] ⊆ ps) :
    Frame ps r (s.recovered c p) := by
  unfold State.recovered
  repeat' split
  all_goals repeat' first
    | with_reducible assumption
    | with_reducible apply Frame.recoverLoaded
    | with_reducible apply Frame.goIdleOrPark
    | with_reducible apply Frame.fall
    | with_reducible apply Frame.stale
    | (refine List.Subset.trans ?_ hp
       simp only [List.cons_subset, List.nil_subset, List.mem_cons, true_or, or_true, and_self]; done)

/-! ## Step reports -/

theorem Frame.unfit {ps : List Part} {r s : State} (h : Frame ps r s) (c : CraneId) (h' : Handle) (p : List Byte)
    (hp : [.events] ⊆ ps) :
    Frame ps r (s.unfit c h' p) := by
  unfold State.unfit
  repeat' split
  all_goals repeat' first
    | with_reducible assumption
    | with_reducible apply Frame.raiseFault
    | with_reducible apply Frame.stale

theorem Frame.reachStep {ps : List Part} {r s : State} (h : Frame ps r s) (c : CraneId) (j : Job) (x : Step) (xs : List Step) (p : List Byte)
    (hp : [.crane c, .rail, .events] ⊆ ps) :
    Frame ps r (s.reachStep c j x xs p) := by
  unfold State.reachStep
  all_goals try dsimp only
  all_goals repeat' first
    | with_reducible assumption
    | with_reducible apply Frame.setPosition
    | with_reducible apply Frame.railReport
    | with_reducible apply Frame.stopDeadline
    | (refine List.Subset.trans ?_ hp
       simp only [List.cons_subset, List.nil_subset, List.mem_cons, true_or, or_true, and_self]; done)

theorem Frame.advanceStep {ps : List Part} {r s : State} (h : Frame ps r s) (c : CraneId) (hp : [.crane c] ⊆ ps) :
    Frame ps r (s.advanceStep c) := by
  unfold State.advanceStep
  repeat' split
  all_goals try dsimp only
  all_goals repeat' first
    | with_reducible assumption
    | with_reducible apply Frame.setCrane

theorem Frame.takePallet {ps : List Part} {r s : State} (h : Frame ps r s) (j : Job)
    (hp : [.input, .tx .station] ⊆ ps) :
    Frame ps r (s.takePallet j) := by
  unfold State.takePallet
  all_goals repeat' first
    | with_reducible assumption
    | with_reducible apply Frame.send
    | with_reducible apply Frame.setInput
    | (refine List.Subset.trans ?_ hp
       simp only [List.cons_subset, List.nil_subset, List.mem_cons, true_or, or_true, and_self]; done)

theorem Frame.pickCarried {ps : List Part} {r s : State} (h : Frame ps r s) (j : Job)
    (hp : [.cells, .jobs, .events] ⊆ ps) :
    Frame ps r (s.pickCarried j) := by
  unfold State.pickCarried
  repeat' split
  all_goals repeat' first
    | with_reducible assumption
    | with_reducible apply Frame.updJob
    | with_reducible apply Frame.pickMade
    | (refine List.Subset.trans ?_ hp
       simp only [List.cons_subset, List.nil_subset, List.mem_cons, true_or, or_true, and_self]; done)

theorem Frame.pickEffects {ps : List Part} {r s : State} (h : Frame ps r s) (j : Job)
    (hp : [.cells, .jobs, .input, .tx .station, .events] ⊆ ps) :
    Frame ps r (s.pickEffects j) := by
  unfold State.pickEffects
  repeat' split
  all_goals repeat' first
    | with_reducible assumption
    | with_reducible apply Frame.takePallet
    | with_reducible apply Frame.pickCarried
    | (refine List.Subset.trans ?_ hp
       simp only [List.cons_subset, List.nil_subset, List.mem_cons, true_or, or_true, and_self]; done)

theorem Frame.picked {ps : List Part} {r s : State} (h : Frame ps r s) (c : CraneId) (j : Job) (u : WorkUnit) (x : Step) (p : List Byte)
    (hp : [.crane c, .rail, .cells, .jobs, .input, .tx .station, .events] ⊆ ps) :
    Frame ps r (s.picked c j u x p) := by
  unfold State.picked
  all_goals try dsimp only
  all_goals repeat' first
    | with_reducible assumption
    | with_reducible apply Frame.startDeadline
    | with_reducible apply Frame.advanceStep
    | with_reducible apply Frame.pickEffects
    | with_reducible apply Frame.updJob
    | with_reducible apply Frame.stopOfferTimer
    | with_reducible apply Frame.reachStep
    | (refine List.Subset.trans ?_ hp
       simp only [List.cons_subset, List.nil_subset, List.mem_cons, true_or, or_true, and_self]; done)

theorem Frame.dropAt {ps : List Part} {r s : State} (h : Frame ps r s) (j : Job) (c : Option CellAddr) (k : Option Class) (b : Bool)
    (hp : [.cells, .jobs, .events] ⊆ ps) :
    Frame ps r (s.dropAt j c k b) := by
  unfold State.dropAt
  repeat' split
  all_goals try dsimp only
  all_goals repeat' first
    | with_reducible assumption
    | with_reducible apply Frame.recheckCell
    | with_reducible apply Frame.rewrite_q
    | with_reducible apply Frame.dropMade
    | with_reducible apply Frame.ite
    | (refine List.Subset.trans ?_ hp
       simp only [List.cons_subset, List.nil_subset, List.mem_cons, true_or, or_true, and_self]; done)

theorem Frame.dropEffects {ps : List Part} {r s : State} (h : Frame ps r s) (j : Job)
    (hp : [.cells, .jobs, .events] ⊆ ps) :
    Frame ps r (s.dropEffects j) := by
  unfold State.dropEffects
  repeat' split
  all_goals repeat' first
    | with_reducible assumption
    | with_reducible apply Frame.dropAt

theorem Frame.leaveUnit {ps : List Part} {r s : State} (h : Frame ps r s) (c : CraneId) (h' : Handle)
    (hp : [.crane c] ⊆ ps) :
    Frame ps r (s.leaveUnit c h') := by
  unfold State.leaveUnit
  repeat' split
  all_goals try dsimp only
  all_goals repeat' first
    | with_reducible assumption
    | with_reducible apply Frame.setCrane

theorem Frame.nextStep {ps : List Part} {r s : State} (h : Frame ps r s) (c : CraneId) (x : Step)
    (hp : Part.cranes ++ Part.craneTxs ++ [.rail, .holdBack, .parkOwed, .holds, .profiles, .cells, .jobs, .pool, .credit, .waves, .queue, .events] ⊆ ps) :
    Frame ps r (s.nextStep c x) := by
  unfold State.nextStep
  repeat' split
  all_goals repeat' first
    | with_reducible assumption
    | with_reducible apply Frame.finishUnit
    | with_reducible apply Frame.startDeadline
    | (refine List.Subset.trans ?_ hp
       simp only [List.cons_subset, List.nil_subset, List.mem_cons, true_or, or_true, and_self]; done)
    | (refine List.Subset.trans ?_ hp; simp; done)

theorem Frame.closeDropped {ps : List Part} {r s : State} (h : Frame ps r s) (c : CraneId) (j : Job) (x : Step)
    (hp : Part.cranes ++ Part.craneTxs ++ [.rail, .holdBack, .parkOwed, .holds, .profiles, .cells, .jobs, .pool, .credit, .waves, .queue, .events] ⊆ ps) :
    Frame ps r (s.closeDropped c j x) := by
  unfold State.closeDropped
  repeat' split
  all_goals repeat' first
    | with_reducible assumption
    | with_reducible apply Frame.endRelocation
    | with_reducible apply Frame.nextStep
    | with_reducible apply Frame.closeStart
    | with_reducible apply Frame.close
    | (refine List.Subset.trans ?_ hp
       simp only [List.cons_subset, List.nil_subset, List.mem_cons, true_or, or_true, and_self]; done)
    | (refine List.Subset.trans ?_ hp; simp; done)

theorem Frame.dropped {ps : List Part} {r s : State} (h : Frame ps r s) (c : CraneId) (j : Job) (u : WorkUnit) (x : Step) (p : List Byte)
    (hp : Part.cranes ++ Part.craneTxs ++ [.rail, .holdBack, .parkOwed, .holds, .profiles, .cells, .jobs, .pool, .credit, .waves, .queue, .events] ⊆ ps) :
    Frame ps r (s.dropped c j u x p) := by
  unfold State.dropped
  all_goals repeat' first
    | with_reducible assumption
    | with_reducible apply Frame.closeDropped
    | with_reducible apply Frame.leaveUnit
    | with_reducible apply Frame.dropEffects
    | with_reducible apply Frame.reachStep
    | (refine List.Subset.trans ?_ hp
       simp only [List.cons_subset, List.nil_subset, List.mem_cons, true_or, or_true, and_self]; done)
    | (refine List.Subset.trans ?_ hp; simp; done)

theorem Frame.reportFinding {ps : List Part} {r s : State} (h : Frame ps r s) (c : CraneId) (j : Job) (d : CellAddr) (x : Finding) (k : FaultKind) (p : List Byte)
    (hp : [.queue, .events] ⊆ ps) :
    Frame ps r (s.reportFinding c j d x k p) := by
  unfold State.reportFinding
  all_goals try dsimp only
  all_goals repeat' first
    | with_reducible assumption
    | with_reducible apply Frame.offerActive
    | with_reducible apply Frame.raiseFault
    | (refine List.Subset.trans ?_ hp
       simp only [List.cons_subset, List.nil_subset, List.mem_cons, true_or, or_true, and_self]; done)

theorem Frame.noteRedirect {ps : List Part} {r s : State} (h : Frame ps r s) (j : Job) (x y : CellAddr)
    (hp : [.queue] ⊆ ps) :
    Frame ps r (s.noteRedirect j x y) := by
  unfold State.noteRedirect
  repeat' split
  all_goals repeat' first
    | with_reducible assumption
    | with_reducible apply Frame.offerNotice

theorem Frame.newDrop {ps : List Part} {r s : State} (h : Frame ps r s) (c : CraneId) (j : Job) (x y : CellAddr)
    (hp : [.crane c, .rail, .jobs, .tx (.crane c), .queue, .events] ⊆ ps) :
    Frame ps r (s.newDrop c j x y) := by
  unfold State.newDrop
  all_goals try dsimp only
  all_goals repeat' first
    | with_reducible assumption
    | with_reducible apply Frame.noteRedirect
    | with_reducible apply Frame.startDeadline
    | with_reducible apply Frame.send
    | with_reducible apply Frame.updOwn
    | with_reducible apply Frame.updJob
    | with_reducible apply Frame.setCrane
    | (refine List.Subset.trans ?_ hp
       simp only [List.cons_subset, List.nil_subset, List.mem_cons, true_or, or_true, and_self]; done)
    | (refine List.Subset.trans ?_ hp; simp; done)
    | (apply hp; simp; done)
    | split

theorem Frame.strandAt {ps : List Part} {r s : State} (h : Frame ps r s) (c : CraneId) (j : Job) (u : WorkUnit)
    (hp : [.crane c, .rail, .cells, .jobs, .credit, .tx (.crane c), .events] ⊆ ps) :
    Frame ps r (s.strandAt c j u) := by
  unfold State.strandAt
  repeat' split
  all_goals try dsimp only
  all_goals repeat' first
    | with_reducible assumption
    | with_reducible apply Frame.fall
    | (with_reducible refine Frame.each _ (fun _ _ _ => ?_) ?_)
    | with_reducible apply Frame.returnToReady
    | with_reducible apply Frame.withdraw
    | with_reducible apply Frame.updJob
    | with_reducible apply Frame.ite
    | (refine List.Subset.trans ?_ hp
       simp only [List.cons_subset, List.nil_subset, List.mem_cons, true_or, or_true, and_self]; done)

theorem Frame.redirectDrop {ps : List Part} {r s : State} (h : Frame ps r s) (c : CraneId) (j : Job) (u : WorkUnit) (d : CellAddr)
    (hp : [.crane c, .rail, .cells, .jobs, .credit, .tx (.crane c), .queue, .events] ⊆ ps) :
    Frame ps r (s.redirectDrop c j u d) := by
  unfold State.redirectDrop
  repeat' split
  all_goals repeat' first
    | with_reducible assumption
    | with_reducible apply Frame.strandAt
    | with_reducible apply Frame.newDrop
    | (refine Frame.reserveDrop ?_ _ _ (by assumption) ?_)
    | (refine List.Subset.trans ?_ hp
       simp only [List.cons_subset, List.nil_subset, List.mem_cons, true_or, or_true, and_self]; done)

theorem Frame.cellOccupied {ps : List Part} {r s : State} (h : Frame ps r s) (c : CraneId) (j : Job) (u : WorkUnit) (x : Step) (p : List Byte)
    (hp : [.crane c, .rail, .cells, .jobs, .credit, .tx (.crane c), .queue, .events] ⊆ ps) :
    Frame ps r (s.cellOccupied c j u x p) := by
  unfold State.cellOccupied
  repeat' split
  all_goals try dsimp only
  all_goals repeat' first
    | with_reducible assumption
    | with_reducible apply Frame.redirectDrop
    | with_reducible apply Frame.reportFinding
    | with_reducible apply Frame.foundOccupied
    | with_reducible apply Frame.reachStep
    | (refine List.Subset.trans ?_ hp
       simp only [List.cons_subset, List.nil_subset, List.mem_cons, true_or, or_true, and_self]; done)

theorem Frame.emptyRetrieval {ps : List Part} {r s : State} (h : Frame ps r s) (c : CraneId) (j : Job) (d : CellAddr)
    (hp : Part.cranes ++ Part.craneTxs ++ [.rail, .holdBack, .parkOwed, .holds, .profiles, .cells, .jobs, .pool, .credit, .waves, .queue, .events] ⊆ ps) :
    Frame ps r (s.emptyRetrieval c j d) := by
  unfold State.emptyRetrieval
  all_goals try dsimp only
  all_goals repeat' first
    | with_reducible assumption
    | with_reducible apply Frame.evaluate
    | with_reducible apply Frame.updBound
    | with_reducible apply Frame.updJob
    | with_reducible apply Frame.dropPartner
    | (refine List.Subset.trans ?_ hp
       simp only [List.cons_subset, List.nil_subset, List.mem_cons, true_or, or_true, and_self]; done)
    | (refine List.Subset.trans ?_ hp; simp; done)

theorem Frame.emptyEffects {ps : List Part} {r s : State} (h : Frame ps r s) (c : CraneId) (j : Job) (d : CellAddr)
    (hp : Part.cranes ++ Part.craneTxs ++ [.rail, .holdBack, .parkOwed, .holds, .profiles, .cells, .jobs, .pool, .credit, .waves, .queue, .events] ⊆ ps) :
    Frame ps r (s.emptyEffects c j d) := by
  unfold State.emptyEffects
  repeat' split
  all_goals repeat' first
    | with_reducible assumption
    | with_reducible apply Frame.finishUnit
    | with_reducible apply Frame.emptyRetrieval
    | with_reducible apply Frame.endRelocation
    | with_reducible apply Frame.closeStart
    | (refine List.Subset.trans ?_ hp
       simp only [List.cons_subset, List.nil_subset, List.mem_cons, true_or, or_true, and_self]; done)
    | (refine List.Subset.trans ?_ hp; simp; done)

theorem Frame.cellEmpty {ps : List Part} {r s : State} (h : Frame ps r s) (c : CraneId) (j : Job) (u : WorkUnit) (x : Step) (p : List Byte)
    (hp : Part.cranes ++ Part.craneTxs ++ [.rail, .holdBack, .parkOwed, .holds, .profiles, .cells, .jobs, .pool, .credit, .waves, .queue, .events] ⊆ ps) :
    Frame ps r (s.cellEmpty c j u x p) := by
  unfold State.cellEmpty
  repeat' split
  all_goals try dsimp only
  all_goals repeat' first
    | with_reducible assumption
    | with_reducible apply Frame.emptyEffects
    | with_reducible apply Frame.reportFinding
    | with_reducible apply Frame.foundEmpty
    | with_reducible apply Frame.reachStep
    | (refine List.Subset.trans ?_ hp
       simp only [List.cons_subset, List.nil_subset, List.mem_cons, true_or, or_true, and_self]; done)
    | (refine List.Subset.trans ?_ hp; simp; done)

/-! ## Timers -/

theorem Frame.offerLapse {ps : List Part} {r s : State} (h : Frame ps r s) (c : CraneId)
    (hp : [.crane c, .rail, .holdBack, .parkOwed, .holds, .profiles, .cells, .jobs, .credit, .tx (.crane c), .queue, .events] ⊆ ps) :
    Frame ps r (s.offerLapse c) := by
  unfold State.offerLapse
  repeat' split
  all_goals repeat' first
    | with_reducible assumption
    | with_reducible apply Frame.missOffer
    | with_reducible apply Frame.withdrawRedirect
    | with_reducible apply Frame.stopOfferTimer
    | (refine List.Subset.trans ?_ hp
       simp only [List.cons_subset, List.nil_subset, List.mem_cons, true_or, or_true, and_self]; done)

theorem Frame.holdBackEnds {ps : List Part} {r s : State} (h : Frame ps r s) (c : CraneId)
    (hp : [.holdBack, .events] ⊆ ps) :
    Frame ps r (s.holdBackEnds c) := by
  unfold State.holdBackEnds
  repeat' split
  all_goals repeat' first
    | with_reducible assumption
    | with_reducible apply Frame.raise
    | with_reducible apply Frame.stopHoldBack
    | (refine List.Subset.trans ?_ hp
       simp only [List.cons_subset, List.nil_subset, List.mem_cons, true_or, or_true, and_self]; done)

theorem Frame.parkTimeout {ps : List Part} {r s : State} (h : Frame ps r s) (c : CraneId)
    (hp : [.crane c, .rail, .holdBack, .parkOwed, .holds, .profiles, .queue, .events] ⊆ ps) :
    Frame ps r (s.parkTimeout c) := by
  unfold State.parkTimeout
  all_goals repeat' first
    | with_reducible assumption
    | with_reducible apply Frame.raiseFault
    | with_reducible apply Frame.enterState
    | (refine List.Subset.trans ?_ hp
       simp only [List.cons_subset, List.nil_subset, List.mem_cons, true_or, or_true, and_self]; done)

theorem Frame.parkLapse {ps : List Part} {r s : State} (h : Frame ps r s) (c : CraneId)
    (hp : [.crane c, .rail, .holdBack, .parkOwed, .holds, .profiles, .queue, .events] ⊆ ps) :
    Frame ps r (s.parkLapse c) := by
  unfold State.parkLapse
  repeat' split
  all_goals repeat' first
    | with_reducible assumption
    | with_reducible apply Frame.parkTimeout
    | with_reducible apply Frame.stopParkTimer
    | with_reducible apply Frame.abandonClear
    | (refine List.Subset.trans ?_ hp
       simp only [List.cons_subset, List.nil_subset, List.mem_cons, true_or, or_true, and_self]; done)

theorem Frame.backoffEnds {ps : List Part} {r s : State} (h : Frame ps r s) (c : CraneId)
    (hp : [.crane c, .rail, .holdBack, .parkOwed, .holds, .profiles, .tx (.crane c), .queue, .events] ⊆ ps) :
    Frame ps r (s.backoffEnds c) := by
  unfold State.backoffEnds
  repeat' split
  all_goals try dsimp only
  all_goals repeat' first
    | with_reducible assumption
    | with_reducible apply Frame.enterState
    | with_reducible apply Frame.send
    | with_reducible apply Frame.leaveBackoff
    | with_reducible apply Frame.stopBackoffTimer
    | (refine List.Subset.trans ?_ hp
       simp only [List.cons_subset, List.nil_subset, List.mem_cons, true_or, or_true, and_self]; done)
    | (refine List.Subset.trans ?_ hp; simp; done)
    | (apply hp; simp; done)
    | split

theorem Frame.deadlineEnds {ps : List Part} {r s : State} (h : Frame ps r s) (c : CraneId)
    (hp : [.crane c, .jobs, .events] ⊆ ps) :
    Frame ps r (s.deadlineEnds c) := by
  unfold State.deadlineEnds
  repeat' split
  all_goals try dsimp only
  all_goals repeat' first
    | with_reducible assumption
    | with_reducible apply Frame.raiseFault
    | with_reducible apply Frame.updJob
    | with_reducible apply Frame.stopDeadline
    | (refine List.Subset.trans ?_ hp
       simp only [List.cons_subset, List.nil_subset, List.mem_cons, true_or, or_true, and_self]; done)

theorem Frame.ageTick {ps : List Part} {r s : State} (h : Frame ps r s) (hp : [.jobs, .counter] ⊆ ps) :
    Frame ps r (s.ageTick) := by
  unfold State.ageTick
  repeat' split
  all_goals repeat' first
    | with_reducible assumption
    | with_reducible apply Frame.ageCount

/-! ## Events between the blocks, and commands -/

theorem Frame.handOver {ps : List Part} {r s : State} (h : Frame ps r s) (h' : Handle) (l : OrderLink) (p : List Byte)
    (hp : [.cells, .jobs, .pool, .input, .credit, .waves, .tx .station, .queue, .events] ⊆ ps) :
    Frame ps r (s.handOver h' l p) := by
  unfold State.handOver
  repeat' split
  all_goals first
    | exact h
    | exact Frame.matchStore h _ _ _ _ _ _ hp

theorem Frame.fillFrom {ps : List Part} {r s : State} (h : Frame ps r s) (l : OrderLink)
    (hp : [.jobs, .pool, .waves, .queue, .events] ⊆ ps) :
    Frame ps r (s.fillFrom l hs) := by
  induction hs generalizing s with
  | nil => exact h.setClosingWait _ _ (List.Subset.trans (by simp) hp)
  | cons x xs ih =>
    unfold State.fillFrom
    split
    · split
      · exact ih ((h.payNotice _ _ _ (List.Subset.trans (by simp) hp)).leaveIfPaid _ (List.Subset.trans (by simp) hp))
      · exact ih h
    · exact h.setClosingWait _ _ (List.Subset.trans (by simp) hp)

theorem Frame.withdrawJob {ps : List Part} {r s : State} (h : Frame ps r s) (c : CraneId) (h' : Handle)
    (hp : [.crane c, .cells, .jobs, .credit, .tx (.crane c), .events] ⊆ ps) :
    Frame ps r (s.withdrawJob c h') := by
  unfold State.withdrawJob
  repeat' split
  all_goals try dsimp only
  all_goals repeat' first
    | with_reducible assumption
    | (with_reducible refine Frame.each _ (fun _ _ _ => ?_) ?_)
    | with_reducible apply Frame.returnToReady
    | with_reducible apply Frame.withdraw
    | (refine List.Subset.trans ?_ hp
       simp only [List.cons_subset, List.nil_subset, List.mem_cons, true_or, or_true, and_self]; done)

theorem Frame.unmatch {ps : List Part} {r s : State} (h : Frame ps r s) (j : Job) (hp : [.input] ⊆ ps) :
    Frame ps r (s.unmatch j) := by
  unfold State.unmatch
  repeat' split
  all_goals repeat' first
    | with_reducible assumption
    | with_reducible apply Frame.setInput

theorem Frame.cancelJob {ps : List Part} {r s : State} (h : Frame ps r s) (j : Job)
    (hp : Part.cranes ++ Part.craneTxs ++ [.rail, .holdBack, .parkOwed, .holds, .profiles, .cells, .jobs, .pool, .input, .credit, .waves, .queue, .events] ⊆ ps) :
    Frame ps r (s.cancelJob j) := by
  unfold State.cancelJob
  repeat' split
  all_goals try dsimp only
  all_goals repeat' first
    | with_reducible assumption
    | with_reducible apply Frame.close
    | with_reducible apply Frame.withdrawJob
    | with_reducible apply Frame.unmatch
    | with_reducible apply Frame.afterWithdraw
    | (refine List.Subset.trans ?_ hp
       simp only [List.cons_subset, List.nil_subset, List.mem_cons, true_or, or_true, and_self]; done)
    | (refine List.Subset.trans ?_ hp; simp; done)

theorem Frame.resolveRewrite {ps : List Part} {r s : State} (h : Frame ps r s) (j : Job) (d : Disposition)
    (hp : [.jobs] ⊆ ps) :
    Frame ps r (s.resolveRewrite j d) := by
  unfold State.resolveRewrite
  repeat' split
  all_goals repeat' first
    | with_reducible assumption
    | with_reducible apply Frame.rewrite_q

theorem Frame.resolveCrane {ps : List Part} {r s : State} (h : Frame ps r s) (c : CraneId)
    (hp : [.crane c, .rail, .holdBack, .parkOwed, .holds, .profiles, .cells, .jobs, .credit, .tx (.crane c), .queue, .events] ⊆ ps) :
    Frame ps r (s.resolveCrane c) := by
  unfold State.resolveCrane
  repeat' split
  all_goals try dsimp only
  all_goals repeat' first
    | with_reducible assumption
    | with_reducible apply Frame.finishUnit
    | with_reducible apply Frame.setCrane
    | (refine List.Subset.trans ?_ hp
       simp only [List.cons_subset, List.nil_subset, List.mem_cons, true_or, or_true, and_self]; done)

theorem Frame.serviceOut {ps : List Part} {r s : State} (h : Frame ps r s) (c : CraneId)
    (hp : [.crane c, .rail, .holdBack, .parkOwed, .holds, .profiles, .cells, .jobs, .credit, .tx (.crane c), .queue, .events] ⊆ ps) :
    Frame ps r (s.serviceOut c) := by
  unfold State.serviceOut
  repeat' split
  all_goals try dsimp only
  all_goals repeat' first
    | with_reducible assumption
    | with_reducible apply Frame.enterState
    | with_reducible apply Frame.leaveBackoff
    | with_reducible apply Frame.endUnit
    | (with_reducible refine Frame.each _ (fun _ _ _ => ?_) ?_)
    | with_reducible apply Frame.returnToReady
    | with_reducible apply Frame.withdraw
    | with_reducible apply Frame.setCrane
    | (refine List.Subset.trans ?_ hp
       simp only [List.cons_subset, List.nil_subset, List.mem_cons, true_or, or_true, and_self]; done)

theorem Frame.serviceIn {ps : List Part} {r s : State} (h : Frame ps r s) (c : CraneId)
    (hp : [.crane c, .rail, .holdBack, .parkOwed, .holds, .profiles, .tx (.crane c), .queue, .events] ⊆ ps) :
    Frame ps r (s.serviceIn c) := by
  unfold State.serviceIn
  repeat' split
  all_goals try dsimp only
  all_goals repeat' first
    | with_reducible assumption
    | with_reducible apply Frame.setCrane
    | with_reducible apply Frame.sendPark
    | with_reducible apply Frame.enterState
    | with_reducible apply Frame.send
    | (refine List.Subset.trans ?_ hp
       simp only [List.cons_subset, List.nil_subset, List.mem_cons, true_or, or_true, and_self]; done)
    | (refine List.Subset.trans ?_ hp; simp; done)
    | (apply hp; simp; done)
    | split

theorem Frame.parkEntry {ps : List Part} {r s : State} (h : Frame ps r s) (m : Option (AisleId × End))
    (hp : [.rail, .events] ⊆ ps) :
    Frame ps r (s.parkEntry m) := by
  unfold State.parkEntry
  repeat' split
  all_goals try dsimp only
  all_goals repeat' first
    | with_reducible assumption
    | with_reducible apply Frame.updEntry
    | with_reducible apply Frame.select
    | with_reducible apply Frame.ite
    | (refine List.Subset.trans ?_ hp
       simp only [List.cons_subset, List.nil_subset, List.mem_cons, true_or, or_true, and_self]; done)

theorem Frame.testMapping {ps : List Part} {r s : State} (h : Frame ps r s) (m : Option (AisleId × End))
    (hp : [.holds, .queue] ⊆ ps) :
    Frame ps r (s.testMapping m) := by
  unfold State.testMapping
  repeat' split
  all_goals repeat' first
    | with_reducible assumption
    | with_reducible apply Frame.testHold

theorem Frame.waveEntered {ps : List Part} {r s : State} (h : Frame ps r s) (w : Option WaveRef) (hp : [.waves] ⊆ ps) :
    Frame ps r (s.waveEntered w) := by
  unfold State.waveEntered
  repeat' split
  all_goals repeat' first
    | with_reducible assumption
    | with_reducible apply Frame.updWave

theorem Frame.takeDock {ps : List Part} {r s : State} (h : Frame ps r s) (w : Wave) (n : Nat)
    (hp : [.waves, .events] ⊆ ps) :
    Frame ps r (s.takeDock w n) := by
  unfold State.takeDock
  all_goals repeat' first
    | with_reducible assumption
    | with_reducible apply Frame.reEvaluate
    | with_reducible apply Frame.updWave
    | (refine List.Subset.trans ?_ hp
       simp only [List.cons_subset, List.nil_subset, List.mem_cons, true_or, or_true, and_self]; done)

/-! ## Reading a frame -/

theorem Frame.same {ps : List Part} {r s : State} (h : Frame ps r s) (p : Part) (hp : p ∉ ps) : p.same r s := h p hp

theorem Frame.flg {ps : List Part} {r s : State} (h : Frame ps r s) (hp : .rest ∉ ps) : s.flg = r.flg := (h .rest hp).1

theorem Frame.cmp {ps : List Part} {r s : State} (h : Frame ps r s) (hc : .cells ∉ ps) (hp : .profiles ∉ ps) :
    s.cmp = r.cmp := by
  have hc : ∀ a, (s.aisle a).cells = (r.aisle a).cells := h .cells hc
  have hp : ∀ a, (s.aisle a).profile = (r.aisle a).profile ∧ (s.aisle a).pendingProfile = (r.aisle a).pendingProfile :=
    h .profiles hp
  have : s.cmp.aisles = r.cmp.aisles := Vector.ext fun i hi => by
    obtain ⟨h1, h2⟩ := hp ⟨i, hi⟩
    have h3 := hc ⟨i, hi⟩
    show s.aisle ⟨i, hi⟩ = r.aisle ⟨i, hi⟩
    generalize s.aisle ⟨i, hi⟩ = x at *
    generalize r.aisle ⟨i, hi⟩ = y at *
    cases x; cases y; simp_all
  generalize s.cmp = x at *
  generalize r.cmp = y at *
  cases x; cases y; simp_all

theorem Frame.cell {ps : List Part} {r s : State} (h : Frame ps r s) (hc : .cells ∉ ps) (hr : .rest ∉ ps)
    (c : CellAddr) : s.cell c = r.cell c := by
  have hc : (s.aisle c.aisle).cells = (r.aisle c.aisle).cells := h .cells hc c.aisle
  have hg := (h .rest hr).2.2.2.2.2.2.2 c.aisle
  unfold State.cell
  rw [hc]
  revert hg
  cases s.profile? c.aisle <;> cases r.profile? c.aisle <;> simp
  intro h; rw [h]

theorem Frame.jpl {ps : List Part} {r s : State} (h : Frame ps r s) (hj : .jobs ∉ ps) (hp : .pool ∉ ps)
    (hc : .counter ∉ ps) (hr : .rest ∉ ps) : s.jpl = r.jpl := by
  have h1 : s.jpl.slots = r.jpl.slots := h .jobs hj
  obtain ⟨h2, h3, h4, h5⟩ := h .pool hp
  have h6 : s.jpl.counter = r.jpl.counter := h .counter hc
  rw [(h .rest hr).2.2.2.2.1, h1, h2, h3, h4, h5, h6]

theorem Frame.job? {ps : List Part} {r s : State} (h : Frame ps r s) (hj : .jobs ∉ ps) (i : Handle) :
    s.job? i = r.job? i := by
  have h1 : s.jpl.slots = r.jpl.slots := h .jobs hj
  unfold State.job? State.slot
  rw [h1]

theorem Frame.ale {ps : List Part} {r s : State} (h : Frame ps r s) (hb : .holdBack ∉ ps) (hr : .rest ∉ ps) :
    s.ale = r.ale := by
  have h1 : s.ale.holdBack = r.ale.holdBack := h .holdBack hb
  rw [(h .rest hr).2.2.2.2.2.1, h1]

theorem Frame.crane {ps : List Part} {r s : State} (h : Frame ps r s) (c : CraneId) (hc : .crane c ∉ ps) :
    s.crane c = r.crane c := h (.crane c) hc

theorem Frame.tx {ps : List Part} {r s : State} (h : Frame ps r s) (k : Link) (hk : .tx k ∉ ps) : s.tx k = r.tx k :=
  h (.tx k) hk

theorem Frame.crt {ps : List Part} {r s : State} (h : Frame ps r s) (hc : ∀ c, .crane c ∉ ps) (ha : .rail ∉ ps)
    (hr : .rest ∉ ps) : s.crt = r.crt := by
  have h1 : s.crt.cranes = r.crt.cranes := Vector.ext fun i hi => h (.crane ⟨i, hi⟩) (hc ⟨i, hi⟩)
  have h2 : s.crt.rail = r.crt.rail := h .rail ha
  rw [(h .rest hr).2.2.2.2.2.2.1, h1, h2]

theorem Frame.swu {ps : List Part} {r s : State} (h : Frame ps r s) (hi : .input ∉ ps) (hc : .credit ∉ ps)
    (hw : .waves ∉ ps) : s.swu = r.swu := by
  have h1 : s.swu.inputs = r.swu.inputs := h .input hi
  have h2 : s.swu.credits = r.swu.credits := h .credit hc
  have h3 : s.swu.waves = r.swu.waves := h .waves hw
  generalize s.swu = x at *
  generalize r.swu = y at *
  cases x; cases y; simp_all

theorem Frame.aic {ps : List Part} {r s : State} (h : Frame ps r s) (hh : .holds ∉ ps) (hp : .parkOwed ∉ ps) :
    s.aic = r.aic := by
  have h1 : s.aic.holds = r.aic.holds := h .holds hh
  have h2 : s.aic.parkOwed = r.aic.parkOwed := h .parkOwed hp
  generalize s.aic = x at *
  generalize r.aic = y at *
  cases x; cases y; simp_all

end Sys2Proof.Machine
end

