-- ==== Sys2Proof/Laws/Order.lean ====
section
/-! SUPPORT. Ordering by keys: the order of keys is the lexicographic one, `minBy` answers the first element of least key,
and `sortBy` answers a permutation of its list with the keys rising and equal keys in their old order. The order in which
live jobs are listed follows (R94, R166). -/

namespace Sys2Proof.Machine

theorem keyLt_iff (x y : List Nat) : keyLt x y = true ↔ x < y := by
  induction x generalizing y with
  | nil => cases y <;> simp [keyLt]
  | cons a as ih =>
    cases y with
    | nil => simp [keyLt]
    | cons b bs =>
      rw [keyLt, List.cons_lt_cons_iff]
      split
      · simp_all
      · split
        · simp; omega
        · have : a = b := by omega
          simp_all

theorem keyLt_eq_false_iff (x y : List Nat) : keyLt x y = false ↔ y ≤ x := by
  rw [Bool.eq_false_iff, ne_eq, keyLt_iff, not_lt]

theorem minBy_eq_none_iff {α : Type} (key : α → List Nat) (xs : List α) : minBy key xs = none ↔ xs = [] := by
  cases xs with
  | nil => simp [minBy]
  | cons x xs =>
    rw [minBy]
    split
    · simp
    · split <;> simp

/-- Everything `minBy` can answer: an element with every element before it of a greater key, and none behind it of a
lesser one. -/
theorem minBy_eq_some {α : Type} (key : α → List Nat) {xs : List α} {x : α} (h : minBy key xs = some x) :
    ∃ before behind, xs = before ++ x :: behind ∧ (∀ y ∈ before, key x < key y) ∧ ∀ y ∈ behind, key x ≤ key y := by
  induction xs generalizing x with
  | nil => simp [minBy] at h
  | cons y ys ih =>
    rw [minBy] at h
    split at h
    · next hn =>
      cases h
      rw [minBy_eq_none_iff] at hn
      exact ⟨[], ys, rfl, by simp, by simp [hn]⟩
    · next z hz =>
      obtain ⟨before, behind, rfl, h1, h2⟩ := ih hz
      split at h
      · next hlt =>
        cases h
        rw [keyLt_iff] at hlt
        exact ⟨y :: before, behind, rfl, by simpa [hlt] using h1, h2⟩
      · next hge =>
        cases h
        rw [Bool.not_eq_true, keyLt_eq_false_iff] at hge
        refine ⟨[], _, rfl, by simp, fun w hw => ?_⟩
        rcases List.mem_append.mp hw with hw | hw
        · exact hge.trans (h1 w hw).le
        · rcases List.mem_cons.mp hw with rfl | hw
          · exact hge
          · exact hge.trans (h2 w hw)

theorem insertBy_perm {α : Type} (key : α → List Nat) (x : α) (xs : List α) : (insertBy key x xs).Perm (x :: xs) := by
  induction xs with
  | nil => rfl
  | cons y ys ih =>
    rw [insertBy]
    split
    · rfl
    · exact (ih.cons y).trans (List.Perm.swap x y ys)

theorem insertBy_sorted {α : Type} (key : α → List Nat) (x : α) {xs : List α}
    (h : xs.Pairwise fun y z => key y ≤ key z) : (insertBy key x xs).Pairwise fun y z => key y ≤ key z := by
  induction xs with
  | nil => simp [insertBy]
  | cons y ys ih =>
    have ⟨h1, h2⟩ := List.pairwise_cons.mp h
    rw [insertBy]
    split
    · next hlt =>
      rw [keyLt_iff] at hlt
      exact List.pairwise_cons.mpr ⟨fun z hz => (List.mem_cons.mp hz).elim (fun e => e ▸ hlt.le)
        fun hz => hlt.le.trans (h1 z hz), h⟩
    · next hge =>
      rw [Bool.not_eq_true, keyLt_eq_false_iff] at hge
      refine List.pairwise_cons.mpr ⟨fun z hz => ?_, ih h2⟩
      exact (List.mem_cons.mp ((insertBy_perm key x ys).mem_iff.mp hz)).elim (fun e => e ▸ hge) (h1 z)

/-- A sorted list holds the elements of the list it was made from. -/
theorem sortBy_perm {α : Type} (key : α → List Nat) (xs : List α) : (sortBy key xs).Perm xs := by
  have h : ∀ (xs acc : List α), (xs.foldl (fun acc x => insertBy key x acc) acc).Perm (acc ++ xs) := by
    intro xs
    induction xs with
    | nil => simp
    | cons x xs ih =>
      intro acc
      exact (ih _).trans (((insertBy_perm key x acc).append_right xs).trans List.perm_middle.symm)
  exact h xs []

/-- A sorted list has its keys rising. -/
theorem sortBy_sorted {α : Type} (key : α → List Nat) (xs : List α) :
    (sortBy key xs).Pairwise fun y z => key y ≤ key z := by
  have h : ∀ (xs acc : List α), (acc.Pairwise fun y z => key y ≤ key z) →
      (xs.foldl (fun acc x => insertBy key x acc) acc).Pairwise fun y z => key y ≤ key z := by
    intro xs
    induction xs with
    | nil => exact fun _ h => h
    | cons x xs ih => exact fun acc h => ih _ (insertBy_sorted key x h)
  exact h xs [] List.Pairwise.nil

theorem insertBy_filter {α : Type} (key : α → List Nat) (k : List Nat) (x : α) {xs : List α}
    (h : xs.Pairwise fun y z => key y ≤ key z) :
    (insertBy key x xs).filter (fun y => decide (key y = k)) = (xs ++ [x]).filter fun y => decide (key y = k) := by
  induction xs with
  | nil => rfl
  | cons y ys ih =>
    have ⟨h1, h2⟩ := List.pairwise_cons.mp h
    rw [insertBy]
    split
    · next hlt =>
      rw [keyLt_iff] at hlt
      by_cases hx : key x = k
      · have later : ∀ z ∈ y :: ys, key z ≠ k := fun z hz e =>
          absurd ((List.mem_cons.mp hz).elim (fun e => e ▸ hlt) fun hz => hlt.trans_le (h1 z hz)) (by simp [hx, e])
        have none : (y :: ys).filter (fun z => decide (key z = k)) = [] := by simpa [List.filter_eq_nil_iff] using later
        rw [List.filter_cons, List.filter_append, none]
        simp [hx]
      · rw [List.filter_cons, List.filter_append]
        simp [hx]
    · rw [List.cons_append, List.filter_cons, List.filter_cons, ih h2]

/-- A sorted list keeps the elements of one key in the order they had. -/
theorem sortBy_filter {α : Type} (key : α → List Nat) (k : List Nat) (xs : List α) :
    (sortBy key xs).filter (fun x => decide (key x = k)) = xs.filter fun x => decide (key x = k) := by
  have h : ∀ (xs acc : List α), (acc.Pairwise fun y z => key y ≤ key z) →
      (xs.foldl (fun acc x => insertBy key x acc) acc).filter (fun x => decide (key x = k))
        = (acc ++ xs).filter fun x => decide (key x = k) := by
    intro xs
    induction xs with
    | nil => simp
    | cons x xs ih =>
      intro acc hacc
      rw [List.foldl_cons, ih _ (insertBy_sorted key x hacc), List.filter_append, insertBy_filter key k x hacc,
        ← List.filter_append, List.append_assoc, List.singleton_append]
  exact h xs [] List.Pairwise.nil

/-! ## The order in which live jobs are listed -/

/-- The listed jobs are the live jobs that pass the test. -/
theorem State.jobsWhere_perm (s : State) (p : Job → Bool) : (s.jobsWhere p).Perm (s.jobs.filter p) := sortBy_perm _ _

/-- They stand lowest entry order first (R94, R166). -/
theorem State.jobsWhere_ordered (s : State) (p : Job → Bool) :
    (s.jobsWhere p).Pairwise fun i j => i.entryOrder ≤ j.entryOrder :=
  (sortBy_sorted _ _).imp fun h => BitVec.not_lt.mp fun hlt =>
    h.not_gt (List.cons_lt_cons_iff.mpr (.inl hlt))

/-- Those of one entry order stand in slot order: the model's choice (log entry 71). -/
theorem State.jobsWhere_tie (s : State) (p : Job → Bool) (k : Word) :
    (s.jobsWhere p).filter (fun j => decide (j.entryOrder = k))
      = (s.jobs.filter p).filter fun j => decide (j.entryOrder = k) := by
  simpa [State.jobsWhere, BitVec.toNat_inj] using sortBy_filter (fun j : Job => [j.entryOrder.toNat]) [k.toNat] (s.jobs.filter p)

/-- What a re-evaluation request raises: one event for each job that passes the test, in the order of the list. -/
theorem State.reEvaluate_events (s : State) (p : Job → Bool) :
    (s.reEvaluate p).events = s.events ++ (s.jobsWhere p).map fun j => .reEvaluation j.handle := rfl

end Sys2Proof.Machine
end

