-- ==== Sys2Proof/Laws/Searches.lean ====
section
/-! SUPPORT. What the searches answer, once each: the cells they admit are those of R83 and R92, their keys order cells as R34
to R36 do, and the winner is the admitted cell before every other. A search for a new drop cell follows (R104). -/

namespace Sys2Proof.Machine

/-! ## The cells a search goes through -/

theorem Geometry.mem_cellsIn (g : Geometry) (a : AisleId) (lo hi : Nat) (c : CellAddr) :
    c ∈ g.cellsIn a lo hi ↔ c.aisle = a ∧ lo ≤ c.bay ∧ c.bay ≤ hi ∧ 1 ≤ c.level ∧ c.level ≤ g.levels
      ∧ (c.depth = .deep → g.doubleDeep = true) := by
  obtain ⟨b, side, bay, level, depth⟩ := c
  simp only [Geometry.cellsIn, List.mem_flatMap, List.mem_map, List.mem_range'_1, CellAddr.mk.injEq]
  constructor
  · rintro ⟨_, _, _, hb, _, hl, z, hz, rfl, rfl, rfl, rfl, rfl⟩
    refine ⟨rfl, by omega, by omega, by omega, by omega, fun h => ?_⟩
    by_contra hg
    simp_all
  · rintro ⟨rfl, h1, h2, h3, h4, h5⟩
    refine ⟨side, by cases side <;> simp, bay, by omega, level, by omega, depth, ?_, rfl, rfl, rfl, rfl, rfl⟩
    cases depth
    · split <;> simp
    · simp_all

theorem Geometry.mem_allCells_iff (g : Geometry) (a : AisleId) (c : CellAddr) : c ∈ g.allCells a ↔ g.InAisle a c :=
  g.mem_cellsIn a 1 g.bays c

theorem State.admits_iff {s : State} {p : Profile} {c : CellAddr} (k : Sys2Proof.Class)
    (hp : s.profile? c.aisle = some p) : s.admits k c = true ↔ p.geo.Admits s.cell k c := by
  have full : ∀ x : CellState, x.isFull = true ↔ ∃ k, x = .full k := by intro x; cases x <;> simp [CellState.isFull]
  simp only [State.admits, State.fit, State.isDoubleDeep, hp, Geometry.Admits, Bool.and_eq_true, decide_eq_true_eq,
    Bool.not_eq_true', and_assoc, Bool.or_eq_true]
  refine and_congr_right fun _ => and_congr_right fun _ => and_congr_right fun _ => ?_
  cases p.geo.doubleDeep <;> cases c.depth <;> simp [full]

/-! ## The order of cells -/

theorem searchKey_eq (p : Profile) (waste : Nat) (x : Point) (k : Sys2Proof.Class) (c : CellAddr) :
    searchKey p waste x k c = keyOf p waste x k c := by
  cases h : c.depth <;> simp [searchKey, keyOf, saturate, moveTime, handling, cellPoint, Config.timeBound, min_comm, h]

theorem sideDepth_lt (c d : CellAddr) :
    [c.side.code, depthRank c.depth] < [d.side.code, depthRank d.depth] ↔ FirstBySide c d := by
  unfold FirstBySide
  cases c.side <;> cases d.side <;> cases c.depth <;> cases d.depth <;> decide

theorem slotRank_lt {p : Profile} {waste : Nat} {x : Point} {k : Sys2Proof.Class} {e : End} {c d : CellAddr}
    (hc : c.bay ≤ p.geo.bays) (hd : d.bay ≤ p.geo.bays) :
    slotRank p waste x k e c < slotRank p waste x k e d ↔ SlotBefore p waste x k e c d := by
  unfold slotRank SlotBefore
  rw [searchKey_eq, searchKey_eq, List.cons_lt_cons_iff, List.cons_lt_cons_iff, List.cons_lt_cons_iff, sideDepth_lt]
  refine or_congr_right (and_congr_right fun _ => or_congr_right (and_congr_right fun _ => ?_))
  cases e
  · rfl
  · exact or_congr (by simp only; omega) (and_congr (by simp only; omega) Iff.rfl)

theorem targetRank_lt (p : Profile) (waste : Nat) (x : Point) (k : Sys2Proof.Class) (c d : CellAddr) :
    targetRank p waste x k c < targetRank p waste x k d ↔ TargetBefore p waste x k c d := by
  unfold targetRank TargetBefore
  rw [searchKey_eq, searchKey_eq, List.cons_lt_cons_iff, List.cons_lt_cons_iff, List.cons_lt_cons_iff,
    List.cons_lt_cons_iff, sideDepth_lt]

/-- Two cells of an aisle of one bay, level, side and depth are one. -/
theorem cell_eq_of {c d : CellAddr} (ha : c.aisle = d.aisle) (hb : c.bay = d.bay) (hl : c.level = d.level)
    (h : [c.side.code, depthRank c.depth] = [d.side.code, depthRank d.depth]) : c = d := by
  obtain ⟨a, s, b, l, z⟩ := c
  obtain ⟨a', s', b', l', z'⟩ := d
  simp only at ha hb hl h
  subst ha hb hl
  cases s <;> cases s' <;> cases z <;> cases z' <;> first | rfl | simp [Side.code, depthRank] at h

theorem slotRank_injective {p : Profile} {waste : Nat} {x : Point} {k : Sys2Proof.Class} {e : End} {c d : CellAddr}
    (ha : c.aisle = d.aisle) (hc : c.bay ≤ p.geo.bays) (hd : d.bay ≤ p.geo.bays)
    (h : slotRank p waste x k e c = slotRank p waste x k e d) : c = d := by
  simp only [slotRank, List.cons.injEq] at h
  obtain ⟨-, hl, hb, h1, h2, -⟩ := h
  refine cell_eq_of ha ?_ hl (by rw [h1, h2])
  cases e <;> simp only at hb <;> omega

theorem targetRank_injective {p : Profile} {waste : Nat} {x : Point} {k : Sys2Proof.Class} {c d : CellAddr}
    (ha : c.aisle = d.aisle) (h : targetRank p waste x k c = targetRank p waste x k d) : c = d := by
  simp only [targetRank, List.cons.injEq] at h
  obtain ⟨-, hl, -, hb, h1, h2, -⟩ := h
  exact cell_eq_of ha hb hl (by rw [h1, h2])

/-! ## The winner -/

/-- With keys that tell the elements apart, `minBy` answers an element exactly where its key is the least of all. -/
theorem minBy_eq_some_iff {α : Type} (key : α → List Nat) {xs : List α} (x : α)
    (inj : ∀ y ∈ xs, ∀ z ∈ xs, key y = key z → y = z) :
    minBy key xs = some x ↔ x ∈ xs ∧ ∀ y ∈ xs, y ≠ x → key x < key y := by
  have least : ∀ {x}, minBy key xs = some x → x ∈ xs ∧ ∀ y ∈ xs, y ≠ x → key x < key y := by
    intro x h
    obtain ⟨before, behind, hxs, h1, h2⟩ := minBy_eq_some key h
    have hx : x ∈ xs := by simp [hxs]
    refine ⟨hx, fun y hy hne => ?_⟩
    have hle : key x ≤ key y := by
      rw [hxs, List.mem_append, List.mem_cons] at hy
      rcases hy with hy | rfl | hy
      · exact (h1 y hy).le
      · exact absurd rfl hne
      · exact h2 y hy
    exact lt_of_le_of_ne hle fun he => hne (inj x hx y hy he).symm
  refine ⟨least, fun ⟨hx, h⟩ => ?_⟩
  cases hm : minBy key xs with
  | none => rw [minBy_eq_none_iff] at hm; simp [hm] at hx
  | some y =>
    obtain ⟨hy, h'⟩ := least hm
    by_cases he : y = x
    · rw [he]
    · exact absurd ((h y hy he).trans (h' x hx (Ne.symm he))) (lt_irrefl _)

/-- The test of a search beside the cells it admits. -/
theorem State.slotWinner_eq_some {s : State} {a : AisleId} {e : End} {x : Point} {k : Sys2Proof.Class}
    {ok : CellAddr → Bool} {p : Profile} (hp : s.profile? a = some p) (c : CellAddr) :
    s.slotWinner a e x k ok = some c ↔
      Wins (fun c => SlotCell p s.cell a k c ∧ ok c = true) (SlotBefore p s.ale.waste x k e) c := by
  have mem : ∀ c, c ∈ (p.geo.allCells a).filter (fun c => s.admits k c && ok c)
      ↔ SlotCell p s.cell a k c ∧ ok c = true := by
    intro c
    rw [List.mem_filter, Geometry.mem_allCells_iff, Bool.and_eq_true, ← and_assoc]
    refine and_congr_left fun _ => and_congr_right fun h => State.admits_iff k (by rw [h.1]; exact hp)
  simp only [State.slotWinner, hp]
  rw [minBy_eq_some_iff]
  · simp only [mem, Wins]
    exact and_congr_right fun hc => forall_congr' fun d => imp_congr_right fun hd => imp_congr_right fun _ =>
      slotRank_lt hc.1.1.2.2.1 hd.1.1.2.2.1
  · intro c hc d hd h
    rw [mem] at hc hd
    exact slotRank_injective (hc.1.1.1.trans hd.1.1.1.symm) hc.1.1.2.2.1 hd.1.1.2.2.1 h

theorem State.slotWinner_eq_none {s : State} {a : AisleId} {e : End} {x : Point} {k : Sys2Proof.Class}
    {ok : CellAddr → Bool} {p : Profile} (hp : s.profile? a = some p) :
    s.slotWinner a e x k ok = none ↔ ∀ c, ¬ (SlotCell p s.cell a k c ∧ ok c = true) := by
  simp only [State.slotWinner, hp, minBy_eq_none_iff, List.filter_eq_nil_iff, Bool.and_eq_true,
    Geometry.mem_allCells_iff, SlotCell]
  refine forall_congr' fun c => ⟨fun h hc => h hc.1.1 ⟨?_, hc.2⟩, fun h hc ha => h ⟨⟨hc, ?_⟩, ha.2⟩⟩
  · exact (State.admits_iff k (by rw [hc.1.1.1]; exact hp)).mpr hc.1.2
  · exact (State.admits_iff k (by rw [hc.1]; exact hp)).mp ha.1

theorem State.targetWinner_mem {s : State} {source : CellAddr} {k : Sys2Proof.Class} {ok : CellAddr → Bool} {p : Profile}
    (hp : s.profile? source.aisle = some p) (c : CellAddr) :
    c ∈ (p.geo.cellsIn source.aisle (max 1 (source.bay - p.op.window)) (min p.geo.bays (source.bay + p.op.window))).filter
        (fun c => s.admits k c && decide (c ≠ source) && decide (c ≠ deepOf source) && ok c)
      ↔ TargetCell p s.cell source k c ∧ ok c = true := by
  rw [List.mem_filter, Geometry.mem_cellsIn]
  simp only [Bool.and_eq_true, decide_eq_true_eq, TargetCell, Geometry.InAisle]
  constructor
  · rintro ⟨⟨ha, h1, h2, h3⟩, ⟨⟨hc, h4⟩, h5⟩, h6⟩
    exact ⟨⟨⟨ha, by omega, by omega, h3⟩, by omega, by omega,
      (State.admits_iff k (by rw [ha]; exact hp)).mp hc, h4, h5⟩, h6⟩
  · rintro ⟨⟨⟨ha, h1, h2, h3⟩, h4, h5, hc, h6, h7⟩, h8⟩
    exact ⟨⟨ha, by omega, by omega, h3⟩, ⟨⟨(State.admits_iff k (by rw [ha]; exact hp)).mpr hc, h6⟩, h7⟩, h8⟩

theorem State.targetWinner_eq_some {s : State} {source : CellAddr} {x : Point} {k : Sys2Proof.Class}
    {ok : CellAddr → Bool} {p : Profile} (hp : s.profile? source.aisle = some p) (c : CellAddr) :
    s.targetWinner source x k ok = some c ↔
      Wins (fun c => TargetCell p s.cell source k c ∧ ok c = true) (TargetBefore p s.ale.waste x k) c := by
  simp only [State.targetWinner, hp]
  rw [minBy_eq_some_iff]
  · simp only [State.targetWinner_mem hp, Wins, targetRank_lt]
  · intro c hc d hd h
    rw [State.targetWinner_mem hp] at hc hd
    exact targetRank_injective (hc.1.1.1.trans hd.1.1.1.symm) h

theorem State.targetWinner_eq_none {s : State} {source : CellAddr} {x : Point} {k : Sys2Proof.Class}
    {ok : CellAddr → Bool} {p : Profile} (hp : s.profile? source.aisle = some p) :
    s.targetWinner source x k ok = none ↔ ∀ c, ¬ (TargetCell p s.cell source k c ∧ ok c = true) := by
  simp only [State.targetWinner, hp, minBy_eq_none_iff, List.eq_nil_iff_forall_not_mem, State.targetWinner_mem hp]

/-! ## The search for a new drop cell (R104) -/

/-- Everything the search for a new drop cell can answer, in a state that has its cells and its intervals. -/
theorem State.newDropCell_eq_some {s : State} {c : CraneId} {j : Job} {a : AisleId} {p : Profile} (d new : CellAddr)
    (hp : s.profile? a = some p) (hj : j.aisle = a) (hs : j.kind = .relocate → ∀ x, j.chosen = some x → x.aisle = a) :
    s.newDropCell c j d = some new ↔
      NewDropCell p s.ale.waste s.cell (fun b => s.dropKeepsGap c b = true) j d new := by
  subst hj
  unfold State.newDropCell NewDropCell Job.dropRedirectable
  cases hk : j.kind
  · simp only [Bool.or_eq_false_iff]
    by_cases h : j.destination = none ∨ j.redirectAllowed = true
    · rw [if_neg (by rcases h with h | h <;> simp [h])]
      simp only [h, true_and]
      exact State.slotWinner_eq_some hp new
    · rw [if_pos (by rw [not_or] at h; cases hd : j.destination <;> simp_all)]
      simp [h]
  · simp
  · simp only [Bool.true_eq_false, if_false]
    cases hc : j.chosen with
    | none => simp
    | some source =>
      simp only [Option.some.injEq, exists_eq_left']
      exact State.targetWinner_eq_some (by rw [hs hk source hc]; exact hp) new

/-- The records of the cells stand where the Cell Map does. -/
theorem State.cell_of_cmp {s t : State} (h : t.cmp = s.cmp) : t.cell = s.cell := by
  funext c
  simp only [State.cell, State.profile?, State.aisle, h]

/-- The records once a drop cell reserved for a job has been found occupied (R15). -/
theorem State.foundOccupied_cell {s : State} (hw : MapWf s) {d : CellAddr} {h : Handle}
    (hd : (s.cell d).state = .inReserved h) : (s.foundOccupied d h).cell =
      fun b => if b = d then { state := .full (s.fit d), conflict := true } else s.cell b := by
  have he : s.existing d := by
    by_contra hn
    rw [State.cell_of_not_existing hn] at hd
    cases hd
  have hc : (s.foundOccupied d h).cell = (s.putCell d { state := .full (s.fit d), conflict := true }).cell := by
    rw [State.foundOccupied, if_pos hd]
    rfl
  rw [hc]
  exact funext fun b => State.cell_putCell hw d b _ he

/-- What a report of a bay from a WORKING crane leaves of the map, the settings and its aisle's table (R114, R116). -/
theorem State.railReport_working {s : State} {c : CraneId} {a : AisleId} {e : End} (bay : Nat) (xs : List Step)
    (j : Option Handle) (p : List Byte) (hm : (s.crane c).mapping = some (a, e)) (hs : (s.crane c).state = .working) :
    (s.railReport c bay xs j p).cmp = s.cmp ∧ (s.railReport c bay xs j p).ale = s.ale
      ∧ (s.railReport c bay xs j p).crane c = s.crane c
      ∧ (s.railReport c bay xs j p).rail a = (s.rail a).map fun r => r.set e { r.get e with
          granted := (r.get e).granted.fallen bay (s.stepBays (xs ++ (s.crane c).redirectSteps)) } := by
  unfold State.railReport State.shrunkHull State.shrink State.grant State.updOwn State.updEntry State.entry
  simp only [hm, hs]
  cases hr : s.rail a with
  | none => simp [hr]
  | some r =>
    simp only [Option.map_some]
    by_cases hb : (r.get e).granted.holds bay = true
    · by_cases hg : (r.get e).granted = hull bay (s.stepBays (xs ++ (s.crane c).redirectSteps))
      · rw [if_pos hb, if_pos hg, Interval.fallen, if_pos hb, ← hg, hr]
        exact ⟨rfl, rfl, rfl, by cases e <;> rfl⟩
      · simp [hb, hg, Interval.fallen, State.select]
    · rw [if_neg hb, Interval.fallen, if_neg hb, State.raiseFault, State.raise_rail, hr]
      exact ⟨rfl, rfl, rfl, by cases e <;> rfl⟩

/-- What a step reported by a WORKING crane leaves of the map, the settings and its aisle's table (R100, R114). -/
theorem State.reachStep_working {s : State} {c : CraneId} {a : AisleId} {e : End} (j : Job) (x : Step) (xs : List Step)
    (p : List Byte) (hm : (s.crane c).mapping = some (a, e)) (hs : (s.crane c).state = .working) :
    (s.reachStep c j x xs p).cmp = s.cmp ∧ (s.reachStep c j x xs p).ale = s.ale
      ∧ ((s.reachStep c j x xs p).crane c).mapping = some (a, e)
      ∧ (s.reachStep c j x xs p).rail a = (s.rail a).map fun r => r.set e { r.get e with
          granted := (r.get e).granted.fallen (s.placePoint x.place).bay (s.stepBays (xs ++ (s.crane c).redirectSteps)) } := by
  obtain ⟨h1, h2, h3, h4⟩ := State.railReport_working (s := s.stopDeadline c) (c := c) (a := a) (e := e)
    (s.placePoint x.place).bay xs (some j.handle) p (by simpa [State.stopDeadline] using hm) (by simpa [State.stopDeadline] using hs)
  have h5 : ((s.stopDeadline c).crane c).redirectSteps = (s.crane c).redirectSteps := by
    simp [State.stopDeadline, Crane.redirectSteps]
  rw [h5] at h4
  unfold State.reachStep State.setPosition
  refine ⟨?_, ?_, ?_, ?_⟩
  · simpa [State.stopDeadline] using h1
  · simpa [State.stopDeadline] using h2
  · rw [State.setCrane_crane, if_pos rfl, h3]
    simpa [State.stopDeadline] using hm
  · exact h4

/-- The effective interval: the granted one, widened by any claim (R110). -/
theorem RailEntry.effective_eq (o : RailEntry) : o.effective =
    { lo := o.claim.elim o.granted.lo fun k => min o.granted.lo k.lo
      hi := o.claim.elim o.granted.hi fun k => max o.granted.hi k.hi } := by
  unfold RailEntry.effective
  cases o.claim <;> rfl

/-- In a tandem aisle the search admits the cells whose bay, joined to the crane's interval, keeps the gap (R104). -/
theorem State.dropKeepsGap_iff {s : State} {c : CraneId} {a : AisleId} {e : End} {p : Profile} (b : CellAddr)
    (hm : (s.crane c).mapping = some (a, e)) (hp : s.profile? a = some p) : s.dropKeepsGap c b = true ↔
      ∀ r, s.rail a = some r → KeepsGapFrom p.op.gap e ((r.get e).granted.join (.at b.bay)) (r.get (otherEnd e)) := by
  have hg : s.gap a = p.op.gap := by simp only [State.gap, hp]
  unfold State.dropKeepsGap State.entry State.otherEntry
  simp only [hm]
  cases s.rail a with
  | none => simp
  | some r =>
    simp only [Option.map_some, Option.some.injEq, forall_eq', RailEntry.redirectTo]
    rw [RailEntry.effective_eq, hg]
    cases e <;> unfold keepsGap KeepsGapFrom <;> exact decide_eq_true_iff

/-- Everything the search answers where the occupied cell has been reached and its record corrected (R15, R100, R104). -/
theorem State.newDropCell_reached {s : State} {c : CraneId} {a : AisleId} {e : End} {j : Job} {x : Step} {d : CellAddr}
    {h : Handle} {p : Profile} (xs : List Step) (report : List Byte) (new : CellAddr)
    (hm : (s.crane c).mapping = some (a, e)) (hs : (s.crane c).state = .working) (hx : x.place = .cell d)
    (hd : (s.cell d).state = .inReserved h) (hw : MapWf s) (hp : s.profile? a = some p) (hj : j.aisle = a)
    (hc : j.kind = .relocate → ∀ b, j.chosen = some b → b.aisle = a) :
    ((s.reachStep c j x xs report).foundOccupied d h).newDropCell c j d = some new ↔
      NewDropCell p s.ale.waste
        (fun b => if b = d then { state := .full (s.fit d), conflict := true } else s.cell b)
        (fun b => ∀ r, s.rail a = some r → KeepsGapFrom p.op.gap e
          (((r.get e).granted.fallen d.bay (s.stepBays (xs ++ (s.crane c).redirectSteps))).join (.at b.bay))
          (r.get (otherEnd e))) j d new := by
  obtain ⟨h1, h2, h3, h4⟩ := State.reachStep_working j x xs report hm hs
  have hb : (s.placePoint x.place).bay = d.bay := by rw [hx]; rfl
  rw [hb] at h4
  generalize s.reachStep c j x xs report = r at h1 h2 h3 h4 ⊢
  have hcell : r.cell = s.cell := State.cell_of_cmp h1
  have hprof : r.profile? = s.profile? := by funext b; simp only [State.profile?, State.aisle, h1]
  have hfit : r.fit d = s.fit d := by simp only [State.fit, hprof]
  have hrw : MapWf r := fun b => by have := hw b; simpa only [State.aisle, h1] using this
  have hrd : (r.cell d).state = .inReserved h := by rw [hcell]; exact hd
  have hf : (r.foundOccupied d h).cell =
      fun b => if b = d then { state := .full (s.fit d), conflict := true } else s.cell b := by
    rw [State.foundOccupied_cell hrw hrd, hcell, hfit]
  have hq : (r.foundOccupied d h).profile? a = some p := by
    rw [State.foundOccupied, if_pos hrd]
    exact (State.putCell_profile r d _ a).trans (by rw [hprof]; exact hp)
  have hput : ∀ b y, (r.putCell b y).ale = r.ale ∧ (r.putCell b y).crt = r.crt := fun b y => by
    unfold State.putCell
    split
    · split <;> exact ⟨rfl, rfl⟩
    · exact ⟨rfl, rfl⟩
  have hfound : (r.foundOccupied d h).ale = r.ale ∧ (r.foundOccupied d h).crt = r.crt := by
    rw [State.foundOccupied, if_pos hrd]
    exact hput d _
  have hal : (r.foundOccupied d h).ale = s.ale := hfound.1.trans h2
  have hrail : (r.foundOccupied d h).rail a = r.rail a := by simp only [State.rail, hfound.2]
  have hcm : ((r.foundOccupied d h).crane c).mapping = some (a, e) := by
    simpa only [State.crane, hfound.2] using h3
  rw [State.newDropCell_eq_some d new hq hj hc, hf, hal]
  have hk : (fun b => (r.foundOccupied d h).dropKeepsGap c b = true) = fun b => ∀ r, s.rail a = some r →
      KeepsGapFrom p.op.gap e
        (((r.get e).granted.fallen d.bay (s.stepBays (xs ++ (s.crane c).redirectSteps))).join (.at b.bay))
        (r.get (otherEnd e)) := by
    funext b
    rw [State.dropKeepsGap_iff b hcm hq, hrail, h4]
    cases s.rail a with
    | none => simp
    | some r => cases e <;> simp [otherEnd]
  rw [hk]

end Sys2Proof.Machine
end

