-- ==== Sys2Proof/Tests/Slice0.lean ====
section
/-! SUPPORT. Small tests. Expected results come from the manual's worked figures and rules; the witness theorems show,
for each statement with hypotheses, a concrete state and operands that meet them. -/

namespace Sys2Proof.Tests

set_option Elab.async false

open Sys2Proof Sys2Proof.Machine

/-! ## Well-formedness refuses -/

theorem test_payload_of_63_bytes_fits : (Instr.enterStore .o0 (List.replicate 63 0)).wellFormed = true := by decide

theorem test_payload_of_64_bytes_does_not_fit : (Instr.enterStore .o0 (List.replicate 64 0)).wellFormed = false := by decide

theorem test_fault_payload_of_16_bytes_fits :
    (Instr.faultReport { kind := .linkFrame, source := .internal, aisle := none, job := none,
                         payload := List.replicate 16 0 }).wellFormed = true := by decide

theorem test_fault_payload_of_17_bytes_does_not_fit :
    (Instr.faultReport { kind := .linkFrame, source := .internal, aisle := none, job := none,
                         payload := List.replicate 17 0 }).wellFormed = false := by decide

/-! ## Decoding: bytes written out from R195, R203 and R204 -/

theorem test_hold_aisle_frame : decodeFrame (.order .o1) 0x0A [4] = some (.holdAisle .o1 [4]) := by decide

theorem test_type_out_of_place : decodeFrame .station 0x0A [4] = none := by decide

/-! ## A small yard -/

/-- The operating fields of the manual's example aisle A4 (section 2.3). -/
def a4Op (classes gap window : Nat) : Operating where
  classCount := classes
  limit0 := 1100
  limit1 := 1500
  limit2 := 1900
  limit3 := 3000
  weightMin := 50
  weightMax := 1200
  px := 1500
  vx := 3000
  ax := 600
  py := 1250
  vy := 1100
  ay := 500
  hStation := 5000
  hNear := 8000
  hDeep := 12000
  gap := gap
  window := window

/-- The example aisle A4 (section 2.3). -/
def a4 : Profile :=
  { geo := { kind := .tandem, bays := 60, levels := 12, doubleDeep := true,
             classTable := [2, 2, 2, 2, 1, 1, 1, 1, 1, 0, 0, 0] }
    op := a4Op 3 3 8 }

/-- A small tandem, double-deep aisle: five bays, two levels. -/
def deepAisle : Profile :=
  { geo := { kind := .tandem, bays := 5, levels := 2, doubleDeep := true, classTable := [1, 0] }, op := a4Op 2 1 4 }

/-- A small single aisle: three bays, two levels. -/
def flatAisle : Profile :=
  { geo := { kind := .single, bays := 3, levels := 2, doubleDeep := false, classTable := [0, 1] }, op := a4Op 2 1 8 }

/-- An OPEN aisle. -/
def openHold : AisleHold :=
  { sources := { gate := false, o0 := false, o1 := false, fault := false }, state := .isOpen, gack := false }

/-- An announced crane, IDLE at a bay. -/
def idleCrane (a : AisleId) (e : End) (bay : Nat) : Crane :=
  { Crane.initial with mapping := some (a, e), state := .idle, bay := bay, known := true }

/-- A rail entry that holds one bay. -/
def entryAt (b : Nat) : RailEntry := { granted := .at b, claim := none, clear := none }

/-- Aisle A0 with cranes C0 (front) and C1 (rear), aisle A1 with C2; all else as after power-on. -/
def yard : State :=
  (((((((((State.reset.setAisle 0 { profile := some deepAisle, pendingProfile := none, cells := [] }).setAisle 1
    { profile := some flatAisle, pendingProfile := none, cells := [] }).setCrane 0 (idleCrane 0 .front 0)).setCrane 1
    (idleCrane 0 .rear 6)).setCrane 2 (idleCrane 1 .front 0)).setRail 0 (some { front := entryAt 0, rear := entryAt 6 })).setHold
    0 openHold).setHold 1 openHold).setCredit 0 .front { reportedFree := 2, inFlight := 0 }).setCredit 1 .front
    { reportedFree := 2, inFlight := 0 }

/-- A cell of A0. -/
def cellA0 (side : Side) (bay level : Nat) (depth : Depth) : CellAddr :=
  { aisle := 0, side := side, bay := bay, level := level, depth := depth }

/-- A cell of A1. -/
def cellA1 (bay level : Nat) : CellAddr := { aisle := 1, side := .left, bay := bay, level := level, depth := .near }

/-- The record of a cell of a state, its conflict flag clear. -/
def plain (x : CellState) : Cell := { state := x, conflict := false }

/-- The handles of the first two slots. -/
def h0 : Handle := { slot := 0, gen := 0 }

def h1 : Handle := { slot := 1, gen := 0 }

/-- What a command makes of a state; the state itself where it stops. -/
def after (i : Instr) (s : State) : State :=
  match exec i s with
  | .next t => t
  | _ => s

/-- A crane's record changed. -/
def withCrane (s : State) (c : CraneId) (f : Crane → Crane) : State := s.setCrane c (f (s.crane c))

/-- A hypothesis about the value of an option holds where it holds of its one value. -/
theorem of_some {α : Type} {o : Option α} {P : α → Prop} {x : α} (h : o = some x) (hx : P x) : ∀ y, o = some y → P y := by
  intro y hy
  cases h.symm.trans hy
  exact hx

theorem of_none {α : Type} {o : Option α} {P : α → Prop} (h : o = none) : ∀ y, o = some y → P y := by
  intro y hy
  cases h.symm.trans hy

/-! ## The laws of the yard -/

/-- A store that waits for its pallet at A0's front, entered by O0. -/
def waitingStore : Job :=
  { Job.new h0 .store (.order .o0) 1 0 0 with tag := 7, end_ := .front, reason := some .noPallet }

/-- The yard with one job in slot 0. -/
def withJob (j : Job) : State := yard.createJob j

theorem yard_slot (i : Fin 256) : yard.slot i = Slot.initial := by
  show (Vector.replicate 256 Slot.initial)[i] = Slot.initial
  simp

theorem yard_job (i : Fin 256) (j : Job) : (yard.slot i).job ≠ some j := by simp [yard_slot, Slot.initial]

theorem yard_handleLaw : HandleLaw yard := fun i j hj => absurd hj (yard_job i j)

theorem createJob_handleLaw {s : State} (h : HandleLaw s) (j : Job) : HandleLaw (s.createJob j) := by
  intro i k hk
  rw [State.createJob_slot] at hk ⊢
  split at hk
  · next hi => subst hi; cases hk; rw [if_pos rfl]
  · next hi => rw [if_neg hi]; exact h i k hk

theorem withJob_handleLaw (j : Job) : HandleLaw (withJob j) := createJob_handleLaw yard_handleLaw j

theorem withCrane_handleLaw {s : State} (h : HandleLaw s) (c : CraneId) (f : Crane → Crane) :
    HandleLaw (withCrane s c f) := handleLaw_of_slots rfl h

theorem putCell_jpl (s : State) (c : CellAddr) (x : Cell) : (s.putCell c x).jpl = s.jpl := by
  unfold State.putCell
  repeat' split
  all_goals rfl

theorem putCell_handleLaw {s : State} (h : HandleLaw s) (c : CellAddr) (x : Cell) : HandleLaw (s.putCell c x) :=
  handleLaw_of_slots (by rw [putCell_jpl]) h

/-- The laws that the yard keeps: reservations, units and redirects among them. -/
theorem yard_laws : Lawful yard ∧ PoolLawful yard ∧ WorkLawful yard := State.passesChecks_laws (by decide +kernel)

theorem yard_lawful : Lawful yard := yard_laws.1

theorem yard_poolLawful : PoolLawful yard := yard_laws.2.1

theorem yard_faultLawful : FaultLawful yard := by
  refine ⟨?_, ?_, ⟨?_, ?_⟩, of_none (by decide +kernel)⟩
  · unfold HaltLaw; decide +kernel
  · unfold CountLaw; decide +kernel
  all_goals decide +kernel

theorem yard_mapWf : MapWf yard := yard_lawful.map

theorem yard_hears (k : Link) (h : k = .order .o0 ∨ k = .order .o1 ∨ k = .station) : Hears yard k := by
  rcases h with rfl | rfl | rfl <;> (unfold Hears; decide +kernel)

theorem yard_announced (c : CraneId) (h : c = 0 ∨ c = 1 ∨ c = 2) : Announced yard c := by
  rcases h with rfl | rfl | rfl <;> (unfold Announced; decide +kernel)

/-! ## Witnesses: the machine -/

theorem witness_StepRunsTheNextCommand :
    ({ yard with pending := [.agingStep, .selection 0] } : State).pending = .agingStep :: [.selection 0]
      ∧ yard.pending = [] ∧ yard.events = []
      ∧ ({ yard with events := [.selection 0] } : State).events = .selection 0 :: [] := by decide +kernel

theorem witness_ExecLeavesTheQueue : ∃ t, exec .agingStep yard = .next t := ⟨_, rfl⟩

theorem witness_StepKeepsTheLaws : Lawful yard ∧ CapacityLaw yard ∧ ∃ t, step yard = .next t :=
  ⟨yard_lawful, by unfold CapacityLaw; decide +kernel, _, rfl⟩

theorem witness_StepKeepsFaultLaws : FaultLawful yard ∧ ∃ t, step yard = .next t := ⟨yard_faultLawful, _, rfl⟩

theorem witness_StepKeepsPoolLaws : PoolLawful yard ∧ ∃ t, step yard = .next t := ⟨yard_poolLawful, _, rfl⟩

theorem witness_RegistersChangeByTheirOwnCommands :
    (∃ t, exec .agingStep yard = .next t) ∧ (∀ pins, Instr.agingStep ≠ .powerOn pins ∧ Instr.agingStep ≠ .pinReset pins)
      ∧ Instr.agingStep ≠ .restartHard ∧ (∀ l p, Instr.agingStep ≠ .setPolicy l p)
      ∧ (∀ l p, Instr.agingStep ≠ .mapCrane l p) ∧ (∀ l p, Instr.agingStep ≠ .loadProfile l p)
      ∧ sourceChange .agingStep = none ∧ (∀ r, Instr.agingStep ≠ .faultReport r)
      ∧ (∀ l p, Instr.agingStep ≠ .setFaultControl l p ∧ Instr.agingStep ≠ .clearFault l p
          ∧ Instr.agingStep ≠ .clearAisleFault l p) ∧ Instr.agingStep ≠ .restartSoft := by
  refine ⟨⟨_, rfl⟩, ?_, ?_, ?_, ?_, ?_, rfl, ?_, ?_, ?_⟩ <;> simp

/-! ## Witnesses: frames -/

theorem witness_FrameCommandsRoundTrip :
    encodeFrame (.hello 11 [6, 2]) = some (.crane 11, 0x40, [6, 2])
      ∧ (Instr.hello 11 [6, 2]).wellFormed = true := by decide

theorem witness_PayloadsRoundTrip :
    (∃ f : EnterStoreFields, f.cls = 255 ∧ f.aisle < 256 ∧ f.end_ < 256 ∧ f.redirectAllowed < 256
        ∧ ∀ c, f.destination = some c → c.bay < 256 ∧ c.level < 256 ∧ c ≠ absentCell)
      ∧ (∃ f : EnterRetrieveFields, f.cls < 256 ∧ f.aisle < 256 ∧ f.end_ < 256 ∧ f.wave = 255 ∧ f.seq = 65535
          ∧ f.candidates.length = 4 ∧ ∀ c ∈ f.candidates, c.bay < 256 ∧ c.level < 256)
      ∧ (∃ f : SetCellFields, f.cell.bay = 255 ∧ f.cell.level = 255 ∧ f.state = 255 ∧ f.loadClass = 255)
      ∧ (∃ f : SetRunFields, f.aisle = 255 ∧ f.side < 256 ∧ f.level < 256 ∧ f.depth < 256 ∧ f.firstBay < 256
          ∧ f.count = 255 ∧ f.state < 256)
      ∧ (∃ f : ArriveFields, f.aisle < 256 ∧ f.end_ = 255 ∧ f.height = 65535 ∧ f.weight = 65535)
      ∧ (∃ es : List (Nat × Nat), es.length = 12 ∧ ∀ e ∈ es, e.1 < 256 ∧ e.2 < 4294967296)
      ∧ (∃ f : LoadProfileFields, f.aisle = 255 ∧ f.levels = 1 ∧ f.classTable.length = f.levels ∧ f.vx = 65535) :=
  ⟨⟨{ reference := 7, tag := 9, cls := 255, aisle := 0, end_ := 0, destination := some (cellA0 .right 5 2 .deep),
      redirectAllowed := 1 }, rfl, by decide, by decide, by decide, of_some rfl (by decide)⟩,
    ⟨{ reference := 7, cls := 3, aisle := 0, end_ := 2, wave := 255, seq := 65535,
       candidates := List.replicate 4 (cellA0 .left 1 1 .near) }, by decide⟩,
    ⟨{ cell := cellA0 .left 255 255 .near, state := 255, loadClass := 255 }, by decide⟩,
    ⟨{ aisle := 255, side := 0, level := 1, depth := 0, firstBay := 1, count := 255, state := 0 }, by decide⟩,
    ⟨{ aisle := 0, end_ := 255, tag := 1, height := 65535, weight := 65535 }, by decide⟩,
    ⟨List.replicate 12 (255, 4294967295), by decide⟩,
    ⟨{ aisle := 255, kind := 0, bays := 0, levels := 1, depth := 0, classCount := 0, limit0 := 0, limit1 := 0,
       limit2 := 0, limit3 := 0, weightMin := 0, weightMax := 0, px := 0, vx := 65535, ax := 0, py := 0, vy := 0,
       ay := 0, hStation := 0, hNear := 0, hDeep := 0, gap := 0, window := 0, classTable := [3] }, by decide⟩⟩

theorem witness_FrameBytesRaiseTheirCommand :
    encodeFrame (.parked 3 []) = some (.crane 3, 0x4A, []) ∧ (Instr.parked 3 []).wellFormed = true
      ∧ yard.rx (.crane 3) = .hunting ∧ yard.liu.restarting = none ∧ (∀ b, .byteReceived (.crane 3) b ∉ yard.events)
      ∧ .tgapExpiry (.crane 3) ∉ yard.events := by
  have h : yard.events = [] := by decide +kernel
  rw [h]
  exact ⟨by decide, by decide, by decide +kernel, by decide +kernel, by simp, by simp⟩

theorem witness_FrameChecksDiscard :
    yard.liu.restarting = none ∧ yard.rx .station = .hunting
      ∧ (yard.setRx .station (.inFrame [2, 0x30] 0)).rx .station = .inFrame [2, 0x30] 0
      ∧ (yard.setRx .station (.inFrame [] 0)).rx .station = .inFrame [] 0
      ∧ yard.now < 0 + Config.tGap ∧ BitVec.toNat (65 : Byte) = 65 := by decide +kernel

/-- A frame whose second CRC byte is still to come: of HOLD AISLE on O0, and of the same type on the station link. -/
def checking (k : Link) : State :=
  yard.setRx k (.inFrame (2 :: 0x0A :: ([4] ++ [(crcBytes (frameBody 0x0A [4])).headD 0])) 0)

theorem witness_FrameChecksDiscard_crc :
    ([(crcBytes (frameBody 0x0A [4])).headD 0, 0xFF] ≠ crcBytes (frameBody 0x0A [4])) ∧ BitVec.toNat (2 : Byte) = [(4 : Byte)].length + 1
      ∧ (checking (.order .o0)).rx (.order .o0)
          = .inFrame (2 :: 0x0A :: ([4] ++ [(crcBytes (frameBody 0x0A [4])).headD 0])) 0
      ∧ (checking .station).liu.restarting = none ∧ yard.now < 0 + Config.tGap := by decide +kernel

theorem witness_FrameChecksDiscard_type : ¬ ∃ i, encodeFrame i = some (.station, 0x0A, [4]) := by
  rintro ⟨i, h⟩
  cases i <;> simp [encodeFrame] at h <;> exact absurd h.1 (by decide)

theorem test_bad_crc_is_a_link_frame :
    (after (.byteReceived (.order .o0) 0xFF) (checking (.order .o0))).events
      = [.faultReport { kind := .linkFrame, source := .link (.order .o0), aisle := none, job := none
                        payload := [4, (crcBytes (frameBody 0x0A [4])).headD 0, 0xFF] }] := by decide +kernel

/-- A reply to RESTART, as it waits at the head of a link's list. -/
def restartReply : Reply := okReply 0x1A false (.restart .soft)

/-- A restart waits for its reply to be sent. -/
def restarting : State :=
  { yard with liu := { (yard.setTx (.order .o0) [.reply restartReply]).liu with
      restarting := some { link := .o0, kind := .soft } } }

/-- R143, R194: a deadline and a silence of tGAP that end at the same millisecond are both raised. -/
theorem test_tick_raises_what_comes_due :
    ((withCrane { yard with now := 99 } 0 fun x => { x with deadline := some { step := 1, expiry := 100 } }).setRx .station
        (.inFrame [] 95)).tick.events = [.stepDeadlineExpiry 0, .tgapExpiry .station, .agingCounterTick]
      ∧ ({ restarting with now := 99 }).tick.events = [] := by decide +kernel

/-- A reply that may take several parts. -/
def longReply : Reply := okReply 0x16 false (.waves [] 16)

/-- A frame that a restart lets complete on C0, with a message on its list. -/
def finishingPark : State := (yard.setTx (.crane 0) [.resume]).setFinishing (.crane 0) (some .park)

theorem witness_FrameSentLeavesItsList :
    finishingPark.finishing (.crane 0) = some .park ∧ (∀ k, yard.finishing k = none)
      ∧ (∀ k ms, (yard.setTx k ms).finishing k = none) ∧ restarting.finishing (.order .o0) = none
      ∧ (yard.setTx (.crane 0) [.park]).tx (.crane 0) = .park :: []
      ∧ (yard.setTx (.crane 0) [.park]).restartSent (.crane 0) .park = none ∧ (∀ r, Message.park ≠ .reply r)
      ∧ (yard.setTx (.order .o0) [.reply longReply]).tx (.order .o0) = .reply longReply :: []
      ∧ longReply.data.isLong = true
      ∧ (yard.setTx (.order .o0) [.reply longReply]).restartSent (.order .o0) (.reply longReply) = none
      ∧ (yard.setTx (.order .o0) [.reply restartReply]).restartSent (.order .o0) (.reply restartReply) = none
      ∧ restarting.tx (.order .o0) = .reply restartReply :: [] ∧ restartReply.data.isLong = false
      ∧ restarting.liu.restarting = some { link := .o0, kind := .soft } ∧ restartReply.command = 0x1A
      ∧ restartReply.result = .ok :=
  have h : ∀ k, yard.finishing k = none := fun k => by
    show (Vector.replicate 15 none)[linkIndex k] = none
    simp
  ⟨by decide +kernel, h, fun k _ => h k, by decide +kernel, by decide +kernel, by decide +kernel, by simp, by decide +kernel⟩

/-- R193, R201: the frame in flight goes out first; the list stands behind it. -/
theorem test_frame_in_flight_goes_first :
    (after (.frameSent (.crane 0) true) finishingPark).finishing (.crane 0) = none
      ∧ (after (.frameSent (.crane 0) true) finishingPark).tx (.crane 0) = [.resume] := by decide +kernel

/-- A closing notice. -/
def closedNotice : Notice := .jobClosed h0 5 .store .cancelled false none

/-- A CLOSING store that is owed its notice on O0. -/
def owing : State :=
  (withJob { waitingStore with
    state := .closing, reason := none, outcome := some .cancelled, notice := some closedNotice, owed := [.o0] }).setClosingWait
    .o0 [h0]

theorem owing_handleLaw : HandleLaw owing :=
  handleLaw_of_slots (State.setClosingWait_jpl_slots _ _ _) (withJob_handleLaw _)

theorem witness_LinkCommandsActOnTheirLink :
    Hears yard (.order .o0) ∧ byteAt [2] 0 = 2 ∧ restartKindOf (BitVec.toNat (0 : Byte)) = some .soft
      ∧ restartKindOf (BitVec.toNat (1 : Byte)) = some .hard
      ∧ yard.jpl.closingWait.get .o0 = [] ∧ owing.jpl.closingWait.get .o0 = h0 :: [] ∧ (owing.queue .o0).length < 32
      ∧ (owing.jpl.closingWait.get .o0).Nodup
      ∧ (∀ h ∈ owing.jpl.closingWait.get .o0, ∃ j x, owing.job? h = some j ∧ j.notice = some x) ∧ HandleLaw owing
      ∧ ((owing.setQueue .o0 (List.replicate 32 (.profileApplied 0))).queue .o0).length = 32
      ∧ h1 ∉ (owing.jpl.closingWait.get .o0).take 1
      ∧ (owing.createJob { waitingStore with handle := h1 }).job? h1 ≠ none := by
  have hw : owing.jpl.closingWait.get .o0 = [h0] := by decide +kernel
  refine ⟨yard_hears _ (by simp), by decide, by decide, by decide, by decide +kernel, hw, by decide +kernel, ?_, ?_,
    owing_handleLaw, by decide +kernel, ?_, by decide +kernel⟩
  · rw [hw]; decide
  · have hn : (owing.job? h0).map (·.notice) = some (some closedNotice) := by decide +kernel
    obtain ⟨j, hj, hx⟩ := Option.map_eq_some_iff.mp hn
    rw [hw]; intro h hh; rw [List.mem_singleton.mp hh]; exact ⟨j, closedNotice, hj, hx⟩
  · rw [hw]; decide

/-- The same with a retrieve that waits for a free slot. -/
def owingWaited : State :=
  owing.createJob { Job.new h1 .retrieve (.order .o1) 1 0 0 with reason := some .noRelocSpace }

theorem witness_LinkCommandsActOnTheirLink_leaving :
    owingWaited.jpl.closingWait.get .o0 = [h0] ∧ (owingWaited.queue .o0).length < 32 ∧ HandleLaw owingWaited
      ∧ (owingWaited.job? h0).map (fun j => (j.notice, j.origin, j.owed.filter (· ≠ .o0)))
          = some (some closedNotice, .order .o0, [])
      ∧ (owingWaited.job? h1).map (fun k => (k.kind, k.state, k.reason))
          = some (.retrieve, .pending, some .noRelocSpace) :=
  ⟨by decide +kernel, by decide +kernel, createJob_handleLaw owing_handleLaw _, by decide +kernel, by decide +kernel⟩

/-- R38, R94: the slot of a job that leaves has its next generation and the tail of the free list, and the retrieve that
waits for a slot is evaluated again. -/
theorem test_leaving_frees_the_slot :
    (after (.closingWaitPlacement .o0) owingWaited).slot 0 = { gen := 1, job := none }
      ∧ (after (.closingWaitPlacement .o0) owingWaited).jpl.freeList.getLast? = some 0
      ∧ (after (.closingWaitPlacement .o0) owingWaited).events = [.reEvaluation h1] := by decide +kernel

theorem witness_ResetsLeaveTheirState : MapWf yard := yard_mapWf

/-- Four replies waiting on link O0. -/
def crowded : State := yard.setTx (.order .o0) (List.replicate 4 (.reply restartReply))

theorem witness_FramesAreTurnedAway :
    restarting.liu.restarting ≠ none
      ∧ (encodeFrame (.fetch .o0 [0])).isSome = true
      ∧ crowded.liu.restarting = none ∧ encodeFrame (.fetch .o0 [0]) = some (.order .o0, 0x19, [0])
      ∧ (∀ c, Link.order .o0 ≠ .crane c) ∧ Config.replyLimit ≤ crowded.waitingReplies (.order .o0)
      ∧ encodeFrame (.ask 5 [1, 1]) = some (.crane 5, 0x41, [1, 1]) ∧ (yard.crane 5).mapping = none
      ∧ (withCrane yard 0 fun x => { x with state := .absent }).liu.restarting = none
      ∧ ((withCrane yard 0 fun x => { x with state := .absent }).crane 0).state = .absent
      ∧ Announced yard 0 ∧ [(0 : Byte)].length ≠ 2 ∧ 15 < byteAt [9, 16] 1 ∧ decodeHandle [0] = none
      ∧ yard.craneAisle 0 = some 0 ∧ yard.profile? 0 = some deepAisle ∧ deepAisle.geo.bays + 1 < byteAt [7, 0] 0
      ∧ deepAisle.geo.levels < byteAt [6, 3] 1
      ∧ ((withCrane yard 0 fun x => { x with state := .absent }).crane 0).mapping ≠ none
      ∧ (withCrane yard 0 fun x => { x with state := .absent }).craneAisle 0 = some 0
      ∧ (withCrane yard 0 fun x => { x with state := .absent }).profile? 0 = some deepAisle := by
  refine ⟨by decide +kernel, by decide, by decide +kernel, by decide, by simp, by decide +kernel, by decide, by decide +kernel,
    by decide +kernel, by decide +kernel, yard_announced 0 (by simp), by decide, by decide, by decide, by decide +kernel,
    by decide +kernel, by decide, by decide, by decide +kernel, by decide +kernel, by decide +kernel⟩

/-! ## Witnesses: settings, faults, queries -/

theorem witness_SetPolicyWritesItsSettings :
    Hears yard (.order .o0) ∧ decodeSetPolicy [] = none
      ∧ decodeSetPolicy [3, 0, 0, 0, 2] = some [(3, 2)]
      ∧ (∃ e ∈ [((3, 2) : Nat × Nat)], ¬ ∃ r ∈ settingRows, r.1 = e.1 ∧ (r.2.2 = 1 → e.2 ≤ 1))
      ∧ decodeSetPolicy [1, 0, 0, 0, 0, 3, 0, 0, 0, 1] = some [(1, 0), (3, 1)]
      ∧ ∀ e ∈ [((1, 0) : Nat × Nat), (3, 1)], ∃ r ∈ settingRows, r.1 = e.1 ∧ (r.2.2 = 1 → e.2 ≤ 1) :=
  ⟨yard_hears _ (by simp), by decide, by decide, by decide, by decide, by decide⟩

theorem witness_SetFaultControlStoresMaskAndSeverity :
    Hears yard (.order .o1) ∧ byteAt [15, 0, 0] 0 = 15
      ∧ BitVec.toNat (14 : Byte) = (kindIndex .railBreach).val + 1 ∧ BitVec.toNat (1 : Byte) ≤ 1
      ∧ BitVec.toNat (0 : Byte) ≤ 2 := ⟨yard_hears _ (by simp), by decide⟩

theorem witness_FaultReportsAreRecorded :
    (yard.faultKind .loadRejected).masked = true ∧ (yard.faultKind .railBreach).masked = false := by decide +kernel

theorem witness_ClearFaultClearsTheNamedFlags :
    Hears yard (.order .o0) ∧ decodeClearFault [] = none ∧ decodeClearFault [1, 15] = some [15]
      ∧ (∃ n ∈ [15], n = 0 ∨ 14 < n) ∧ decodeClearFault [2, 1, 14] = some [1, 14] ∧ ∀ n ∈ [1, 14], 1 ≤ n ∧ n ≤ 14 :=
  ⟨yard_hears _ (by simp), by decide⟩

/-- A fault hold set. -/
def breached (a : AisleId) (s : State) : State :=
  { s with flg := { s.flg with holds := s.flg.holds.set a { isSet := true, kinds := [.railBreach] } } }

/-- A0 with its cranes' intervals too close together. -/
def collided : State := breached 0 (yard.setRail 0 (some { front := entryAt 6, rear := entryAt 6 }))

theorem witness_ClearAisleFaultFollowsTheRailCheck :
    Hears yard (.order .o0) ∧ Hears (breached 0 yard) (.order .o0) ∧ Hears (breached 1 yard) (.order .o0)
      ∧ Hears collided (.order .o0) ∧ byteAt [8] 0 = 8 ∧ BitVec.toNat (0 : Byte) = (0 : AisleId).val
      ∧ (yard.faultHold 0).isSet = false
      ∧ ((breached 1 yard).faultHold 1).isSet = true ∧ (breached 1 yard).isTandem 1 = false
      ∧ ((breached 0 yard).faultHold 0).isSet = true ∧ (breached 0 yard).railCheck 0 = true
      ∧ (collided.faultHold 0).isSet = true ∧ collided.isTandem 0 = true ∧ collided.railCheck 0 = false := by
  refine ⟨yard_hears _ (by simp), ?_, ?_, ?_, ?_⟩
  · unfold Hears; decide +kernel
  · unfold Hears; decide +kernel
  · unfold Hears; decide +kernel
  · decide +kernel

theorem witness_QueriesAnswerAndChangeNothing :
    Hears (withJob waitingStore) (.order .o0) ∧ decodeHandle [0] = none ∧ decodeHandle [1, 0] = some h1
      ∧ (withJob waitingStore).job? h1 = none ∧ decodeHandle [0, 0] = some h0
      ∧ (withJob waitingStore).job? h0 = some waitingStore
      ∧ yard.profile? (cellAt (encodeCell { cellA0 .left 1 1 .near with aisle := 7 }) 0).aisle = none
      ∧ yard.profile? (cellAt (encodeCell (cellA0 .left 5 2 .deep)) 0).aisle = some deepAisle
      ∧ deepAisle.geo.hasCell (cellAt (encodeCell (cellA0 .left 5 2 .deep)) 0) = true
      ∧ deepAisle.geo.hasCell (cellAt (encodeCell (cellA0 .left 6 2 .deep)) 0) = false
      ∧ BitVec.toNat (0 : Byte) = (0 : AisleId).val ∧ BitVec.toNat (11 : Byte) = (11 : CraneId).val
      ∧ { yard with swu := { yard.swu with waves := [
            { id := 255, isOpen := true, window := 1, firstSeq := 1, takenThrough := 0, live := 0 }] } }.wave?
          (BitVec.toNat (255 : Byte)) ≠ none
      ∧ yard.wave? (BitVec.toNat (1 : Byte)) = none ∧ yard.profile? 7 = none ∧ yard.profile? 0 = some deepAisle := by
  refine ⟨?_, by decide +kernel⟩
  unfold Hears; decide +kernel

/-- A0 has 40 cells, one of them EMPTY and one OUT_RESERVED here (R20). -/
def counted : State := (yard.putCell (nearOf (cellA0 .left 4 1 .deep)) (plain .empty)).putCell (cellA0 .left 4 1 .deep)
  (plain (.outReserved h0 1))

theorem test_counts : ((counted.aisle 0).counts.unknown, (counted.aisle 0).counts.empty, (counted.aisle 0).counts.outReserved)
    = (38, 1, 1) := by decide +kernel

/-! ## Witnesses: the cell map -/

theorem witness_CellNumbersAreDistinct :
    yard.profile? (cellA0 .right 5 2 .deep).aisle = some deepAisle ∧ deepAisle.geo.hasCell (cellA0 .right 5 2 .deep) = true
      ∧ yard.profile? (cellA1 1 1).aisle = some flatAisle ∧ flatAisle.geo.hasCell (cellA1 1 1) = true
      ∧ yard.base 0 + deepAisle.geo.offset (cellA0 .right 5 2 .deep) = yard.base 0 + deepAisle.geo.offset (cellA0 .right 5 2 .deep) := by
  decide +kernel

/-- A deep cell reserved behind an EMPTY near cell. -/
def reservedDeep : State :=
  (yard.putCell (cellA0 .left 5 2 .near) (plain .empty)).putCell (cellA0 .left 5 2 .deep) (plain (.inReserved h0))

theorem witness_SetCellWritesOneCell :
    Hears yard (.order .o0) ∧ Hears reservedDeep (.order .o0) ∧ decodeSetCell [] = none
      ∧ decodeSetCell (encodeSetCell { cell := cellA0 .left 5 2 .near, state := 2, loadClass := 3 })
          = some { cell := cellA0 .left 5 2 .near, state := 2, loadClass := 3 }
      ∧ yard.configured 7 = false ∧ yard.configured 0 = true ∧ yard.hasCell 0 (cellA0 .left 6 2 .near) = false
      ∧ reservedDeep.hasCell 0 (cellA0 .left 5 2 .near) = true ∧ reservedDeep.isDoubleDeep 0 = true
      ∧ (reservedDeep.cell (deepOf (cellA0 .left 5 2 .near))).state.isReserved = true
      ∧ yard.hasCell 0 (cellA0 .left 5 2 .near) = true ∧ (yard.cell (cellA0 .left 5 2 .near)).state.isReserved = false
      ∧ (yard.cell (deepOf (cellA0 .left 5 2 .near))).state.isReserved = false ∧ MapWf yard ∧ HandleLaw yard := by
  refine ⟨yard_hears _ (by simp), ?_, by decide, by decide, by decide +kernel, by decide +kernel, by decide +kernel,
    by decide +kernel, by decide +kernel, by decide +kernel, by decide +kernel, by decide +kernel, by decide +kernel,
    yard_mapWf, yard_lawful.handle⟩
  unfold Hears; decide +kernel

/-- A run of A0, side R, level 2, depth D, bays 4 to 13 clamped to 4 and 5. -/
def runFields : SetRunFields :=
  { aisle := 0, side := 1, level := 2, depth := 1, firstBay := 4, count := 10, state := 1 }

theorem witness_SetRunWritesItsRange :
    Hears yard (.order .o0) ∧ decodeSetRun [] = none ∧ decodeSetRun (encodeSetRun runFields) = some runFields
      ∧ (∀ a : AisleId, 7 = a.val → yard.configured a = false) ∧ runFields.aisle = (0 : AisleId).val
      ∧ yard.profile? 0 = some deepAisle ∧ (2 : Nat) < 3 ∧ runFields.side = Side.code .right
      ∧ runFields.depth = Depth.code .deep ∧ 10 = clamp 1 120 runFields.count ∧ 4 = max 1 runFields.firstBay
      ∧ 5 = min deepAisle.geo.bays (runFields.firstBay + 10 - 1) ∧ 1 ≤ runFields.level
      ∧ runFields.level ≤ deepAisle.geo.levels ∧ deepAisle.geo.doubleDeep = true ∧ MapWf yard
      ∧ min deepAisle.geo.bays (6 + 1 - 1) < max 1 6 := by
  refine ⟨yard_hears _ (by simp), by decide, by decide, by decide +kernel, by decide, by decide +kernel, by decide,
    by decide, by decide, by decide, by decide, by decide, by decide, by decide, by decide, yard_mapWf, by decide⟩

/-- The fields of a LOAD PROFILE that carries a profile. -/
def fieldsOf (a : AisleId) (p : Profile) : LoadProfileFields :=
  { aisle := a.val, kind := if p.geo.kind = .tandem then 1 else 0, bays := p.geo.bays, levels := p.geo.levels
    depth := if p.geo.doubleDeep then 2 else 1, classCount := p.op.classCount, limit0 := p.op.limit0
    limit1 := p.op.limit1, limit2 := p.op.limit2, limit3 := p.op.limit3, weightMin := p.op.weightMin
    weightMax := p.op.weightMax, px := p.op.px, vx := p.op.vx, ax := p.op.ax, py := p.op.py, vy := p.op.vy
    ay := p.op.ay, hStation := p.op.hStation, hNear := p.op.hNear, hDeep := p.op.hDeep, gap := p.op.gap
    window := p.op.window, classTable := p.geo.classTable }

/-- A0 with one bay more. -/
def longer : Profile := { deepAisle with geo := { deepAisle.geo with bays := 6 } }

/-- The largest geometry: 120 bays, 40 levels, double-deep. -/
def largest : Profile :=
  { geo := { kind := .tandem, bays := 120, levels := 40, doubleDeep := true, classTable := List.replicate 40 0 }
    op := a4Op 1 1 4 }

/-- A0 of the largest geometry. -/
def largeYard : State := State.reset.setAisle 0 { profile := some largest, pendingProfile := none, cells := [] }

theorem witness_GeometryLoadRelaysTheCells :
    Hears yard (.order .o0) ∧ decodeLoadProfile (encodeLoadProfile (fieldsOf 0 longer)) = some (fieldsOf 0 longer)
      ∧ (fieldsOf 0 longer).aisle = (0 : AisleId).val ∧ loadGeometry (fieldsOf 0 longer) = some longer.geo
      ∧ (loadOperating (fieldsOf 0 longer)).clamped.consistent = true
      ∧ (∀ q, yard.profile? 0 = some q → q.geo ≠ longer.geo)
      ∧ (∀ j ∈ yard.jobs, j.aisle < 0)
      ∧ (∀ b c, (0 : AisleId) ≤ b → c ∈ yard.cranesOf b →
          (yard.crane c).state ∈ [CraneState.absent, .idle, .outOfService, .parked])
      ∧ longer.geo.kind = .tandem ∧ yard.totalCells 0 longer.geo ≤ 32768 := by
  refine ⟨yard_hears _ (by simp), by decide +kernel, by decide, by decide, by decide +kernel,
    of_some (x := deepAisle) (by decide +kernel) (by decide), by decide +kernel, by decide +kernel, by decide,
    by decide +kernel⟩

/-- A2 unconfigured with its O1 source set, and C3 mapped to it, ABSENT. -/
def heldFirst : State :=
  (yard.setHold 2 { (yard.hold 2) with sources := { gate := false, o0 := false, o1 := true, fault := false } }).setCrane 3
    { Crane.initial with mapping := some (2, .front) }

/-- A0 with its rear role free and its rear records in use, to be made SINGLE. -/
def rearFree : State :=
  ((yard.setCrane 1 Crane.initial).setInput 0 .rear (.unclaimed { tag := 1, height := 1, weight := 1 })).setCredit 0 .rear
    { reportedFree := 3, inFlight := 0 }

theorem witness_GeometryLoadRelaysTheCells_holds :
    (heldFirst.hold 2).state = .unconfigured ∧ (heldFirst.hold 2).sources.any = true
      ∧ (3 : CraneId) ∈ heldFirst.cranesOf 2 ∧ (∀ c ∈ heldFirst.cranesOf 2, (heldFirst.crane c).state ≠ .idle)
      ∧ (∀ m ∈ [OrderLink.o0, .o1], (heldFirst.queue m).length + 2 ≤ 32)
      ∧ (∃ c ∈ (withCrane heldFirst 3 fun x => { x with state := .idle }).cranesOf 2,
          ((withCrane heldFirst 3 fun x => { x with state := .idle }).crane c).state = .idle
          ∧ ((withCrane heldFirst 3 fun x => { x with state := .idle }).crane c).leaveService = false)
      ∧ (yard.hold 2).state = .unconfigured ∧ (yard.hold 2).sources.any = false
      ∧ rearFree.isTandem 0 = true ∧ flatAisle.geo.kind = .single ∧ rearFree.craneAt 0 .rear = none := by decide +kernel

/-- A first load of an aisle whose cranes rest and whose O1 source is set: PROFILE_APPLIED to the loader, HOLD_GRANTED to O1
(R6, R175, R178). -/
theorem test_first_load_goes_to_held :
    ((after (.loadProfile .o0 (encodeLoadProfile (fieldsOf 2 flatAisle))) heldFirst).hold 2).state = .held
      ∧ (after (.loadProfile .o0 (encodeLoadProfile (fieldsOf 2 flatAisle))) heldFirst).queue .o0 = [.profileApplied 2]
      ∧ (after (.loadProfile .o0 (encodeLoadProfile (fieldsOf 2 flatAisle))) heldFirst).queue .o1
          = [.holdGranted 2 { gate := false, o0 := false, o1 := true, fault := false }] := by decide +kernel

/-- A0 made SINGLE loses its table, its rear input record and its rear free count (R7). -/
theorem test_single_drops_the_rear :
    (after (.loadProfile .o0 (encodeLoadProfile (fieldsOf 0 flatAisle))) rearFree).rail 0 = none
      ∧ (after (.loadProfile .o0 (encodeLoadProfile (fieldsOf 0 flatAisle))) rearFree).input 0 .rear = .empty
      ∧ ((after (.loadProfile .o0 (encodeLoadProfile (fieldsOf 0 flatAisle))) rearFree).credit 0 .rear).reportedFree = 0 := by
  decide +kernel

theorem witness_GeometryLoadRelaysTheCells_busy :
    Hears (withJob waitingStore) (.order .o0) ∧ (∀ q, (withJob waitingStore).profile? 0 = some q → q.geo ≠ longer.geo)
      ∧ (∃ j ∈ (withJob waitingStore).jobs, (0 : AisleId) ≤ j.aisle)
      ∧ yard.craneAt 0 .rear ≠ none
      ∧ (∃ b c, (0 : AisleId) ≤ b ∧ c ∈ (withCrane yard 0 fun x => { x with state := .waiting }).cranesOf b
          ∧ ((withCrane yard 0 fun x => { x with state := .waiting }).crane c).state
              ∉ [CraneState.absent, .idle, .outOfService, .parked]) := by
  refine ⟨?_, of_some (x := deepAisle) (by decide +kernel) (by decide), ⟨waitingStore, by decide +kernel, by decide⟩,
    by decide +kernel, 0, 0, by decide +kernel⟩
  unfold Hears; decide +kernel

theorem witness_GeometryLoadRelaysTheCells_tooLarge :
    Hears largeYard (.order .o0) ∧ decodeLoadProfile (encodeLoadProfile (fieldsOf 7 largest)) = some (fieldsOf 7 largest)
      ∧ (fieldsOf 7 largest).aisle = (7 : AisleId).val ∧ loadGeometry (fieldsOf 7 largest) = some largest.geo
      ∧ (loadOperating (fieldsOf 7 largest)).clamped.consistent = true
      ∧ (∀ q, largeYard.profile? 7 = some q → q.geo ≠ largest.geo) ∧ (∀ j ∈ largeYard.jobs, j.aisle < 7)
      ∧ (∀ b c, (7 : AisleId) ≤ b → c ∈ largeYard.cranesOf b →
          (largeYard.crane c).state ∈ [CraneState.absent, .idle, .outOfService, .parked])
      ∧ largest.geo.kind = .tandem ∧ 32768 < largeYard.totalCells 7 largest.geo := by
  refine ⟨?_, by decide +kernel, by decide, by decide, by decide +kernel, of_none (by decide +kernel),
    by decide +kernel, by decide +kernel, by decide, by decide +kernel⟩
  unfold Hears; decide +kernel

/-- The fields of a LOAD PROFILE, each out of range in one way, at the bound (R1 checks 1 to 3). -/
def badFields : List LoadProfileFields :=
  [{ fieldsOf 0 longer with aisle := 8 }, { fieldsOf 0 longer with kind := 2 }, { fieldsOf 0 longer with bays := 0 },
    { fieldsOf 0 longer with bays := 121 }, { fieldsOf 0 longer with depth := 0 }, { fieldsOf 0 longer with depth := 3 },
    { fieldsOf 0 longer with classCount := 0 }, { fieldsOf 0 longer with classCount := 5 },
    { fieldsOf 0 longer with classCount := 1 }, { fieldsOf 0 longer with limit1 := 1100 },
    { fieldsOf 0 longer with classCount := 3, limit2 := 1500 }, { fieldsOf 0 longer with classCount := 4, limit3 := 1900 },
    { fieldsOf 0 longer with weightMin := 101, weightMax := 100 }]

theorem witness_GeometryLoadRelaysTheCells_badField :
    (∀ f ∈ badFields, decodeLoadProfile (encodeLoadProfile f) = some f) ∧ 7 < 8 ∧ 1 < 2 ∧ 120 < 121 ∧ 2 < 3 ∧ 4 < 5
      ∧ (∃ x ∈ (fieldsOf 0 longer).classTable, 1 ≤ x.val)
      ∧ (loadOperating { fieldsOf 0 longer with limit1 := 1100 }).clamped.limit1
          ≤ (loadOperating { fieldsOf 0 longer with limit1 := 1100 }).clamped.limit0
      ∧ (loadOperating { fieldsOf 0 longer with classCount := 3, limit2 := 1500 }).clamped.limit2
          ≤ (loadOperating { fieldsOf 0 longer with classCount := 3, limit2 := 1500 }).clamped.limit1
      ∧ (loadOperating { fieldsOf 0 longer with classCount := 4, limit3 := 1900 }).clamped.limit3
          ≤ (loadOperating { fieldsOf 0 longer with classCount := 4, limit3 := 1900 }).clamped.limit2
      ∧ (loadOperating { fieldsOf 0 longer with weightMin := 101, weightMax := 100 }).clamped.weightMax
          < (loadOperating { fieldsOf 0 longer with weightMin := 101, weightMax := 100 }).clamped.weightMin
      ∧ byteAt [0, 0, 1, 0] 3 = 0 ∧ byteAt [0, 0, 1, 41] 3 = 41 := by decide +kernel

theorem witness_OperatingLoadWaitsForCranes :
    Hears yard (.order .o0) ∧ decodeLoadProfile (encodeLoadProfile (fieldsOf 0 deepAisle)) = some (fieldsOf 0 deepAisle)
      ∧ (fieldsOf 0 deepAisle).aisle = (0 : AisleId).val ∧ yard.profile? 0 = some deepAisle
      ∧ loadGeometry (fieldsOf 0 deepAisle) = some deepAisle.geo
      ∧ (loadOperating (fieldsOf 0 deepAisle)).clamped.consistent = true
      ∧ (∀ c ∈ yard.cranesOf 0, (yard.crane c).state ∉ [CraneState.offered, .working, .clearing])
      ∧ (∃ c ∈ (withCrane yard 1 fun x => { x with state := .working }).cranesOf 0,
          ((withCrane yard 1 fun x => { x with state := .working }).crane c).state
            ∈ [CraneState.offered, .working, .clearing]) := by
  refine ⟨yard_hears _ (by simp), by decide +kernel, by decide, by decide +kernel, by decide, by decide +kernel,
    by decide +kernel, by decide +kernel⟩

/-- C1 WAITING at bay 6 while C0 stands IDLE at bay 0. -/
def rearWaits : State := withCrane yard 1 fun x => { x with state := .waiting }

/-- A0 with a gap of six bays. -/
def widerGap : Profile := { deepAisle with op := { deepAisle.op with gap := 6 } }

theorem witness_OperatingLoadWaitsForCranes_tandem :
    Hears rearWaits (.order .o0) ∧ decodeLoadProfile (encodeLoadProfile (fieldsOf 0 widerGap)) = some (fieldsOf 0 widerGap)
      ∧ rearWaits.profile? 0 = some deepAisle ∧ loadGeometry (fieldsOf 0 widerGap) = some deepAisle.geo
      ∧ (loadOperating (fieldsOf 0 widerGap)).clamped.consistent = true
      ∧ (∀ c ∈ rearWaits.cranesOf 0, (rearWaits.crane c).state ∉ [CraneState.offered, .working, .clearing])
      ∧ rearWaits.rail 0 = some { front := entryAt 0, rear := entryAt 6 }
      ∧ keepsGap (loadOperating (fieldsOf 0 widerGap)).clamped.gap .front (.at 0) (.at 6) = false
      ∧ keepsGap (loadOperating (fieldsOf 0 deepAisle)).clamped.gap .front (.at 0) (.at 6) = true := by
  refine ⟨?_, by decide +kernel⟩
  unfold Hears; decide +kernel

/-- R68, R111: a gap that the two cranes do not keep is a RAIL_BREACH, behind the selection of the waiting crane. -/
theorem test_wider_gap_is_a_breach :
    (after (.loadProfile .o0 (encodeLoadProfile (fieldsOf 0 widerGap))) rearWaits).events
      = [.selection 1,
          .faultReport { kind := .railBreach, source := .internal, aisle := some 0, job := none, payload := [] }] := by
  decide +kernel

/-! ## Witnesses: crane mapping, service, holds -/

theorem witness_MapCraneTakesEffect :
    Hears yard (.order .o0) ∧ readMapping [12, 0, 0] = none ∧ readMapping [0, 8, 0] = none
      ∧ readMapping [0, 0, 2] = none ∧ readMapping [0, 0] = none ∧ readMapping [0, 255, 2] = some (0, none)
      ∧ readMapping [0, 255, 0] = some (0, none) ∧ (yard.crane 0).mapping ≠ none ∧ (yard.crane 0).state ≠ .absent
      ∧ (yard.crane 0).state ≠ .outOfService
      ∧ readMapping [11, 1, 1] = some (11, some (1, .rear)) ∧ (yard.crane 11).mapping = none
      ∧ (yard.configured 1 = true ∧ yard.isTandem 1 = false)
      ∧ readMapping [11, 0, 0] = some (11, some (0, .front)) ∧ (∃ o, yard.craneAt 0 .front = some o ∧ o ≠ 11)
      ∧ readMapping [11, 7, 1] = some (11, some (7, .rear)) ∧ yard.configured 7 = false
      ∧ (∀ o, yard.craneAt 7 .rear = some o → o = 11) ∧ (yard.crane 11).mapping ≠ some (7, .rear)
      ∧ readMapping [0, 0, 0] = some (0, some (0, .front))
      ∧ ((withCrane yard 0 fun x => { x with state := .absent }).crane 0).state = .absent
      ∧ ((withCrane yard 0 fun x => { x with state := .absent }).crane 0).mapping = some (0, .front) := by
  refine ⟨yard_hears _ (by simp), by decide, by decide, by decide, by decide, by decide, by decide, by decide +kernel,
    by decide +kernel, by decide +kernel, by decide, by decide +kernel, by decide +kernel, by decide, ⟨0, by decide +kernel⟩, by decide, by decide +kernel,
    of_none (by decide +kernel), by decide +kernel, by decide, by decide +kernel, by decide +kernel⟩

/-- The eleven states of a crane. -/
def craneStates : List CraneState :=
  [.absent, .idle, .waiting, .offered, .working, .clearing, .parking, .parked, .backoff, .faulted, .outOfService]

/-- C0 in a state. -/
def inState (x : CraneState) : State := withCrane yard 0 fun y => { y with state := x }

theorem inState_announced (x : CraneState) (h : x ≠ .absent) : Announced (inState x) 0 := by
  refine ⟨(yard_announced 0 (by simp)).1, ?_, ?_⟩
  · revert h; cases x <;> decide +kernel
  · revert h; cases x <;> decide +kernel

/-- The first store's cell, the deep cell behind an EMPTY near cell. -/
def dropCell : CellAddr := cellA0 .left 4 1 .deep

/-- A store on C0, entered by O0, its pallet passed. -/
def storeOn (x : JobState) : Job :=
  { Job.new h0 .store (.order .o0) 1 0 0 with
    tag := 7, end_ := .front, state := x, chosen := some dropCell, unit := some { crane := 0, number := 9 }
    load := some { height := 1450, weight := 800, cls := some 1 } }

/-- The steps of a single store from A0's front station (R29). -/
def storeSteps0 : List Step :=
  [{ action := .pick, place := .station 0 false .front, job := h0 }, { action := .drop, place := .cell dropCell, job := h0 }]

/-- C0 in a state with one job on it, at a step of the given steps, and the drop cell or source in a state. A retrieve is
bound for A0's front station. -/
def onCrane (j : Job) (x : CraneState) (steps : List Step) (current : Nat) (cell : CellState) : State :=
  ((((((withJob j).putCell (nearOf dropCell) (plain .empty)).putCell dropCell (plain cell)).setInput 0 .front
    (if j.kind = .store ∧ j.state ≠ .loaded then .matched { tag := 7, height := 1450, weight := 800 } h0
     else .empty)).setCredit 0 .front
    { reportedFree := 2, inFlight := if j.kind = .retrieve then 1 else 0 }).setRail 0 (some { front := { entryAt 0 with granted := { lo := 0, hi := 4 } }, rear := entryAt 6 })).setCrane
    0 { idleCrane 0 .front 0 with
        state := x, unit := some { number := 9, jobs := [h0], steps := steps, current := current } }

theorem onCrane_handleLaw (j : Job) (x : CraneState) (steps : List Step) (n : Nat) (cell : CellState) :
    HandleLaw (onCrane j x steps n cell) := by
  have h := putCell_handleLaw (putCell_handleLaw (withJob_handleLaw j) (nearOf dropCell) (plain .empty)) dropCell (plain cell)
  refine handleLaw_of_slots ?_ h
  unfold onCrane
  simp only [State.setCrane_jpl, State.setRail_jpl, State.setCredit_jpl, State.setInput_jpl]

/-- A store offered to C0. -/
def offeredStore : State :=
  withCrane (onCrane (storeOn .offered) .offered storeSteps0 1 (.inReserved h0)) 0 fun x =>
    { x with offerTimer := some 2000 }

theorem witness_ServiceFollowsTheCraneState :
    Hears yard (.order .o0) ∧ byteAt [12, 0] 0 = 12 ∧ byteAt [11, 2] 1 = 2 ∧ BitVec.toNat (11 : Byte) = (11 : CraneId).val
      ∧ (yard.crane 11).mapping = none ∧ BitVec.toNat (0 : Byte) = (0 : CraneId).val
      ∧ (∀ x ∈ craneStates, ((inState x).crane 0).state = x ∧ ((inState x).crane 0).mapping ≠ none)
      ∧ Hears offeredStore (.order .o0) ∧ (offeredStore.crane 0).state = .offered
      ∧ (offeredStore.crane 0).unit = some { number := 9, jobs := [h0], steps := storeSteps0, current := 1 }
      ∧ offeredStore.job? h0 = some (storeOn .offered)
      ∧ (inState .outOfService).aisleStopped 0 = false
      ∧ ((inState .outOfService).setHoldState 0 .held).aisleStopped 0 = true := by
  refine ⟨yard_hears _ (by simp), by decide, by decide, by decide, by decide +kernel, by decide, by decide +kernel, ?_,
    by decide +kernel, by decide +kernel, by decide +kernel, by decide +kernel, by decide +kernel⟩
  unfold Hears; decide +kernel

/-- A0 HELD by its gate. -/
def gated : State :=
  yard.setHold 0
    { sources := { gate := true, o0 := false, o1 := false, fault := false }, state := .held, gack := true }

theorem witness_SourcesSetTheHold :
    Hears yard (.order .o0) ∧ byteAt [8] 0 = 8
      ∧ (∃ f, sourceChange (.gateChange 0 false) = some (0, f) ∧ (yard.hold 0).sources.any = false
          ∧ (f (yard.hold 0).sources).any = true ∧ (yard.hold 0).state = .isOpen ∧ GackLaw yard)
      ∧ (∃ f, sourceChange (.gateChange 0 true) = some (0, f) ∧ (gated.hold 0).sources.any = true
          ∧ (f (gated.hold 0).sources).any = false ∧ (gated.hold 0).state ≠ .unconfigured ∧ GackLaw gated)
      ∧ (∃ f, sourceChange (.holdAisle .o0 [7]) = some (7, f) ∧ (yard.hold 7).state = .unconfigured)
      ∧ (∃ f, sourceChange (.releaseAisle .o0 [0]) = some (0, f)
          ∧ (gated.hold 0).sources.any = (f (gated.hold 0).sources).any) ∧ Hears gated (.order .o0) := by
  refine ⟨yard_hears _ (by simp), by decide, ⟨_, rfl, by decide +kernel, by decide +kernel, by decide +kernel,
    yard_lawful.gack⟩, ⟨_, rfl, by decide +kernel, by decide +kernel, by decide +kernel, ?_⟩, ⟨_, rfl, by decide +kernel⟩,
    ⟨_, rfl, by decide +kernel⟩, ?_⟩
  · unfold GackLaw; decide +kernel
  · unfold Hears; decide +kernel

/-- A1 OPEN with its crane PARKED. -/
def restingA1 : State := withCrane yard 2 fun x => { x with state := .parked }

theorem witness_SourcesSetTheHold_granted :
    (∃ f, sourceChange (.holdAisle .o1 [1]) = some (1, f) ∧ (restingA1.hold 1).sources.any = false
        ∧ (f (restingA1.hold 1).sources).any = true ∧ (f (restingA1.hold 1).sources).link .o1 = true
        ∧ (restingA1.hold 1).state = .isOpen ∧ restingA1.allRest 1 = true ∧ (restingA1.queue .o1).length < 32)
      ∧ (gated.hold 0).state = .held ∧ (gated.queue .o0).length < 32 := ⟨⟨_, rfl, by decide +kernel⟩, by decide +kernel⟩

/-- A hold of an aisle at rest is granted at once, and one of a HELD aisle to its own link (R170, R175). -/
theorem test_hold_granted :
    (after (.holdAisle .o1 [1]) restingA1).queue .o1 = [.holdGranted 1 { gate := false, o0 := false, o1 := true, fault := false }]
      ∧ (after (.holdAisle .o0 [0]) gated).queue .o0 = [.holdGranted 0 { gate := true, o0 := true, o1 := false, fault := false }]
      := by decide +kernel

theorem witness_HoldsDrainAndResumeTheCranes :
    (∃ f, sourceChange (.gateChange 0 false) = some (0, f) ∧ ∀ x ∈ craneStates,
        ((inState x).hold 0).sources.any = false ∧ (f ((inState x).hold 0).sources).any = true
          ∧ ((inState x).hold 0).state = .isOpen ∧ (0 : CraneId) ∈ (inState x).cranesOf 0 ∧ ((inState x).crane 0).state = x)
      ∧ (∃ f, sourceChange (.gateChange 0 true) = some (0, f) ∧ (gated.hold 0).sources.any = true
          ∧ (f (gated.hold 0).sources).any = false ∧ (gated.hold 0).state ≠ .unconfigured
          ∧ ((withCrane gated 0 fun x => { x with state := .parked }).crane 0).state = .parked
          ∧ ((withCrane gated 0 fun x => { x with state := .parking }).crane 0).state = .parking
          ∧ (5 : CraneId) ∉ gated.cranesOf 0) :=
  ⟨⟨_, rfl, by decide +kernel⟩, ⟨_, rfl, by decide +kernel⟩⟩

/-! ## Witnesses: jobs -/

/-- The fields of a store for A0's front. -/
def storeFields : EnterStoreFields :=
  { reference := 5, tag := 8, cls := 255, aisle := 0, end_ := 0, destination := some (nearOf dropCell), redirectAllowed := 1 }

/-- The yard with the fixed cell EMPTY. -/
def emptied : State := yard.putCell (nearOf dropCell) (plain .empty)

theorem witness_EnterStoreChecksThenCreates :
    Hears emptied (.order .o0) ∧ decodeEnterStore [] = none
      ∧ decodeEnterStore (encodeEnterStore storeFields) = some storeFields
      ∧ (∀ a : AisleId, (8 : Nat) = a.val → emptied.configured a = false)
      ∧ storeFields.aisle = (0 : AisleId).val ∧ emptied.configured 0 = true ∧ storeFields.end_ = 0
      ∧ 8 < emptied.jpl.freeList.length ∧ emptied.jpl.live.get .o0 < emptied.jpl.quota.get .o0
      ∧ (∀ j ∈ emptied.jobs, j.kind = .store → j.tag ≠ storeFields.tag)
      ∧ (∀ c, storeFields.destination = some c → emptied.hasCell 0 c = true ∧ (emptied.cell c).state = .empty
          ∧ emptied.pairAllows c = true) ∧ MapWf emptied := by
  refine ⟨?_, by decide, by decide +kernel, by decide, by decide, by decide +kernel, by decide, by decide +kernel,
    by decide +kernel, by decide +kernel, of_some rfl (by decide +kernel), ?_⟩
  · unfold Hears; decide +kernel
  · unfold MapWf; decide +kernel

/-- The pool with eight free slots. -/
def nearlyFull : State := { yard with jpl := { yard.jpl with freeList := (List.finRange 256).take 8 } }

/-- A link at its quota. -/
def spent : State := { yard with jpl := { yard.jpl with live := { o0 := 124, o1 := 0 } } }

theorem witness_EnterStoreChecksThenCreates_refusals :
    yard.isTandem 1 = false ∧ yard.configured 1 = true ∧ Hears nearlyFull (.order .o0)
      ∧ nearlyFull.jpl.freeList.length ≤ 8 ∧ Hears spent (.order .o0) ∧ 8 < spent.jpl.freeList.length
      ∧ spent.jpl.quota.get .o0 ≤ spent.jpl.live.get .o0
      ∧ (∃ j ∈ (withJob waitingStore).jobs, j.kind = .store ∧ j.tag = 7)
      ∧ (∀ c, some (cellA0 .left 6 1 .near) = some c → yard.hasCell 0 c = false)
      ∧ (∀ c, some (nearOf dropCell) = some c → yard.hasCell 0 c = true ∧ (yard.cell c).state ≠ .empty)
      ∧ (∀ c, some (cellA0 .left 5 2 .near) = some c → reservedDeep.hasCell 0 c = true
          ∧ (reservedDeep.cell c).state = .empty ∧ reservedDeep.pairAllows c = false) := by
  refine ⟨by decide +kernel, by decide +kernel, ?_, by decide +kernel, ?_, by decide +kernel, by decide +kernel,
    ⟨waitingStore, by decide +kernel⟩, of_some rfl (by decide +kernel), of_some rfl (by decide +kernel),
    of_some rfl (by decide +kernel)⟩
  · unfold Hears; decide +kernel
  · unfold Hears; decide +kernel

/-- A wave with its first number 2. -/
def wave5 : Wave := { id := 5, isOpen := true, window := 1, firstSeq := 2, takenThrough := 3, live := 0 }

/-- The yard with a wave, and the deep cell full behind an EMPTY near cell. -/
def stocked : State :=
  (({ yard with swu := { yard.swu with waves := [wave5] } } : State).putCell (nearOf dropCell) (plain .empty)).putCell
    dropCell (plain (.full 1))

/-- The fields of a retrieve from A0. -/
def retrieveFields : EnterRetrieveFields :=
  { reference := 6, cls := 2, aisle := 0, end_ := 2, wave := 5, seq := 4, candidates := [dropCell] }

/-- A retrieve entered before, of the same wave and number. -/
def sameNumber : State :=
  { withJob { Job.new h0 .retrieve (.order .o1) 1 0 0 with wave := some { id := 5, seq := 4 } } with
    swu := { yard.swu with waves := [wave5] } }

theorem witness_EnterRetrieveChecksThenEvaluates :
    Hears stocked (.order .o0) ∧ ([] : List Byte).length < 8
      ∧ (∀ n ∈ [(0 : Byte), 5], byteAt [0, 0, 0, 0, 0, 0, 0, n] 7 = 0 ∨ 4 < byteAt [0, 0, 0, 0, 0, 0, 0, n] 7)
      ∧ (∀ n ∈ [(1 : Byte), 4], byteAt [0, 0, 0, 0, 0, 0, 0, n] 7 = n.toNat ∧ 8 ≠ 11 + 3 * n.toNat)
      ∧ byteAt [0, 0, 0, 0, 0, 0, 0, 5] 5 = (0 : AisleId).val ∧ stocked.configured 2 = false
      ∧ decodeEnterRetrieve (encodeEnterRetrieve retrieveFields) = some retrieveFields
      ∧ retrieveFields.aisle = (0 : AisleId).val ∧ stocked.configured 0 = true ∧ retrieveFields.end_ = 2
      ∧ 8 < stocked.jpl.freeList.length ∧ stocked.jpl.live.get .o0 < stocked.jpl.quota.get .o0
      ∧ (∀ c ∈ retrieveFields.candidates, stocked.hasCell 0 c = true)
      ∧ (∃ w, stocked.wave? retrieveFields.wave = some w ∧ w.isOpen = true ∧ w.firstSeq ≤ retrieveFields.seq
          ∧ retrieveFields.seq ≤ 4095 ∧ w.takenThrough < retrieveFields.seq
          ∧ ∀ j ∈ stocked.jobs, j.wave ≠ some { id := retrieveFields.wave, seq := retrieveFields.seq })
      ∧ PoolLawful stocked
      ∧ stocked.kept { Job.new h0 .retrieve (.order .o0) 2 0 0 with candidates := [dropCell] } ≠ []
      ∧ emptied.kept { Job.new h0 .retrieve (.order .o0) 2 0 0 with candidates := [nearOf dropCell] } = [] := by
  refine ⟨?_, by decide, by decide, by decide, by decide, by decide +kernel, by decide +kernel, by decide, by decide +kernel,
    by decide, by decide +kernel, by decide +kernel, by decide +kernel, ⟨wave5, by decide +kernel⟩, (State.passesChecks_laws (by decide +kernel)).2.1, by decide +kernel, by decide +kernel⟩
  unfold Hears; decide +kernel

/-- R45, R203: a list of no or of five candidates is refused with NO_AISLE where the aisle is not configured, else with
BAD_FIELD. -/
theorem test_candidate_count :
    (after (.enterRetrieve .o0 [0, 0, 0, 0, 0, 2, 0, 0]) stocked).tx (.order .o0) = [.reply (refusal 0x02 .noAisle)]
      ∧ (after (.enterRetrieve .o0 [0, 0, 0, 0, 0, 0, 0, 5]) stocked).tx (.order .o0)
          = [.reply (refusal 0x02 .badField)] := by decide +kernel

theorem witness_EnterRetrieveChecksThenEvaluates_refusals :
    (∃ c ∈ [cellA0 .left 6 1 .near], stocked.hasCell 0 c = false)
      ∧ (∀ w, stocked.wave? 6 = some w → w.isOpen = false)
      ∧ (∀ w, stocked.wave? 5 = some w → 3 ≤ w.takenThrough)
      ∧ sameNumber.wave? 5 = some wave5 ∧ wave5.isOpen = true ∧ wave5.firstSeq ≤ 4 ∧ wave5.takenThrough < 4
      ∧ (∃ j ∈ sameNumber.jobs, j.wave = some { id := 5, seq := 4 }) ∧ Hears sameNumber (.order .o0)
      ∧ 8 < sameNumber.jpl.freeList.length ∧ sameNumber.jpl.live.get .o0 < sameNumber.jpl.quota.get .o0 := by
  refine ⟨by decide +kernel, of_none (by decide +kernel), of_some (x := wave5) (by decide +kernel) (by decide),
    by decide +kernel, by decide, by decide, by decide, by decide +kernel, ?_, by decide +kernel, by decide +kernel⟩
  unfold Hears; decide +kernel

/-- A store that waits for its slot, not on a crane. -/
def freeStore : Job := { storeOn .ready with unit := none }

/-- The state of a job on C0. -/
def worked (x : JobState) (current : Nat) : State :=
  onCrane (storeOn x) .working storeSteps0 current (.inReserved h0)

theorem worked_hears (x : JobState) (n : Nat) (l : OrderLink) : Hears (worked x n) (.order l) :=
  yard_hears (.order l) (by cases l <;> simp)

/-! ## Witnesses: the laws of the work and of the rail -/

/-- A store under way to its station on C0: a state on which the laws of the work and of the rail hold. -/
def underway : State := worked .enRoute 1

theorem underway_laws : Lawful underway ∧ PoolLawful underway ∧ WorkLawful underway :=
  State.passesChecks_laws (by decide +kernel)

theorem underway_faultLawful : FaultLawful underway :=
  { halt := yard_faultLawful.halt, count := yard_faultLawful.count, breach := yard_faultLawful.breach,
    capture := yard_faultLawful.capture }

theorem underway_railLawful : RailLawful underway := by
  refine ⟨by decide +kernel, ?_⟩
  have hr : ∀ a : AisleId, a ≠ 0 → underway.rail a = none := by decide +kernel
  intro a r h
  by_cases ha : a = 0
  · subst ha
    have h1 : underway.rail 0 = some { front := { entryAt 0 with granted := { lo := 0, hi := 4 } }, rear := entryAt 6 } := by
      decide +kernel
    cases h1.symm.trans h
    refine .inr ⟨by decide +kernel, ?_⟩
    intro e
    cases e
    · refine ⟨fun hn => absurd hn (by decide +kernel), of_some (x := 0) (by decide +kernel) ?_⟩
      refine ⟨by decide +kernel, by decide +kernel, by decide +kernel, by decide +kernel, by decide +kernel, by decide +kernel, of_none rfl⟩
    · refine ⟨fun hn => absurd hn (by decide +kernel), of_some (x := 1) (by decide +kernel) ?_⟩
      refine ⟨by decide +kernel, by decide +kernel, by decide +kernel, by decide +kernel, by decide +kernel, by decide +kernel, of_none rfl⟩
  · rw [hr a ha] at h; cases h

theorem witness_StepKeepsWorkLaws :
    Lawful underway ∧ PoolLawful underway ∧ WorkLawful underway ∧ ∃ t, step underway = .next t :=
  ⟨underway_laws.1, underway_laws.2.1, underway_laws.2.2, _, rfl⟩

theorem witness_StepKeepsRailLaws :
    Lawful underway ∧ FaultLawful underway ∧ PoolLawful underway ∧ WorkLawful underway ∧ RailLawful underway
      ∧ (∃ t, step underway = .next t) ∧ (∀ l p, underway.nextCommand ≠ some (.clearAisleFault l p))
      ∧ underway.rail 0 ≠ none :=
  ⟨underway_laws.1, underway_faultLawful, underway_laws.2.1, underway_laws.2.2, underway_railLawful, ⟨_, rfl⟩,
    by have h : underway.nextCommand = none := by decide +kernel
       simp [h], by decide +kernel⟩

/-! ## Witnesses: cancelling and resolving -/

/-- A store READY and on no crane, its link's queue empty or full. -/
def readyStore (full : Bool) : State :=
  (((withJob freeStore).putCell (nearOf dropCell) (plain .empty)).putCell dropCell (plain (.inReserved h0))).setQueue .o0
    (if full then List.replicate 32 (.profileApplied 0) else [])

theorem witness_CancelChecksThenCloses :
    Hears (worked .enRoute 1) (.order .o0) ∧ decodeHandle [] = none ∧ decodeHandle [0, 0] = some h0
      ∧ yard.job? h0 = none
      ∧ (worked .enRoute 1).job? h0 = some (storeOn .enRoute) ∧ (storeOn .enRoute).state ≠ .closing
      ∧ (storeOn .enRoute).origin ≠ .order .o1 ∧ (storeOn .enRoute).origin = .order .o0
      ∧ (storeOn .enRoute).state ≠ .loaded ∧ (storeOn .enRoute).promised = none
      ∧ (∀ u, (storeOn .enRoute).unit = some u → ((worked .enRoute 1).crane u.crane).redirect = none)
      ∧ (storeOn .enRoute).kind ≠ .relocate ∧ (storeOn .enRoute).waitsFor = none
      ∧ (worked .loaded 2).job? h0 = some (storeOn .loaded)
      ∧ { freeStore with promised := some { crane := 0, number := 1 } }.promised ≠ none
      ∧ (readyStore false).job? h0 = some freeStore ∧ freeStore.unit = none
      ∧ (readyStore false).hasRoom .o0 = true ∧ (readyStore true).hasRoom .o0 = false
      ∧ (worked .enRoute 1).input 0 .front = .matched { tag := 7, height := 1450, weight := 800 } h0
      ∧ (Lawful (worked .enRoute 1) ∧ PoolLawful (worked .enRoute 1) ∧ WorkLawful (worked .enRoute 1))
      ∧ ∀ b, Lawful (readyStore b) ∧ PoolLawful (readyStore b) ∧ WorkLawful (readyStore b) :=
  ⟨worked_hears .., by decide, by decide, by decide +kernel, by decide +kernel, by decide, by decide, by decide,
    by decide, by decide, of_some rfl (by decide +kernel), by decide, by decide,
    by decide +kernel, by decide, by decide +kernel, by decide, by decide +kernel, by decide +kernel, by decide +kernel,
    underway_laws, fun b => State.passesChecks_laws (by cases b <;> decide +kernel)⟩

/-- A store on C0, LOADED and stranded. -/
def strandedStore : State :=
  onCrane { storeOn .loaded with stranded := true } .working storeSteps0 2 (.inReserved h0)

theorem witness_ResolveClosesAStrandedJob :
    Hears strandedStore (.order .o1) ∧ byteAt (encodeHandle h0 ++ [0, 255]) 1 = 0 ∧ byteAt [0, 16, 0, 0] 1 = 16
      ∧ yard.job? h0 = none ∧ BitVec.toNat (3 : Byte) = 3 ∧ BitVec.toNat (4 : Byte) = 4
      ∧ (worked .loaded 2).job? h0 = some (storeOn .loaded) ∧ (storeOn .loaded).stranded = false
      ∧ strandedStore.job? h0 = some { storeOn .loaded with stranded := true }
      ∧ ({ storeOn .loaded with stranded := true } : Job).state = .loaded
      ∧ (Lawful strandedStore ∧ PoolLawful strandedStore ∧ WorkLawful strandedStore)
      ∧ strandedStore.hasCell 0 dropCell = true ∧ (strandedStore.cell dropCell).state = .inReserved h0
      ∧ (strandedStore.crane 0).unit = some { number := 9, jobs := [h0], steps := storeSteps0, current := 2 }
      ∧ (strandedStore.crane 0).mapping = some (0, .front) ∧ (strandedStore.crane 0).redirect = none := by
  refine ⟨yard_hears _ (by simp), by decide, by decide, by decide +kernel, by decide, by decide, by decide +kernel,
    by decide, by decide +kernel, by decide, State.passesChecks_laws (by decide +kernel), by decide +kernel,
    by decide +kernel, by decide +kernel, by decide +kernel, by decide +kernel⟩

/-! ## Witnesses: waves and stations -/

theorem witness_WavesOpenAndClose :
    Hears yard (.order .o0) ∧ Hears stocked (.order .o0) ∧ byteAt [5, 0, 0, 0] 0 = 5 ∧ be16At [5, 0, 0, 0] 2 = 0
      ∧ be16At [255, 17, 15, 255] 2 = 4095 ∧ be16At [255, 0, 16, 0] 2 = 4096 ∧ byteAt [255, 17, 15, 255] 0 = 255
      ∧ (∀ w ∈ stocked.swu.waves, w.id ≠ 255) ∧ stocked.swu.waves.length < 16
      ∧ (∃ w ∈ stocked.swu.waves, w.id = 5) ∧ stocked.wave? (byteAt [4] 0) = none
      ∧ stocked.wave? (byteAt [5] 0) = some wave5 ∧ wave5.live = 0
      ∧ 16 ≤ ({ stocked with swu := { stocked.swu with waves := List.replicate 16 wave5 } } : State).swu.waves.length := by
  refine ⟨yard_hears _ (by simp), yard_hears _ (by simp), by decide +kernel⟩

/-- A pallet for the waiting store. -/
def arriveFields : ArriveFields := { aisle := 0, end_ := 0, tag := 7, height := 1450, weight := 800 }

theorem witness_ArriveRecordsAndMatches :
    Hears yard .station ∧ decodeArrive [] = none ∧ decodeArrive (encodeArrive arriveFields) = some arriveFields
      ∧ (7 : Nat) < 8 ∧ arriveFields.aisle = (0 : AisleId).val ∧ arriveFields.end_ = End.front.code
      ∧ yard.stationExists 1 .rear = false ∧ yard.stationExists 0 .front = true
      ∧ (worked .enRoute 1).input 0 .front = .matched { tag := 7, height := 1450, weight := 800 } h0
      ∧ Hears (worked .enRoute 1) .station
      ∧ (∀ x h, yard.input 0 .front ≠ .matched x h) ∧ arriveFields.tag ≠ 0 ∧ yard.input 0 .front = .empty
      ∧ (∀ j ∈ yard.jobs, j.qualifies 0 .front arriveFields.tag = false)
      ∧ (withJob waitingStore).qualifying 0 .front arriveFields.tag = some waitingStore
      ∧ (withJob waitingStore).profile? 0 = some deepAisle ∧ HandleLaw (withJob waitingStore)
      ∧ (withJob waitingStore).input 0 .front = .empty := by
  have he : yard.input 0 .front = .empty := by decide +kernel
  refine ⟨yard_hears _ (by simp), by decide, by decide +kernel, by decide, by decide, by decide, by decide +kernel,
    by decide +kernel, by decide +kernel, yard_hears _ (by simp), by simp [he], by decide, he, by decide +kernel,
    by decide +kernel, by decide +kernel, withJob_handleLaw _, by decide +kernel⟩

theorem witness_ArriveRecordsAndMatches_loadTest :
    (∀ n ∈ [1, 2, 3, 4], (a4Op n 1 4).classCount = n ∧ 1 ≤ n ∧ n ≤ 4) ∧ (a4Op 1 1 4).consistent = true
      ∧ (a4Op 2 1 4).consistent = true ∧ (a4Op 3 1 4).consistent = true := by decide

/-- The waiting store with its pallet standing UNCLAIMED at its station. -/
def palletWaits : State :=
  (withJob waitingStore).setInput 0 .front (.unclaimed { tag := 7, height := 1450, weight := 800 })

theorem witness_StoreHandOverMatches :
    (∀ j, (withJob waitingStore).job? h0 = some j → ∀ x, (withJob waitingStore).input j.aisle j.storeEnd = .unclaimed x →
        j.qualifies j.aisle j.storeEnd x.tag = false)
      ∧ palletWaits.job? h0 = some waitingStore ∧ palletWaits.profile? 0 = some deepAisle
      ∧ palletWaits.input waitingStore.aisle waitingStore.storeEnd = .unclaimed { tag := 7, height := 1450, weight := 800 }
      ∧ waitingStore.qualifies waitingStore.aisle waitingStore.storeEnd 7 = true ∧ HandleLaw palletWaits := by
  have he : (withJob waitingStore).input 0 .front = .empty := by decide +kernel
  refine ⟨of_some (x := waitingStore) (by decide +kernel) ?_, by decide +kernel, by decide +kernel, by decide +kernel,
    by decide, handleLaw_of_slots rfl (withJob_handleLaw waitingStore)⟩
  intro x hx
  exact absurd (he.symm.trans hx) (by simp)

/-- A store to a cell of the upper level, whose fit class 0 is below the height class 1 of its pallet. -/
def unfitStore (redirect : Bool) : State :=
  ((withJob { waitingStore with
      destination := some (cellA0 .left 4 2 .deep), chosen := some (cellA0 .left 4 2 .deep), redirectAllowed := redirect }).putCell
    (cellA0 .left 4 2 .deep) (plain (.inReserved h0))).setInput 0 .front (.unclaimed { tag := 7, height := 1450, weight := 800 })

/-- R47, R158: the cell that does not fit is released, with STORE_REDIRECTED where the store may be redirected. -/
theorem test_unfit_cell_is_released :
    (∀ b, (after (.storeHandOver h0 .o0 []) (unfitStore b)).cell (cellA0 .left 4 2 .deep) = plain .empty)
      ∧ (after (.storeHandOver h0 .o0 []) (unfitStore true)).queue .o0
          = [.storeRedirected h0 0 (cellA0 .left 4 2 .deep) none] := by decide +kernel

theorem witness_StationReportsSetTheirRecords :
    Hears yard .station ∧ Hears stocked .station ∧ byteAt [8, 0, 1] 0 = 8
      ∧ BitVec.toNat (1 : Byte) = (1 : AisleId).val ∧ BitVec.toNat (1 : Byte) = End.rear.code
      ∧ yard.stationExists 1 .rear = false ∧ yard.stationExists 1 .front = true
      ∧ be16At [5, 0, 0] 1 = 0 ∧ be16At [5, 16, 0] 1 = 4096 ∧ be16At [5, 15, 255] 1 = 4095
      ∧ stocked.wave? (byteAt [6, 0, 1] 0) = none
      ∧ stocked.wave? (byteAt [5, 0, 3] 0) = some wave5 ∧ be16At [5, 0, 3] 1 ≤ wave5.takenThrough
      ∧ wave5.takenThrough < be16At [5, 0, 4] 1 := by
  refine ⟨yard_hears _ (by simp), yard_hears _ (by simp), by decide +kernel⟩

/-! ## Witnesses: crane messages -/

/-- A second deep cell. -/
def otherCell : CellAddr := cellA0 .left 3 1 .deep

/-- A store that the redirect of C0 promises. -/
def promisedStore : Job :=
  { storeOn .ready with
    handle := h1, cls := 0, chosen := some otherCell, unit := none, promised := some { crane := 0, number := 10 } }

/-- A redirect of C0 to a second store. -/
def redirected : State :=
  withCrane ((((worked .enRoute 1).createJob promisedStore).putCell (nearOf otherCell) (plain .empty)).putCell otherCell
      (plain (.inReserved h1))) 0
    fun x => { x with
      redirect := some
        { number := 10, job := h1
          steps := [{ action := .pick, place := .station 0 false .front, job := h1 },
            { action := .drop, place := .cell otherCell, job := h1 }] }
      offerTimer := some 2000 }

theorem redirected_announced : Announced redirected 0 := by unfold Announced; decide +kernel

theorem worked_announced (x : JobState) (n : Nat) : Announced (worked x n) 0 := by
  refine ⟨(yard_announced 0 (by simp)).1, ?_, ?_⟩
  · show some ((0, End.front) : AisleId × End) ≠ none; simp
  · show CraneState.working ≠ .absent; simp

theorem witness_MessagesOutOfPlaceRaiseFaults :
    Announced yard 0 ∧ Announced (worked .enRoute 1) 0
      ∧ (yard.crane 0).isOffered 9 = false ∧ (yard.crane 0).isRedirected 9 = false ∧ (yard.crane 0).isWorkingOn 9 = false
      ∧ ((worked .enRoute 1).crane 0).isOffered 9 = false ∧ ((worked .enRoute 1).crane 0).isRedirected 9 = false
      ∧ ((worked .enRoute 1).crane 0).isWorkingOn 9 = true ∧ BitVec.toNat (15 : Byte) < 16
      ∧ yard.craneAisle 0 = some 0 ∧ (yard.crane 0).state ≠ .clearing ∧ (yard.crane 0).state ≠ .parking
      ∧ (yard.crane 0).state ≠ .faulted
      ∧ (∀ q, yard.profile? 0 = some q → BitVec.toNat (6 : Byte) ≤ q.geo.bays + 1 ∧ BitVec.toNat (2 : Byte) ≤ q.geo.levels)
      ∧ decodeHandle [0, 0] = some h0 ∧ (yard.crane 0).state ≠ .working
      ∧ (∃ x, ((worked .enRoute 1).crane 0).remaining.head? = some x ∧ (x.job ≠ h0 ∨ ReportKind.dropped.matchesStep x = false)) :=
  ⟨yard_announced 0 (by simp), worked_announced .., by decide +kernel, by decide +kernel, by decide +kernel,
    by decide +kernel, by decide +kernel, by decide +kernel, by decide, by decide +kernel, by decide +kernel,
    by decide +kernel, by decide +kernel, of_some (x := deepAisle) (by decide +kernel) (by decide), by decide,
    by decide +kernel, ⟨_, rfl, by decide +kernel⟩⟩

theorem inState_profile (x : CraneState) (b : Byte) (hb : b.toNat ≤ 6) :
    ∀ q, (inState x).profile? 0 = some q → b.toNat ≤ q.geo.bays + 1 ∧ BitVec.toNat (2 : Byte) ≤ q.geo.levels :=
  of_some (x := deepAisle) (show yard.profile? 0 = some deepAisle by decide +kernel) ⟨hb, by decide⟩

theorem witness_HelloAnnouncesOrRestarts :
    (inState .absent).liu.restarting = none ∧ ((inState .absent).crane 0).mapping = some (0, .front)
      ∧ ((inState .absent).crane 0).state = .absent
      ∧ (∀ q, (inState .absent).profile? 0 = some q → BitVec.toNat (6 : Byte) ≤ q.geo.bays + 1 ∧ BitVec.toNat (2 : Byte) ≤ q.geo.levels)
      ∧ (inState .absent).rail 0 ≠ none ∧ (inState .absent).aisleStopped 0 = false
      ∧ BitVec.toNat (6 : Byte) ≠ (inState .absent).parkEnd 0 .front
      ∧ keepsGap ((inState .absent).gap 0) .front (.at 6) (entryAt 6).effective = false
      ∧ (∀ x ∈ craneStates.drop 1, ((inState x).crane 0).state = x ∧ ((inState x).crane 0).mapping = some (0, .front))
      ∧ Announced (inState .backoff) 0 ∧ Announced (worked .loaded 2) 0 ∧ (worked .loaded 2).loadedOn 0 = some h0
      ∧ Announced (worked .enRoute 1) 0 ∧ (worked .enRoute 1).loadedOn 0 = none
      ∧ (inState .idle).entry 0 = some (entryAt 0) ∧ (entryAt 0).granted.holds 6 = false
      ∧ RailLawful (worked .enRoute 1) ∧ (worked .enRoute 1).entry 0 ≠ none :=
  ⟨by decide +kernel, by decide +kernel, by decide +kernel, inState_profile _ _ (by decide), by decide +kernel,
    by decide +kernel, by decide +kernel, by decide +kernel, by decide +kernel, inState_announced _ (by decide),
    worked_announced .., by decide +kernel, worked_announced .., by decide +kernel, by decide +kernel, by decide,
    underway_railLawful, by decide +kernel⟩

/-- R126: an ABSENT crane's HELLO from a bay the aisle lacks is discarded with STALE_MESSAGE. -/
theorem test_hello_out_of_range :
    (after (.hello 0 [7, 1]) (inState .absent)).events
        = [.faultReport { kind := .staleMessage, source := .link (.crane 0), aisle := some 0, job := none, payload := [7, 1] }]
      ∧ ((after (.hello 0 [7, 1]) (inState .absent)).crane 0).state = .absent := by decide +kernel

theorem witness_PositionReportsAreTakenByState :
    (∀ x ∈ craneStates.drop 1, ((inState x).crane 0).state = x ∧ ((inState x).crane 0).mapping = some (0, .front)
        ∧ ∃ r, (inState x).entry 0 = some r ∧ r.granted.holds 0 = true ∧ r.granted.holds 6 = false)
      ∧ (∀ x, x ≠ .absent → Announced (inState x) 0)
      ∧ (∀ x q, (inState x).profile? 0 = some q → BitVec.toNat (6 : Byte) ≤ q.geo.bays + 1 ∧ BitVec.toNat (2 : Byte) ≤ q.geo.levels)
      ∧ yard.entry 2 = none ∧ Announced yard 2 :=
  ⟨by intro x hx; simp only [craneStates, List.drop, List.mem_cons, List.not_mem_nil, or_false] at hx
      refine ⟨?_, ?_, entryAt 0, ?_, by decide, by decide⟩ <;> (rcases hx with h | h | h | h | h | h | h | h | h | h <;> subst h <;> decide +kernel),
    inState_announced, fun x => inState_profile x _ (by decide), by decide +kernel, yard_announced 2 (by simp)⟩

theorem witness_AcceptTakesUpAnOffer :
    Announced offeredStore 0 ∧ (offeredStore.crane 0).mapping = some (0, .front) ∧ (offeredStore.crane 0).state = .offered
      ∧ (offeredStore.crane 0).unit = some { number := 9, jobs := [h0], steps := storeSteps0, current := 1 }
      ∧ RoleLaw offeredStore
      ∧ Announced redirected 0 ∧ (redirected.crane 0).mapping = some (0, .front)
      ∧ (redirected.crane 0).redirect ≠ none ∧ (redirected.crane 0).isOffered 10 = false
      ∧ redirected.loadedOn 0 = none ∧ (redirected.job? h1).map (·.promised) = some (some { crane := 0, number := 10 }) := by
  refine ⟨?_, by decide +kernel, by decide +kernel, by decide +kernel, (State.passesChecks_laws (by decide +kernel)).1.role,
    redirected_announced, by decide +kernel, by decide +kernel, by decide +kernel, by decide +kernel, by decide +kernel⟩
  unfold Announced; decide +kernel

theorem witness_MissedOffersAreStruck :
    Announced offeredStore 0 ∧ (offeredStore.crane 0).state = .offered
      ∧ (offeredStore.crane 0).unit = some { number := 9, jobs := [h0], steps := storeSteps0, current := 1 }
      ∧ BitVec.toNat (15 : Byte) < 16 ∧ (offeredStore.crane 0).offerTimer ≠ none
      ∧ 1 < offeredStore.crt.strikeLimit
      ∧ offeredStore.crt.strikeLimit ≤ min 7 (((withCrane offeredStore 0 fun x => { x with strikes := 2 }).crane 0).strikes + 1)
      ∧ offeredStore.crt.policy = .backoff := by
  refine ⟨?_, by decide +kernel⟩
  unfold Announced; decide +kernel

theorem witness_RedirectsEndUnanswered :
    Announced redirected 0 ∧ (redirected.crane 0).redirect ≠ none ∧ (redirected.crane 0).state ≠ .offered
      ∧ BitVec.toNat (15 : Byte) < 16 ∧ (redirected.crane 0).offerTimer ≠ none :=
  ⟨redirected_announced, by decide +kernel⟩

/-- C0 CLEARING to bay 1. -/
def clearing : State :=
  (inState .clearing).setRail 0
    (some { front := { granted := { lo := 0, hi := 3 }, claim := none, clear := some { target := 1, toWaiting := true } }
            rear := { entryAt 6 with claim := some { lo := 2, hi := 6 } } })

theorem witness_ClearedAndParkedEndTheMove :
    Announced clearing 0 ∧ (clearing.crane 0).mapping = some (0, .front) ∧ (clearing.crane 0).state = .clearing
      ∧ (∃ r k, clearing.rail 0 = some r ∧ (r.get .front).clear = some k ∧ (r.get .front).granted.holds 3 = true
          ∧ (r.get .front).granted.holds 4 = false)
      ∧ (∀ q, clearing.profile? 0 = some q → BitVec.toNat (4 : Byte) ≤ q.geo.bays + 1 ∧ BitVec.toNat (2 : Byte) ≤ q.geo.levels)
      ∧ Announced (inState .parking) 0 ∧ ((inState .parking).crane 0).mapping = some (0, .front)
      ∧ ((inState .parking).crane 0).state = .parking :=
  ⟨inState_announced .clearing (by decide), by decide +kernel, by decide +kernel, ⟨_, _, rfl, rfl, by decide, by decide⟩,
    inState_profile .clearing _ (by decide), inState_announced _ (by decide), by decide +kernel, by decide +kernel⟩

theorem witness_PositionReportsAreTakenByState_moving :
    Announced clearing 0 ∧ (clearing.entry 0).map (fun r => (r.granted, r.clear.map (·.target))) = some ({ lo := 0, hi := 3 }, some 1)
      ∧ Announced (worked .enRoute 1) 0 ∧ ((worked .enRoute 1).entry 0).map (·.granted) = some { lo := 0, hi := 4 } := by
  refine ⟨inState_announced .clearing (by decide), by decide +kernel, worked_announced .., by decide +kernel⟩

/-- The interval of C0 after a command. -/
def intervalAfter (i : Instr) (s : State) : Option Interval := ((after i s).entry 0).map (·.granted)

/-- C0 PARKED at bay 0 and holding it, C1 PARKED at bay 5 and holding it, below its park end 6: what an outward move of the
rear park end leaves (R7). -/
def parkedShort : State :=
  withCrane ((inState .parked).setRail 0 (some { front := entryAt 0, rear := entryAt 5 })) 1 fun x => { x with state := .parked, bay := 5 }

/-- R113, R132: ASK of a PARKED crane draws PARK again and widens its interval to the park end; POS draws and widens
nothing; the crane stays PARKED and its park timer stopped. -/
theorem test_repeated_park_widens :
    ((after (.ask 1 [5, 0]) parkedShort).entry 1).map (·.granted) = some { lo := 5, hi := 6 }
      ∧ (after (.ask 1 [5, 0]) parkedShort).tx (.crane 1) = [.park]
      ∧ (after (.ask 1 [5, 0]) parkedShort).crane 1 = parkedShort.crane 1
      ∧ ((after (.pos 1 [5, 0]) parkedShort).entry 1).map (·.granted) = some { lo := 5, hi := 5 }
      ∧ ((after (.ask 1 [4, 0]) parkedShort).entry 1).map (·.granted) = some { lo := 5, hi := 6 } := by decide +kernel

theorem witness_PositionReportsAreTakenByState_parked :
    Announced parkedShort 1 ∧ (parkedShort.crane 1).mapping = some (0, .rear) ∧ (parkedShort.crane 1).state = .parked
      ∧ (∀ q, parkedShort.profile? 0 = some q → BitVec.toNat (5 : Byte) ≤ q.geo.bays + 1 ∧ BitVec.toNat (0 : Byte) ≤ q.geo.levels)
      ∧ ∃ r, parkedShort.entry 1 = some r ∧ r.granted.holds 5 = true ∧ r.granted.holds 4 = false := by
  refine ⟨?_, by decide +kernel, by decide +kernel, of_some (x := deepAisle) (show parkedShort.profile? 0 = some deepAisle by decide +kernel) (by decide), entryAt 5,
    by decide +kernel, by decide, by decide⟩
  unfold Announced; decide +kernel

/-- R87, R115: LATE lets the interval, widened for a redirect to bay 4, fall to the hull of the crane's bay and its unit's
steps; a refused offer lets it fall to the bay alone. -/
theorem test_interval_falls :
    intervalAfter (.late 0 [10])
        (redirected.setRail 0 (some { front := { entryAt 0 with granted := { lo := 0, hi := 5 } }, rear := entryAt 6 }))
        = some { lo := 0, hi := 4 }
      ∧ intervalAfter (.refuse 0 [9, 1]) offeredStore = some { lo := 0, hi := 0 } := by decide +kernel

/-- A0 DRAINING for O0, C0 PARKING and C1 in a state. -/
def drainingA0 (x : CraneState) : State :=
  withCrane ((inState .parking).setHold 0
    { sources := { gate := false, o0 := true, o1 := false, fault := false }, state := .draining, gack := false }) 1
    fun y => { y with state := x }

theorem witness_ClearedAndParkedEndTheMove_held :
    ((drainingA0 .parked).hold 0).state = .draining ∧ Announced (drainingA0 .parked) 0
      ∧ (∀ d ∈ (drainingA0 .parked).cranesOf 0, d ≠ 0 →
          ((drainingA0 .parked).crane d).state ∈ [CraneState.parked, .absent, .faulted, .outOfService])
      ∧ (1 : CraneId) ∈ (drainingA0 .working).cranesOf 0
      ∧ ((drainingA0 .working).crane 1).state ∉ [CraneState.parked, .absent, .faulted, .outOfService] := by
  refine ⟨by decide +kernel, ?_, by decide +kernel, by decide +kernel, by decide +kernel⟩
  unfold Announced; decide +kernel

theorem test_last_parked_grants_the_hold :
    ((after (.parked 0 []) (drainingA0 .parked)).hold 0).state = .held
      ∧ (after (.parked 0 []) (drainingA0 .parked)).queue .o0
          = [.holdGranted 0 { gate := false, o0 := true, o1 := false, fault := false }]
      ∧ ((after (.parked 0 []) (drainingA0 .working)).hold 0).state = .draining := by decide +kernel

theorem witness_FaultAndRecovered :
    (∀ x, x ≠ .absent → Announced (inState x) 0) ∧ (∀ x ∈ craneStates, ((inState x).crane 0).state = x)
      ∧ Announced (worked .loaded 2) 0 ∧ (worked .loaded 2).loadedOn 0 = some h0
      ∧ ((inState .faulted).crane 0).mapping = some (0, .front) ∧ (inState .faulted).loadedOn 0 = none
      ∧ ((withCrane strandedStore 0 fun x => { x with state := .faulted }).crane 0).state = .faulted
      ∧ (withCrane strandedStore 0 fun x => { x with state := .faulted }).loadedOn 0 = some h0
      ∧ (withCrane strandedStore 0 fun x => { x with state := .faulted }).dropUnreserved 0 = false :=
  ⟨inState_announced, by decide +kernel, worked_announced .., by decide +kernel, by decide +kernel, by decide +kernel,
    by decide +kernel, by decide +kernel, by decide +kernel⟩

/-! ## Witnesses: step reports -/

/-- A retrieve on C0, entered by O1, from the deep cell. -/
def retrieveOn (x : JobState) : Job :=
  { Job.new h0 .retrieve (.order .o1) 1 0 0 with
    candidates := [dropCell], state := x, chosen := some dropCell, unit := some { crane := 0, number := 9 } }

/-- The steps of a single retrieve to A0's front station (R29). -/
def retrieveSteps0 : List Step :=
  [{ action := .pick, place := .cell dropCell, job := h0 }, { action := .drop, place := .station 0 true .front, job := h0 }]

/-- A retrieve under way to its cell. -/
def retrieving : State := onCrane (retrieveOn .enRoute) .working retrieveSteps0 1 (.outReserved h0 1)

theorem retrieving_announced : Announced retrieving 0 := by unfold Announced; decide +kernel

theorem retrieving_mapWf : MapWf retrieving := by unfold MapWf; decide +kernel

/-- A retrieve of a wave, within its window, bound for A0's front station. -/
def ofWave : State :=
  { onCrane { retrieveOn .enRoute with wave := some { id := 5, seq := 4 } } .working retrieveSteps0 1 (.outReserved h0 1) with
    swu := { retrieving.swu with waves := [{ wave5 with live := 1 }] } }

/-- The laws of waves, credits and windows on a state with a wave and a retrieve in flight. -/
theorem witness_StepKeepsWorkLaws_waves :
    Lawful ofWave ∧ PoolLawful ofWave ∧ WorkLawful ofWave ∧ (∃ t, step ofWave = .next t)
      ∧ (ofWave.credit 0 .front).inFlight = 1 ∧ (ofWave.wave? 5).map (·.live) = some 1 := by
  obtain ⟨h1, h2, h3⟩ := State.passesChecks_laws (s := ofWave) (by decide +kernel)
  exact ⟨h1, h2, h3, ⟨_, rfl⟩, by decide +kernel, by decide +kernel⟩

theorem witness_PickedLoadsTheJob :
    Announced retrieving 0 ∧ (retrieving.crane 0).mapping = some (0, .front) ∧ (retrieving.crane 0).state = .working
      ∧ (retrieving.crane 0).unit = some { number := 9, jobs := [h0], steps := retrieveSteps0, current := 1 }
      ∧ retrieving.job? h0 = some (retrieveOn .enRoute) ∧ h0 ∈ [h0]
      ∧ ({ number := 9, jobs := [h0], steps := retrieveSteps0, current := 1 } : WorkUnit).remaining.head?
          = some { action := .pick, place := .cell dropCell, job := h0 }
      ∧ (retrieveOn .enRoute).stranded = false ∧ HandleLaw retrieving ∧ MapWf retrieving
      ∧ (retrieving.cell dropCell).state = .outReserved h0 1
      ∧ (worked .enRoute 1).job? h0 = some (storeOn .enRoute)
      ∧ ({ number := 9, jobs := [h0], steps := storeSteps0, current := 1 } : WorkUnit).remaining.head?
          = some { action := .pick, place := .station 0 false .front, job := h0 } :=
  ⟨retrieving_announced, by decide +kernel, by decide +kernel, by decide +kernel, by decide +kernel, by decide, by decide,
    by decide, onCrane_handleLaw _ _ _ _ _, retrieving_mapWf, by decide +kernel, by decide +kernel, by decide⟩

/-- R114: the pick at bay 4 keeps the way back to the station; from outside the interval it is a RAIL_BREACH (R116). -/
theorem test_picked_interval :
    intervalAfter (.picked 0 [0, 0]) retrieving = some { lo := 0, hi := 4 }
      ∧ intervalAfter (.picked 0 [0, 0]) (retrieving.setRail 0 (some { front := entryAt 0, rear := entryAt 6 }))
          = some { lo := 0, hi := 0 }
      ∧ retrieving.craneReported .railBreach 0 (some h0) [0, 0]
          ∈ (after (.picked 0 [0, 0]) (retrieving.setRail 0 (some { front := entryAt 0, rear := entryAt 6 }))).events := by
  decide +kernel

/-- A retrieve LOADED, with its drop still to come. -/
def carrying : State :=
  onCrane { retrieveOn .loaded with carried := some 1 } .working retrieveSteps0 2 .empty

/-- A relocation on C0, LOADED, its target the deep cell. -/
def relocating : State :=
  onCrane
    { Job.new h0 .relocate .internal 1 0 0 with
      served := some h1, state := .loaded, chosen := some (cellA0 .right 1 1 .near), target := some dropCell
      carried := some 1, unit := some { crane := 0, number := 9 } } .working
    [{ action := .pick, place := .cell (cellA0 .right 1 1 .near), job := h0 },
      { action := .drop, place := .cell dropCell, job := h0 }] 2 (.inReserved h0)

theorem witness_DroppedClosesTheJob :
    Announced (worked .loaded 2) 0 ∧ ((worked .loaded 2).crane 0).mapping = some (0, .front)
      ∧ ((worked .loaded 2).crane 0).unit = some { number := 9, jobs := [h0], steps := storeSteps0, current := 2 }
      ∧ (worked .loaded 2).job? h0 = some (storeOn .loaded)
      ∧ ({ number := 9, jobs := [h0], steps := storeSteps0, current := 2 } : WorkUnit).remaining.head?
          = some { action := .drop, place := .cell dropCell, job := h0 }
      ∧ (storeOn .loaded).stranded = false ∧ (storeOn .loaded).waitsFor = none
      ∧ (Lawful (worked .loaded 2) ∧ PoolLawful (worked .loaded 2) ∧ WorkLawful (worked .loaded 2))
      ∧ (Lawful carrying ∧ PoolLawful carrying ∧ WorkLawful carrying)
      ∧ ((worked .loaded 2).cell dropCell).state = .inReserved h0
      ∧ (worked .loaded 2).hasRoom .o0 = true
      ∧ carrying.job? h0 = some { retrieveOn .loaded with carried := some 1 } ∧ (carrying.crane 0).redirect = none
      ∧ (carrying.crane 0).remaining.head? = some { action := .drop, place := .station 0 true .front, job := h0 }
      ∧ (relocating.crane 0).remaining.head? = some { action := .drop, place := .cell dropCell, job := h0 }
      ∧ ((relocating.job? h0).map fun j => (j.kind, j.chosen, j.target, j.served))
          = some (.relocate, some (cellA0 .right 1 1 .near), some dropCell, some h1)
      ∧ (∀ g, relocating.job? h1 = some g → g.waitsFor = some h0) :=
  ⟨worked_announced .., by decide +kernel, by decide +kernel, by decide +kernel, by decide, by decide, by decide,
    State.passesChecks_laws (by decide +kernel), State.passesChecks_laws (by decide +kernel), by decide +kernel,
    by decide +kernel, by decide +kernel, by decide +kernel, by decide +kernel, by decide +kernel, by decide +kernel, of_none (by decide +kernel)⟩

/-! ## Witnesses: pairs and relocations -/

/-- The cell a pair's retrieve picks at. -/
def pickCell : CellAddr := cellA0 .right 1 1 .near

/-- C0 with a pair: a store of O0 to the deep cell, and a retrieve of O1. -/
def paired (x : JobState) (c : CraneState) (current : Nat) : State :=
  withCrane
    ((((onCrane { storeOn x with partner := some h1 } c storeSteps0 current (.inReserved h0)).createJob
      { retrieveOn (if x = .offered then .offered else .enRoute) with
        handle := h1, candidates := [pickCell], chosen := some pickCell, partner := some h0 }).putCell pickCell
      (plain (.outReserved h1 1))).setCredit 0 .front { reportedFree := 2, inFlight := 1 }) 0
    fun y => { y with
      offerTimer := if x = .offered then some 2000 else none
      unit := some
        { number := 9, jobs := [h0, h1], current := current
          steps := storeSteps0 ++
            [{ action := .pick, place := .cell pickCell, job := h1 },
              { action := .drop, place := .station 0 true .front, job := h1 }] } }

/-- A retrieve of the deep cell that waits with NO_CANDIDATE. -/
def blockedRetrieve : Job :=
  { Job.new h0 .retrieve (.order .o0) 1 0 0 with candidates := [dropCell], reason := some .noCandidate }

/-- A relocation that serves the retrieve of slot 0, not yet on a crane. -/
def serving : Job :=
  { Job.new h1 .relocate .internal 1 0 1 with
    served := some h0, state := .ready, chosen := some (nearOf dropCell), target := some otherCell }

/-- The cells of `serving`: its source as given, its target reserved for it. -/
def servingCells (s : State) (source : CellState) : State :=
  ((s.putCell (nearOf dropCell) (plain source)).putCell (nearOf otherCell) (plain .empty)).putCell otherCell
    (plain (.inReserved h1))

/-- A retrieve that waits for a READY relocation. -/
def waited : State :=
  servingCells ((withJob { blockedRetrieve with reason := some .relocating, waitsFor := some h1 }).createJob serving)
    (.outReserved h1 1)

/-- The relocation on C0, in a state of a unit's job. -/
def servingOn (x : JobState) : Job :=
  { serving with
    state := x, unit := some { crane := 0, number := 9 }, carried := if x = .loaded then some 1 else none }

/-- A retrieve that waits for a relocation on C0. -/
def waitedOn (x : JobState) (c : CraneState) (current : Nat) : State :=
  withCrane
    (servingCells ((withJob { blockedRetrieve with reason := some .relocating, waitsFor := some h1 }).createJob (servingOn x))
      (if x = .loaded then .empty else .outReserved h1 1)) 0
    fun y => { y with
      state := c
      unit := some
        { number := 9, jobs := [h1], current := current
          steps := [{ action := .pick, place := .cell (nearOf dropCell), job := h1 },
            { action := .drop, place := .cell otherCell, job := h1 }] } }

/-- The relocation, not yet on a crane, while the retrieve it serves is LOADED on C0. -/
def carryingServed (stranded : Bool) : State :=
  servingCells ((onCrane { retrieveOn .loaded with carried := some 1, waitsFor := some h1, stranded := stranded } .working
    retrieveSteps0 2 .empty).createJob serving) (.outReserved h1 1)

theorem paired_hears (x : JobState) (c : CraneState) (n : Nat) : Hears (paired x c n) (.order .o1) :=
  yard_hears (.order .o1) (by simp)

theorem witness_CancelChecksThenCloses_pair :
    (∀ y ∈ [((.offered, .offered, 1) : JobState × CraneState × Nat), (.enRoute, .working, 1), (.loaded, .working, 2)],
        ((paired y.1 y.2.1 y.2.2).crane 0).state = y.2.1
          ∧ ((paired y.1 y.2.1 y.2.2).crane 0).unit ≠ none ∧ ((paired y.1 y.2.1 y.2.2).crane 0).redirect = none
          ∧ ((paired y.1 y.2.1 y.2.2).job? h1).map (fun j => (j.kind, j.origin)) = some (.retrieve, .order .o1)
          ∧ ((paired y.1 y.2.1 y.2.2).job? h1).map (fun j => (j.promised, j.waitsFor)) = some (none, none))
      ∧ (∀ x c n, Hears (paired x c n) (.order .o1))
      ∧ ∀ y ∈ [((.offered, .offered, 1) : JobState × CraneState × Nat), (.enRoute, .working, 1), (.loaded, .working, 2)],
          Lawful (paired y.1 y.2.1 y.2.2) ∧ PoolLawful (paired y.1 y.2.1 y.2.2) ∧ WorkLawful (paired y.1 y.2.1 y.2.2) :=
  ⟨by decide +kernel, paired_hears, by
    have h : ([((.offered, .offered, 1) : JobState × CraneState × Nat), (.enRoute, .working, 1),
        (.loaded, .working, 2)].all fun y => (paired y.1 y.2.1 y.2.2).passesChecks) = true := by decide +kernel
    exact fun y hy => State.passesChecks_laws (List.all_eq_true.mp h y hy)⟩

/-- The states in which a retrieve that waits for its relocation is cancelled, by the relocation's state. -/
def waitedStates : List State :=
  [waited, waitedOn .offered .offered 1, waitedOn .enRoute .working 1, waitedOn .loaded .working 2]

theorem waited_laws : ∀ s ∈ waitedStates, Lawful s ∧ PoolLawful s ∧ WorkLawful s := by
  have h : waitedStates.all State.passesChecks = true := by decide +kernel
  exact fun s hs => State.passesChecks_laws (List.all_eq_true.mp h s hs)

theorem witness_CancelChecksThenCloses_relocation :
    (∀ s ∈ waitedStates, ((s.job? h0).map fun j => (j.kind, j.state, j.waitsFor, j.unit))
        = some (.retrieve, .pending, some h1, none))
      ∧ (∀ s ∈ waitedStates, ((s.job? h1).map fun r => (r.kind, r.served, r.origin, r.handle))
        = some (.relocate, some h0, .internal, h1))
      ∧ (∀ s ∈ waitedStates, ((s.job? h1).map fun r => (r.partner, r.promised)) = some (none, none))
      ∧ waitedStates.map (fun s => (s.job? h1).map (·.state)) = [some .ready, some .offered, some .enRoute, some .loaded]
      ∧ (∀ s ∈ waitedStates, ∀ l ∈ [OrderLink.o0, .o1], (s.queue l).length + 2 < Config.queueCapacity)
      ∧ (waited.cell (nearOf dropCell)).state = .outReserved h1 1 ∧ (waited.cell otherCell).state = .inReserved h1
      ∧ ((waitedOn .enRoute .working 1).crane 0).unit ≠ none
      ∧ ∀ s ∈ waitedStates, Lawful s ∧ PoolLawful s ∧ WorkLawful s :=
  ⟨by decide +kernel, by decide +kernel, by decide +kernel, by decide +kernel, by decide +kernel, by decide +kernel,
    by decide +kernel, by decide +kernel, waited_laws⟩

/-- A cell that a cancelled job gives back: the store's own, and the pick cell of its partner. -/
theorem witness_CancelChecksThenCloses_cells :
    (storeOn .enRoute).chosen = some dropCell ∧ ((worked .enRoute 1).cell dropCell).state = .inReserved h0
      ∧ (retrieveOn .enRoute).chosen = some dropCell ∧ (retrieving.cell dropCell).state = .outReserved h0 1
      ∧ ((paired .offered .offered 1).crane 0).state = .offered ∧ ((paired .offered .offered 1).crane 0).jobs = [h0, h1]
      ∧ (((paired .offered .offered 1).job? h1).map fun k => (k.kind, k.chosen)) = some (.retrieve, some pickCell)
      ∧ ((paired .offered .offered 1).cell pickCell).state = .outReserved h1 1
      ∧ MapWf (paired .offered .offered 1) :=
  ⟨by decide, by decide +kernel, by decide, by decide +kernel, by decide +kernel, by decide +kernel, by decide +kernel,
    by decide +kernel, (State.passesChecks_laws (by decide +kernel)).1.map⟩

theorem carryingServed_laws (b : Bool) :
    Lawful (carryingServed b) ∧ PoolLawful (carryingServed b) ∧ WorkLawful (carryingServed b) :=
  State.passesChecks_laws (by cases b <;> decide +kernel)

theorem witness_relocations_of_loaded_retrieves :
    ∀ b, (carryingServed b).job? h1 = some serving
      ∧ ((carryingServed b).job? h0).map (fun j => (j.kind, j.state, j.stranded, j.waitsFor))
          = some (.retrieve, .loaded, b, some serving.handle)
      ∧ ((carryingServed b).crane 0).unit = some { number := 9, jobs := [h0], steps := retrieveSteps0, current := 2 }
      ∧ ((carryingServed b).crane 0).state = .working ∧ serving.state ∈ [JobState.ready, .offered, .enRoute]
      ∧ serving.unit = none ∧ ((carryingServed b).cell dropCell).state ≠ .inReserved h0
      ∧ (Lawful (carryingServed b) ∧ PoolLawful (carryingServed b) ∧ WorkLawful (carryingServed b))
      ∧ Hears (carryingServed b) (.order .o1) ∧ Announced (carryingServed b) 0 := by
  intro b
  refine ⟨?_, ?_, ?_, ?_, by decide, by decide, ?_, carryingServed_laws b, yard_hears (.order .o1) (by simp), ?_⟩
  all_goals cases b
  all_goals first
    | decide +kernel
    | (unfold Announced; decide +kernel)

/-- The relocation of `relocating`, stranded. -/
def strandedRelocation : State := relocating.updJob h0 fun j => { j with stranded := true }

theorem witness_ResolveClosesAStrandedJob_relocation :
    (strandedRelocation.job? h0).map (fun j => (j.kind, j.origin, j.state, j.stranded))
        = some (.relocate, .internal, .loaded, true)
      ∧ (strandedRelocation.job? h0).map (fun j => (j.chosen, j.target)) = some (some pickCell, some dropCell)
      ∧ strandedRelocation.hasCell 0 dropCell = true ∧ (strandedRelocation.cell dropCell).state = .inReserved h0
      ∧ pickCell ≠ dropCell ∧ ((strandedRelocation.crane 0).unit ≠ none) ∧ strandedRelocation.job? h1 = none
      ∧ (∀ l ∈ [OrderLink.o0, .o1], (strandedRelocation.queue l).length + 2 < 32)
      ∧ Lawful strandedRelocation ∧ PoolLawful strandedRelocation ∧ WorkLawful strandedRelocation :=
  ⟨by decide +kernel, by decide +kernel, by decide +kernel, by decide +kernel, by decide, by decide +kernel,
    by decide +kernel, by decide +kernel, State.passesChecks_laws (by decide +kernel)⟩

theorem witness_ResolveClosesAStrandedJob_notice :
    strandedStore.hasRoom .o0 = true ∧ (strandedStore.entry 0).map (·.granted) = some { lo := 0, hi := 4 }
      ∧ (strandedStore.setQueue .o0 (List.replicate 32 (.profileApplied 0))).hasRoom .o0 = false
      ∧ (carryingServed true).hasRoom .o1 = true
      ∧ ((carryingServed true).job? h0).map (fun j => (j.kind, j.origin, j.carried)) = some (.retrieve, .order .o1, some 1) := by
  decide +kernel

/-- R58, R61: the order link of a resolved store is told MANUAL. -/
theorem test_resolved_store_is_manual :
    (after (.resolve .o1 (encodeHandle h0 ++ [0, 255])) strandedStore).queue .o0
      = [.jobClosed h0 0 .store .manual false none] := by decide +kernel

/-- The handle of the third slot. -/
def h2 : Handle := { slot := 2, gen := 0 }

/-- A relocation on C0, with a retrieve that names its source, and a store stranded at its source on C1. -/
def named (s : State) : State :=
  (((s.updJob h0 fun j => { j with served := none }).createJob
      { Job.new h1 .retrieve (.order .o0) 1 0 1 with candidates := [pickCell, dropCell], reason := some .noCandidate }).createJob
    { Job.new h2 .store (.order .o0) 1 0 2 with
      tag := 9, end_ := .rear, state := .loaded, stranded := true, chosen := some pickCell, destination := some pickCell
      unit := some { crane := 1, number := 4 }, load := some { height := 1450, weight := 800, cls := some 1 } }).setCrane 1
    { idleCrane 0 .rear 6 with
      state := .working
      unit := some
        { number := 4, jobs := [h2], current := 2
          steps := [{ action := .pick, place := .station 0 false .rear, job := h2 },
            { action := .drop, place := .cell pickCell, job := h2 }] } }

/-- The states in which a relocated pallet's old cell is named by another job, for DROPPED and for RESOLVE. -/
theorem witness_rewritten :
    (∀ s ∈ [named relocating, named strandedRelocation],
        (s.job? h0).map (fun j => (j.kind, j.chosen, j.target)) = some (.relocate, some pickCell, some dropCell))
      ∧ (∀ s ∈ [named relocating, named strandedRelocation],
          (s.job? h1).map (fun k => (k.kind, k.state, k.candidates)) = some (.retrieve, .pending, [pickCell, dropCell]))
      ∧ (∀ s ∈ [named relocating, named strandedRelocation],
          (s.job? h2).map (fun k => (k.kind, k.state, k.chosen)) = some (.store, .loaded, some pickCell))
      ∧ (∀ s ∈ [named relocating, named strandedRelocation],
          (s.job? h2).map (·.stranded) = some true ∧ (s.cell pickCell).state = .unknown)
      ∧ ∀ s ∈ [named relocating, named strandedRelocation], Lawful s ∧ PoolLawful s ∧ WorkLawful s := by
  have h : [named relocating, named strandedRelocation].all State.passesChecks = true := by decide +kernel
  exact ⟨by decide +kernel, by decide +kernel, by decide +kernel, by decide +kernel,
    fun s hs => State.passesChecks_laws (List.all_eq_true.mp h s hs)⟩

/-- R98, R105: the relocation's drop rewrites the retrieve's list, its first occurrence kept, and the stranded store's cell. -/
theorem test_drop_rewrites :
    ((after (.dropped 0 [0, 0]) (named relocating)).job? h1).map (·.candidates) = some [dropCell]
      ∧ ((after (.dropped 0 [0, 0]) (named relocating)).job? h2).map (fun k => (k.chosen, k.destination))
          = some (some dropCell, some dropCell) := by decide +kernel

theorem witness_DroppedClosesTheJob_relocation :
    ((relocating.crane 0).unit.map fun u => (u.steps.length, u.current)) = some (2, 2)
      ∧ (relocating.job? h0).map (fun j => (j.kind, j.origin, j.served)) = some (.relocate, .internal, some h1)
      ∧ relocating.job? h1 = none ∧ (∀ l ∈ [OrderLink.o0, .o1], (relocating.queue l).length + 3 < 32)
      ∧ Lawful relocating ∧ PoolLawful relocating ∧ WorkLawful relocating :=
  ⟨by decide +kernel, by decide +kernel, by decide +kernel, by decide +kernel, State.passesChecks_laws (by decide +kernel)⟩

/-- A0 OPEN with C0 in each state a drain meets, lawful: at rest or idle, with its leave-service flag set, with an offer,
with a LOADED job or none, with a pair, with a redirect. -/
def drainStates : List State :=
  ([CraneState.absent, .idle, .waiting, .clearing, .parking, .parked, .backoff, .faulted, .outOfService].map inState)
    ++ [withCrane yard 0 fun x => { x with leaveService := true }, offeredStore, paired .offered .offered 1,
        worked .loaded 2, worked .enRoute 1, paired .loaded .working 2, redirected]

theorem drainStates_laws : ∀ s ∈ drainStates, Lawful s ∧ PoolLawful s ∧ WorkLawful s := by
  have h : drainStates.all State.passesChecks = true := by decide +kernel
  exact fun s hs => State.passesChecks_laws (List.all_eq_true.mp h s hs)

theorem witness_HoldsDrainAndResumeTheCranes_laws :
    (∀ s ∈ drainStates, (s.hold 0).sources.any = false ∧ (s.hold 0).state = .isOpen ∧ (0 : CraneId) ∈ s.cranesOf 0)
      ∧ (worked .loaded 2).loadedOn 0 = some h0 ∧ (worked .enRoute 1).loadedOn 0 = none
      ∧ ((paired .loaded .working 2).crane 0).unit.map (fun u => (u.current, u.steps.length)) = some (2, 4)
      ∧ (paired .loaded .working 2).loadedOn 0 = some h0
      ∧ ((paired .loaded .working 2).cell pickCell).state = .outReserved h1 1
      ∧ (redirected.crane 0).redirect ≠ none
      ∧ ∀ s ∈ drainStates, Lawful s ∧ PoolLawful s ∧ WorkLawful s :=
  ⟨by decide +kernel, by decide +kernel, by decide +kernel, by decide +kernel, by decide +kernel, by decide +kernel,
    by decide +kernel, drainStates_laws⟩

/-- A drain sends the pair's crane WITHDRAW with the steps through the store's drop kept, and the retrieve is READY with its
cell released (R172). -/
theorem test_drain_keeps_the_loaded_store :
    (after (.gateChange 0 false) (paired .loaded .working 2)).tx (.crane 0) = [.withdraw 9 2]
      ∧ ((after (.gateChange 0 false) (paired .loaded .working 2)).job? h1).map (fun k => (k.state, k.unit)) = some (.ready, none)
      ∧ ((after (.gateChange 0 false) (paired .loaded .working 2)).cell pickCell).state = .full 1 := by decide +kernel

/-- The map and the rail on which the search for a new drop cell runs. -/
def searching (s : State) (j : Job) (u : WorkUnit) (x : Step) : State :=
  (s.reachStep 0 j x u.remaining (encodeHandle h0)).foundOccupied dropCell h0

/-- The records once the drop cell has been found occupied, and the cells that keep the gap from the interval then left. -/
def occupiedCells (s : State) : CellAddr → Cell :=
  fun b => if b = dropCell then { state := .full (s.fit dropCell), conflict := true } else s.cell b

def occupiedKeeps (s : State) (u : WorkUnit) : CellAddr → Prop :=
  fun b => ∀ r, s.rail 0 = some r → KeepsGapFrom deepAisle.op.gap .front
    (((r.get .front).granted.fallen dropCell.bay (s.stepBays (u.remaining ++ (s.crane 0).redirectSteps))).join (.at b.bay))
    (r.get .rear)

/-- The drop of the store at work, and its unit. -/
def storeDrop : Step := { action := .drop, place := .cell dropCell, job := h0 }

def storeUnit : WorkUnit := { number := 9, jobs := [h0], steps := storeSteps0, current := 2 }

/-- The store at work with no other cell to go to: the one free cell is flagged. -/
def noRoom : State := (worked .loaded 2).putCell (nearOf dropCell) { state := .empty, conflict := true }

/-- C0 works on the drop at its reserved cell. -/
abbrev Dropping (s : State) : Prop :=
  (s.crane 0).mapping = some (0, .front) ∧ (s.crane 0).state = .working ∧ (s.cell dropCell).state = .inReserved h0
    ∧ s.profile? 0 = some deepAisle

theorem occupied_search {s : State} {j : Job} (u : WorkUnit) (hs : Dropping s) (hw : MapWf s) (hj : j.aisle = 0)
    (hk : j.kind = .store) (new : CellAddr) :
    (searching s j u storeDrop).newDropCell 0 j dropCell = some new ↔
      NewDropCell deepAisle s.ale.waste (occupiedCells s) (occupiedKeeps s u) j dropCell new :=
  State.newDropCell_reached u.remaining _ new hs.1 hs.2.1 rfl hs.2.2.1 hw hs.2.2.2 hj (by simp [hk])

theorem occupied_search_none {s : State} {j : Job} (u : WorkUnit) (hs : Dropping s) (hw : MapWf s) (hj : j.aisle = 0)
    (hk : j.kind = .store) (h : (searching s j u storeDrop).newDropCell 0 j dropCell = none) (new : CellAddr) :
    ¬ NewDropCell deepAisle s.ale.waste (occupiedCells s) (occupiedKeeps s u) j dropCell new := by
  rw [← occupied_search u hs hw hj hk, h]
  simp

theorem noRoom_laws : Lawful noRoom ∧ PoolLawful noRoom ∧ WorkLawful noRoom := State.passesChecks_laws (by decide +kernel)

theorem worked_laws : Lawful (worked .loaded 2) ∧ PoolLawful (worked .loaded 2) ∧ WorkLawful (worked .loaded 2) :=
  State.passesChecks_laws (by decide +kernel)

theorem witness_CellOccupiedRedirectsOrStrands :
    Announced (worked .loaded 2) 0 ∧ ((worked .loaded 2).crane 0).mapping = some (0, .front)
      ∧ ((worked .loaded 2).crane 0).state = .working ∧ ((worked .loaded 2).crane 0).unit = some storeUnit
      ∧ (worked .loaded 2).job? h0 = some (storeOn .loaded) ∧ storeUnit.remaining.head? = some storeDrop
      ∧ (storeOn .loaded).stranded = false ∧ ((worked .loaded 2).cell dropCell).state = .inReserved h0
      ∧ (Lawful (worked .loaded 2) ∧ PoolLawful (worked .loaded 2) ∧ WorkLawful (worked .loaded 2))
      ∧ (Lawful noRoom ∧ PoolLawful noRoom ∧ WorkLawful noRoom) ∧ 1 ≤ storeUnit.current
      ∧ (worked .loaded 2).profile? 0 = some deepAisle
      ∧ NewDropCell deepAisle (worked .loaded 2).ale.waste (occupiedCells (worked .loaded 2))
          (occupiedKeeps (worked .loaded 2) storeUnit) (storeOn .loaded) dropCell (nearOf dropCell)
      ∧ noRoom.job? h0 = some (storeOn .loaded) ∧ (noRoom.crane 0).unit = some storeUnit
      ∧ (∀ new, ¬ NewDropCell deepAisle noRoom.ale.waste (occupiedCells noRoom) (occupiedKeeps noRoom storeUnit)
          (storeOn .loaded) dropCell new)
      ∧ storeUnit.steps.length ≤ storeUnit.current :=
  ⟨worked_announced .., by decide +kernel, by decide +kernel, by decide +kernel, by decide +kernel, by decide, by decide,
    by decide +kernel, worked_laws, noRoom_laws, by decide, by decide +kernel,
    (occupied_search storeUnit (by decide +kernel) worked_laws.1.map rfl rfl _).mp (by decide +kernel), by decide +kernel,
    by decide +kernel, occupied_search_none storeUnit (by decide +kernel) noRoom_laws.1.map rfl rfl (by decide +kernel),
    by decide⟩

/-- R104 step 2, R114: the search of an occupied bay 4 gives a cell of the same bay, and where it gives none the interval is
shrunk alone. -/
theorem test_occupied_interval :
    intervalAfter (.cellOccupied 0 [0, 0]) (worked .loaded 2) = some { lo := 4, hi := 4 }
      ∧ intervalAfter (.cellOccupied 0 [0, 0]) noRoom = some { lo := 4, hi := 4 }
      ∧ intervalAfter (.cellOccupied 0 [0, 0]) ((noRoom.putCell (cellA0 .left 2 1 .near) (plain .empty)).putCell
          (cellA0 .left 2 1 .deep) (plain .empty)) = some { lo := 2, hi := 4 } := by decide +kernel

/-- The store of a pair with no other cell to go to. -/
def pairNoRoom : State := (paired .loaded .working 2).putCell (nearOf dropCell) { state := .empty, conflict := true }

theorem pairNoRoom_laws : Lawful pairNoRoom ∧ PoolLawful pairNoRoom ∧ WorkLawful pairNoRoom :=
  State.passesChecks_laws (by decide +kernel)

theorem pairNoRoom_search : ∃ j ∈ (pairNoRoom.job? h0).toList, ∃ u ∈ (pairNoRoom.crane 0).unit.toList,
    j.aisle = 0 ∧ j.kind = .store ∧ (searching pairNoRoom j u storeDrop).newDropCell 0 j dropCell = none
      ∧ u.current < u.steps.length ∧ u.remaining.head? = some storeDrop
      ∧ ∃ g ∈ u.jobs, g ≠ h0 ∧ (pairNoRoom.job? g).bind (·.partner) = some h0 := by decide +kernel

theorem witness_CellOccupiedRedirectsOrStrands_pair :
    (∃ j ∈ (pairNoRoom.job? h0).toList, ∃ u ∈ (pairNoRoom.crane 0).unit.toList, u.current < u.steps.length
        ∧ u.remaining.head? = some storeDrop
        ∧ (∀ new, ¬ NewDropCell deepAisle pairNoRoom.ale.waste (occupiedCells pairNoRoom) (occupiedKeeps pairNoRoom u) j
            dropCell new)
        ∧ ∃ g ∈ u.jobs, g ≠ h0 ∧ (pairNoRoom.job? g).bind (·.partner) = some h0)
      ∧ (Lawful pairNoRoom ∧ PoolLawful pairNoRoom ∧ WorkLawful pairNoRoom)
      ∧ (storeOn .loaded).kind = .store
      ∧ ({ storeOn .loaded with destination := some dropCell } : Job).destination ≠ none
      ∧ ({ storeOn .loaded with redirectAllowed := false } : Job).redirectAllowed = false := by
  obtain ⟨j, hj, u, hu, ha, hk, hn, hc, hr, hg⟩ := pairNoRoom_search
  exact ⟨⟨j, hj, u, hu, hc, hr, occupied_search_none u (by decide +kernel) pairNoRoom_laws.1.map ha hk hn, hg⟩,
    pairNoRoom_laws, by decide, by decide, by decide⟩

/-- The same while a redirect to another store is outstanding, which waits for LATE behind the pick (R87). -/
def pairRedirected : State :=
  withCrane (((pairNoRoom.createJob { promisedStore with handle := { slot := 2, gen := 0 } }).putCell (nearOf otherCell)
      { state := .empty, conflict := true }).putCell otherCell (plain (.inReserved { slot := 2, gen := 0 }))) 0
    fun x => { x with
      redirect := some
        { number := 10, job := { slot := 2, gen := 0 }
          steps := [{ action := .pick, place := .station 0 false .front, job := { slot := 2, gen := 0 } },
            { action := .drop, place := .cell otherCell, job := { slot := 2, gen := 0 } }] } }

/-- R105, R107, R115: a stranded pair's interval falls to bay 4, where the crane stands and drops; the station of an
outstanding redirect stays inside it (log entry 69). -/
theorem test_stranded_pair_interval :
    intervalAfter (.cellOccupied 0 [0, 0]) pairNoRoom = some { lo := 4, hi := 4 }
      ∧ intervalAfter (.cellOccupied 0 [0, 0]) pairRedirected = some { lo := 0, hi := 4 }
      ∧ ((after (.cellOccupied 0 [0, 0]) pairRedirected).crane 0).redirect = (pairRedirected.crane 0).redirect := by
  decide +kernel

theorem witness_CellEmptyEndsTheUnit :
    Announced retrieving 0 ∧ (retrieving.crane 0).mapping = some (0, .front) ∧ (retrieving.crane 0).state = .working
      ∧ (retrieving.crane 0).unit = some { number := 9, jobs := [h0], steps := retrieveSteps0, current := 1 }
      ∧ retrieving.job? h0 = some (retrieveOn .enRoute)
      ∧ ({ number := 9, jobs := [h0], steps := retrieveSteps0, current := 1 } : WorkUnit).remaining.head?
          = some { action := .pick, place := .cell dropCell, job := h0 }
      ∧ (retrieveOn .enRoute).stranded = false ∧ (retrieving.cell dropCell).state = .outReserved h0 1
      ∧ (Lawful retrieving ∧ PoolLawful retrieving ∧ WorkLawful retrieving) ∧ (retrieveOn .enRoute).waitsFor = none
      ∧ (retrieveOn .enRoute).promised = none ∧ (∀ b ∈ (retrieveOn .enRoute).candidates, b = dropCell)
      ∧ (retrieveOn .enRoute).origin = .order .o1 :=
  ⟨retrieving_announced, by decide +kernel, by decide +kernel, by decide +kernel, by decide +kernel, by decide, by decide,
    by decide +kernel, State.passesChecks_laws (by decide +kernel), by decide, by decide, by decide, by decide⟩

/-- A relocation on its way to its source, with O0 active. -/
def sourceMissing : State := (waitedOn .enRoute .working 1).activate (.order .o0)

theorem witness_CellEmptyEndsTheUnit_relocation :
    Announced sourceMissing 0 ∧ (sourceMissing.crane 0).mapping = some (0, .front) ∧ (sourceMissing.crane 0).state = .working
      ∧ ((sourceMissing.crane 0).unit.bind fun u => u.remaining.head?)
          = some { action := .pick, place := .cell (nearOf dropCell), job := h1 }
      ∧ ((sourceMissing.crane 0).unit.map (·.jobs)) = some [h1]
      ∧ sourceMissing.job? h1 = some (servingOn .enRoute) ∧ (servingOn .enRoute).stranded = false
      ∧ (sourceMissing.cell (nearOf dropCell)).state = .outReserved h1 1
      ∧ (Lawful sourceMissing ∧ PoolLawful sourceMissing ∧ WorkLawful sourceMissing)
      ∧ (servingOn .enRoute).kind = .relocate ∧ (servingOn .enRoute).origin = .internal
      ∧ (servingOn .enRoute).served = some h0 ∧ (servingOn .enRoute).target = some otherCell
      ∧ (sourceMissing.job? h0).map (·.waitsFor) = some (some h1) ∧ sourceMissing.liu.active.get .o0 = true
      ∧ (∀ l ∈ [OrderLink.o0, .o1], (sourceMissing.queue l).length + 4 ≤ 32)
      ∧ (sourceMissing.cell otherCell).state = .inReserved h1 := by
  refine ⟨?_, by decide +kernel, by decide +kernel, by decide +kernel, by decide +kernel, by decide +kernel, by decide,
    by decide +kernel, State.passesChecks_laws (by decide +kernel), by decide, by decide, by decide, by decide, by decide +kernel, by decide +kernel,
    by decide +kernel, by decide +kernel⟩
  unfold Announced; decide +kernel

/-- R103: the relocation whose source is empty closes DONE unmoved, its target is given back, and its retrieve waits for it no
longer. -/
theorem test_relocation_of_an_empty_cell :
    (∃ n ∈ (after (.cellEmpty 0 (encodeHandle h1)) sourceMissing).queue .o0,
        n = .palletMoved h1 h0 .done false (nearOf dropCell) none)
      ∧ ((after (.cellEmpty 0 (encodeHandle h1)) sourceMissing).cell otherCell).state = .empty
      ∧ ((after (.cellEmpty 0 (encodeHandle h1)) sourceMissing).job? h0).map (·.waitsFor) = some none := by decide +kernel

/-! ## Witnesses: timers -/

/-- A store at work whose deadline runs. -/
def timed : State := withCrane (worked .enRoute 1) 0 fun x => { x with deadline := some { step := 1, expiry := 9000 } }

theorem witness_TimersExpire :
    yard.liu.restarting = none ∧ (yard.holdBack 0).timer = none
      ∧ ((yard.setHoldBack 0 { timer := some 4000, heldBack := true }).holdBack 0).timer ≠ none
      ∧ (yard.crane 0).parkTimer = none ∧ (yard.crane 0).backoffTimer = none ∧ (yard.crane 0).deadline = none
      ∧ ((withCrane clearing 0 fun x => { x with parkTimer := some 9 }).crane 0).parkTimer ≠ none
      ∧ ((withCrane clearing 0 fun x => { x with parkTimer := some 9 }).crane 0).state = .clearing
      ∧ (withCrane clearing 0 fun x => { x with parkTimer := some 9 }).rail 0 ≠ none
      ∧ ((withCrane (inState .backoff) 0 fun x => { x with backoffTimer := some 9 }).crane 0).backoffTimer ≠ none
      ∧ ((withCrane (inState .backoff) 0 fun x => { x with backoffTimer := some 9 }).crane 0).state = .backoff
      ∧ (timed.crane 0).deadline = some { step := 1, expiry := 9000 }
      ∧ (timed.crane 0).unit = some { number := 9, jobs := [h0], steps := storeSteps0, current := 1 }
      ∧ storeSteps0[1 - 1]? = some { action := .pick, place := .station 0 false .front, job := h0 }
      ∧ timed.job? h0 = some (storeOn .enRoute)
      ∧ yard.jpl.startCount ≠ 0 ∧ yard.jpl.agingMode = .time ∧ 2 ≤ yard.jpl.counter
      ∧ ({ yard with jpl := { yard.jpl with counter := 1 } } : State).jpl.counter ≤ 1 := by decide +kernel

/-! ## Witnesses: allotment -/

/-- C0 WAITING with one READY store of a class. -/
def asking (k : Sys2Proof.Class) : State :=
  withCrane (((withJob { freeStore with cls := k }).putCell (nearOf dropCell) (plain .empty)).putCell dropCell
    (plain (.inReserved h0))) 0 fun x => { x with state := .waiting }

theorem asking_handleLaw (k : Sys2Proof.Class) : HandleLaw (asking k) :=
  withCrane_handleLaw (putCell_handleLaw (putCell_handleLaw (withJob_handleLaw { freeStore with cls := k }) _ _) _ _) _ _

/-- The same with C1 standing in the way. -/
def inTheWay : State :=
  withCrane ((asking 1).setRail 0 (some { front := entryAt 0, rear := entryAt 4 })) 1 fun x => { x with bay := 4 }

/-- C0 WAITING with one READY retrieve. -/
def askingOut : State :=
  withCrane (((withJob { retrieveOn .ready with chosen := none, unit := none }).putCell (nearOf dropCell)
    (plain .empty)).putCell dropCell (plain (.full 1))) 0 fun x => { x with state := .waiting }

theorem witness_SelectionPicksTheLeastUnit :
    (yard.crane 0).state ≠ .waiting ∧ (yard.crane 11).mapping = none
      ∧ ((asking 1).crane 0).state = .waiting ∧ ((asking 1).crane 0).mapping = some (0, .front)
      ∧ (asking 1).profile? 0 = some deepAisle ∧ ((asking 1).hold 0).state = .isOpen
      ∧ ((asking 1).aisle 0).pendingProfile = none ∧ (asking 1).flg.halt = false
      ∧ (∃ v ∈ (asking 1).proposals 0 deepAisle 0 .front,
          (asking 1).railVerdict deepAisle 0 .front ((asking 1).unitHull 0 v.steps) ≠ .dropped)
      ∧ (∀ u ∈ (inState .waiting).proposals 0 deepAisle 0 .front,
          (inState .waiting).railVerdict deepAisle 0 .front ((inState .waiting).unitHull 0 u.steps) = .dropped)
      ∧ (∃ v ∈ (asking 2).proposals 0 deepAisle 0 .front, v.isLoneLow = true
          ∧ (asking 2).railVerdict deepAisle 0 .front ((asking 2).unitHull 0 v.steps) ≠ .dropped)
      ∧ ((asking 2).holdBack 0).timer = none ∧ ((asking 2).holdBack 0).heldBack = false ∧ (asking 2).ale.tPair ≠ 0
      ∧ (((asking 1).setHoldState 0 .held).hold 0).state ≠ .isOpen := by decide +kernel

/-- C0 WAITING with a READY store and a READY retrieve, so that a selection forms two singles and a pair. -/
def askingBoth : State :=
  withCrane ((((((withJob freeStore).createJob
      { retrieveOn .ready with handle := h1, chosen := none, unit := none, candidates := [pickCell] }).putCell
    (nearOf dropCell) (plain .empty)).putCell dropCell (plain (.inReserved h0))).putCell (nearOf pickCell)
    (plain .empty)).putCell pickCell (plain (.full 1))) 0 fun x => { x with state := .waiting }

theorem witness_SelectionPicksTheLeastUnit_units :
    (AgeLaw askingBoth ∧ HandleLaw askingBoth ∧ JobLaw askingBoth) ∧ askingBoth.ale.pairing = true
      ∧ (askingBoth.proposals 0 deepAisle 0 .front).map (·.jobs.length) = [1, 1, 2]
      ∧ (∀ u ∈ askingBoth.proposals 0 deepAisle 0 .front, ∃ i ∈ u.jobs, u.hasOldest i) := by
  have h := State.passesChecks_laws (s := askingBoth) (by decide +kernel)
  refine ⟨⟨h.1.age, h.1.handle, h.2.2.job⟩, by decide +kernel, by decide +kernel, ?_⟩
  unfold Proposal.hasOldest Job.precedes; decide +kernel

theorem witness_WinnersAreOfferedOrClearedFor :
    ((asking 1).crane 0).state = .waiting ∧ ((asking 1).crane 0).mapping = some (0, .front)
      ∧ (asking 1).profile? 0 = some deepAisle ∧ (asking 1).aisleEligible 0 = true ∧ RoleLaw (asking 1)
      ∧ HandleLaw (asking 1) ∧ MapWf (asking 1)
      ∧ (∃ u ∈ ((asking 1).winner 0 deepAisle 0 .front).toList, u.isLoneLow = false ∧ u.pick = none
          ∧ (asking 1).railVerdict deepAisle 0 .front ((asking 1).unitHull 0 u.steps) = .clear)
      ∧ (askingOut.crane 0).state = .waiting ∧ askingOut.aisleEligible 0 = true
      ∧ (∃ u ∈ (askingOut.winner 0 deepAisle 0 .front).toList, u.isLoneLow = false ∧ u.pick = some dropCell
          ∧ askingOut.railVerdict deepAisle 0 .front (askingOut.unitHull 0 u.steps) = .clear)
      ∧ (askingOut.cell dropCell).state = .full 1 ∧ askingOut.pairAllows dropCell = true
      ∧ (∃ u ∈ (inTheWay.winner 0 deepAisle 0 .front).toList, u.isLoneLow = false
          ∧ ∃ x ∈ List.range 8, inTheWay.railVerdict deepAisle 0 .front (inTheWay.unitHull 0 u.steps) = .needs x)
      ∧ inTheWay.craneAt 0 (otherEnd .front) = some 1 := by
  refine ⟨by decide +kernel, by decide +kernel, by decide +kernel, by decide +kernel, (State.passesChecks_laws (by decide +kernel)).1.role,
    asking_handleLaw 1, ?_, by decide +kernel⟩
  unfold MapWf; decide +kernel

/-- The near cell across the aisle from the store's. -/
def acrossCell : CellAddr := cellA0 .right 4 1 .near

/-- C0 WAITING with a READY store and a READY retrieve. -/
def askingPair : State :=
  withCrane (((asking 1).createJob
      { retrieveOn .ready with handle := h1, candidates := [acrossCell], chosen := none, unit := none }).putCell acrossCell
    (plain (.full 1))) 0 fun x => { x with state := .waiting }

theorem witness_WinnersAreOfferedOrClearedFor_pair :
    (askingPair.crane 0).state = .waiting ∧ (askingPair.crane 0).mapping = some (0, .front)
      ∧ askingPair.profile? 0 = some deepAisle ∧ askingPair.aisleEligible 0 = true
      ∧ (∃ u ∈ (askingPair.winner 0 deepAisle 0 .front).toList, u.jobs.map (·.handle) = [h0, h1] ∧ u.isLoneLow = false
          ∧ u.pick = some acrossCell ∧ askingPair.railVerdict deepAisle 0 .front (askingPair.unitHull 0 u.steps) = .clear)
      ∧ (askingPair.cell acrossCell).state = .full 1 ∧ askingPair.pairAllows acrossCell = true ∧ RoleLaw askingPair
      ∧ HandleLaw askingPair ∧ MapWf askingPair := by
  have hl : Lawful askingPair := (State.passesChecks_laws (by decide +kernel)).1
  exact ⟨by decide +kernel, by decide +kernel, by decide +kernel, by decide +kernel, by decide +kernel, by decide +kernel,
    by decide +kernel, hl.role, hl.handle, hl.map⟩

/-- R50, R161: the jobs of an offered pair are partners, and the station counts one more retrieve in flight. -/
theorem test_pair_is_offered :
    ((after (.selection 0) askingPair).job? h0).bind (·.partner) = some h1
      ∧ ((after (.selection 0) askingPair).job? h1).bind (·.partner) = some h0
      ∧ (after (.selection 0) askingPair).credit 0 .front = { reportedFree := 2, inFlight := 1 } := by decide +kernel

/-- C0 works a class 2 store; a class 0 store of the same end is READY. -/
def preempting : State :=
  (onCrane { storeOn .enRoute with cls := 2 } .working storeSteps0 1 (.inReserved h0)).createJob
    { freeStore with handle := h1, cls := 0 }

/-- The class 0 store, as entered. -/
def urgentStore : Job := { freeStore with handle := h1, cls := 0, entryOrder := 1 }

theorem witness_PreemptionRedirectsACrane :
    preempting.job? h1 = some urgentStore ∧ preempting.ale.preemption = true ∧ urgentStore.state = .ready
      ∧ urgentStore.promised = none ∧ urgentStore.cls = 0 ∧ preempting.aisleEligible 0 = true
      ∧ (∀ c ∈ preempting.jobCranes urgentStore, (preempting.crane c).state ≠ .waiting)
      ∧ urgentStore.kind ≠ .retrieve
      ∧ (∃ x ∈ (minBy (fun t => [t.2.time]) ((preempting.jobCranes urgentStore).filterMap
          (preempting.preemptionTarget urgentStore))).toList, x.1 = 0 ∧ preempting.reserveUnit x.2 ≠ none)
      ∧ HandleLaw preempting ∧ MapWf preempting ∧ JobLaw preempting
      ∧ (∀ j, yard.job? h0 = some j → yard.ale.preemption = false) := by
  refine ⟨by decide +kernel, by decide +kernel, by decide, by decide, by decide, by decide +kernel, by decide +kernel,
    by decide, by decide +kernel, createJob_handleLaw (onCrane_handleLaw _ _ _ _ _) _, ?_,
    jobLaw_of_checks (by decide +kernel) (by decide +kernel), of_none (by decide +kernel)⟩
  unfold MapWf; decide +kernel

/-- A store whose load has passed and whose cell is still to be found. -/
def passedStore : Job :=
  { waitingStore with reason := none, load := some { height := 1450, weight := 800, cls := some 1 } }

/-- The same with one pair of EMPTY cells. -/
def roomy : State :=
  ((withJob passedStore).putCell (nearOf dropCell) (plain .empty)).putCell dropCell (plain .empty)

theorem witness_SlotSearchReservesTheLeastCell :
    (∀ j, yard.job? h0 = some j → j.kind ≠ .store)
      ∧ (withJob passedStore).job? h0 = some passedStore ∧ passedStore.kind = .store ∧ passedStore.state = .pending
      ∧ passedStore.load ≠ none ∧ passedStore.destination = none ∧ passedStore.reason = none
      ∧ (withJob passedStore).profile? 0 = some deepAisle ∧ passedStore.end_ = jobEnd .front ∧ MapWf (withJob passedStore)
      ∧ (∀ c, ¬ SlotCell deepAisle (withJob passedStore).cell 0 ((passedStore.load.bind (·.cls)).getD 0) c)
      ∧ roomy.job? h0 = some passedStore ∧ roomy.profile? 0 = some deepAisle ∧ MapWf roomy
      ∧ SlotCell deepAisle roomy.cell 0 ((passedStore.load.bind (·.cls)).getD 0) dropCell := by
  refine ⟨of_none (by decide +kernel), by decide +kernel, by decide, by decide, by decide, by decide, by decide,
    by decide +kernel, by decide, yard_mapWf, ?_, by decide +kernel, by decide +kernel, ?_,
    ((Geometry.mem_allCells_iff _ _ _).mp (by decide +kernel)), (State.admits_iff (p := deepAisle) _ (by decide +kernel)).mp
      (by decide +kernel)⟩
  · exact fun c hc => (State.slotWinner_eq_none (e := .front) (x := { bay := 0, level := 0 }) (ok := fun _ => true)
      (p := deepAisle) (by decide +kernel)).mp (by decide +kernel) c ⟨hc, rfl⟩
  unfold MapWf; decide +kernel

/-- Its near cell FULL, and no other cell known. -/
def cramped : State :=
  ((withJob blockedRetrieve).putCell (nearOf dropCell) (plain (.full 1))).putCell dropCell (plain (.full 1))

/-- With a pair of EMPTY cells one bay on. -/
def relievable : State :=
  (cramped.putCell (cellA0 .left 3 1 .near) (plain .empty)).putCell (cellA0 .left 3 1 .deep) (plain .empty)

theorem relievable_laws : Lawful relievable ∧ PoolLawful relievable ∧ WorkLawful relievable :=
  State.passesChecks_laws (by decide +kernel)

theorem cramped_search (q : Profile) (k : Sys2Proof.Class) (hq : cramped.profile? dropCell.aisle = some q)
    (hk : (cramped.cell (nearOf dropCell)).state = .full k) (x : CellAddr) :
    ¬ TargetCell q cramped.cell (nearOf dropCell) k x := by
  have hc : (cramped.cell (nearOf dropCell)).state = .full 1 := by decide +kernel
  obtain rfl : 1 = k := CellState.full.inj (hc.symm.trans hk)
  have hn : cramped.targetWinner (nearOf dropCell) (cellPoint (nearOf dropCell)) 1 (fun _ => true) = none := by
    decide +kernel
  exact fun hx => (State.targetWinner_eq_none (source := nearOf dropCell) hq).mp hn x ⟨hx, rfl⟩

theorem relievable_search : TargetCell deepAisle relievable.cell (nearOf dropCell) 1 (cellA0 .left 3 1 .deep) :=
  ((State.targetWinner_eq_some (s := relievable) (x := cellPoint (nearOf dropCell)) (ok := fun _ => true)
    (by decide +kernel) _).mp (by decide +kernel)).1.1

theorem witness_RelocationRequestCreatesAJob :
    (∀ j, yard.job? h0 = some j → j.kind ≠ .retrieve) ∧ HandleLaw cramped
      ∧ cramped.job? h0 = some blockedRetrieve ∧ blockedRetrieve.kind = .retrieve ∧ blockedRetrieve.state = .pending
      ∧ blockedRetrieve.reason = some .noCandidate ∧ blockedRetrieve.waitsFor = none
      ∧ cramped.inWindow blockedRetrieve = true
      ∧ blockedRetrieve.candidates.find? (fun c => decide (cramped.status c = .blocked)) = some dropCell
      ∧ (∀ q k, cramped.profile? dropCell.aisle = some q → (cramped.cell (nearOf dropCell)).state = .full k →
          ∀ x, ¬ TargetCell q cramped.cell (nearOf dropCell) k x)
      ∧ relievable.job? h0 = some blockedRetrieve ∧ relievable.inWindow blockedRetrieve = true
      ∧ blockedRetrieve.candidates.find? (fun c => decide (relievable.status c = .blocked)) = some dropCell
      ∧ relievable.nextHandle = some h1 ∧ (relievable.cell (nearOf dropCell)).state = .full 1
      ∧ relievable.profile? dropCell.aisle = some deepAisle
      ∧ TargetCell deepAisle relievable.cell (nearOf dropCell) 1 (cellA0 .left 3 1 .deep)
      ∧ PoolLawful relievable ∧ Lawful relievable :=
  ⟨of_none (by decide +kernel), (State.passesChecks_laws (by decide +kernel)).1.handle, by decide +kernel, by decide,
    by decide, by decide, by decide, by decide +kernel, by decide +kernel, cramped_search, by decide +kernel,
    by decide +kernel, by decide +kernel, by decide +kernel, by decide +kernel, by decide +kernel, relievable_search,
    relievable_laws.2.1, relievable_laws.1⟩

/-- R68: the READY relocation starts the selection of the waiting crane, behind the re-evaluations its cells draw. -/
theorem test_relocation_wakes_the_cranes :
    (after (.relocationRequest h0) (withCrane relievable 0 fun x => { x with state := .waiting })).events.getLast?
      = some (.selection 0) := by decide +kernel

theorem witness_ReEvaluationFollowsTheCandidates :
    (∀ j, yard.job? h0 = some j → j.kind = .relocate)
      ∧ (withJob { passedStore with reason := some .noSpace }).job? h0 = some { passedStore with reason := some .noSpace }
      ∧ ({ passedStore with reason := some .noSpace } : Job).state = .pending
      ∧ relievable.job? h0 = some blockedRetrieve ∧ blockedRetrieve.promised = none ∧ HandleLaw relievable
      ∧ relievable.kept blockedRetrieve ≠ []
      ∧ (emptied.createJob { blockedRetrieve with candidates := [nearOf dropCell] }).job? h0
          = some { blockedRetrieve with candidates := [nearOf dropCell] }
      ∧ (emptied.createJob { blockedRetrieve with candidates := [nearOf dropCell] }).kept
          { blockedRetrieve with candidates := [nearOf dropCell] } = []
      ∧ blockedRetrieve.unit = none ∧ blockedRetrieve.partner = none ∧ blockedRetrieve.chosen = none
      ∧ blockedRetrieve.target = none ∧ blockedRetrieve.origin = .order .o0
      ∧ HandleLaw (emptied.createJob { blockedRetrieve with candidates := [nearOf dropCell] }) :=
  ⟨of_none (by decide +kernel), by decide +kernel, by decide, by decide +kernel, by decide, relievable_laws.1.handle,
    by decide +kernel, by decide +kernel, by decide +kernel, by decide, by decide, by decide, by decide, by decide,
    createJob_handleLaw (putCell_handleLaw yard_handleLaw _ _) _⟩

/-- The served retrieve's one candidate gone, its relocation in each of its states. -/
def bereftStates : List State := waitedStates.map fun s => s.putCell dropCell (plain .empty)

theorem witness_ReEvaluationFollowsTheCandidates_relocation :
    (∀ s ∈ bereftStates, Lawful s ∧ PoolLawful s ∧ WorkLawful s)
      ∧ (∀ s ∈ bereftStates, ((s.job? h0).map fun j => (j.kind, j.state, j.promised, j.waitsFor, j.origin))
          = some (.retrieve, .pending, none, some h1, .order .o0))
      ∧ (∀ s ∈ bereftStates, (s.job? h0).map s.kept = some [])
      ∧ (∀ s ∈ bereftStates, ((s.job? h1).map fun r => (r.handle, r.kind, r.served, r.origin))
          = some (h1, .relocate, some h0, .internal))
      ∧ bereftStates.map (fun s => (s.job? h1).map (·.state)) = [some .ready, some .offered, some .enRoute, some .loaded]
      ∧ (∀ s ∈ bereftStates, ∀ l ∈ [OrderLink.o0, .o1], (s.queue l).length + 2 < Config.queueCapacity) := by
  have h : bereftStates.all State.passesChecks = true := by decide +kernel
  exact ⟨fun s hs => State.passesChecks_laws (List.all_eq_true.mp h s hs), by decide +kernel, by decide +kernel,
    by decide +kernel, by decide +kernel, by decide +kernel⟩

/-- R56, R57: a retrieve with no candidate left closes, and with it the relocation it waits for, but not a LOADED one. -/
theorem test_no_stock_cancels_the_relocation :
    bereftStates.map (fun s => ((after (.reEvaluation h0) s).job? h0).isSome) = [false, false, false, false]
      ∧ bereftStates.map (fun s => ((after (.reEvaluation h0) s).job? h1).map (·.state)) = [none, none, none, some .loaded]
      ∧ bereftStates.map (fun s => ((after (.reEvaluation h0) s).cell otherCell).state)
          = [.empty, .empty, .empty, .inReserved h1] := by decide +kernel

theorem witness_AxisTimesAreExactAndBounded :
    0 < 3000 ∧ 3000 < 65536 ∧ 0 < 600 ∧ 0 * 1500 = 0 ∧ 0 < 10 * 1500 ∧ 10 * 1500 * 600 = 3000 * 3000
      ∧ 9 * 1500 * 600 < 3000 * 3000 ∧ (9 : Nat) ≤ 10 := by decide

/-! ## The manual's worked figures -/

/-- Section 2.3, horizontal axis of A4. -/
theorem test_axis_times_horizontal :
    [0, 1, 2, 3, 8, 9, 10, 11, 16, 25, 26].map (fun n => axisTime n 1500 3000 600)
      = [0, 3163, 4473, 5478, 8945, 9487, 10000, 10500, 13000, 17500, 18000] := by decide +kernel

/-- Section 2.3, vertical axis of A4. -/
theorem test_axis_times_vertical :
    [1, 2, 3, 4, 5, 6, 7].map (fun n => axisTime n 1250 1100 500) = [3163, 4473, 5610, 6746, 7882, 9019, 10155] := by
  decide +kernel

/-- A cell of A4. -/
def cellA4 (side : Side) (bay level : Nat) (depth : Depth) : CellAddr :=
  { aisle := 4, side := side, bay := bay, level := level, depth := depth }

/-- A cell of A4 as a place. -/
def placeA4 (side : Side) (bay level : Nat) (depth : Depth) : Place := .cell (cellA4 side bay level depth)

/-- Section 2.5: the store, the retrieve, the relocation and the pair. -/
theorem test_unit_times :
    unitTime a4 { bay := 0, level := 0 } .front [.station 4 false .front, placeA4 .left 25 6 .deep] = 52000
      ∧ unitTime a4 { bay := 25, level := 6 } .front [placeA4 .right 9 2 .near, .station 4 true .front] = 35487
      ∧ unitTime a4 { bay := 61, level := 0 } .rear [placeA4 .left 50 3 .near, placeA4 .right 53 3 .near] = 40923
      ∧ unitTime a4 { bay := 0, level := 0 } .front [.station 4 false .front, placeA4 .left 25 6 .deep,
          placeA4 .right 26 4 .deep, .station 4 true .front] = 73973 := by decide +kernel

/-- Section 2.8: the keys of a slot search and of a target search. -/
theorem test_search_keys :
    searchKey a4 5000 { bay := 0, level := 0 } 1 (cellA4 .left 10 5 .near) = 18000
      ∧ searchKey a4 5000 { bay := 0, level := 0 } 1 (cellA4 .right 8 3 .deep) = 25945
      ∧ searchKey a4 5000 { bay := 40, level := 8 } 1 (cellA4 .right 40 8 .near) = 8000
      ∧ searchKey a4 5000 { bay := 40, level := 8 } 1 (cellA4 .right 41 3 .deep) = 24882 := by decide +kernel

/-- The check value of this polynomial and initial value for the nine ASCII digits: R193 names the CRC, and the value
0x29B1 is its known one. -/
theorem test_crc : crc16 [0x31, 0x32, 0x33, 0x34, 0x35, 0x36, 0x37, 0x38, 0x39] = 0x29B1 := by decide +kernel

/-- R195: a cell's first byte, and bay and level as numbers. -/
theorem test_cell_bytes : cellAt (encodeCell (cellA4 .right 25 6 .deep)) 0 = cellA4 .right 25 6 .deep := by decide

/-! ## One step each -/

/-- R18: SET RUN of ten bays from bay 4 of an aisle of five, deep cell of bay 5 reserved: one set, one skipped, CLAMPED. -/
theorem test_set_run_clamps_and_skips :
    (after (.setRun .o0 (encodeSetRun { runFields with side := 0 })) reservedDeep).tx (.order .o0)
      = [.reply (okReply 0x06 true (.runSet 1 1))] := by decide +kernel

/-- R17: a FULL cell set without a class takes its fit class; its flag is cleared. -/
theorem test_set_cell_takes_the_fit_class :
    (after (.setCell .o0 (encodeSetCell { cell := dropCell, state := 1, loadClass := 255 })) yard).cell dropCell
      = plain (.full 1) := by decide +kernel

/-- R187: NOTE and a mask for RAIL_BREACH are stored as AISLE and unmasked, CLAMPED. -/
theorem test_rail_breach_is_clamped :
    (after (.setFaultControl .o0 [14, 1, 0]) yard).tx (.order .o0)
      = [.reply (okReply 0x0F true (.faultControl false .aisle))] := by decide +kernel

/-- Section 8.5, last row: a free count of 12 is held at 8. -/
theorem test_output_free_is_clamped :
    (after (.outputFree [0, 0, 12]) yard).credit 0 .front = { reportedFree := 8, inFlight := 0 } := by decide +kernel

/-- R163: a window of 0 is held at 1, and taken_through stands one below the first number. -/
theorem test_open_wave :
    (after (.openWave .o0 [255, 0, 0, 1]) yard).swu.waves
      = [{ id := 255, isOpen := true, window := 1, firstSeq := 1, takenThrough := 0, live := 0 }] := by decide +kernel

/-- R172: a gate closing while both cranes are IDLE sends each PARK. -/
theorem test_gate_parks_idle_cranes :
    (after (.gateChange 0 false) yard).tx (.crane 0) = [.park] ∧ (after (.gateChange 0 false) yard).tx (.crane 1) = [.park]
      ∧ ((after (.gateChange 0 false) yard).hold 0).state = .draining := by decide +kernel

/-- R44: the store's handle names the slot at the head of the free list. -/
theorem test_enter_store_reply :
    (after (.enterStore .o0 (encodeEnterStore storeFields)) emptied).tx (.order .o0)
      = [.reply (okReply 0x01 true (.entered h0 .pending (some .noPallet) none none))] := by decide +kernel

/-- R50, R134: ACCEPT puts the offered crane to work. -/
theorem test_accept : ((after (.accept 0 [9]) offeredStore).crane 0).state = .working := by decide +kernel

/-- R141, R159: the pick of a store empties its station and tells it. -/
theorem test_picked_store :
    (after (.picked 0 [0, 0]) (worked .enRoute 1)).tx .station = [.taken 0 .front 7] := by decide +kernel

/-- R142: the drop of a store fills its cell. -/
theorem test_dropped_store :
    (after (.dropped 0 [0, 0]) (worked .loaded 2)).cell dropCell = plain (.full 1) := by decide +kernel

/-- R92: the relocation's target is the deep cell of the pair one bay off. -/
theorem test_relocation_target :
    (after (.relocationRequest h0) relievable).cell (cellA0 .left 3 1 .deep) = plain (.inReserved h1) := by decide +kernel

/-- R79: the winner is offered under the unit counter. -/
theorem test_selection_offers :
    ((after (.selection 0) (asking 1)).tx (.crane 0)) = [.offer 0 storeSteps0] := by decide +kernel

/-- R81: where the rear crane is in the way it is cleared to hull + G + 1. -/
theorem test_selection_clears : ((after (.selection 0) inTheWay).tx (.crane 1)) = [.clear 6] := by decide +kernel

/-- R60, row OFFERED: cancelling the retrieve of an offered pair takes the whole offer back. -/
theorem test_cancel_of_an_offered_pair :
    (after (.cancel .o1 (encodeHandle h1)) (paired .offered .offered 1)).tx (.crane 0) = [.withdraw 9 0]
      ∧ ((after (.cancel .o1 (encodeHandle h1)) (paired .offered .offered 1)).crane 0).state = .idle
      ∧ ((after (.cancel .o1 (encodeHandle h1)) (paired .offered .offered 1)).job? h0).map (·.state) = some .ready := by
  decide +kernel

/-- R60, retrieve of an EN_ROUTE pair: keep 2, the store's steps stand. -/
theorem test_cancel_of_a_working_pair :
    (after (.cancel .o1 (encodeHandle h1)) (paired .enRoute .working 1)).tx (.crane 0) = [.withdraw 9 2]
      ∧ ((after (.cancel .o1 (encodeHandle h1)) (paired .enRoute .working 1)).crane 0).state = .working := by
  decide +kernel

/-- R57: a READY relocation is cancelled with its retrieve, and its source is FULL again. -/
theorem test_cancelled_relocation :
    (after (.cancel .o0 (encodeHandle h0)) waited).job? h1 = none
      ∧ (after (.cancel .o0 (encodeHandle h0)) waited).cell (nearOf dropCell) = plain (.full 1) := by
  decide +kernel

/-- R58: in a full queue the retrieve, which entered CLOSING first, waits before the relocation cancelled with it. -/
theorem test_wait_list_order :
    ((after (.cancel .o0 (encodeHandle h0))
        (waited.setQueue .o0 (List.replicate 32 (.profileApplied 0)))).jpl.closingWait.get .o0) = [h0, h1] := by
  decide +kernel

/-- R185, R191: a fault hold set before RESTART SOFT holds its aisle after it. -/
theorem test_fault_hold_survives_restart_soft :
    ((after .restartSoft (breached 0 yard)).hold 0).state = .held := by decide +kernel

/-- R201 steps 3 and 4: a frame being sent on another link is completed; its list is emptied. -/
theorem test_restart_soft_completes_a_frame :
    (after .restartSoft ((yard.setTx (.crane 0) [.park, .resume]))).finishing (.crane 0) = some .park
      ∧ (after .restartSoft ((yard.setTx (.crane 0) [.park, .resume]))).tx (.crane 0) = [] := by decide +kernel

/-- R63: a tick at counter 1 ages a waiting job and reloads the counter. -/
theorem test_aging_tick :
    ((after .agingCounterTick { withJob waitingStore with
        jpl := { (withJob waitingStore).jpl with counter := 1 } }).job? h0).map (·.age) = some 1 := by decide +kernel

end Sys2Proof.Tests
end

section
/-! O7. No law ties the waiting field of a retrieve to a relocation that serves it (R93, R99), so a state with every law
may have a retrieve that waits for the store of a pair. Cancelling that retrieve withdraws the pair's whole unit and
closes the store, and leaves the pair's own retrieve at work on a crane that has no unit (R50). -/

namespace Sys2Proof.Refutations

open Sys2Proof Sys2Proof.Machine

/-- A single aisle of three bays and two levels. -/
def plainAisle : Profile where
  geo := { kind := .single, bays := 3, levels := 2, doubleDeep := false, classTable := [0, 1] }
  op :=
    { classCount := 2, limit0 := 1100, limit1 := 1500, limit2 := 1900, limit3 := 3000, weightMin := 50
      weightMax := 1200, px := 1500, vx := 3000, ax := 600, py := 1250, vy := 1100, ay := 500, hStation := 5000
      hNear := 8000, hDeep := 12000, gap := 1, window := 8 }

/-- The handle of a slot that has not been used. -/
def firstHandle (i : Fin 256) : Handle := { slot := i, gen := 0 }

/-- The cell of a bay, on the lowest level of the left side of aisle A0. -/
def lowCell (bay : Nat) : CellAddr := { aisle := 0, side := .left, bay := bay, level := 1, depth := .near }

/-- The unit number of the pair. -/
def pairUnit : UnitRef := { crane := 0, number := 9 }

/-- The store of the pair, under way to its station. -/
def pairStore : Job :=
  { Job.new (firstHandle 0) .store (.order .o0) 0 0 0 with
    end_ := .front, state := .enRoute, chosen := some (lowCell 1), unit := some pairUnit
    partner := some (firstHandle 1) }

/-- The retrieve of the pair. -/
def pairRetrieve : Job :=
  { Job.new (firstHandle 1) .retrieve (.order .o0) 0 0 0 with
    candidates := [lowCell 2], state := .enRoute, chosen := some (lowCell 2), unit := some pairUnit
    partner := some (firstHandle 0) }

/-- A retrieve that waits, by its record, for the store of the pair. -/
def misledRetrieve : Job :=
  { Job.new (firstHandle 2) .retrieve (.order .o0) 0 0 0 with
    reason := some .relocating, waitsFor := some (firstHandle 0) }

/-- The crane with the pair, at its first step. -/
def pairCrane : Crane :=
  { Crane.initial with
    mapping := some (0, .front), state := .working, known := true
    unit := some
      { number := 9, jobs := [firstHandle 0, firstHandle 1], current := 1
        steps := storeSteps 0 .front pairStore ++ retrieveSteps 0 .front pairRetrieve (lowCell 2) } }

/-- Aisle A0 with the pair on its crane, and the CANCEL of the third job at the front of the queue. -/
def misledState : State :=
  let s := State.reset.setAisle 0 { profile := some plainAisle, pendingProfile := none, cells := [] }
  let s := ((s.createJob pairStore).createJob pairRetrieve).createJob misledRetrieve
  let s := s.putCell (lowCell 1) { state := .inReserved (firstHandle 0), conflict := false }
  let s := s.putCell (lowCell 2) { state := .outReserved (firstHandle 1) 0, conflict := false }
  let s := s.setCredit 0 .front { reportedFree := 1, inFlight := 1 }
  { s.setCrane 0 pairCrane with pending := [.cancel .o0 (encodeHandle misledRetrieve.handle)] }

theorem misledState_laws : Lawful misledState ∧ PoolLawful misledState ∧ WorkLawful misledState :=
  State.passesChecks_laws (by decide +kernel)

/-- The CANCEL takes the crane's unit and leaves the pair's retrieve in it. -/
theorem cancel_of_misledRetrieve :
    ∃ t, step misledState = .next t ∧ (t.crane 0).unit = none
      ∧ ∃ j ∈ t.jobs, j.unit = some pairUnit :=
  ⟨_, rfl, by decide +kernel, by decide +kernel⟩

/-- Refutes O7: a retrieve that waits for the store of a pair takes the pair's unit with it when it is cancelled, and
the other job of the pair names a unit that no crane has. -/
theorem not_stepKeepsWorkLaws : ¬ Obligations.StepKeepsWorkLaws := by
  intro keeps
  obtain ⟨lawful, pool, work⟩ := misledState_laws
  obtain ⟨t, ht, hcrane, j, hj, hunit⟩ := cancel_of_misledRetrieve
  obtain ⟨u, hu, -⟩ := ((keeps misledState t lawful pool work ht).unit.2 j hj).2 pairUnit hunit
  exact absurd (hcrane.symm.trans hu) (by simp)

end Sys2Proof.Refutations
end
section
/-! What a command can do to the state, said once for all commands but the resets: it is a run of the shared operations
(`Change`), of writes to the links, and of the one register the command is there to write. -/

namespace Sys2Proof.Machine

/-- The register a command is there to write, apart from what the shared operations write. -/
inductive Topic where
  | setting | mapping | profile | sources | faults | wave
  deriving DecidableEq

/-- The elementary changes of the commands, each with the topic whose commands alone make it. -/
inductive Move : Option Topic → State → State → Prop
  | shared {s t : State} : Change s t → Move none s t
  | link {s : State} (x : Links) : x.queue = s.liu.queue → x.attn = s.liu.attn → x.rate = s.liu.rate →
      Move none s { s with liu := x }
  | fetched {s : State} (l : OrderLink) (q : List Notice) : q.length ≤ (s.queue l).length → Move none s (s.setQueue l q)
  | run {s : State} (x : SetState) (cs : List CellAddr) : (∀ c ∈ cs, s.isTaken c = false) → Move none s (s.putRun x cs)
  | setting {s : State} (n v : Nat) : Move (some .setting) s (s.writeSetting n v)
  | mapping {s : State} (c : CraneId) (m : Option (AisleId × End)) (x : Crane) : s.mappingRefused c m = false →
      x.mapping = m → x.strikes ≤ 7 → Move (some .mapping) s (s.setCrane c x)
  | relay {s : State} (a : AisleId) (q : Profile) : s.totalCells a q.geo ≤ Config.cellCapacity →
      Move (some .profile) s (s.relay a q)
  | pend {s : State} (a : AisleId) (q : PendingProfile) :
      Move (some .profile) s (s.setAisle a { s.aisle a with pendingProfile := some q })
  | sources {s : State} (a : AisleId) (x : HoldSources) : Move (some .sources) s (s.setHold a { s.hold a with sources := x })
  | faults {s : State} (x : FaultLog) : Move (some .faults) s { s with flg := x }
  | wave {s : State} (w : Wave) : s.swu.waves.length < Config.waveCapacity →
      Move (some .wave) s { s with swu := { s.swu with waves := s.swu.waves ++ [w] } }

/-- Any number of elementary changes in a row, those of one topic among them. -/
def Moves (x : Option Topic) : State → State → Prop := Relation.ReflTransGen fun s t => Move none s t ∨ Move x s t

variable {x : Option Topic} {r s t : State}

theorem Moves.refl (s : State) : Moves x s s := Relation.ReflTransGen.refl

theorem Moves.trans (h : Moves x r s) (k : Moves x s t) : Moves x r t := Relation.ReflTransGen.trans h k

theorem Move.moves (h : Move x s t) : Moves x s t := Relation.ReflTransGen.single (.inr h)

theorem Move.always (h : Move none s t) : Moves x s t := Relation.ReflTransGen.single (.inl h)

theorem Changes.moves (h : Changes r s) : Moves x r s := by
  induction h with
  | refl => exact .refl _
  | tail _ hc ih => exact ih.trans (Move.shared hc).always

theorem Moves.changes (h : Moves x r s) (k : Changes s t) : Moves x r t := h.trans k.moves

/-- A property that every elementary change of a topic keeps is kept by any number of them. -/
theorem Moves.keep {P : State → Prop} (hP : ∀ y, y = none ∨ y = x → ∀ s t, Move y s t → P s → P t) (h : Moves x r s)
    (hr : P r) : P s := by
  induction h with
  | refl => exact hr
  | tail _ hc ih => exact hc.elim (fun k => hP none (.inl rfl) _ _ k ih) fun k => hP x (.inr rfl) _ _ k ih

/-- A reading that no elementary change of a topic alters is altered by none of them in a row. -/
theorem Moves.same {α : Type} {f : State → α} (hf : ∀ y, y = none ∨ y = x → ∀ s t, Move y s t → f t = f s)
    (h : Moves x r s) : f s = f r :=
  h.keep (P := fun s => f s = f r) (fun y hy _ _ k ih => (hf y hy _ _ k).trans ih) rfl

theorem Moves.each {α : Type} {f : State → α → State} (hf : ∀ s a, Moves x s (f s a)) (as : List α) (s : State) :
    Moves x s (s.each as f) := by
  induction as generalizing s with
  | nil => exact .refl _
  | cons a as ih => exact (hf s a).trans (ih _)

theorem Moves.withField {α : Type} (s : State) (y : Option α) (f : α → Answer) (h : ∀ a, Moves x s (f a).state) :
    Moves x s (s.withField y f).state := by
  unfold State.withField
  split
  · exact h _
  · exact .refl _

/-! ## Links -/

theorem Moves.setTx (s : State) (k : Link) (ms : List Message) : Moves x s (s.setTx k ms) :=
  (Move.link { s.liu with tx := s.liu.tx.set (linkIndex k) ms } rfl rfl rfl).always

theorem Moves.setRx (s : State) (k : Link) (y : Receiver) : Moves x s (s.setRx k y) :=
  (Move.link { s.liu with rx := s.liu.rx.set (linkIndex k) y } rfl rfl rfl).always

theorem Moves.activate (s : State) (k : Link) : Moves x s (s.activate k) := by
  unfold State.activate
  split
  · next l => exact (Move.link { s.liu with active := s.liu.active.set l true } rfl rfl rfl).always
  · exact .refl _

theorem Moves.heard (s : State) (i : Instr) (k : Link) : Moves x s (s.heard i k) :=
  (Changes.moves ((Changes.refl s).take i)).trans (.activate _ _)

/-- A command does what its block's answer does, beside writes to the links and events. -/
theorem Moves.command (s : State) (i : Instr) (k : Link) (code : Byte) (p : List Byte) (act : State → Answer)
    (ha : Moves x (s.heard i k) (act (s.heard i k)).state) : Moves x s (s.command i k code p act) := by
  unfold State.command
  dsimp only
  split
  · exact Changes.moves ((Changes.refl s).take i)
  · split
    · exact (Moves.heard s i k).changes (Changes.raiseFault (.refl _) _ _ _ _ _)
    · exact (Moves.heard s i k).trans (ha.trans (.setTx _ _ _))

theorem Moves.discardFrame (s : State) (k : Link) (bs : List Byte) : Moves x s (s.discardFrame k bs) :=
  (Moves.setRx s k .hunting).changes (Changes.raiseFault ((Changes.refl _).forget _) _ _ _ _ _)

theorem Moves.hunt (s : State) (k : Link) (b : Byte) : Moves x s (s.hunt k b) := by
  unfold State.hunt
  split <;> exact .setRx _ _ _

theorem Moves.checkFrame (s : State) (k : Link) (bs : List Byte) : Moves x s (s.checkFrame k bs) := by
  unfold State.checkFrame
  dsimp only
  repeat' split
  · exact .discardFrame _ _ _
  · exact .setRx _ _ _
  · exact .discardFrame _ _ _
  · exact (Moves.setRx s k .hunting).changes (Changes.raise (.refl _) _)
  · exact .discardFrame _ _ _

theorem Moves.receive (s : State) (k : Link) (b : Byte) : Moves x s (s.receive k b) := by
  unfold State.receive
  repeat' split
  · exact .refl _
  · exact .hunt _ _ _
  · exact (Moves.discardFrame _ _ _).trans (.hunt _ _ _)
  · exact (Changes.moves ((Changes.refl s).forget _)).trans (.checkFrame _ _ _)

theorem Moves.frameSent (s : State) (k : Link) (more : Bool) : Moves x s (s.frameSent k more) := by
  unfold State.frameSent State.headSent
  repeat' split
  · exact (Move.link { s.liu with finishing := s.liu.finishing.set (linkIndex k) none } rfl rfl rfl).always
  · exact .refl _
  · exact .setTx _ _ _
  · exact (Moves.setTx s k _).changes ((Changes.refl _).step (.events _))
  · exact .setTx _ _ _

theorem Moves.fetch (s : State) (l : OrderLink) (p : List Byte) : Moves x s (s.fetch l p).state := by
  unfold State.fetch
  split
  · exact .refl _
  · refine .withField _ _ _ fun again => ?_
    split
    · exact .refl _
    · have h : Moves x s (s.setQueue l ((s.queue l).drop Config.fetchLimit)) := (Move.fetched l _ (by simp)).always
      have k := h.trans (Move.link { (s.setQueue l ((s.queue l).drop Config.fetchLimit)).liu with
        lastFetched := s.liu.lastFetched.set l ((s.queue l).take Config.fetchLimit) } rfl rfl rfl).always
      unfold State.fetchNew
      dsimp only [State.ok]
      split
      · exact k
      · exact k.changes (Changes.raise (.refl _) _)

theorem Moves.restart (s : State) (l : OrderLink) (p : List Byte) : Moves x s (s.restart l p).state := by
  unfold State.restart
  split
  · exact .refl _
  · exact .withField _ _ _ fun y =>
      (Move.link { s.liu with restarting := some { link := l, kind := y } } rfl rfl rfl).always

/-! ## Answers that are runs of the shared operations -/

theorem Changes.withField {α : Type} (s : State) (y : Option α) (f : α → Answer) (h : ∀ a, Changes s (f a).state) :
    Changes s (s.withField y f).state := by
  unfold State.withField
  split
  · exact h _
  · exact .refl _

theorem Changes.createStore (s : State) (l : OrderLink) (f : EnterStoreFields) (a : AisleId) (e : End) (b : Bool)
    (p : List Byte) : Changes s (s.createStore l f a e b p).state := by
  unfold State.createStore
  split
  · exact .refl _
  · next h hn =>
    have k := (Changes.refl s).createJob (storeRecord h l f a e b) hn (.inl rfl)
    refine Changes.raise ?_ _
    unfold State.reserveFixed
    split
    · next d _ =>
      cases hr : (s.createJob (storeRecord h l f a e b)).reserveDrop d h with
      | none => exact k
      | some u => exact k.reserveDrop d h hr
    · exact k

theorem Changes.enterStore (s : State) (l : OrderLink) (p : List Byte) : Changes s (s.enterStore l p).state := by
  unfold State.enterStore
  refine .withField _ _ _ fun f => ?_
  split
  · exact .refl _
  · refine .withField _ _ _ fun e => .withField _ _ _ fun b => ?_
    split
    · exact .refl _
    · exact .createStore ..

theorem Changes.createRetrieve (s : State) (l : OrderLink) (f : EnterRetrieveFields) (a : AisleId) (e : JobEnd) :
    Changes s (s.createRetrieve l f a e).state := by
  unfold State.createRetrieve
  split
  · exact .refl _
  · next h hn =>
    exact (((Changes.refl s).createJob (retrieveRecord h l f a e) hn (.inl rfl)).waveEntered _).evaluate _

theorem Changes.enterRetrieve (s : State) (l : OrderLink) (p : List Byte) : Changes s (s.enterRetrieve l p).state := by
  unfold State.enterRetrieve
  split
  · split <;> exact .refl _
  · refine .withField _ _ _ fun f => ?_
    split
    · exact .refl _
    · refine .withField _ _ _ fun e => ?_
      split
      · exact .refl _
      · exact .createRetrieve ..

theorem Changes.cancel (s : State) (l : OrderLink) (p : List Byte) : Changes s (s.cancel l p).state := by
  unfold State.cancel
  refine .withField _ _ _ fun h => ?_
  repeat' split
  any_goals exact .refl _
  exact (Changes.refl s).cancelJob _

theorem Changes.resolve (s : State) (p : List Byte) : Changes s (s.resolve p).state := by
  unfold State.resolve
  split
  · exact .refl _
  · refine .withField _ _ _ fun h => ?_
    split
    · exact .refl _
    · refine .withField _ _ _ fun d => .withField _ _ _ fun k => ?_
      split
      · exact (Changes.refl s).resolveJob _ _ _
      · exact .refl _

theorem SetState.record_isReserved (x : SetState) (k : Class) : (x.record k).state.isReserved = false := by
  cases x <;> rfl

/-- A cell that is not taken may take any settable record. -/
theorem cellStep_of_not_taken {s : State} {c : CellAddr} (h : s.isTaken c = false) (x : SetState) (k : Class) :
    CellStep s c (x.record k) := by
  rw [State.isTaken, Bool.or_eq_false_iff] at h
  exact ⟨fun hr => by simp [SetState.record_isReserved] at hr, fun hf => by simp [h.2] at hf⟩

theorem Changes.setCell (s : State) (p : List Byte) : Changes s (s.setCell p).state := by
  unfold State.setCell
  refine .withField _ _ _ fun f => ?_
  split
  · exact .refl _
  · refine .withField _ _ _ fun x => .withField _ _ _ fun k => ?_
    split
    · exact .refl _
    · split
      · exact .refl _
      · next ht => exact (Changes.putCell (.refl s) _ _ (cellStep_of_not_taken (by simpa using ht) x _)).recheckAisle _ _

theorem Moves.setRun (s : State) (p : List Byte) : Moves x s (s.setRun p).state := by
  unfold State.setRun
  refine .withField _ _ _ fun f => ?_
  split
  · exact .refl _
  · refine .withField _ _ _ fun y => .withField _ _ _ fun side => .withField _ _ _ fun depth => ?_
    split
    · exact .refl _
    · dsimp only
      split
      · exact .refl _
      · unfold State.applyRun
        refine Moves.changes (Move.run y _ fun c hc => ?_).always (Changes.recheckAisle (.refl _) _ _)
        simpa using (List.mem_filter.mp hc).2

theorem Changes.service (s : State) (p : List Byte) : Changes s (s.service p).state := by
  unfold State.service
  split
  · exact .refl _
  · refine .withField _ _ _ fun c => .withField _ _ _ fun b => ?_
    split
    · exact .refl _
    · dsimp only [State.ok]
      split
      · exact (Changes.refl s).serviceIn c
      · exact (Changes.refl s).serviceOut c

theorem Changes.closeWave (s : State) (p : List Byte) : Changes s (s.closeWave p).state := by
  unfold State.closeWave
  repeat' split
  any_goals exact .refl _
  exact ((Changes.refl s).updWave _ _).freeWave _

theorem Changes.refuseWith (s : State) (y : Result) (k : FaultKind) (a : Option AisleId) (p : List Byte) :
    Changes s (s.refuseWith y k a p).state := Changes.raiseFault (.refl s) _ _ _ _ _

theorem Changes.arrive (s : State) (p : List Byte) : Changes s (s.arrive p).state := by
  unfold State.arrive
  refine .withField _ _ _ fun f => .withField _ _ _ fun a => .withField _ _ _ fun e => ?_
  split
  · exact .refuseWith ..
  · split
    · unfold State.arriveClear
      split
      · exact .refuseWith ..
      · exact (Changes.refl s).setInput _ _ _
    · split
      · exact .refuseWith ..
      · unfold State.arrivePallet
        dsimp only
        split
        · exact ((Changes.refl s).setInput _ _ _).matchStore _ _ _ _ _ _
        · exact (Changes.refl s).setInput _ _ _

theorem Changes.outputFree (s : State) (p : List Byte) : Changes s (s.outputFree p).state := by
  unfold State.outputFree
  split
  · exact .refl _
  · refine .withField _ _ _ fun a => .withField _ _ _ fun e => ?_
    split
    · exact .refuseWith ..
    · dsimp only [State.okClamped]
      exact (Changes.refl s).updCredit _ _ _

theorem Changes.dockTaken (s : State) (p : List Byte) : Changes s (s.dockTaken p).state := by
  unfold State.dockTaken
  repeat' split
  · exact .refl _
  · exact .refuseWith ..
  · exact .refuseWith ..
  · exact (Changes.refl s).takeDock _ _

/-! ## The commands that write a register of their own -/

theorem Moves.setSources (s : State) (a : AisleId) (y : HoldSources) : Moves (some .sources) s (s.setSources a y) := by
  have h : Moves (some .sources) s (s.setHold a { s.hold a with sources := y }) := (Move.sources a y).moves
  unfold State.setSources
  dsimp only
  split
  · exact h.changes ((Changes.refl _).drain a)
  · split
    · exact h.changes ((Changes.refl _).endHold a)
    · exact h

theorem Moves.holdAisle (s : State) (l : OrderLink) (p : List Byte) :
    Moves (some .sources) s (s.holdAisle l p).state := by
  unfold State.holdAisle
  refine .withField _ _ _ fun a => ?_
  unfold State.setLinkHold
  dsimp only [State.ok]
  split
  · exact (Moves.setSources s _ _).changes (Changes.offerNotice (.refl _) _ _)
  · exact .setSources ..

theorem Moves.releaseAisle (s : State) (l : OrderLink) (p : List Byte) :
    Moves (some .sources) s (s.releaseAisle l p).state := by
  unfold State.releaseAisle
  exact .withField _ _ _ fun a => .setSources ..

theorem Moves.geometryLoad (s : State) (l : OrderLink) (a : AisleId) (q : Profile)
    (h : s.totalCells a q.geo ≤ Config.cellCapacity) : Moves (some .profile) s (s.geometryLoad l a q) :=
  (Move.relay a q h).moves.changes
    ((Changes.each _ (fun _ b k => k.rebuildRail b) (Changes.offerNotice (.refl _) _ _)).dropRearStations a |>.configureHold a)

theorem Moves.operatingLoad (s : State) (l : OrderLink) (a : AisleId) (o : Operating) :
    Moves (some .profile) s (s.operatingLoad l a o) :=
  (Move.pend a _).moves.changes ((Changes.refl _).testPending a)

theorem Moves.applyLoad (s : State) (l : OrderLink) (a : AisleId) (q : Profile) (b : Bool) :
    Moves (some .profile) s (s.applyLoad l a q b).state := by
  unfold State.applyLoad
  split
  · split
    · exact .refl _
    · split
      · exact .refl _
      · next h => exact .geometryLoad s l a q (Nat.le_of_not_lt h)
  · exact .operatingLoad ..

theorem Moves.loadProfile (s : State) (l : OrderLink) (p : List Byte) :
    Moves (some .profile) s (s.loadProfile l p).state := by
  unfold State.loadProfile
  refine .withField _ _ _ fun f => .withField _ _ _ fun a => .withField _ _ _ fun g => ?_
  split
  · exact .applyLoad ..
  · exact .refl _

theorem Moves.applyMapping (s : State) (c : CraneId) (m : Option (AisleId × End)) (h : s.mappingRefused c m = false) :
    Moves (some .mapping) s (s.applyMapping c m) :=
  (Move.mapping c m { s.crane c with
    mapping := m, state := .absent, known := false, strikes := 0, leaveService := false } h rfl
    (Nat.zero_le _)).moves.changes ((((Changes.refl _).parkEntry _).parkEntry _).testMapping _ |>.testMapping _)

theorem Moves.mapCrane (s : State) (p : List Byte) : Moves (some .mapping) s (s.mapCrane p).state := by
  unfold State.mapCrane
  refine .withField _ _ _ fun y => ?_
  dsimp only
  split
  · exact .refl _
  · split
    · exact .refl _
    · next hr =>
      split
      · exact .refl _
      · exact .applyMapping _ _ _ (by simpa using hr)

theorem Moves.openWave (s : State) (p : List Byte) : Moves (some .wave) s (s.openWave p).state := by
  unfold State.openWave
  repeat' split
  any_goals exact .refl _
  next h => exact (Move.wave _ (Nat.lt_of_not_le h)).moves

theorem Moves.setPolicy (s : State) (p : List Byte) : Moves (some .setting) s (s.setPolicy p).state := by
  unfold State.setPolicy
  refine .withField _ _ _ fun es => ?_
  split
  · exact Moves.each (fun s e => (Move.setting _ _).moves) _ s
  · exact .refl _

theorem Moves.setFaultKind (s : State) (k : FaultKind) (y : FaultControl) : Moves (some .faults) s (s.setFaultKind k y) :=
  (Move.faults _).moves

theorem Moves.evaluateHalt (s : State) : Moves (some .faults) s s.evaluateHalt := by
  have h : Moves (some .faults) s { s with flg := { s.flg with halt := s.haltCondition } } := (Move.faults _).moves
  unfold State.evaluateHalt
  dsimp only
  split
  · exact h.changes (Changes.refl _).selectAll
  · exact h

theorem Moves.setHoldFor (s : State) (a : AisleId) (k : FaultKind) : Moves (some .faults) s (s.setHoldFor a k) := by
  have h : Moves (some .faults) s (s.setFaultHold a
      { isSet := true, kinds := if (s.faultHold a).kinds.contains k then (s.faultHold a).kinds
          else (s.faultHold a).kinds ++ [k] }) := (Move.faults _).moves
  unfold State.setHoldFor
  dsimp only
  split
  · exact h
  · exact h.changes (Changes.raise (.refl _) _)

theorem Moves.haltIf {p : Prop} [Decidable p] (h : Moves (some .faults) r s) :
    Moves (some .faults) r (if p then s.evaluateHalt else s) := by
  split
  · exact h.trans (.evaluateHalt _)
  · exact h

theorem Moves.takeUnmasked (s : State) (y : FaultReport) : Moves (some .faults) s (s.takeUnmasked y) := by
  unfold State.takeUnmasked
  dsimp only
  have notice : ∀ n, Moves (some .faults) s ((if s.flg.capture.isNone = true then
      { s with flg := { s.flg with capture := some y } }
    else { s with flg := { s.flg with further := saturate 255 (s.flg.further + 1) } }).offerActive n) := by
    intro n
    split
    · exact (Move.faults _).moves.changes (Changes.offerActive (.refl _) _)
    · exact (Move.faults _).moves.changes (Changes.offerActive (.refl _) _)
  refine Moves.haltIf ?_
  split
  · exact (notice _).trans (.setHoldFor ..)
  · exact (notice _).trans (.setHoldFor ..)
  · exact notice _

theorem Moves.takeFault (s : State) (y : FaultReport) : Moves (some .faults) s (s.takeFault y) := by
  have h := Moves.setFaultKind s y.kind { s.faultKind y.kind with flag := true }
  unfold State.takeFault
  dsimp only
  split
  · exact h
  · exact h.trans (.takeUnmasked _ _)

theorem Moves.setFaultControl (s : State) (p : List Byte) : Moves (some .faults) s (s.setFaultControl p).state := by
  unfold State.setFaultControl
  split
  · exact .refl _
  · exact .withField _ _ _ fun k => .withField _ _ _ fun m => .withField _ _ _ fun y =>
      (Moves.setFaultKind s _ _).trans (.evaluateHalt _)

theorem Moves.clearKinds (s : State) (ks : List FaultKind) : Moves (some .faults) s (s.clearKinds ks) := by
  have h := Moves.each (fun (s : State) k => Moves.setFaultKind s k { s.faultKind k with flag := false }) ks s
  unfold State.clearKinds
  refine Moves.trans ?_ (.evaluateHalt _)
  split
  · exact h.trans (Move.faults _).moves
  · exact h

theorem Moves.clearFault (s : State) (p : List Byte) : Moves (some .faults) s (s.clearFault p).state := by
  unfold State.clearFault
  exact .withField _ _ _ fun ns => .withField _ _ _ fun ks => .clearKinds _ _

theorem Moves.clearHold (s : State) (a : AisleId) : Moves (some .faults) s (s.clearHold a).1 := by
  unfold State.clearHold
  split
  · exact .refl _
  · split
    · exact Changes.moves (Changes.checkRail (.refl _) _)
    · exact (Move.faults { s.flg with holds := s.flg.holds.set a { isSet := false, kinds := [] } }).moves.changes
        (Changes.raise (.refl _) _)

theorem Moves.clearAisleFault (s : State) (p : List Byte) : Moves (some .faults) s (s.clearAisleFault p).state := by
  unfold State.clearAisleFault
  exact .withField _ _ _ fun a => .clearHold _ _

end Sys2Proof.Machine
end
section
/-! Every command but the four resets is a run of elementary changes, those of its own topic among them. -/

namespace Sys2Proof.Machine

/-- The topic of a command: the register that it writes beside what the shared operations write. -/
def topic (i : Instr) : Option Topic :=
  match i with
  | .setPolicy _ _ => some .setting
  | .mapCrane _ _ => some .mapping
  | .loadProfile _ _ => some .profile
  | .openWave _ _ => some .wave
  | .faultReport _ | .setFaultControl _ _ | .clearFault _ _ | .clearAisleFault _ _ => some .faults
  | _ => if (sourceChange i).isSome then some .sources else none

/-- The four commands that put the blocks to their reset states. -/
def isReset (i : Instr) : Bool :=
  match i with
  | .powerOn _ | .pinReset _ | .restartSoft | .restartHard => true
  | _ => false

variable {s t : State}

theorem next_moves {x : Option Topic} {u : State} (hu : Moves x s u)
    (h : (Host.Outcome.next u : Host.Outcome State Fault Refusal) = .next t) : Moves x s t := by
  cases h
  exact hu

theorem readAisle_eq_some {p : List Byte} {a : AisleId} (h : readAisle p = some a) :
    ∃ b, p = [b] ∧ aisleOf b.toNat = some a := by
  unfold readAisle at h
  split at h
  · next hp =>
    obtain ⟨b, rfl⟩ := List.length_eq_one_iff.mp hp
    exact ⟨b, rfl, h⟩
  · cases h

/-- A source command whose aisle does not read is refused and writes no source. -/
theorem moves_sources_command (i : Instr) (l : OrderLink) (code : Byte) (p : List Byte) (f : State → AisleId → Answer)
    (hi : ∀ a, readAisle p = some a → (sourceChange i).isSome = true)
    (hf : ∀ r, Moves (some .sources) r (r.withField (readAisle p) (f r)).state) :
    Moves (if (sourceChange i).isSome then some .sources else none) s
      (s.command i (.order l) code p fun r => r.withField (readAisle p) (f r)) := by
  cases hp : readAisle p with
  | some a =>
    rw [if_pos (hi a hp)]
    exact .command _ _ _ _ _ _ (hp ▸ hf _)
  | none => exact .command _ _ _ _ _ _ (.refl _)

theorem sourceChange_holdAisle {l : OrderLink} {p : List Byte} {a : AisleId} (h : readAisle p = some a) :
    (sourceChange (.holdAisle l p)).isSome = true := by
  obtain ⟨b, rfl, hb⟩ := readAisle_eq_some h
  simp [sourceChange, hb]

theorem sourceChange_releaseAisle {l : OrderLink} {p : List Byte} {a : AisleId} (h : readAisle p = some a) :
    (sourceChange (.releaseAisle l p)).isSome = true := by
  obtain ⟨b, rfl, hb⟩ := readAisle_eq_some h
  simp [sourceChange, hb]

theorem withField_state {α : Type} (s : State) (y : Option α) (f : α → Answer) (h : ∀ a, (f a).state = s) :
    (s.withField y f).state = s := by
  cases y with
  | some a => exact h a
  | none => rfl

theorem queryJob_state (s : State) (p : List Byte) : (s.queryJob p).state = s :=
  withField_state _ _ _ fun h => by cases hj : s.job? h <;> rfl

theorem queryPool_state (s : State) (p : List Byte) : (s.queryPool p).state = s := by
  unfold State.queryPool
  split <;> rfl

theorem queryCell_state (s : State) (p : List Byte) : (s.queryCell p).state = s := by
  unfold State.queryCell
  split
  · rfl
  · cases s.profile? (cellAt p 0).aisle with
    | none => rfl
    | some q =>
      dsimp only
      split <;> rfl

theorem queryWave_state (s : State) (p : List Byte) : (s.queryWave p).state = s := by
  unfold State.queryWave
  split
  · rfl
  · split
    · rfl
    · split <;> rfl

theorem queryFaults_state (s : State) (p : List Byte) : (s.queryFaults p).state = s := by
  unfold State.queryFaults
  split <;> rfl

/-- A command whose answer leaves the state moves nothing but links and events. -/
theorem Moves.query {x : Option Topic} (i : Instr) (k : Link) (code : Byte) (p : List Byte) (act : State → Answer)
    (h : ∀ r, (act r).state = r) : Moves x s (s.command i k code p act) :=
  .command _ _ _ _ _ _ (by rw [h]; exact .refl _)

theorem exec_moves {i : Instr} (hi : isReset i = false) (h : exec i s = .next t) : Moves (topic i) s t := by
  have take := fun e : Instr => (Changes.refl s).take e
  cases i
  case powerOn => cases hi
  case pinReset => cases hi
  case restartSoft => cases hi
  case restartHard => cases hi
  case gateChange a b => exact next_moves ((take _).moves.trans (.setSources ..)) h
  case faultSourceSet a => exact next_moves ((take _).moves.trans (.setSources ..)) h
  case faultSourceClear a => exact next_moves ((take _).moves.trans (.setSources ..)) h
  case holdAisle l p =>
    exact next_moves (moves_sources_command (.holdAisle l p) l Code.holdAisle p _ (fun a => sourceChange_holdAisle) fun r => .holdAisle r l p) h
  case releaseAisle l p =>
    exact next_moves (moves_sources_command (.releaseAisle l p) l Code.releaseAisle p _ (fun a => sourceChange_releaseAisle) fun r => .releaseAisle r l p) h
  case frameDiscarded k p =>
    refine next_moves ?_ h
    split
    · exact (take _).moves
    · exact (take _).moves.trans (.discardFrame ..)
  case tgapExpiry k =>
    refine next_moves ?_ h
    unfold State.expiry State.gapEnds
    dsimp only
    repeat' split
    · exact (take _).moves
    · exact (take _).moves.trans (.discardFrame ..)
    · exact (take _).moves
  case frameSent k b => exact next_moves ((take _).moves.trans (.frameSent ..)) h
  case byteReceived k b => exact next_moves ((take _).moves.trans (.receive ..)) h
  case enterStore l p => exact next_moves (.command _ _ _ _ _ _ (Changes.enterStore ..).moves) h
  case enterRetrieve l p => exact next_moves (.command _ _ _ _ _ _ (Changes.enterRetrieve ..).moves) h
  case cancel l p => exact next_moves (.command _ _ _ _ _ _ (Changes.cancel ..).moves) h
  case resolve l p => exact next_moves (.command _ _ _ _ _ _ (Changes.resolve ..).moves) h
  case setCell l p => exact next_moves (.command _ _ _ _ _ _ (Changes.setCell ..).moves) h
  case setRun l p => exact next_moves (.command s _ _ _ _ _ (Moves.setRun _ p)) h
  case loadProfile l p =>
    show Moves (some .profile) s t
    exact next_moves (.command s _ _ _ _ _ (Moves.loadProfile _ l p)) h
  case mapCrane l p =>
    show Moves (some .mapping) s t
    exact next_moves (.command s _ _ _ _ _ (Moves.mapCrane _ p)) h
  case service l p => exact next_moves (.command _ _ _ _ _ _ (Changes.service ..).moves) h
  case openWave l p =>
    show Moves (some .wave) s t
    exact next_moves (.command s _ _ _ _ _ (Moves.openWave _ p)) h
  case closeWave l p => exact next_moves (.command _ _ _ _ _ _ (Changes.closeWave ..).moves) h
  case setPolicy l p =>
    show Moves (some .setting) s t
    exact next_moves (.command s _ _ _ _ _ (Moves.setPolicy _ p)) h
  case setFaultControl l p =>
    show Moves (some .faults) s t
    exact next_moves (.command s _ _ _ _ _ (Moves.setFaultControl _ p)) h
  case clearFault l p =>
    show Moves (some .faults) s t
    exact next_moves (.command s _ _ _ _ _ (Moves.clearFault _ p)) h
  case clearAisleFault l p =>
    show Moves (some .faults) s t
    exact next_moves (.command s _ _ _ _ _ (Moves.clearAisleFault _ p)) h
  case queryJob l p => exact next_moves (.query _ _ _ _ _ fun r => queryJob_state r p) h
  case queryPool l p => exact next_moves (.query _ _ _ _ _ fun r => queryPool_state r p) h
  case queryCell l p => exact next_moves (.query _ _ _ _ _ fun r => queryCell_state r p) h
  case queryAisle l p => exact next_moves (.query _ _ _ _ _ fun r => withField_state _ _ _ fun _ => rfl) h
  case queryCrane l p => exact next_moves (.query _ _ _ _ _ fun r => withField_state _ _ _ fun _ => rfl) h
  case queryWave l p => exact next_moves (.query _ _ _ _ _ fun r => queryWave_state r p) h
  case queryFaults l p => exact next_moves (.query _ _ _ _ _ fun r => queryFaults_state r p) h
  case fetch l p => exact next_moves (.command _ _ _ _ _ _ (.fetch ..)) h
  case restart l p => exact next_moves (.command _ _ _ _ _ _ (.restart ..)) h
  case arrive p => exact next_moves (.command _ _ _ _ _ _ (Changes.arrive ..).moves) h
  case outputFree p => exact next_moves (.command _ _ _ _ _ _ (Changes.outputFree ..).moves) h
  case dockTaken p => exact next_moves (.command _ _ _ _ _ _ (Changes.dockTaken ..).moves) h
  case hello c p => exact next_moves (Changes.craneMessage (.refl s) _ _ _ _ _ _ _ fun _ _ k => k.hello ..).moves h
  case ask c p => exact next_moves (Changes.craneMessage (.refl s) _ _ _ _ _ _ _ fun _ _ k => k.ask ..).moves h
  case pos c p => exact next_moves (Changes.craneMessage (.refl s) _ _ _ _ _ _ _ fun _ _ k => k.pos ..).moves h
  case accept c p => exact next_moves (Changes.craneMessage (.refl s) _ _ _ _ _ _ _ fun _ _ k => k.accept ..).moves h
  case refuse c p => exact next_moves (Changes.craneMessage (.refl s) _ _ _ _ _ _ _ fun _ _ k => k.refuseOffer ..).moves h
  case late c p => exact next_moves (Changes.craneMessage (.refl s) _ _ _ _ _ _ _ fun _ _ k => k.answerLate ..).moves h
  case cleared c p => exact next_moves (Changes.craneMessage (.refl s) _ _ _ _ _ _ _ fun _ _ k => k.cleared ..).moves h
  case parked c p => exact next_moves (Changes.craneMessage (.refl s) _ _ _ _ _ _ _ fun _ _ k => k.parked ..).moves h
  case fault c p => exact next_moves (Changes.craneMessage (.refl s) _ _ _ _ _ _ _ fun _ _ k => k.craneFault ..).moves h
  case recovered c p => exact next_moves (Changes.craneMessage (.refl s) _ _ _ _ _ _ _ fun _ _ k => k.recovered ..).moves h
  case picked c p => exact next_moves (Changes.stepReport (.refl s) _ _ _ _ _ fun _ _ _ _ k => k.picked ..).moves h
  case dropped c p => exact next_moves (Changes.stepReport (.refl s) _ _ _ _ _ fun _ _ _ _ k => k.dropped ..).moves h
  case cellOccupied c p => exact next_moves (Changes.stepReport (.refl s) _ _ _ _ _ fun _ _ _ _ k => k.cellOccupied ..).moves h
  case cellEmpty c p => exact next_moves (Changes.stepReport (.refl s) _ _ _ _ _ fun _ _ _ _ k => k.cellEmpty ..).moves h
  case offerTimerExpiry c => exact next_moves (Changes.expiry (.refl s) _ _ fun _ k => k.offerLapse c).moves h
  case holdBackExpiry c => exact next_moves (Changes.expiry (.refl s) _ _ fun _ k => k.holdBackEnds c).moves h
  case parkTimerExpiry c => exact next_moves (Changes.expiry (.refl s) _ _ fun _ k => k.parkLapse c).moves h
  case backoffExpiry c => exact next_moves (Changes.expiry (.refl s) _ _ fun _ k => k.backoffEnds c).moves h
  case stepDeadlineExpiry c => exact next_moves (Changes.expiry (.refl s) _ _ fun _ k => k.deadlineEnds c).moves h
  case agingStep => exact next_moves (Changes.expiry (.refl s) _ _ fun _ k => k.ageStep).moves h
  case agingCounterTick => exact next_moves (Changes.expiry (.refl s) _ _ fun _ k => k.ageTick).moves h
  case selection c => exact next_moves ((take _).runSelection c).moves h
  case preemptionCheck j => exact next_moves ((take _).runPreemption j).moves h
  case slotSearch j => exact next_moves ((take _).runSlotSearch j).moves h
  case relocationRequest j => exact next_moves ((take _).runRelocation j).moves h
  case reEvaluation j => exact next_moves ((take _).reEvaluateJob j).moves h
  case storeHandOver j l p => exact next_moves ((take _).handOver j l p).moves h
  case closingWaitPlacement l => exact next_moves ((take _).fillFrom l _).moves h
  case faultReport r => exact next_moves ((take _).moves.trans (.takeFault ..)) h

end Sys2Proof.Machine
end
section
/-! The laws of `Lawful` and the bound on cells: kept by every elementary change, by the resets, and so by every step. -/

namespace Sys2Proof.Machine

variable {x : Option Topic} {s t : State}

/-! ## Roles -/

/-- The law of roles, without the search: no two cranes have one role. -/
theorem roleLaw_iff : RoleLaw s ↔
    ∀ c d a e, (s.crane c).mapping = some (a, e) → (s.crane d).mapping = some (a, e) → c = d := by
  constructor
  · intro h c d a e hc hd
    exact Option.some.inj ((h c a e hc).symm.trans (h d a e hd))
  · intro h c a e hc
    unfold State.craneAt
    have found : ((List.finRange 12).find? fun c => decide ((s.crane c).mapping = some (a, e))).isSome = true :=
      List.find?_isSome.mpr ⟨c, List.mem_finRange c, decide_eq_true hc⟩
    obtain ⟨d, hd⟩ := Option.isSome_iff_exists.mp found
    have role := List.find?_some hd
    rw [hd, h d c a e (of_decide_eq_true role) hc]

theorem roleLaw_of_mapping (h : ∀ c, (t.crane c).mapping = (s.crane c).mapping) (hs : RoleLaw s) : RoleLaw t := by
  rw [roleLaw_iff] at *
  intro c d a e
  rw [h c, h d]
  exact hs c d a e

/-- A role that MAP CRANE may give is no other crane's. -/
theorem craneAt_of_not_refused {c d : CraneId} {a : AisleId} {e : End} (h : s.mappingRefused c (some (a, e)) = false)
    (hd : s.craneAt a e = some d) : d = c := by
  simp only [State.mappingRefused, hd, Bool.or_eq_false_iff, decide_eq_false_iff_not, not_not] at h
  exact h.2

theorem roleLaw_setCrane {c : CraneId} {y : Crane} (h : s.mappingRefused c y.mapping = false) (hs : RoleLaw s) :
    RoleLaw (s.setCrane c y) := by
  have other : ∀ d a e, y.mapping = some (a, e) → (s.crane d).mapping = some (a, e) → d = c := fun d a e hy hd =>
    craneAt_of_not_refused (hy ▸ h) (hs d a e hd)
  rw [roleLaw_iff] at *
  intro d d' a e
  rw [State.setCrane_crane, State.setCrane_crane]
  split <;> split
  · next h1 h2 => exact fun _ _ => h1.trans h2.symm
  · next h1 h2 => exact fun hd hd' => h1.trans (other d' a e hd hd').symm
  · next h1 h2 => exact fun hd hd' => (other d a e hd' hd).trans h2.symm
  · exact hs d d' a e

/-! ## Cells written in a row -/

/-- A write that reserves nothing takes no other cell. -/
theorem isTaken_putCell {c d : CellAddr} {y : Cell} (hw : MapWf s) (hy : y.state.isReserved = false)
    (hd : s.isTaken d = false) : (s.putCell c y).isTaken d = false := by
  by_cases hc : s.existing c
  · have reserved : ∀ e, (s.cell e).state.isReserved = false → ((s.putCell c y).cell e).state.isReserved = false := by
      intro e he
      rw [State.cell_putCell hw c e y hc]
      split
      · exact hy
      · exact he
    simp only [State.isTaken, State.frontsReserved, State.putCell_isDoubleDeep, Bool.or_eq_false_iff,
      Bool.and_eq_false_iff] at hd ⊢
    exact ⟨reserved d hd.1, hd.2.imp id (reserved _)⟩
  · rwa [State.putCell_of_not_existing y hc]

/-- A run of writes to cells that are not taken is a run of shared operations. -/
theorem putRun_changes (y : SetState) (cs : List CellAddr) (hw : MapWf s) (h : ∀ c ∈ cs, s.isTaken c = false) :
    Changes s (s.putRun y cs) := by
  unfold State.putRun State.each
  induction cs generalizing s with
  | nil => exact .refl _
  | cons c cs ih =>
    have step := Changes.putCell (.refl s) c (y.record (s.fit c)) (cellStep_of_not_taken (h c (by simp)) _ _)
    exact step.trans (ih (State.putCell_wf _ _ hw) fun d hd =>
      isTaken_putCell hw (y.record_isReserved _) (h d (by simp [hd])))

/-! ## The tables re-laid -/

theorem State.each_relay_aisle (f : State → AisleId → State)
    (hf : ∀ s b c, (f s b).aisle c = if c = b then { s.aisle b with cells := [] } else s.aisle c) (as : List AisleId)
    (s : State) (c : AisleId) :
    (s.each as f).aisle c = if c ∈ as then { s.aisle c with cells := [] } else s.aisle c := by
  unfold State.each
  induction as generalizing s with
  | nil => simp
  | cons b as ih =>
    rw [List.foldl_cons, ih, hf]
    by_cases hcb : c = b
    · subst hcb; simp
    · simp [hcb]

theorem mem_aislesFrom {a b : AisleId} : b ∈ aislesFrom a ↔ a ≤ b := by simp [aislesFrom]

/-- What a geometry load makes of each aisle: its own profile new, the cells from it up unlisted. -/
theorem State.relay_aisle (s : State) (a : AisleId) (q : Profile) (b : AisleId) :
    (s.relay a q).aisle b =
      if b = a then { profile := some q, pendingProfile := none, cells := [] }
      else if a ≤ b then { s.aisle b with cells := [] } else s.aisle b := by
  unfold State.relay
  rw [State.each_relay_aisle _ fun s b c => State.setAisle_aisle ..]
  simp only [mem_aislesFrom, State.setAisle_aisle]
  by_cases hb : b = a
  · simp [hb]
  · simp [hb]

theorem State.relay_profile (s : State) (a : AisleId) (q : Profile) (b : AisleId) :
    (s.relay a q).profile? b = if b = a then some q else s.profile? b := by
  unfold State.profile?
  rw [State.relay_aisle]
  repeat' split
  all_goals rfl

theorem State.each_setAisle_others {α : Type} (f : State → AisleId → Aisle) (g : State → α)
    (hg : ∀ s a y, g (s.setAisle a y) = g s) (as : List AisleId) (s : State) :
    g (s.each as fun s b => s.setAisle b (f s b)) = g s := by
  unfold State.each
  induction as generalizing s with
  | nil => rfl
  | cons a as ih => rw [List.foldl_cons, ih, hg]

/-- A geometry load's re-laying writes the Cell Map alone. -/
theorem State.relay_others {α : Type} (g : State → α) (hg : ∀ s a y, g (s.setAisle a y) = g s) (s : State) (a : AisleId)
    (q : Profile) : g (s.relay a q) = g s := by
  unfold State.relay
  rw [State.each_setAisle_others _ g hg, hg]

theorem State.cell_of_no_cells {c : CellAddr} (h : (s.aisle c.aisle).cells = []) : s.cell c = Cell.initial := by
  unfold State.cell
  rw [h]
  repeat' split
  all_goals rfl

theorem relay_mapWf (a : AisleId) (q : Profile) (h : MapWf s) : MapWf (s.relay a q) := by
  intro b
  rw [State.relay_aisle]
  repeat' split
  · rfl
  · rfl
  · exact h b

theorem relay_pairLaw (a : AisleId) (q : Profile) (h : PairLaw s) : PairLaw (s.relay a q) := by
  intro c h1 h2 h3
  by_cases hc : a ≤ c.aisle
  · rw [State.cell_of_no_cells (by rw [State.relay_aisle]; repeat' split <;> rfl)] at h3
    cases h3
  · have hne : c.aisle ≠ a := fun e => hc (ge_of_eq e)
    have same : ∀ d : CellAddr, d.aisle = c.aisle → (s.relay a q).cell d = s.cell d := fun d hd => by
      unfold State.cell State.profile?
      rw [State.relay_aisle, hd, if_neg hne, if_neg hc]
    rw [same c rfl] at h3
    rw [same (nearOf c) rfl]
    refine h c ?_ h2 h3
    unfold State.isDoubleDeep at h1 ⊢
    rwa [State.relay_profile, if_neg hne] at h1

/-- A record of an aisle with the same cells and geometry writes no cell. -/
theorem pairLaw_setAisle {a : AisleId} {y : Aisle} (hp : y.profile = (s.aisle a).profile)
    (hc : y.cells = (s.aisle a).cells) (h : PairLaw s) : PairLaw (s.setAisle a y) := by
  have profile : ∀ b, (s.setAisle a y).profile? b = s.profile? b := fun b => by
    unfold State.profile?
    rw [State.setAisle_aisle]
    split
    · next hb => rw [hp, hb]
    · rfl
  have cells : ∀ b, ((s.setAisle a y).aisle b).cells = (s.aisle b).cells := fun b => by
    rw [State.setAisle_aisle]
    split
    · next hb => rw [hc, hb]
    · rfl
  exact pairLaw_of_cells (fun b => by unfold State.isDoubleDeep; rw [profile])
    (fun c => by unfold State.cell; rw [profile, cells]) h

/-! ## The laws through one elementary change -/

/-- A state that agrees with a lawful one on what the laws read is lawful. -/
theorem Lawful.of_same (hs : Lawful s) (hc : t.cmp = s.cmp) (hh : t.aic.holds = s.aic.holds)
    (hq : t.liu.queue = s.liu.queue) (ha : t.liu.attn = s.liu.attn) (hk : t.crt.cranes = s.crt.cranes)
    (hw : t.swu.waves = s.swu.waves) (hj : t.jpl.slots = s.jpl.slots) : Lawful t where
  map := mapWf_of_cmp hc hs.map
  pair := pairLaw_of_cmp hc hs.pair
  gack := gackLaw_of_aic hh hs.gack
  queue := queueLaw_of_liu hq ha hs.queue
  strike := strikeLaw_of_crt hk hs.strike
  wave := by unfold WaveLaw; rw [hw]; exact hs.wave
  age := ageLaw_of_slots hj hs.age
  handle := handleLaw_of_slots hj hs.handle
  role := roleLaw_of_mapping (fun c => by unfold State.crane; rw [hk]) hs.role

theorem Change.lawful (h : Change s t) (hs : Lawful s) : Lawful t where
  map := h.mapWf hs.map
  pair := h.pairLaw hs.map hs.pair
  gack := h.gackLaw hs.gack
  queue := h.queueLaw hs.queue
  strike := h.strikeLaw hs.strike
  wave := h.waveLaw hs.wave
  age := h.ageLaw hs.age
  handle := h.handleLaw hs.handle
  role := roleLaw_of_mapping (fun c => congrFun (congrArg Fixed.mappings h.fixed) c) hs.role

theorem Changes.lawful (h : Changes s t) (hs : Lawful s) : Lawful t := by
  induction h with
  | refl => exact hs
  | tail _ hc ih => exact hc.lawful ih

theorem setQueue_lawful (l : OrderLink) (q : List Notice) (hq : q.length ≤ Config.queueCapacity) (hs : Lawful s) :
    Lawful (s.setQueue l q) where
  map := mapWf_of_cmp rfl hs.map
  pair := pairLaw_of_cmp rfl hs.pair
  gack := gackLaw_of_aic rfl hs.gack
  queue := queueLaw_setQueue l q hq hs.queue
  strike := strikeLaw_of_crt rfl hs.strike
  wave := hs.wave
  age := ageLaw_of_slots rfl hs.age
  handle := handleLaw_of_slots rfl hs.handle
  role := roleLaw_of_mapping (fun _ => rfl) hs.role

theorem setMapping_lawful (c : CraneId) (y : Crane) (h : s.mappingRefused c y.mapping = false) (hy : y.strikes ≤ 7)
    (hs : Lawful s) : Lawful (s.setCrane c y) where
  map := mapWf_of_cmp rfl hs.map
  pair := pairLaw_of_cmp rfl hs.pair
  gack := gackLaw_of_aic rfl hs.gack
  queue := queueLaw_of_liu rfl rfl hs.queue
  strike := fun d => by
    rw [State.setCrane_crane]
    split
    · exact hy
    · exact hs.strike d
  wave := hs.wave
  age := ageLaw_of_slots rfl hs.age
  handle := handleLaw_of_slots rfl hs.handle
  role := roleLaw_setCrane h hs.role

/-- A write of the Cell Map alone is lawful where it keeps the map's own two laws. -/
theorem Lawful.of_map (hs : Lawful s) (hm : MapWf t) (hp : PairLaw t) (hh : t.aic = s.aic) (hl : t.liu = s.liu)
    (hk : t.crt = s.crt) (hw : t.swu = s.swu) (hj : t.jpl = s.jpl) : Lawful t where
  map := hm
  pair := hp
  gack := gackLaw_of_aic (hh ▸ rfl) hs.gack
  queue := queueLaw_of_liu (hl ▸ rfl) (hl ▸ rfl) hs.queue
  strike := strikeLaw_of_crt (hk ▸ rfl) hs.strike
  wave := by unfold WaveLaw; rw [hw]; exact hs.wave
  age := ageLaw_of_slots (hj ▸ rfl) hs.age
  handle := handleLaw_of_slots (hj ▸ rfl) hs.handle
  role := roleLaw_of_mapping (fun _ => by unfold State.crane; rw [hk]) hs.role

theorem relay_lawful (a : AisleId) (q : Profile) (hs : Lawful s) : Lawful (s.relay a q) :=
  hs.of_map (relay_mapWf a q hs.map) (relay_pairLaw a q hs.pair) (State.relay_others State.aic (fun _ _ _ => rfl) ..)
    (State.relay_others State.liu (fun _ _ _ => rfl) ..) (State.relay_others State.crt (fun _ _ _ => rfl) ..)
    (State.relay_others State.swu (fun _ _ _ => rfl) ..) (State.relay_others State.jpl (fun _ _ _ => rfl) ..)

theorem pend_lawful (a : AisleId) (q : PendingProfile) (hs : Lawful s) :
    Lawful (s.setAisle a { s.aisle a with pendingProfile := some q }) := by
  refine hs.of_map (fun b => ?_) (pairLaw_setAisle rfl rfl hs.pair) rfl rfl rfl rfl rfl
  rw [State.setAisle_aisle]
  split
  · exact hs.map a
  · exact hs.map b

theorem setSources_lawful (a : AisleId) (y : HoldSources) (hs : Lawful s) :
    Lawful (s.setHold a { s.hold a with sources := y }) where
  map := mapWf_of_cmp rfl hs.map
  pair := pairLaw_of_cmp rfl hs.pair
  gack := fun b => by
    rw [State.setHold_hold]
    split
    · exact hs.gack a
    · exact hs.gack b
  queue := queueLaw_of_liu rfl rfl hs.queue
  strike := strikeLaw_of_crt rfl hs.strike
  wave := hs.wave
  age := ageLaw_of_slots rfl hs.age
  handle := handleLaw_of_slots rfl hs.handle
  role := roleLaw_of_mapping (fun _ => rfl) hs.role

theorem addWave_lawful (w : Wave) (h : s.swu.waves.length < Config.waveCapacity) (hs : Lawful s) :
    Lawful { s with swu := { s.swu with waves := s.swu.waves ++ [w] } } where
  map := mapWf_of_cmp rfl hs.map
  pair := pairLaw_of_cmp rfl hs.pair
  gack := gackLaw_of_aic rfl hs.gack
  queue := queueLaw_of_liu rfl rfl hs.queue
  strike := strikeLaw_of_crt rfl hs.strike
  wave := by unfold WaveLaw; simpa using h
  age := ageLaw_of_slots rfl hs.age
  handle := handleLaw_of_slots rfl hs.handle
  role := roleLaw_of_mapping (fun _ => rfl) hs.role

/-- A write of a setting writes the settings of one block. -/
theorem State.writeSetting_elim {P : State → Prop} (n v : Nat) (hj : ∀ y : JobPool, y.slots = s.jpl.slots → P { s with jpl := y })
    (ha : ∀ y, P { s with ale := y }) (hc : ∀ y : Tracker, y.cranes = s.crt.cranes → P { s with crt := y }) :
    P (s.writeSetting n v) := by
  unfold State.writeSetting
  split
  all_goals first
    | exact hj _ rfl
    | exact ha _
    | exact hc _ rfl

theorem writeSetting_lawful (n v : Nat) (hs : Lawful s) : Lawful (s.writeSetting n v) :=
  State.writeSetting_elim n v (fun _ h => hs.of_same rfl rfl rfl rfl rfl rfl h) (fun _ => hs.of_same rfl rfl rfl rfl rfl rfl rfl)
    (fun _ h => hs.of_same rfl rfl rfl rfl h rfl rfl)

theorem Move.lawful (h : Move x s t) (hs : Lawful s) : Lawful t := by
  cases h with
  | shared h => exact h.lawful hs
  | link y hq ha _ => exact hs.of_same rfl rfl hq ha rfl rfl rfl
  | fetched l q hq => exact setQueue_lawful l q (hq.trans (hs.queue l).1) hs
  | run y cs hc => exact (putRun_changes y cs hs.map hc).lawful hs
  | setting n v => exact writeSetting_lawful n v hs
  | mapping c m y hr hm hy => exact setMapping_lawful c y (hm ▸ hr) hy hs
  | relay a q _ => exact relay_lawful a q hs
  | pend a q => exact pend_lawful a q hs
  | sources a y => exact setSources_lawful a y hs
  | faults y => exact hs.of_same rfl rfl rfl rfl rfl rfl rfl
  | wave w hw => exact addWave_lawful w hw hs

theorem Moves.lawful (h : Moves x s t) (hs : Lawful s) : Lawful t := h.keep (fun _ _ _ _ k => k.lawful) hs

/-! ## The laws after a reset -/

theorem initial_lawful (rate : LineRate) (gates : Vector Bool 8) : Lawful (State.initial rate gates) where
  map := fun a => by simp [State.aisle, State.initial, CellMap.initial, Aisle.initial, tableWf]
  pair := fun c h _ _ => by
    simp [State.isDoubleDeep, State.profile?, State.aisle, State.initial, CellMap.initial, Aisle.initial] at h
  gack := fun a => by simp [State.hold, State.initial, AisleControl.initial, AisleHold.initial]
  queue := fun l => by cases l <;> simp [State.queue, State.initial, Links.initial, PerLink.get]
  strike := fun c => by simp [State.crane, State.initial, Tracker.initial, Crane.initial]
  wave := Nat.zero_le _
  age := fun i j h => by simp [State.slot, State.initial, JobPool.initial, Slot.initial] at h
  handle := fun i j h => by simp [State.slot, State.initial, JobPool.initial, Slot.initial] at h
  role := fun c a e h => by simp [State.crane, State.initial, Tracker.initial, Crane.initial] at h

theorem restartLinks_queue (s : State) : s.restartLinks.queue = { o0 := [], o1 := [] } := rfl

theorem hardReset_lawful (s : State) (rate : LineRate) (gates : Vector Bool 8) : Lawful (s.hardReset rate gates) :=
  (initial_lawful rate gates).of_same rfl rfl rfl rfl rfl rfl rfl

/-- A record that RESTART SOFT leaves is not reserved. -/
theorem State.softCell_isReserved (s : State) (y : Cell) : (s.softCell y).state.isReserved = false := by
  unfold State.softCell
  split
  · next h _ =>
    cases s.job? h with
    | none => rfl
    | some j =>
      dsimp only
      split <;> rfl
  · rfl
  · next h1 h2 =>
    cases hy : y.state with
    | inReserved j => exact absurd hy (h1 j)
    | outReserved j k => exact absurd hy (h2 j k)
    | _ => rfl

theorem State.mem_softCells {s : State} {l : List (Nat × Cell)} {y : Nat × Cell} (h : y ∈ s.softCells l) :
    y.2.state.isReserved = false := by
  obtain ⟨z, -, rfl⟩ := List.mem_map.mp (List.mem_filter.mp h).1
  exact s.softCell_isReserved _

/-- A canonical table, said of the whole list: its offsets rise, and none lists an unlisted cell. -/
theorem tableWf_iff (l : List (Nat × Cell)) :
    tableWf l = true ↔ l.Pairwise (fun y z => y.1 < z.1) ∧ ∀ y ∈ l, y.2 ≠ Cell.initial := by
  induction l with
  | nil => simp [tableWf]
  | cons y l ih =>
    obtain ⟨i, y⟩ := y
    rw [tableWf_cons, ih, List.pairwise_cons]
    constructor
    · rintro ⟨hy, ha, hp, hl⟩
      refine ⟨⟨?_, hp⟩, by simpa [hy] using hl⟩
      cases l with
      | nil => simp
      | cons z l =>
        have hz : i < z.1 := ha
        intro w hw
        rcases List.mem_cons.mp hw with rfl | hw
        · exact hz
        · exact hz.trans ((List.pairwise_cons.mp hp).1 w hw)
    · rintro ⟨⟨ha, hp⟩, hl⟩
      refine ⟨hl (i, y) (by simp), ?_, hp, fun z hz => hl z (by simp [hz])⟩
      cases l with
      | nil => trivial
      | cons z l => exact ha z (by simp)

theorem State.softCells_wf (s : State) {l : List (Nat × Cell)} (h : tableWf l = true) :
    tableWf (s.softCells l) = true := by
  rw [tableWf_iff] at h ⊢
  refine ⟨?_, fun y hy => by simpa using (List.mem_filter.mp hy).2⟩
  exact List.Pairwise.filter _ (List.pairwise_map.mpr h.1)

theorem tableGet_mem_or (l : List (Nat × Cell)) (k : Nat) : tableGet l k = Cell.initial ∨ (k, tableGet l k) ∈ l := by
  induction l with
  | nil => exact .inl rfl
  | cons y l ih =>
    obtain ⟨i, y⟩ := y
    unfold tableGet
    split
    · next h => exact .inr (by simp [h])
    · exact ih.imp id fun h => by simp [h]

theorem tableGet_softCells_isReserved (s : State) (l : List (Nat × Cell)) (k : Nat) :
    (tableGet (s.softCells l) k).state.isReserved = false := by
  rcases tableGet_mem_or (s.softCells l) k with h | h
  · rw [h]; rfl
  · exact State.mem_softCells h

/-- RESTART SOFT before its rail checks and its halt evaluation: every block by its own rule. -/
def State.softReset (s : State) : State :=
  { s with
    liu := s.restartLinks
    jpl := s.jpl.softReset
    cmp := s.softMap
    ale := { s.ale with holdBack := Vector.replicate 12 HoldBack.initial }
    crt := s.crt.softReset s.softMap
    swu := Stations.initial
    aic := s.softHolds
    events := [] }

theorem State.restartSoft_eq (s : State) :
    s.restartSoft = (s.softReset.each (List.finRange 8) State.checkRail).evaluateHalt := rfl

theorem State.softReset_aisle (s : State) (a : AisleId) : s.softReset.aisle a =
    { profile := (s.aisle a).applied, pendingProfile := none, cells := s.softCells (s.aisle a).cells } := by
  simp [State.aisle, State.softReset, State.softMap]

theorem State.softReset_crane (s : State) (c : CraneId) : s.softReset.crane c = (s.crane c).softReset := by
  simp [State.crane, State.softReset, Tracker.softReset]

theorem State.softReset_hold (s : State) (a : AisleId) :
    s.softReset.hold a = (s.hold a).softReset (s.softSources a) := by
  simp [State.hold, State.softReset, State.softHolds]

theorem State.softReset_slot (s : State) (i : Fin 256) : s.softReset.slot i =
    if (s.slot i).job.isSome then { gen := (s.slot i).gen + 1, job := none } else s.slot i :=
  slot_map ..

theorem State.softReset_job (s : State) (i : Fin 256) : (s.softReset.slot i).job = none := by
  rw [State.softReset_slot]
  split
  · rfl
  · next h => simpa using h

theorem State.softReset_cell_isReserved (s : State) (c : CellAddr) : (s.softReset.cell c).state.isReserved = false := by
  unfold State.cell
  rw [State.softReset_aisle]
  repeat' split
  · exact tableGet_softCells_isReserved ..
  · rfl
  · rfl

theorem AisleHold.softReset_gack {y : AisleHold} (z : HoldSources) (h : y.gack = true ↔ y.state = .held) :
    (y.softReset z).gack = true ↔ (y.softReset z).state = .held := by
  unfold AisleHold.softReset
  split
  · exact h
  · split
    · exact iff_of_true rfl rfl
    · simp

theorem softReset_lawful (hs : Lawful s) : Lawful s.softReset where
  map := fun a => by rw [State.softReset_aisle]; exact s.softCells_wf (hs.map a)
  pair := fun c _ _ h => by rw [s.softReset_cell_isReserved c] at h; cases h
  gack := fun a => by rw [State.softReset_hold]; exact AisleHold.softReset_gack _ (hs.gack a)
  queue := fun l => by cases l <;> exact ⟨Nat.zero_le _, by simp [State.softReset, State.restartLinks, Links.initial, PerLink.get, State.queue]⟩
  strike := fun c => by rw [State.softReset_crane]; exact Nat.zero_le _
  wave := Nat.zero_le _
  age := fun i j h => by rw [s.softReset_job i] at h; cases h
  handle := fun i j h => by rw [s.softReset_job i] at h; cases h
  role := roleLaw_of_mapping (fun c => by rw [State.softReset_crane]; rfl) hs.role

theorem softReset_moves (s : State) : Moves (some .faults) s.softReset s.restartSoft := by
  rw [State.restartSoft_eq]
  exact (Changes.moves (Changes.each _ (fun _ b k => k.checkRail b) (.refl _))).trans (.evaluateHalt _)

/-! ## Every step -/

theorem eq_of_exec {i : Instr} {u : State} (hu : exec i s = .next u) (h : exec i s = .next t) : t = u :=
  Host.Outcome.next.inj (h.symm.trans hu)

theorem exec_lawful {i : Instr} (h : exec i s = .next t) (hs : Lawful s) : Lawful t := by
  by_cases hi : isReset i = false
  · exact (exec_moves hi h).lawful hs
  · cases i
    case powerOn p =>
      rw [eq_of_exec (u := s.powerOn p) rfl h]
      exact (initial_lawful _ p.gates).of_same rfl rfl rfl rfl rfl rfl rfl
    case pinReset p => rw [eq_of_exec (u := s.pinReset p) rfl h]; exact hardReset_lawful ..
    case restartSoft => rw [eq_of_exec (u := s.restartSoft) rfl h]; exact (softReset_moves s).lawful (softReset_lawful hs)
    case restartHard =>
      rw [eq_of_exec (u := s.restartHard) rfl h]
      exact (hardReset_lawful s s.liu.rate s.gateLevels).of_same rfl rfl rfl rfl rfl rfl rfl
    all_goals exact absurd rfl hi

theorem step_cases (h : step s = .next t) :
    (∃ i r, exec i r = .next t ∧ r = { s with pending := r.pending }) ∨ t = s.tick := by
  unfold step at h
  split at h
  · next c rest _ => exact .inl ⟨c, { s with pending := rest }, h, rfl⟩
  · split at h
    · next e _ _ => exact .inl ⟨e, s, h, rfl⟩
    · cases h; exact .inr rfl

theorem step_lawful (hs : Lawful s) (h : step s = .next t) : Lawful t := by
  rcases step_cases h with ⟨i, r, hi, hr⟩ | rfl
  · refine exec_lawful hi ?_
    rw [hr]
    exact hs.of_same rfl rfl rfl rfl rfl rfl rfl
  · exact hs.of_same rfl rfl rfl rfl rfl rfl rfl

/-! ## The bound on cells (R4) -/

/-- The bound reads the geometries alone. -/
theorem capacityLaw_of_geometry (h : ∀ a, (t.profile? a).map (·.geo) = (s.profile? a).map (·.geo))
    (hs : CapacityLaw s) : CapacityLaw t := by
  have same : ∀ a, (t.profile? a).map (fun p => p.geo.cellCount) = (s.profile? a).map (fun p => p.geo.cellCount) :=
    fun a => by simpa [Function.comp_def] using congrArg (Option.map Geometry.cellCount) (h a)
  unfold CapacityLaw at *
  simpa only [same] using hs

theorem geometry_of_cmp (h : t.cmp = s.cmp) (a : AisleId) : (t.profile? a).map (·.geo) = (s.profile? a).map (·.geo) := by
  unfold State.profile? State.aisle
  rw [h]

theorem putRun_profile (y : SetState) (cs : List CellAddr) (s : State) (a : AisleId) :
    (s.putRun y cs).profile? a = s.profile? a := by
  unfold State.putRun State.each
  induction cs generalizing s with
  | nil => rfl
  | cons c cs ih => rw [List.foldl_cons, ih, State.putCell_profile]

theorem capacityLaw_relay (a : AisleId) (q : Profile) (h : s.totalCells a q.geo ≤ Config.cellCapacity) :
    CapacityLaw (s.relay a q) := by
  unfold CapacityLaw
  unfold State.totalCells at h
  refine le_of_eq_of_le ?_ h
  congr 2
  funext b
  rw [State.relay_profile]
  split
  · rfl
  · cases s.profile? b <;> rfl

theorem writeSetting_cmp (s : State) (n v : Nat) : (s.writeSetting n v).cmp = s.cmp :=
  State.writeSetting_elim (P := fun t => t.cmp = s.cmp) n v (fun _ _ => rfl) (fun _ => rfl) (fun _ _ => rfl)

theorem Move.capacityLaw (h : Move x s t) (hs : CapacityLaw s) : CapacityLaw t := by
  cases h with
  | shared h => exact capacityLaw_of_geometry (congrFun (congrArg Fixed.geometry h.fixed)) hs
  | run y cs _ => exact capacityLaw_of_geometry (fun a => by rw [putRun_profile]) hs
  | setting n v => exact capacityLaw_of_geometry (geometry_of_cmp (writeSetting_cmp s n v)) hs
  | relay a q hq => exact capacityLaw_relay a q hq
  | pend a q =>
    refine capacityLaw_of_geometry (fun b => ?_) hs
    unfold State.profile?
    rw [State.setAisle_aisle]
    split
    · next hb => rw [hb]
    · rfl
  | _ => exact capacityLaw_of_geometry (geometry_of_cmp rfl) hs

theorem Moves.capacityLaw (h : Moves x s t) (hs : CapacityLaw s) : CapacityLaw t :=
  h.keep (fun _ _ _ _ k => k.capacityLaw) hs

theorem initial_capacityLaw (rate : LineRate) (gates : Vector Bool 8) : CapacityLaw (State.initial rate gates) := by
  simp [CapacityLaw, State.profile?, State.aisle, State.initial, CellMap.initial, Aisle.initial]

theorem Aisle.applied_geo (y : Aisle) : y.applied.map (·.geo) = y.profile.map (·.geo) := by
  unfold Aisle.applied
  split
  · next h _ => rw [h]; rfl
  · rfl

theorem State.softReset_geometry (s : State) (a : AisleId) :
    (s.softReset.profile? a).map (·.geo) = (s.profile? a).map (·.geo) := by
  unfold State.profile?
  rw [State.softReset_aisle]
  exact Aisle.applied_geo _

theorem exec_capacityLaw {i : Instr} (h : exec i s = .next t) (hs : CapacityLaw s) : CapacityLaw t := by
  by_cases hi : isReset i = false
  · exact (exec_moves hi h).capacityLaw hs
  · cases i
    case powerOn p => rw [eq_of_exec (u := s.powerOn p) rfl h]; exact initial_capacityLaw (strapRate p.rate1 p.rate0) p.gates
    case pinReset p => rw [eq_of_exec (u := s.pinReset p) rfl h]; exact initial_capacityLaw (strapRate p.rate1 p.rate0) p.gates
    case restartSoft =>
      rw [eq_of_exec (u := s.restartSoft) rfl h]
      exact (softReset_moves s).capacityLaw (capacityLaw_of_geometry s.softReset_geometry hs)
    case restartHard => rw [eq_of_exec (u := s.restartHard) rfl h]; exact initial_capacityLaw s.liu.rate s.gateLevels
    all_goals exact absurd rfl hi

theorem step_capacityLaw (hs : CapacityLaw s) (h : step s = .next t) : CapacityLaw t := by
  rcases step_cases h with ⟨i, r, hi, hr⟩ | rfl
  · refine exec_capacityLaw hi ?_
    rw [hr]
    exact capacityLaw_of_geometry (geometry_of_cmp rfl) hs
  · exact capacityLaw_of_geometry (geometry_of_cmp rfl) hs

/-- Settles O4: every command but the resets is a run of elementary changes, each of which keeps the laws. -/
theorem stepKeepsTheLaws : Obligations.StepKeepsTheLaws :=
  ⟨fun _ _ => step_lawful, fun _ _ => step_capacityLaw⟩

/-! ## The state after power-on -/

theorem reset_railLawful : RailLawful State.reset where
  table := fun a => by revert a; decide
  ordered := fun a r h => by
    have : ∀ a, State.reset.rail a = none := by decide
    rw [this a] at h
    cases h

theorem reset_faultLawful : FaultLawful State.reset where
  halt := by unfold HaltLaw; decide
  count := by unfold CountLaw; decide
  breach := by unfold BreachLaw; decide
  capture := fun r h => by cases h

/-- Settles O3: the checks of the laws pass in the state after power-on, whose rail tables are empty. -/
theorem resetHasTheLaws : Obligations.ResetHasTheLaws := by
  obtain ⟨lawful, pool, work⟩ := State.passesChecks_laws (s := State.reset) (by decide +kernel)
  exact ⟨lawful, reset_faultLawful, pool, initial_capacityLaw _ _, work, reset_railLawful⟩

end Sys2Proof.Machine
end
section
/-! Each of the registers is written by the commands of its own topic and by the resets alone. -/

namespace Sys2Proof.Machine

variable {x : Option Topic} {s t : State}

/-- The settings of SET POLICY. -/
def settings (s : State) : PerLink Nat × (AgingMode × Nat × Nat) × (Bool × Bool × Nat × Vector Nat 4 × Nat) ×
    (Nat × Nat × Nat × Nat × Nat × RefusalPolicy) :=
  ((fixed s).quota, (fixed s).aging, (fixed s).allotment, (fixed s).tracking)

theorem settings_of_fixed (h : fixed t = fixed s) : settings t = settings s := by unfold settings; rw [h]

theorem settings_eq (h : settings t = settings s) :
    t.jpl.quota = s.jpl.quota ∧ t.jpl.agingMode = s.jpl.agingMode ∧ t.jpl.startCount = s.jpl.startCount
      ∧ t.jpl.weight = s.jpl.weight ∧ t.ale = { s.ale with holdBack := t.ale.holdBack }
      ∧ t.crt = { s.crt with cranes := t.crt.cranes, rail := t.crt.rail } := by
  obtain ⟨_, jpl, _, ale, crt, _, _, _, _, _, _⟩ := t
  obtain ⟨_, _, _, _, _⟩ := ale
  obtain ⟨_, _, _, _, _, _, _, _⟩ := crt
  simp only [settings, fixed, Prod.mk.injEq] at h
  obtain ⟨hq, ⟨hm, hs, hw⟩, ⟨h1, h2, h3, h4, h5⟩, k1, k2, k3, k4, k5, k6⟩ := h
  exact ⟨hq, hm, hs, hw, by simp only [h1, h2, h3, h4, h5], by simp only [k1, k2, k3, k4, k5, k6]⟩

theorem fixed_putRun (y : SetState) (cs : List CellAddr) (s : State) : fixed (s.putRun y cs) = fixed s := by
  unfold State.putRun State.each
  induction cs generalizing s with
  | nil => rfl
  | cons c cs ih => rw [List.foldl_cons, ih, fixed_putCell]

theorem writeSetting_crane (s : State) (n v : Nat) (c : CraneId) : (s.writeSetting n v).crane c = s.crane c :=
  State.writeSetting_elim (P := fun t => t.crane c = s.crane c) n v (fun _ _ => rfl) (fun _ => rfl)
    (fun _ h => by unfold State.crane; rw [h])

theorem writeSetting_aic (s : State) (n v : Nat) : (s.writeSetting n v).aic = s.aic :=
  State.writeSetting_elim (P := fun t => t.aic = s.aic) n v (fun _ _ => rfl) (fun _ => rfl) (fun _ _ => rfl)

theorem writeSetting_flg (s : State) (n v : Nat) : (s.writeSetting n v).flg = s.flg :=
  State.writeSetting_elim (P := fun t => t.flg = s.flg) n v (fun _ _ => rfl) (fun _ => rfl) (fun _ _ => rfl)

theorem writeSetting_liu (s : State) (n v : Nat) : (s.writeSetting n v).liu = s.liu :=
  State.writeSetting_elim (P := fun t => t.liu = s.liu) n v (fun _ _ => rfl) (fun _ => rfl) (fun _ _ => rfl)

theorem Move.settings_same (hx : x ≠ some .setting) (h : Move x s t) : settings t = settings s := by
  cases h with
  | shared h => exact settings_of_fixed h.fixed
  | run y cs _ => exact settings_of_fixed (fixed_putRun y cs s)
  | relay a q _ => exact State.relay_others settings (fun _ _ _ => rfl) ..
  | setting n v => exact absurd rfl hx
  | _ => rfl

/-- The crane map (R125). -/
def mappings (s : State) (c : CraneId) : Option (AisleId × End) := (s.crane c).mapping

theorem Move.mappings_same (hx : x ≠ some .mapping) (h : Move x s t) : mappings t = mappings s := by
  cases h with
  | shared h => exact congrArg Fixed.mappings h.fixed
  | run y cs _ => exact congrArg Fixed.mappings (fixed_putRun y cs s)
  | relay a q _ => exact State.relay_others mappings (fun _ _ _ => rfl) ..
  | setting n v =>
    funext c
    unfold mappings
    rw [writeSetting_crane]
  | mapping c m y _ _ _ => exact absurd rfl hx
  | _ => rfl

theorem Move.geometry_same (hx : x ≠ some .profile) (h : Move x s t) (a : AisleId) :
    (t.profile? a).map (·.geo) = (s.profile? a).map (·.geo) := by
  cases h with
  | shared h => exact congrFun (congrArg Fixed.geometry h.fixed) a
  | run y cs _ => rw [putRun_profile]
  | setting n v => exact geometry_of_cmp (writeSetting_cmp s n v) a
  | relay a q _ => exact absurd rfl hx
  | pend a q => exact absurd rfl hx
  | _ => rfl

/-- The hold sources (R169). -/
def holdSources (s : State) (a : AisleId) : HoldSources := (s.hold a).sources

theorem Move.holdSources_same (hx : x ≠ some .sources) (h : Move x s t) : holdSources t = holdSources s := by
  cases h with
  | shared h => exact congrArg Fixed.sources h.fixed
  | run y cs _ => exact congrArg Fixed.sources (fixed_putRun y cs s)
  | relay a q _ => exact State.relay_others holdSources (fun _ _ _ => rfl) ..
  | setting n v =>
    funext a
    unfold holdSources State.hold
    rw [writeSetting_aic]
  | sources a y => exact absurd rfl hx
  | _ => rfl

theorem Move.flg_same (hx : x ≠ some .faults) (h : Move x s t) : t.flg = s.flg := by
  cases h with
  | shared h => exact congrArg Fixed.flg h.fixed
  | run y cs _ => exact congrArg Fixed.flg (fixed_putRun y cs s)
  | relay a q _ => exact State.relay_others State.flg (fun _ _ _ => rfl) ..
  | setting n v => exact writeSetting_flg s n v
  | faults y => exact absurd rfl hx
  | _ => rfl

theorem Move.rate_same (h : Move x s t) : t.liu.rate = s.liu.rate := by
  cases h with
  | shared h => exact congrArg Fixed.rate h.fixed
  | run y cs _ => exact congrArg Fixed.rate (fixed_putRun y cs s)
  | relay a q _ => exact State.relay_others (·.liu.rate) (fun _ _ _ => rfl) ..
  | setting n v => rw [writeSetting_liu]
  | link y _ _ hr => exact hr
  | _ => rfl

/-- A reading that only one topic's changes alter stands through the commands of every other topic. -/
theorem Moves.same_of_topic {α : Type} {f : State → α} {y : Topic}
    (hf : ∀ z, z ≠ some y → ∀ s t, Move z s t → f t = f s) (hx : x ≠ some y) (h : Moves x s t) : f t = f s :=
  h.same fun z hz => hf z (by rcases hz with rfl | rfl <;> simp [hx])

theorem Moves.geometry_same (hx : x ≠ some .profile) (h : Moves x s t) (a : AisleId) :
    (t.profile? a).map (·.geo) = (s.profile? a).map (·.geo) :=
  h.same_of_topic (f := fun s => (s.profile? a).map (·.geo)) (fun _ hz _ _ k => k.geometry_same hz a) hx

theorem Moves.rate_same (h : Moves x s t) : t.liu.rate = s.liu.rate :=
  h.same (f := fun s => s.liu.rate) fun _ _ _ _ => Move.rate_same

/-! ## The topic of each command -/

theorem topic_eq_none {i : Instr} (h : sourceChange i = none) : topic i ≠ some .sources := by
  unfold topic
  split
  all_goals simp [h]

theorem topic_of_setting {i : Instr} (h : ∀ l p, i ≠ .setPolicy l p) : topic i ≠ some .setting := by
  unfold topic
  split
  · next l p => exact absurd rfl (h l p)
  all_goals try simp

theorem topic_of_mapping {i : Instr} (h : ∀ l p, i ≠ .mapCrane l p) : topic i ≠ some .mapping := by
  unfold topic
  split
  · simp
  · next l p => exact absurd rfl (h l p)
  all_goals try simp

theorem topic_of_profile {i : Instr} (h : ∀ l p, i ≠ .loadProfile l p) : topic i ≠ some .profile := by
  unfold topic
  split
  · simp
  · simp
  · next l p => exact absurd rfl (h l p)
  all_goals try simp

theorem topic_of_faults {i : Instr} (hr : ∀ r, i ≠ .faultReport r)
    (h : ∀ l p, i ≠ .setFaultControl l p ∧ i ≠ .clearFault l p ∧ i ≠ .clearAisleFault l p) :
    topic i ≠ some .faults := by
  unfold topic
  split
  case h_5 r => exact absurd rfl (hr r)
  case h_6 l p => exact absurd rfl (h l p).1
  case h_7 l p => exact absurd rfl (h l p).2.1
  case h_8 l p => exact absurd rfl (h l p).2.2
  all_goals try simp

theorem isReset_of_ne {i : Instr} (h : ∀ pins, i ≠ .powerOn pins ∧ i ≠ .pinReset pins) (hh : i ≠ .restartHard)
    (hs : i ≠ .restartSoft) : isReset i = false := by
  unfold isReset
  split
  · next pins => exact absurd rfl (h pins).1
  · next pins => exact absurd rfl (h pins).2
  · exact absurd rfl hs
  · exact absurd rfl hh
  · rfl

/-- RESTART SOFT keeps the settings, the crane map, the geometries and the line rate. -/
theorem restartSoft_keeps (s : State) : settings s.restartSoft = settings s ∧ mappings s.restartSoft = mappings s
    ∧ (∀ a, (s.restartSoft.profile? a).map (·.geo) = (s.profile? a).map (·.geo))
    ∧ s.restartSoft.liu.rate = s.liu.rate := by
  have h := softReset_moves s
  refine ⟨?_, ?_, fun a => ?_, ?_⟩
  · exact (h.same_of_topic (f := settings) (fun _ hz _ _ => Move.settings_same hz) (by decide)).trans rfl
  · refine (h.same_of_topic (f := mappings) (fun _ hz _ _ => Move.mappings_same hz) (by decide)).trans ?_
    funext c
    unfold mappings
    rw [State.softReset_crane]
    rfl
  · exact (Moves.geometry_same (by decide) h a).trans (s.softReset_geometry a)
  · exact (Moves.rate_same h).trans rfl

/-- Settles O17: each register stands through every elementary change but those of its own topic. -/
theorem registersChangeByTheirOwnCommands : Obligations.RegistersChangeByTheirOwnCommands := by
  intro i s t h hp hh
  by_cases hs : i = .restartSoft
  · subst hs
    obtain ⟨h1, h2, h3, h4⟩ := restartSoft_keeps s
    rw [← eq_of_exec (u := s.restartSoft) rfl h] at h1 h2 h3 h4
    exact ⟨fun _ => settings_eq h1, fun _ => congrFun h2, fun _ => h3, fun _ hn => absurd rfl hn,
      fun _ _ hn => absurd rfl hn, h4⟩
  · have m := exec_moves (isReset_of_ne hp hh hs) h
    refine ⟨fun hi => settings_eq ?_, fun hi => ?_, fun hi a => ?_, fun hi _ => ?_, fun hr hi _ => ?_, ?_⟩
    · exact m.same_of_topic (fun _ hz _ _ => Move.settings_same hz) (topic_of_setting hi)
    · exact congrFun (m.same_of_topic (fun _ hz _ _ => Move.mappings_same hz) (topic_of_mapping hi))
    · exact m.geometry_same (topic_of_profile hi) a
    · exact congrFun (m.same_of_topic (fun _ hz _ _ => Move.holdSources_same hz) (topic_eq_none hi))
    · exact m.same_of_topic (f := State.flg) (fun _ hz _ _ => Move.flg_same hz) (topic_of_faults hr hi)
    · exact m.rate_same

end Sys2Proof.Machine
end
section
/-! The cells of an aisle have the numbers of a range of their own, and each cell its own number in it. -/

namespace Sys2Proof.Machine

variable {s : State}

/-- The number of cells of an aisle, none of an unconfigured one. -/
def State.cellTotal (s : State) (a : AisleId) : Nat :=
  match s.profile? a with
  | some p => p.geo.cellCount
  | none => 0

theorem State.cellTotal_eq {a : AisleId} {p : Profile} (h : s.profile? a = some p) : s.cellTotal a = p.geo.cellCount := by
  unfold State.cellTotal
  rw [h]

theorem State.base_eq (s : State) (a : AisleId) :
    s.base a = (((List.finRange 8).filter (· < a)).map s.cellTotal).sum := rfl

/-- An offset is a number in mixed radix, each of its digits below its own radix. -/
theorem Geometry.offset_lt {g : Geometry} {c : CellAddr} (h : g.hasCell c = true) : g.offset c < g.cellCount := by
  simp only [Geometry.hasCell, Bool.and_eq_true, Bool.or_eq_true, decide_eq_true_eq] at h
  obtain ⟨⟨⟨⟨b1, b2⟩, l1⟩, l2⟩, hd⟩ := h
  have hside := Side.code_lt c.side
  have hdepth : c.depth.code < g.depth := by
    cases hz : c.depth with
    | near =>
      show 0 < g.depth
      unfold Geometry.depth
      split <;> decide
    | deep =>
      have hg : g.doubleDeep = true := hd.resolve_left (by simp [hz])
      simp [Geometry.depth, Depth.code, hg]
  unfold Geometry.offset Geometry.cellCount
  have digit : ∀ {m n k x : Nat}, x < n → k < m → x * m + k < n * m := by
    intro m n k x hx hk
    calc x * m + k < x * m + m := by omega
      _ = (x + 1) * m := by ring
      _ ≤ n * m := Nat.mul_le_mul_right m hx
  exact digit (digit (digit hside (by omega)) (by omega)) hdepth

/-- An aisle's range of numbers ends where or before any later aisle's begins. -/
theorem State.base_add_le (s : State) {a b : AisleId} (h : a < b) : s.base a + s.cellTotal a ≤ s.base b := by
  have sub : ∀ a b : AisleId, a < b →
      ((List.finRange 8).filter (· < a) ++ [a]).Sublist ((List.finRange 8).filter (· < b)) := by decide
  have le := ((sub a b h).map s.cellTotal).sum_le_sum (fun _ _ => Nat.zero_le _)
  simpa [State.base_eq] using le

/-- Settles O24: the ranges of two aisles do not meet, and within an aisle the offsets are distinct. -/
theorem cellNumbersAreDistinct : Obligations.CellNumbersAreDistinct := by
  intro s c d p q hp hq hc hd h
  have hpc := Geometry.offset_lt hc
  have hqd := Geometry.offset_lt hd
  rw [← State.cellTotal_eq hp] at hpc
  rw [← State.cellTotal_eq hq] at hqd
  rcases lt_trichotomy c.aisle d.aisle with hlt | heq | hgt
  · have := s.base_add_le hlt
    omega
  · have same : p = q := by rw [heq, hq] at hp; exact (Option.some.inj hp).symm
    subst same
    exact p.geo.offset_injective hc hd heq (by rw [heq] at h; omega)
  · have := s.base_add_le hgt
    omega

end Sys2Proof.Machine
end
section
/-! What a command that its link takes leaves, by its answer: the refusals and the answers that change nothing else. -/

namespace Sys2Proof.Machine

variable {s : State}

@[simp] theorem State.withField_none {α : Type} (s : State) (f : α → Answer) : s.withField none f = s.refuse .badField := rfl

@[simp] theorem State.withField_some {α : Type} (s : State) (a : α) (f : α → Answer) : s.withField (some a) f = f a := rfl

/-- A command that its block refuses leaves the refusing reply alone. -/
theorem State.command_refuse {k : Link} (h : Hears s k) (e : Instr) (code : Byte) (p : List Byte) (act : State → Answer)
    (r : Result) (ha : act (s.heard e k) = (s.heard e k).refuse r) :
    s.command e k code p act = s.refused e k code r := by
  rw [State.command_replied h e code p act (by rw [ha]; cases k <;> rfl), ha]
  rfl

/-- A command whose block answers without an effect leaves the accepting reply alone. -/
theorem State.command_ok {k : Link} (h : Hears s k) (e : Instr) (code : Byte) (p : List Byte) (act : State → Answer)
    (d : ReplyData) (ha : act (s.heard e k) = (s.heard e k).ok d) :
    s.command e k code p act = s.answered e k code false d := by
  rw [State.command_replied h e code p act (by rw [ha]; cases k <;> rfl), ha]
  rfl

/-- The command of an order link that its block refuses. -/
theorem exec_refuse {i : Instr} {l : OrderLink} {code : Byte} {p : List Byte} {act : State → Answer} {r : Result}
    (hi : exec i s = .next (s.command i (.order l) code p act)) (h : Hears s (.order l))
    (ha : act (s.heard i (.order l)) = (s.heard i (.order l)).refuse r) :
    exec i s = .next (s.refused i (.order l) code r) := by
  rw [hi, State.command_refuse h i code p act r ha]

/-- The command of an order link whose block answers without an effect. -/
theorem exec_ok {i : Instr} {l : OrderLink} {code : Byte} {p : List Byte} {act : State → Answer} {d : ReplyData}
    (hi : exec i s = .next (s.command i (.order l) code p act)) (h : Hears s (.order l))
    (ha : act (s.heard i (.order l)) = (s.heard i (.order l)).ok d) :
    exec i s = .next (s.answered i (.order l) code false d) := by
  rw [hi, State.command_ok h i code p act d ha]

theorem aisleOf_eq_some {n : Nat} {a : AisleId} : aisleOf n = some a ↔ n = a.val := by
  unfold aisleOf
  split
  · next h => exact ⟨fun e => by cases e; rfl, fun e => by subst e; rfl⟩
  · next h => exact ⟨fun e => (by cases e), fun e => absurd (e ▸ a.isLt) h⟩

theorem aisleOf_eq_none {n : Nat} : aisleOf n = none ↔ 8 ≤ n := by
  unfold aisleOf
  split <;> simp <;> omega

theorem craneOf_eq_some {n : Nat} {c : CraneId} : craneOf n = some c ↔ n = c.val := by
  unfold craneOf
  split
  · next h => exact ⟨fun e => by cases e; rfl, fun e => by subst e; rfl⟩
  · next h => exact ⟨fun e => (by cases e), fun e => absurd (e ▸ c.isLt) h⟩

theorem craneOf_eq_none {n : Nat} : craneOf n = none ↔ 12 ≤ n := by
  unfold craneOf
  split <;> simp <;> omega

@[simp] theorem byteAt_singleton (b : Byte) : byteAt [b] 0 = b.toNat := rfl

theorem readAisle_eq_none {p : List Byte} (h : p.length ≠ 1 ∨ 8 ≤ byteAt p 0) : readAisle p = none := by
  unfold readAisle
  split
  · next hp => exact aisleOf_eq_none.mpr (h.resolve_left (not_not_intro hp))
  · rfl

theorem readAisle_singleton {b : Byte} {a : AisleId} (h : b.toNat = a.val) : readAisle [b] = some a :=
  aisleOf_eq_some.mpr h

theorem readCrane_eq_none {p : List Byte} (h : p.length ≠ 1 ∨ 12 ≤ byteAt p 0) : readCrane p = none := by
  unfold readCrane
  split
  · next hp => exact craneOf_eq_none.mpr (h.resolve_left (not_not_intro hp))
  · rfl

theorem readCrane_singleton {b : Byte} {c : CraneId} (h : b.toNat = c.val) : readCrane [b] = some c :=
  craneOf_eq_some.mpr h

/-! ## The numbers of an aisle's cells -/

theorem Geometry.InAisle.hasCell {g : Geometry} {a : AisleId} {c : CellAddr} (h : g.InAisle a c) :
    g.hasCell c = true ∧ c.aisle = a := by
  obtain ⟨ha, h1, h2, h3, h4, h5⟩ := h
  refine ⟨?_, ha⟩
  cases hz : c.depth <;> simp_all [Geometry.hasCell]

theorem Geometry.nodup_allCells (g : Geometry) (a : AisleId) : (g.allCells a).Nodup := by
  have disjoint : ∀ {α β : Type} (l : List α) (f : α → List β) (key : β → α), l.Nodup → (∀ x ∈ l, (f x).Nodup) →
      (∀ x ∈ l, ∀ y ∈ f x, key y = x) → (l.flatMap f).Nodup := by
    intro α β l f key hl hf hk
    refine List.nodup_flatMap.mpr ⟨hf, hl.pairwise_of_forall_ne fun x hx y hy hne => ?_⟩
    intro z hzx hzy
    exact hne ((hk x hx z hzx).symm.trans (hk y hy z hzy))
  unfold Geometry.allCells Geometry.cellsIn
  refine disjoint _ _ CellAddr.side (by decide) (fun side _ => ?_) ?_
  · refine disjoint _ _ CellAddr.bay (List.nodup_range' ..) (fun bay _ => ?_) ?_
    · refine disjoint _ _ CellAddr.level (List.nodup_range' ..) (fun level _ => ?_) ?_
      · refine List.Nodup.map (fun x y h => congrArg CellAddr.depth h) ?_
        split <;> decide
      · simp only [List.mem_map]
        rintro level - _ ⟨_, -, rfl⟩
        rfl
    · simp only [List.mem_flatMap, List.mem_map]
      rintro bay - _ ⟨_, -, _, -, rfl⟩
      rfl
  · simp only [List.mem_flatMap, List.mem_map]
    rintro side - _ ⟨_, -, _, -, _, -, rfl⟩
    rfl

theorem Geometry.length_allCells (g : Geometry) (a : AisleId) : (g.allCells a).length = g.cellCount := by
  have depths : (if g.doubleDeep then [Depth.near, Depth.deep] else [Depth.near]).length = g.depth := by
    unfold Geometry.depth
    split <;> rfl
  simp only [Geometry.allCells, Geometry.cellsIn, List.length_flatMap, List.length_map, depths, List.map_const',
    List.sum_replicate, List.length_range', smul_eq_mul, List.map_cons, List.map_nil, List.sum_cons, List.sum_nil,
    Geometry.cellCount, Nat.add_sub_cancel]
  ring

/-- The offsets of an aisle's cells are the numbers below its count of cells, each once (R5). -/
theorem Geometry.offsets_perm (g : Geometry) (a : AisleId) :
    ((g.allCells a).map g.offset).Perm (List.range g.cellCount) := by
  have inAisle : ∀ c ∈ g.allCells a, g.hasCell c = true ∧ c.aisle = a := fun c hc =>
    ((g.mem_allCells_iff a c).mp hc).hasCell
  have nodup : ((g.allCells a).map g.offset).Nodup :=
    List.Nodup.map_on (fun c hc d hd h =>
      g.offset_injective (inAisle c hc).1 (inAisle d hd).1 ((inAisle c hc).2.trans (inAisle d hd).2.symm) h)
      (g.nodup_allCells a)
  refine List.Subperm.perm_of_length_le (List.subperm_of_subset nodup fun n hn => ?_) ?_
  · obtain ⟨c, hc, rfl⟩ := List.mem_map.mp hn
    exact List.mem_range.mpr (Geometry.offset_lt (inAisle c hc).1)
  · simp [g.length_allCells a]

/-! ## The counts of an aisle's cells (R20) -/

theorem tableGet_of_mem {l : List (Nat × Cell)} (h : tableWf l = true) {y : Nat × Cell} (hy : y ∈ l) :
    tableGet l y.1 = y.2 := by
  obtain ⟨rising, -⟩ := (tableWf_iff l).mp h
  clear h
  induction l with
  | nil => cases hy
  | cons z l ih =>
    obtain ⟨i, z⟩ := z
    unfold tableGet
    rcases List.mem_cons.mp hy with rfl | hy
    · rw [if_pos rfl]
    · rw [List.pairwise_cons] at rising
      rw [if_neg (by have := rising.1 y hy; simp at this; omega), ih hy rising.2]

theorem tableGet_of_not_mem {l : List (Nat × Cell)} {k : Nat} (h : k ∉ l.map (·.1)) : tableGet l k = Cell.initial := by
  rcases tableGet_mem_or l k with h' | h'
  · exact h'
  · exact absurd (List.mem_map.mpr ⟨_, h', rfl⟩) h

/-- The offsets below a bound are those a table lists and those it does not list. -/
theorem countP_tableGet {l : List (Nat × Cell)} (h : tableWf l = true) (n : Nat) (test : Cell → Bool) :
    (List.range n).countP (fun k => test (tableGet l k)) =
      ((l.filter fun y => decide (y.1 < n)).countP fun y => test y.2)
        + (if test Cell.initial then n - (l.filter fun y => decide (y.1 < n)).length else 0) := by
  have nodup : (l.map (·.1)).Nodup :=
    List.Pairwise.imp (fun h => Nat.ne_of_lt h) (List.pairwise_map.mpr ((tableWf_iff l).mp h).1)
  have listed : ((List.range n).filter fun k => decide (k ∈ l.map (·.1))).Perm
      ((l.filter fun y => decide (y.1 < n)).map (·.1)) := by
    refine (List.perm_ext_iff_of_nodup (List.nodup_range.filter _) ?_).mpr fun k => ?_
    · exact nodup.sublist (List.filter_sublist.map _)
    · simp only [List.mem_filter, List.mem_range, List.mem_map, decide_eq_true_eq]
      constructor
      · rintro ⟨hk, y, hy, rfl⟩
        exact ⟨y, ⟨hy, hk⟩, rfl⟩
      · rintro ⟨y, ⟨hy, hk⟩, rfl⟩
        exact ⟨hk, y, hy, rfl⟩
  have ofListed : ((l.filter fun y => decide (y.1 < n)).map (·.1)).countP (fun k => test (tableGet l k)) =
      (l.filter fun y => decide (y.1 < n)).countP fun y => test y.2 := by
    rw [List.countP_map]
    refine List.countP_congr fun y hy => ?_
    simp only [Function.comp, tableGet_of_mem h (List.mem_filter.mp hy).1]
  have unlisted : ((List.range n).filter fun k => !decide (k ∈ l.map (·.1))).length =
      n - (l.filter fun y => decide (y.1 < n)).length := by
    have all := List.length_eq_length_filter_add (l := List.range n) fun k => decide (k ∈ l.map (·.1))
    rw [List.length_range, listed.length_eq, List.length_map] at all
    omega
  have ofUnlisted : ((List.range n).filter fun k => !decide (k ∈ l.map (·.1))).countP (fun k => test (tableGet l k)) =
      if test Cell.initial then ((List.range n).filter fun k => !decide (k ∈ l.map (·.1))).length else 0 := by
    have initial : ∀ k ∈ (List.range n).filter fun k => !decide (k ∈ l.map (·.1)), tableGet l k = Cell.initial := by
      intro k hk
      exact tableGet_of_not_mem (by simpa using (List.mem_filter.mp hk).2)
    split
    · next ht => exact List.countP_eq_length.mpr fun k hk => by rw [initial k hk]; exact ht
    · next ht => exact List.countP_eq_zero.mpr fun k hk => by rw [initial k hk]; exact ht
  rw [List.countP_eq_countP_filter_add _ _ fun k => decide (k ∈ l.map (·.1)), listed.countP_eq, ofListed, ofUnlisted,
    unlisted]

/-- An aisle's count is that of the cells of its geometry. -/
theorem countCells_eq {a : AisleId} {q : Profile} (hw : MapWf s) (hq : s.profile? a = some q) (test : Cell → Bool) :
    (s.aisle a).countCells test = (q.geo.allCells a).countP fun c => test (s.cell c) := by
  have read : ∀ c ∈ q.geo.allCells a, s.cell c = tableGet (s.aisle a).cells (q.geo.offset c) := by
    intro c hc
    obtain ⟨hg, ha⟩ := ((q.geo.mem_allCells_iff a c).mp hc).hasCell
    rw [State.cell_of_existing (ha ▸ hq) hg, ha]
  have offsets : (q.geo.allCells a).countP (fun c => test (s.cell c)) =
      (List.range q.geo.cellCount).countP fun k => test (tableGet (s.aisle a).cells k) := by
    rw [← (q.geo.offsets_perm a).countP_eq, List.countP_map]
    exact List.countP_congr fun c hc => by simp only [Function.comp, read c hc]
  have profile : (s.aisle a).profile = some q := hq
  rw [offsets, countP_tableGet (hw a)]
  unfold Aisle.countCells
  rw [profile]

theorem countCells_unconfigured {a : AisleId} (h : s.profile? a = none) (test : Cell → Bool) :
    (s.aisle a).countCells test = 0 := by
  have profile : (s.aisle a).profile = none := h
  unfold Aisle.countCells
  simp [profile]

theorem counts_unconfigured {a : AisleId} (h : s.profile? a = none) : (s.aisle a).counts =
    { unknown := 0, empty := 0, full := 0, inReserved := 0, outReserved := 0, blocked := 0, conflict := 0 } := by
  simp only [Aisle.counts, countCells_unconfigured h]

theorem CellState.isReserved_in (x : CellState) :
    (match x with | .inReserved _ => true | _ => false) = (x.isReserved && decide (x.loadClass = none)) := by
  cases x <;> rfl

theorem CellState.isReserved_out (x : CellState) :
    (match x with | .outReserved _ _ => true | _ => false) = (x.isReserved && x.loadClass.isSome) := by
  cases x <;> rfl

theorem counts_eq {a : AisleId} {q : Profile} (hw : MapWf s) (hq : s.profile? a = some q) : (s.aisle a).counts =
    { unknown := (q.geo.allCells a).countP fun c => decide ((s.cell c).state = .unknown)
      empty := (q.geo.allCells a).countP fun c => decide ((s.cell c).state = .empty)
      full := (q.geo.allCells a).countP fun c => (s.cell c).state.isFull
      inReserved := (q.geo.allCells a).countP fun c =>
        (s.cell c).state.isReserved && decide ((s.cell c).state.loadClass = none)
      outReserved := (q.geo.allCells a).countP fun c =>
        (s.cell c).state.isReserved && (s.cell c).state.loadClass.isSome
      blocked := (q.geo.allCells a).countP fun c => decide ((s.cell c).state = .blocked)
      conflict := (q.geo.allCells a).countP fun c => (s.cell c).conflict } := by
  simp only [Aisle.counts, countCells_eq hw hq, ← CellState.isReserved_in, ← CellState.isReserved_out] <;> rfl

/-! ## The queries -/

theorem aisleReport_eq (s : State) (a : AisleId) : s.aisleReport a =
    { profile := s.profile? a, pendingProfile := (s.aisle a).pendingProfile
      base := if s.profile? a = none then 0 else s.base a
      count := ((s.profile? a).map fun q => q.geo.cellCount).getD 0
      cells := (s.aisle a).counts
      hold := (s.hold a).state, sources := (s.hold a).sources, gack := (s.hold a).gack
      parkOwed := (s.cranesOf a).filter s.parkOwed
      inputs := { front := if s.stationExists a .front then some (s.input a .front) else none
                  rear := if s.stationExists a .rear then some (s.input a .rear) else none }
      outputs := { front := if s.stationExists a .front then some (s.credit a .front).report else none
                   rear := if s.stationExists a .rear then some (s.credit a .rear).report else none } } := by
  unfold State.aisleReport State.configured State.ifStation
  cases s.profile? a <;> rfl

theorem Byte.toNat_ne_zero {b : Byte} (h : b ≠ 0) : b.toNat ≠ 0 := fun e => h (BitVec.eq_of_toNat_eq e)

section Answers

variable {l : OrderLink} {p : List Byte} (r : State)

theorem queryJob_unread (h : decodeHandle p = none) : r.queryJob p = r.refuse .badField := by
  rw [State.queryJob, h, State.withField_none]

theorem queryJob_none {h : Handle} (hd : decodeHandle p = some h) (hj : r.job? h = none) :
    r.queryJob p = r.refuse .noSuchJob := by
  rw [State.queryJob, hd, State.withField_some, hj]

theorem queryJob_some {h : Handle} {j : Job} (hd : decodeHandle p = some h) (hj : r.job? h = some j) :
    r.queryJob p = r.ok (.job j) := by
  rw [State.queryJob, hd, State.withField_some, hj]

theorem queryCell_length (h : p.length ≠ 3) : r.queryCell p = r.refuse .badField := by
  rw [State.queryCell, if_pos h]

theorem queryCell_noAisle (h : p.length = 3) (hq : r.profile? (cellAt p 0).aisle = none) :
    r.queryCell p = r.refuse .noAisle := by
  rw [State.queryCell, if_neg (not_not_intro h), hq]

theorem queryCell_badCell {q : Profile} (h : p.length = 3) (hq : r.profile? (cellAt p 0).aisle = some q)
    (hc : q.geo.hasCell (cellAt p 0) = false) : r.queryCell p = r.refuse .badCell := by
  rw [State.queryCell, if_neg (not_not_intro h), hq]
  simp [hc]

theorem queryCell_some {q : Profile} (h : p.length = 3) (hq : r.profile? (cellAt p 0).aisle = some q)
    (hc : q.geo.hasCell (cellAt p 0) = true) : r.queryCell p = r.ok (.cell
      { number := r.base (cellAt p 0).aisle + q.geo.offset (cellAt p 0)
        state := (r.cell (cellAt p 0)).state
        fit := q.geo.fit (cellAt p 0).level
        conflict := (r.cell (cellAt p 0)).conflict }) := by
  rw [State.queryCell, if_neg (not_not_intro h), hq]
  simp [hc, State.cellReport, State.fit, hq]

theorem queryWave_length (h : p.length ≠ 1) : r.queryWave p = r.refuse .badField := by
  rw [State.queryWave, if_pos h]

theorem queryWave_all : r.queryWave [0] =
    r.ok (.waves (r.swu.waves.map fun w => (w.id, w.isOpen)) (16 - r.swu.waves.length)) := rfl

theorem queryWave_none {b : Byte} (hb : b ≠ 0) (hw : r.wave? b.toNat = none) : r.queryWave [b] = r.refuse .badWave := by
  have hb' : b.toNat ≠ 0 := fun e => hb (BitVec.eq_of_toNat_eq e)
  rw [State.queryWave, if_neg (by simp), byteAt_singleton, if_neg hb', hw]

theorem queryWave_some {b : Byte} {w : Wave} (hb : b ≠ 0) (hw : r.wave? b.toNat = some w) :
    r.queryWave [b] = r.ok (.wave w) := by
  have hb' : b.toNat ≠ 0 := fun e => hb (BitVec.eq_of_toNat_eq e)
  rw [State.queryWave, if_neg (by simp), byteAt_singleton, if_neg hb', hw]

theorem queryCrane_some {b : Byte} {c : CraneId} (h : b.toNat = c.val) :
    r.queryCrane [b] = r.ok (.crane (r.craneReport c)) := by
  rw [State.queryCrane, readCrane_singleton h, State.withField_some]

end Answers

/-- Settles O23: each query answers with its record, read as the statement writes it out. -/
theorem queriesAnswerAndChangeNothing : Obligations.QueriesAnswerAndChangeNothing := by
  intro s l p hears
  refine ⟨fun h => exec_refuse rfl hears (queryJob_unread _ h), fun h hd hj => exec_refuse rfl hears (queryJob_none _ hd hj),
    fun h j hd hj => exec_ok rfl hears (queryJob_some _ hd hj),
    fun h => exec_refuse rfl hears (if_neg h), fun h => exec_ok rfl hears (if_pos h),
    fun h => exec_refuse rfl hears (queryCell_length _ h), fun h hq => exec_refuse rfl hears (queryCell_noAisle _ h hq),
    fun q h hq hc => exec_refuse rfl hears (queryCell_badCell _ h hq hc),
    fun q h hq hc => exec_ok rfl hears (queryCell_some _ h hq hc),
    fun h => exec_refuse rfl hears ?_, fun b a hp hb => exec_ok rfl hears ?_, fun a => counts_unconfigured,
    fun hw a q => counts_eq hw, fun x => rfl, fun h => exec_refuse rfl hears ?_, fun b c x hp hb hx => exec_ok rfl hears ?_,
    fun h => exec_refuse rfl hears (queryWave_length _ h), fun h => exec_ok rfl hears (h ▸ queryWave_all _),
    fun b w hp hb hw => exec_ok rfl hears (hp ▸ queryWave_some _ hb hw),
    fun b hp hb hw => exec_refuse rfl hears (hp ▸ queryWave_none _ hb hw), fun h => exec_refuse rfl hears (if_neg h),
    fun h => exec_ok rfl hears (if_pos h)⟩
  · rw [State.queryAisle, readAisle_eq_none h, State.withField_none]
  · rw [State.queryAisle, hp, readAisle_singleton hb, State.withField_some, aisleReport_eq]
    rfl
  · rw [State.queryCrane, readCrane_eq_none h, State.withField_none]
  · rw [hp, queryCrane_some _ hb, hx]
    simp only [State.craneReport, State.left, Option.map_map]
    rfl

end Sys2Proof.Machine
end
section
/-! The order commands that write cells: SET CELL and SET RUN (R17 to R19). -/

namespace Sys2Proof.Machine

variable {s : State}

/-! ## The re-evaluations that a write draws -/

theorem State.slots_eq (s : State) : s.jpl.slots.toList = (List.finRange 256).map s.slot := by
  refine List.ext_getElem (by simp) fun i h1 h2 => ?_
  simp [State.slot]

theorem State.jobs_eq (s : State) : s.jobs = (List.finRange 256).filterMap fun i => (s.slot i).job := by
  rw [State.jobs, State.slots_eq, List.filterMap_map]
  rfl

theorem State.mem_jobs {j : Job} : j ∈ s.jobs ↔ ∃ i, (s.slot i).job = some j := by
  simp [State.jobs_eq]

/-- Under the law of handles no two live jobs have one handle. -/
theorem jobs_handles_nodup (h : HandleLaw s) : (s.jobs.map (·.handle)).Nodup := by
  rw [State.jobs_eq]
  refine List.pairwise_map.mpr (List.pairwise_filterMap.mpr ?_)
  refine (List.nodup_finRange 256).imp fun {i k} hne j hj j' hj' he => hne ?_
  rw [h i j hj, h k j' hj'] at he
  exact congrArg Handle.slot he

/-- The events that a re-evaluation request raises. -/
def State.reEvaluations (s : State) (p : Job → Bool) : List Instr := (s.jobsWhere p).map fun j => .reEvaluation j.handle

theorem State.mem_reEvaluations {p : Job → Bool} {e : Instr} :
    e ∈ s.reEvaluations p ↔ ∃ j ∈ s.jobs, e = .reEvaluation j.handle ∧ p j = true := by
  simp only [State.reEvaluations, List.mem_map, (s.jobsWhere_perm p).mem_iff, List.mem_filter]
  constructor
  · rintro ⟨j, ⟨hj, hp⟩, rfl⟩
    exact ⟨j, hj, rfl, hp⟩
  · rintro ⟨j, hj, rfl, hp⟩
    exact ⟨j, ⟨hj, hp⟩, rfl⟩

theorem reEvaluations_nodup (h : HandleLaw s) (p : Job → Bool) : (s.reEvaluations p).Nodup := by
  have handles : ((s.jobsWhere p).map (·.handle)).Nodup :=
    (((s.jobsWhere_perm p).map _).nodup_iff).mpr ((jobs_handles_nodup h).sublist (List.filter_sublist.map _))
  have events : s.reEvaluations p = ((s.jobsWhere p).map (·.handle)).map .reEvaluation := by
    simp [State.reEvaluations]
  rw [events]
  exact handles.map fun _ _ e => Instr.reEvaluation.inj e

theorem State.reEvaluate_eq (s : State) (p : Job → Bool) :
    s.reEvaluate p = { s with events := s.events ++ s.reEvaluations p } := rfl

/-- The jobs that a write of some cells of an aisle re-evaluates (R19). -/
def rechecked (a : AisleId) (cs : List CellAddr) (j : Job) : Bool :=
  pendingWith a [.noSpace, .noCandidate, .noRelocSpace] j || (decide (j.aisle = a) && cs.any fun c => namesCell c j)

theorem State.recheckAisle_eq (s : State) (a : AisleId) (cs : List CellAddr) :
    s.recheckAisle a cs = { s with events := s.events ++ s.reEvaluations (rechecked a cs) } := rfl

theorem namesCell_iff {c : CellAddr} {j : Job} : namesCell c j = true ↔
    j.kind = .retrieve ∧ (c ∈ j.candidates ∨ (c.depth = .near ∧ deepOf c ∈ j.candidates)) := by
  simp [namesCell]

theorem pendingWith_iff {a : AisleId} {rs : List PendingReason} {j : Job} : pendingWith a rs j = true ↔
    j.aisle = a ∧ j.state = .pending ∧ ∃ r ∈ rs, j.reason = some r := by
  unfold pendingWith
  cases j.reason <;> simp [and_assoc]

theorem rechecked_iff {a : AisleId} {cs : List CellAddr} {j : Job} : rechecked a cs j = true ↔
    j.aisle = a ∧ ((j.state = .pending ∧ (j.reason = some .noSpace ∨ j.reason = some .noCandidate
        ∨ j.reason = some .noRelocSpace))
      ∨ (j.kind = .retrieve ∧ ∃ c ∈ cs, c ∈ j.candidates ∨ (c.depth = .near ∧ deepOf c ∈ j.candidates))) := by
  simp only [rechecked, Bool.or_eq_true, pendingWith_iff, Bool.and_eq_true, decide_eq_true_eq, List.any_eq_true,
    namesCell_iff, List.mem_cons, List.not_mem_nil, or_false, exists_eq_or_imp, exists_eq_left]
  constructor
  · rintro (⟨ha, hp, hr⟩ | ⟨ha, c, hc, hk, hn⟩)
    · exact ⟨ha, .inl ⟨hp, hr⟩⟩
    · exact ⟨ha, .inr ⟨hk, c, hc, hn⟩⟩
  · rintro ⟨ha, ⟨hp, hr⟩ | ⟨hk, c, hc, hn⟩⟩
    · exact .inl ⟨ha, hp, hr⟩
    · exact .inr ⟨ha, c, hc, hk, hn⟩

/-! ## Writes of cells -/

theorem State.putCell_cases (s : State) (c : CellAddr) (x : Cell) :
    s.putCell c x = s ∨ ∃ t, s.putCell c x = s.setAisle c.aisle { s.aisle c.aisle with cells := t } := by
  by_cases h : s.existing c
  · obtain ⟨p, hp, hc⟩ := h
    refine .inr ⟨tableSet (s.aisle c.aisle).cells (p.geo.offset c) x, ?_⟩
    rw [State.putCell, hp]
    exact if_pos hc
  · exact .inl (State.putCell_of_not_existing x h)

/-- A write of a cell touches the Cell Map alone. -/
theorem State.putCell_eq (s : State) (c : CellAddr) (x : Cell) :
    s.putCell c x = { s with cmp := (s.putCell c x).cmp } := by
  rcases s.putCell_cases c x with h | ⟨t, h⟩ <;> rw [h]
  rfl

theorem State.putCell_profiles (s : State) (c : CellAddr) (x : Cell) (a : AisleId) :
    ((s.putCell c x).aisle a).profile = (s.aisle a).profile
      ∧ ((s.putCell c x).aisle a).pendingProfile = (s.aisle a).pendingProfile := by
  rcases s.putCell_cases c x with h | ⟨t, h⟩
  · rw [h]
    exact ⟨rfl, rfl⟩
  · rw [h, State.setAisle_aisle]
    split
    · next ha => rw [ha]; exact ⟨rfl, rfl⟩
    · exact ⟨rfl, rfl⟩

theorem State.existing_iff {c : CellAddr} : s.existing c ↔ s.hasCell c.aisle c = true := by
  unfold State.existing State.hasCell
  cases h : s.profile? c.aisle <;> simp

theorem State.configured_iff {a : AisleId} : s.configured a = true ↔ ∃ p, s.profile? a = some p := by
  rw [State.configured, Option.isSome_iff_exists]

theorem State.putRun_eq (s : State) (x : SetState) (cs : List CellAddr) :
    s.putRun x cs = { s with cmp := (s.putRun x cs).cmp } := by
  unfold State.putRun State.each
  induction cs generalizing s with
  | nil => rfl
  | cons c cs ih =>
    rw [List.foldl_cons, ih, State.putCell_eq]

theorem State.fit_eq_of_profile {t : State} (h : ∀ a, t.profile? a = s.profile? a) (c : CellAddr) : t.fit c = s.fit c := by
  unfold State.fit
  rw [h]

/-- A run of writes leaves each cell of the run with its record, and every other cell. -/
theorem State.cell_putRun (x : SetState) (cs : List CellAddr) (hw : MapWf s) (he : ∀ c ∈ cs, s.existing c)
    (d : CellAddr) : (s.putRun x cs).cell d = if d ∈ cs then x.record (s.fit d) else s.cell d := by
  unfold State.putRun State.each
  induction cs generalizing s with
  | nil => simp
  | cons c cs ih =>
    have hfit := State.fit_eq_of_profile (State.putCell_profile s c (x.record (s.fit c)))
    rw [List.foldl_cons, ih (State.putCell_wf _ _ hw), State.cell_putCell hw _ _ _ (he c (by simp)), hfit]
    · by_cases hd : d = c
      · subst hd; simp
      · simp [hd]
    · intro e hmem
      obtain ⟨p, hp, hc⟩ := he e (by simp [hmem])
      exact ⟨p, by rw [State.putCell_profile, hp], hc⟩

/-! ## SET CELL -/

theorem setStateOf_eq_none {n : Nat} (h : 2 < n) : setStateOf n = none := by
  unfold setStateOf
  split <;> first | omega | rfl

/-- The codes of the settable states, with the record each writes (R17, R18). -/
theorem setStateOf_eq_some {n : Nat} (h : n ≤ 2) : ∃ x, setStateOf n = some x ∧ ∀ k, x.record k =
    { state := if n = 0 then .empty else if n = 2 then .blocked else .full k, conflict := false } := by
  match n, h with
  | 0, _ => exact ⟨.empty, rfl, fun _ => rfl⟩
  | 1, _ => exact ⟨.full, rfl, fun _ => rfl⟩
  | 2, _ => exact ⟨.blocked, rfl, fun _ => rfl⟩

theorem optionalClass_eq_none {n : Nat} (h : 3 < n) (h' : n ≠ 255) : optionalClass n = none := by
  rw [optionalClass, if_neg (show n ≠ absentByte from h'), classOf, dif_neg (by omega)]
  rfl

theorem optionalClass_eq_some {n : Nat} (h : n ≤ 3 ∨ n = 255) :
    optionalClass n = some (if n = 255 then none else some (Fin.ofNat 4 n)) := by
  by_cases hn : n = 255
  · rw [optionalClass, if_pos (show n = absentByte from hn), if_pos hn]
  · have hlt : n < 4 := by omega
    rw [optionalClass, if_neg (show n ≠ absentByte from hn), if_neg hn, classOf, dif_pos hlt]
    simp [Fin.ofNat, Nat.mod_eq_of_lt hlt]

theorem isTaken_iff {c : CellAddr} : s.isTaken c = true ↔ (s.cell c).state.isReserved = true ∨
    (s.isDoubleDeep c.aisle = true ∧ c.depth = .near ∧ (s.cell (deepOf c)).state.isReserved = true) := by
  simp [State.isTaken, State.frontsReserved, and_assoc]

theorem isTaken_eq_false {c : CellAddr} (h : (s.cell c).state.isReserved = false)
    (hd : s.isDoubleDeep c.aisle = false ∨ c.depth = .deep ∨ (s.cell (deepOf c)).state.isReserved = false) :
    s.isTaken c = false := by
  rw [Bool.eq_false_iff]
  intro ht
  rcases isTaken_iff.mp ht with h' | ⟨h1, h2, h3⟩
  · simp [h] at h'
  · rcases hd with hd | hd | hd
    · simp [hd] at h1
    · simp [hd] at h2
    · simp [hd] at h3

section SetCell

variable {p : List Byte} {f : SetCellFields} (r : State)

theorem setCell_unread (h : decodeSetCell p = none) : r.setCell p = r.refuse .badField := by
  rw [State.setCell, h, State.withField_none]

theorem setCell_noAisle (hf : decodeSetCell p = some f) (h : r.configured f.cell.aisle = false) :
    r.setCell p = r.refuse .noAisle := by
  rw [State.setCell, hf, State.withField_some, if_pos h]

theorem setCell_badField (hf : decodeSetCell p = some f) (h : r.configured f.cell.aisle = true)
    (hc : 2 < f.state ∨ (3 < f.loadClass ∧ f.loadClass ≠ 255)) : r.setCell p = r.refuse .badField := by
  rw [State.setCell, hf, State.withField_some, if_neg (by simp [h])]
  rcases hc with hc | ⟨hc, hn⟩
  · rw [setStateOf_eq_none hc, State.withField_none]
  · rw [optionalClass_eq_none hc hn]
    cases setStateOf f.state <;> rfl

theorem State.putCell_reEvaluations (c : CellAddr) (x : Cell) (q : Job → Bool) :
    (r.putCell c x).reEvaluations q = r.reEvaluations q := by
  rw [State.putCell_eq]
  rfl

/-- A write of a cell with the re-evaluations of its aisle. -/
theorem recheck_putCell (c : CellAddr) (x : Cell) (a : AisleId) (cs : List CellAddr) :
    (r.putCell c x).recheckAisle a cs =
      { r with cmp := (r.putCell c x).cmp, events := r.events ++ r.reEvaluations (rechecked a cs) } := by
  rw [State.recheckAisle_eq, State.putCell_reEvaluations]
  conv_lhs => rw [State.putCell_eq]

/-- The record that SET CELL gives its cell. -/
def givenRecord (f : SetCellFields) (fit : Sys2Proof.Class) : Cell :=
  { state := if f.state = 0 then .empty else if f.state = 2 then .blocked
      else .full (if f.loadClass = 255 then fit else Fin.ofNat 4 f.loadClass)
    conflict := false }

/-- Past the checks of its aisle and of its codes. -/
theorem setCell_read (hf : decodeSetCell p = some f) (h : r.configured f.cell.aisle = true) (hs : f.state ≤ 2)
    (hk : f.loadClass ≤ 3 ∨ f.loadClass = 255) : r.setCell p =
      if r.hasCell f.cell.aisle f.cell = false then r.refuse .badCell
      else if r.isTaken f.cell then r.refuse .cellTaken
      else ((r.putCell f.cell (givenRecord f (r.fit f.cell))).recheckAisle f.cell.aisle [f.cell]).ok .nothing := by
  obtain ⟨x, hx, record⟩ := setStateOf_eq_some hs
  have given : (if f.loadClass = 255 then none else some (Fin.ofNat 4 f.loadClass)).getD (r.fit f.cell) =
      if f.loadClass = 255 then r.fit f.cell else Fin.ofNat 4 f.loadClass := by split <;> rfl
  rw [State.setCell, hf, State.withField_some, if_neg (by simp [h]), hx, State.withField_some,
    optionalClass_eq_some hk, State.withField_some, record, given]
  rfl

variable (hf : decodeSetCell p = some f) (h : r.configured f.cell.aisle = true) (hs : f.state ≤ 2)
  (hk : f.loadClass ≤ 3 ∨ f.loadClass = 255)
include hf h hs hk

theorem setCell_badCell (hc : r.hasCell f.cell.aisle f.cell = false) : r.setCell p = r.refuse .badCell := by
  rw [setCell_read r hf h hs hk, if_pos hc]

theorem setCell_taken (hc : r.hasCell f.cell.aisle f.cell = true) (ht : r.isTaken f.cell = true) :
    r.setCell p = r.refuse .cellTaken := by
  rw [setCell_read r hf h hs hk, if_neg (by simp [hc]), if_pos ht]

theorem setCell_writes (hc : r.hasCell f.cell.aisle f.cell = true) (ht : r.isTaken f.cell = false) : r.setCell p =
    ({ r with cmp := (r.putCell f.cell (givenRecord f (r.fit f.cell))).cmp
              events := r.events ++ r.reEvaluations (rechecked f.cell.aisle [f.cell]) } : State).okClamped false .nothing := by
  rw [setCell_read r hf h hs hk, if_neg (by simp [hc]), if_neg (by simp [ht]), recheck_putCell]
  rfl

end SetCell

/-- What an order command leaves whose answer writes the Cell Map and raises events. -/
theorem exec_cmp {i : Instr} {l : OrderLink} {code : Byte} {p : List Byte} {act : State → Answer} {m : CellMap}
    {es : List Instr} {b : Bool} {d : ReplyData} (hi : exec i s = .next (s.command i (.order l) code p act))
    (h : Hears s (.order l))
    (ha : act (s.heard i (.order l)) =
      ({ s.heard i (.order l) with cmp := m, events := (s.heard i (.order l)).events ++ es } : State).okClamped b d) :
    exec i s = .next { s.answered i (.order l) code b d with cmp := m, events := s.events.erase i ++ es } := by
  rw [hi, State.command_replied h i code p act (by rw [ha]; rfl), ha]
  rfl

/-- Settles O25: the answer of SET CELL by its checks, and the one cell and the events of the accepted one. -/
theorem setCellWritesOneCell : Obligations.SetCellWritesOneCell := by
  intro s l p hears
  refine ⟨fun h => exec_refuse rfl hears (setCell_unread _ h), fun f hf => ⟨fun h => exec_refuse rfl hears (setCell_noAisle _ hf h),
    fun h hc => exec_refuse rfl hears (setCell_badField _ hf h hc), fun h hs hk =>
      ⟨fun hc => exec_refuse rfl hears (setCell_badCell _ hf h hs hk hc),
        fun hc ht => exec_refuse rfl hears (setCell_taken _ hf h hs hk hc (isTaken_iff.mpr ht)),
        fun hc hres hdeep hw => ?_⟩⟩⟩
  let r := s.heard (.setCell l p) (.order l)
  refine ⟨_, _, exec_cmp rfl hears (setCell_writes _ hf h hs hk hc (isTaken_eq_false hres hdeep)), rfl,
    r.putCell_profiles f.cell (givenRecord f (r.fit f.cell)), fun c => ?_, fun hh => reEvaluations_nodup (s := r) hh _, fun e => ?_⟩
  · exact State.cell_putCell (s := r) hw f.cell c (givenRecord f (r.fit f.cell)) (State.existing_iff.mpr hc)
  · simp only [State.mem_reEvaluations, rechecked_iff, List.mem_singleton, exists_eq_left]
    exact Iff.rfl

/-! ## SET RUN -/

theorem configuredAisle_eq_none {n : Nat} (h : ∀ a : AisleId, n = a.val → s.configured a = false) :
    s.configuredAisle n = none := by
  rw [State.configuredAisle, Option.filter_eq_none_iff]
  intro a ha
  simp [h a (aisleOf_eq_some.mp ha)]

theorem configuredAisle_eq_some {n : Nat} {a : AisleId} (h : n = a.val) (hc : s.configured a = true) :
    s.configuredAisle n = some a := by
  rw [State.configuredAisle, Option.filter_eq_some_iff]
  exact ⟨aisleOf_eq_some.mpr h, hc⟩

theorem sideOf_eq_none {n : Nat} (h : 1 < n) : sideOf n = none := by
  unfold sideOf
  split <;> first | omega | rfl

theorem depthOf_eq_none {n : Nat} (h : 1 < n) : depthOf n = none := by
  unfold depthOf
  split <;> first | omega | rfl

theorem sideOf_code (x : Side) : sideOf x.code = some x := by cases x <;> rfl

theorem depthOf_code (x : Depth) : depthOf x.code = some x := by cases x <;> rfl

theorem mem_runCells {a : AisleId} {side : Side} {level : Nat} {depth : Depth} {lo hi : Nat} {c : CellAddr} :
    c ∈ runCells a side level depth lo hi ↔
      c.aisle = a ∧ c.side = side ∧ c.level = level ∧ c.depth = depth ∧ lo ≤ c.bay ∧ c.bay ≤ hi := by
  obtain ⟨_, _, _, _, _⟩ := c
  simp only [runCells, List.mem_map, List.mem_range'_1, CellAddr.mk.injEq]
  constructor
  · rintro ⟨b, hb, rfl, rfl, rfl, rfl, rfl⟩
    exact ⟨rfl, rfl, rfl, rfl, by omega, by omega⟩
  · rintro ⟨rfl, rfl, rfl, rfl, h1, h2⟩
    exact ⟨_, by omega, rfl, rfl, rfl, rfl, rfl⟩

/-- The cells of a run that SET RUN writes: those not taken. -/
def State.freeCells (s : State) (cs : List CellAddr) : List CellAddr := cs.filter fun c => !s.isTaken c

theorem State.mem_freeCells {cs : List CellAddr} {c : CellAddr} : c ∈ s.freeCells cs ↔ c ∈ cs ∧ s.isTaken c = false := by
  simp [State.freeCells]

/-- A run of writes with the re-evaluations of its aisle. -/
theorem recheck_putRun (r : State) (x : SetState) (ws : List CellAddr) (a : AisleId) (cs : List CellAddr) :
    (r.putRun x ws).recheckAisle a cs =
      { r with cmp := (r.putRun x ws).cmp, events := r.events ++ r.reEvaluations (rechecked a cs) } := by
  have same : (r.putRun x ws).reEvaluations (rechecked a cs) = r.reEvaluations (rechecked a cs) := by
    rw [State.putRun_eq]
    rfl
  rw [State.recheckAisle_eq, same]
  conv_lhs => rw [State.putRun_eq]

section SetRun

variable {p : List Byte} {f : SetRunFields} (r : State)

theorem setRun_unread (h : decodeSetRun p = none) : r.setRun p = r.refuse .badField := by
  rw [State.setRun, h, State.withField_none]

theorem setRun_noAisle (hf : decodeSetRun p = some f) (h : ∀ a : AisleId, f.aisle = a.val → r.configured a = false) :
    r.setRun p = r.refuse .noAisle := by
  rw [State.setRun, hf, State.withField_some, configuredAisle_eq_none h]

variable {a : AisleId} {q : Profile} (hf : decodeSetRun p = some f) (ha : f.aisle = a.val) (hq : r.profile? a = some q)
include hf ha hq

theorem setRun_badField (h : 2 < f.state ∨ 1 < f.side ∨ 1 < f.depth) : r.setRun p = r.refuse .badField := by
  rw [State.setRun, hf, State.withField_some, configuredAisle_eq_some ha (State.configured_iff.mpr ⟨q, hq⟩)]
  dsimp only
  rcases h with h | h | h
  · rw [setStateOf_eq_none h, State.withField_none]
  · rw [sideOf_eq_none h]
    cases setStateOf f.state <;> rfl
  · rw [depthOf_eq_none h]
    cases setStateOf f.state <;> cases sideOf f.side <;> rfl

variable {x : SetState} {side : Side} {depth : Depth} {lo hi n : Nat} (hx : setStateOf f.state = some x)
  (hs : f.side = side.code) (hd : f.depth = depth.code) (hn : n = clamp 1 120 f.count) (hlo : lo = max 1 f.firstBay)
  (hhi : hi = min q.geo.bays (f.firstBay + n - 1))
include hx hs hd hn hlo hhi

/-- Past the checks of its aisle and of its codes. -/
theorem setRun_read : r.setRun p =
    if f.level < 1 ∨ q.geo.levels < f.level ∨ (depth = .deep ∧ q.geo.doubleDeep = false) ∨ hi < lo then r.refuse .badCell
    else r.applyRun a side f.level depth lo hi x
      (decide (n ≠ f.count) || decide (lo ≠ f.firstBay) || decide (hi ≠ f.firstBay + n - 1)) := by
  rw [State.setRun, hf, State.withField_some, configuredAisle_eq_some ha (State.configured_iff.mpr ⟨q, hq⟩)]
  dsimp only
  rw [hx, State.withField_some, hs, sideOf_code, State.withField_some, hd, depthOf_code, State.withField_some, hq,
    hlo, hhi, hn]

theorem setRun_badCell (h : f.level = 0 ∨ q.geo.levels < f.level ∨ (depth = .deep ∧ q.geo.doubleDeep = false) ∨ hi < lo) :
    r.setRun p = r.refuse .badCell := by
  rw [setRun_read r hf ha hq hx hs hd hn hlo hhi, if_pos (h.imp_left (by omega))]

theorem setRun_writes (h1 : 1 ≤ f.level) (h2 : f.level ≤ q.geo.levels) (h3 : depth = .near ∨ q.geo.doubleDeep = true)
    (h4 : lo ≤ hi) {free : List CellAddr} (hfree : free = r.freeCells (runCells a side f.level depth lo hi)) :
    r.setRun p =
      ({ r with cmp := (r.putRun x free).cmp, events := r.events ++ r.reEvaluations (rechecked a free) } : State).okClamped
        (decide (n ≠ f.count ∨ lo ≠ f.firstBay ∨ hi ≠ f.firstBay + n - 1))
        (.runSet free.length ((runCells a side f.level depth lo hi).length - free.length)) := by
  have sound : ¬ (f.level < 1 ∨ q.geo.levels < f.level ∨ (depth = .deep ∧ q.geo.doubleDeep = false) ∨ hi < lo) := by
    rintro (h | h | ⟨rfl, h⟩ | h)
    · omega
    · omega
    · simp [h] at h3
    · omega
  rw [setRun_read r hf ha hq hx hs hd hn hlo hhi, if_neg sound]
  unfold State.applyRun
  dsimp only
  rw [← State.freeCells, ← hfree, recheck_putRun]
  simp only [Bool.decide_or, Bool.or_assoc]

end SetRun

/-- Settles O26: the answer of SET RUN by its checks, and the cells and the events of the accepted one. -/
theorem setRunWritesItsRange : Obligations.SetRunWritesItsRange := by
  intro s l p hears
  refine ⟨fun h => exec_refuse rfl hears (setRun_unread _ h), fun f hf => ⟨fun h => exec_refuse rfl hears (setRun_noAisle _ hf h),
    fun a q ha hq => ⟨fun h => exec_refuse rfl hears (setRun_badField _ hf ha hq h),
      fun side depth n lo hi hstate hs hd hn hlo hhi => ?_⟩⟩⟩
  obtain ⟨x, hx, record⟩ := setStateOf_eq_some hstate
  refine ⟨fun h => exec_refuse rfl hears (setRun_badCell _ hf ha hq hx hs hd hn hlo hhi h), fun h1 h2 h3 h4 hw => ?_⟩
  let r := s.heard (.setRun l p) (.order l)
  generalize hfree : r.freeCells (runCells a side f.level depth lo hi) = free
  have mem : ∀ c, c ∈ free ↔ c.aisle = a ∧ c.side = side ∧ c.level = f.level ∧ c.depth = depth ∧ lo ≤ c.bay ∧ c.bay ≤ hi
      ∧ s.isTaken c = false := fun c => by
    rw [← hfree, State.mem_freeCells, mem_runCells]
    simp only [and_assoc]
    exact Iff.rfl
  have existing : ∀ c ∈ free, r.existing c := fun c hc => by
    obtain ⟨hca, -, hcl, hcd, hlo', hhi', -⟩ := (mem c).mp hc
    refine ⟨q, hca ▸ hq, ?_⟩
    rw [Geometry.hasCell, hcl, hcd]
    rcases h3 with h3 | h3 <;> simp [h3, h1, h2] <;> omega
  have length : (runCells a side f.level depth lo hi).length = hi + 1 - lo := by simp [runCells]
  have le : free.length ≤ hi + 1 - lo := by
    rw [← length, ← hfree]
    exact List.length_filter_le ..
  refine ⟨_, _, _, _, exec_cmp rfl hears (setRun_writes r hf ha hq hx hs hd hn hlo hhi h1 h2 h3 h4 hfree.symm), rfl, ?_, ?_,
    fun c => ?_, fun hh => reEvaluations_nodup (s := r) hh _, fun e => ?_⟩
  · rw [length]
    omega
  · rw [← hfree, State.freeCells, ← List.countP_eq_length_filter, runCells, List.countP_map]
    rfl
  · refine (State.cell_putRun (s := r) x free hw existing c).trans ?_
    simp only [mem, record]
    rfl
  · simp only [State.mem_reEvaluations, rechecked_iff, mem, and_assoc]
    exact Iff.rfl

end Sys2Proof.Machine
end
section
/-! The operating path of LOAD PROFILE (R8, R9, R111). -/

namespace Sys2Proof.Machine

variable {s : State}

theorem CraneState.busy_iff {x : CraneState} : x.busy = true ↔ x ∈ [CraneState.offered, .working, .clearing] := by
  cases x <;> decide

/-- The events that a rail check raises (R111). -/
def State.breaches (s : State) (a : AisleId) : List Instr :=
  if s.railCheck a then []
  else [.faultReport { kind := .railBreach, source := .internal, aisle := some a, job := none, payload := [] }]

theorem State.checkRail_eq (s : State) (a : AisleId) : s.checkRail a = s.raiseAll (s.breaches a) := by
  unfold State.checkRail State.breaches
  split
  · simp [State.raiseAll]
  · rfl

theorem State.select_eq (s : State) (a : AisleId) : s.select a = s.raiseAll (s.wakes a) := rfl

/-- An offered notice joins its queue where there is room. -/
theorem State.offerNotice_queue (s : State) (l m : OrderLink) (n : Notice) : (s.offerNotice l n).queue m =
    if m = l ∧ (s.queue l).length < 32 then s.queue l ++ [n] else s.queue m := by
  unfold State.offerNotice
  by_cases h : s.hasRoom l = true
  · have room : (s.queue l).length < 32 := of_decide_eq_true h
    rw [if_pos h, State.setQueue_queue]
    simp [room]
  · have full : ¬ (s.queue l).length < 32 := of_decide_eq_false (Bool.not_eq_true _ ▸ h)
    rw [if_neg h]
    simp [full]

/-- An offered notice touches the links alone. -/
theorem State.offerNotice_eq (s : State) (l : OrderLink) (n : Notice) :
    s.offerNotice l n = { s with liu := (s.offerNotice l n).liu } := by
  unfold State.offerNotice
  split <;> rfl

theorem State.offerNotice_tx (s : State) (l : OrderLink) (n : Notice) (k : Link) : (s.offerNotice l n).tx k = s.tx k := by
  unfold State.offerNotice
  split <;> rfl

theorem State.setAisle_setAisle (s : State) (a : AisleId) (x y : Aisle) : (s.setAisle a x).setAisle a y = s.setAisle a y := by
  simp [State.setAisle]

/-! ## The load's fields -/

section Load

variable {l : OrderLink} {p : List Byte} {f : LoadProfileFields} {a : AisleId} {g : Geometry} (r : State)

/-- A LOAD PROFILE whose fields are sound goes on to the load itself. -/
theorem loadProfile_read (hf : decodeLoadProfile p = some f) (ha : f.aisle = a.val) (hg : loadGeometry f = some g)
    (hc : (loadOperating f).clamped.consistent = true) : r.loadProfile l p =
      r.applyLoad l a { geo := g, op := (loadOperating f).clamped }
        (decide ((loadOperating f).clamped ≠ loadOperating f)) := by
  rw [State.loadProfile, hf, State.withField_some, aisleOf_eq_some.mpr ha, State.withField_some, hg, State.withField_some,
    if_pos hc]

/-- A load of the geometry in force takes the operating path (R2). -/
theorem applyLoad_operating {q : Profile} (hq : r.profile? a = some q) (o : Operating) (b : Bool) :
    r.applyLoad l a { geo := q.geo, op := o } b =
      (r.operatingLoad l a o).okClamped b
        (.profileLoaded false ((r.operatingLoad l a o).aisle a).pendingProfile.isNone none) := by
  have path : r.takesGeometryPath a q.geo = false := by simp [State.takesGeometryPath, hq]
  rw [State.applyLoad, if_neg (by simp [path])]

/-- While a crane works the load is held pending. -/
theorem operatingLoad_pending {q : Profile} (hq : r.profile? a = some q) (o : Operating)
    (h : ∃ c ∈ r.cranesOf a, (r.crane c).state ∈ [CraneState.offered, .working, .clearing]) : r.operatingLoad l a o =
      r.setAisle a { r.aisle a with pendingProfile := some { op := o, link := l } } := by
  have profile : (r.aisle a).profile = some q := hq
  have busy : ((r.cranesOf a).any fun c => (r.crane c).state.busy) = true := by
    simpa only [List.any_eq_true, CraneState.busy_iff] using h
  unfold State.operatingLoad State.testPending
  simp only [State.setAisle_aisle, if_true, profile]
  exact if_pos busy

/-- An aisle's record as an operating load leaves it. -/
def Aisle.operate (x : Aisle) (q : Profile) (o : Operating) : Aisle :=
  { x with profile := some { q with op := o }, pendingProfile := none }

/-- With no crane at work the operating fields come into force at once, with a notice, selections and the rail check. -/
theorem operatingLoad_applied {q : Profile} (hq : r.profile? a = some q) (o : Operating)
    (h : ∀ c ∈ r.cranesOf a, (r.crane c).state ∉ [CraneState.offered, .working, .clearing]) : r.operatingLoad l a o =
      (((r.setAisle a ((r.aisle a).operate q o)).offerNotice l (.profileApplied a)).select a).checkRail a := by
  have profile : (r.aisle a).profile = some q := hq
  have quiet : ((r.cranesOf a).any fun c => (r.crane c).state.busy) = false := by
    simp only [List.any_eq_false, CraneState.busy_iff]
    exact h
  unfold State.operatingLoad State.testPending
  simp only [State.setAisle_aisle, if_true, profile, State.setAisle_setAisle]
  exact if_neg (by rw [Bool.not_eq_true]; exact quiet)

theorem operatingLoad_state {q : Profile} (hq : r.profile? a = some q) (o : Operating)
    (h : ∀ c ∈ r.cranesOf a, (r.crane c).state ∉ [CraneState.offered, .working, .clearing]) : r.operatingLoad l a o =
      { r.setAisle a ((r.aisle a).operate q o) with
        liu := (r.offerNotice l (.profileApplied a)).liu
        events := r.events ++ r.wakes a ++ (r.setAisle a ((r.aisle a).operate q o)).breaches a } := by
  rw [operatingLoad_applied r hq o h, State.checkRail_eq, State.select_eq, State.offerNotice_eq]
  have links : ((r.setAisle a ((r.aisle a).operate q o)).offerNotice l (.profileApplied a)).liu =
      (r.offerNotice l (.profileApplied a)).liu := by
    unfold State.offerNotice
    rw [show (r.setAisle a ((r.aisle a).operate q o)).hasRoom l = r.hasRoom l from rfl]
    split <;> rfl
  rw [links]
  rfl

variable {q : Profile} {o : Operating} (hf : decodeLoadProfile p = some f) (ha : f.aisle = a.val) (hq : r.profile? a = some q)
  (hg : loadGeometry f = some q.geo) (hc : (loadOperating f).clamped.consistent = true) (ho : (loadOperating f).clamped = o)
include hf ha hq hg hc ho

theorem loadProfile_pending (h : ∃ c ∈ r.cranesOf a, (r.crane c).state ∈ [CraneState.offered, .working, .clearing]) :
    r.loadProfile l p =
      (r.setAisle a { r.aisle a with pendingProfile := some { op := o, link := l } }).okClamped
        (decide (o ≠ loadOperating f)) (.profileLoaded false false none) := by
  rw [loadProfile_read r hf ha hg hc, applyLoad_operating r hq, ho, operatingLoad_pending r hq o h, State.setAisle_aisle,
    if_pos rfl]
  rfl

theorem loadProfile_applied (h : ∀ c ∈ r.cranesOf a, (r.crane c).state ∉ [CraneState.offered, .working, .clearing]) :
    r.loadProfile l p =
      ({ r.setAisle a ((r.aisle a).operate q o) with
        liu := (r.offerNotice l (.profileApplied a)).liu
        events := r.events ++ r.wakes a ++ (r.setAisle a ((r.aisle a).operate q o)).breaches a } : State).okClamped
        (decide (o ≠ loadOperating f)) (.profileLoaded false true none) := by
  have applied : (r.operatingLoad l a o).aisle a = (r.aisle a).operate q o := by
    rw [operatingLoad_state r hq o h]
    exact (State.setAisle_aisle r a a _).trans (if_pos rfl)
  rw [loadProfile_read r hf ha hg hc, applyLoad_operating r hq, ho, applied, operatingLoad_state r hq o h]
  rfl

end Load

/-- The rail check of the operating path, with the gap just loaded. -/
theorem breaches_setAisle {a : AisleId} {x : Aisle} {q : Profile} (hx : x.profile = some q) :
    (s.setAisle a x).breaches a =
      match s.rail a with
      | some r =>
        if keepsGap q.op.gap .front r.front.granted r.rear.granted then []
        else [.faultReport { kind := .railBreach, source := .internal, aisle := some a, job := none, payload := [] }]
      | none => [] := by
  have gap : (s.setAisle a x).gap a = q.op.gap := by
    rw [State.gap, State.profile?, State.setAisle_aisle, if_pos rfl, hx]
  unfold State.breaches State.railCheck
  rw [gap]
  cases h : s.rail a with
  | none => simp [h]
  | some r => simp [h]

/-- The command of an order link that its block carries out: the state it makes, with the accepting reply behind the
frames that wait. -/
theorem exec_done {i : Instr} {l : OrderLink} {code : Byte} {p : List Byte} {act : State → Answer} {u : State} {b : Bool}
    {d : ReplyData} (hi : exec i s = .next (s.command i (.order l) code p act)) (h : Hears s (.order l))
    (ha : act (s.heard i (.order l)) = u.okClamped b d) (ht : u.tx (.order l) = s.tx (.order l)) :
    exec i s = .next (u.replied (.order l) (okReply code b d)) := by
  rw [hi, State.command_replied h i code p act (by rw [ha]; exact ht), ha]
  rfl

/-- Settles O28: the two branches of the operating path, by the states of the aisle's cranes. -/
theorem operatingLoadWaitsForCranes : Obligations.OperatingLoadWaitsForCranes := by
  intro s l p f a q hears hf ha hq hg hc
  let r := s.heard (.loadProfile l p) (.order l)
  refine ⟨fun h => ?_, fun h => ?_⟩
  · exact ⟨_, exec_done rfl hears (loadProfile_pending (l := l) r hf ha hq hg hc rfl h) rfl, rfl,
      fun b => State.setAisle_aisle r a b _⟩
  · refine ⟨_, exec_done rfl hears (loadProfile_applied (l := l) r hf ha hq hg hc rfl h) (State.offerNotice_tx r l _ _), ?_,
      fun b => State.setAisle_aisle r a b _, ?_, ?_, rfl, rfl, rfl, rfl, rfl, rfl⟩
    · exact (State.setTx_tx ..).trans ((if_pos rfl).trans (congrArg (· ++ _) (State.offerNotice_tx r l _ _)))
    · refine (State.offerNotice_queue r l l _).trans ?_
      simp only [true_and]
      rfl
    · refine congrArg (r.events ++ r.wakes a ++ ·)
        ((breaches_setAisle (s := r) (q := { q with op := (loadOperating f).clamped }) rfl).trans ?_)
      rfl

end Sys2Proof.Machine
end
section
/-! ENTER STORE (R43, R44). -/

namespace Sys2Proof.Machine

variable {s : State}

/-! ## The checks -/

theorem flagOf_eq_none {n : Nat} (h : 1 < n) : flagOf n = none := by
  obtain ⟨k, rfl⟩ := Nat.exists_eq_add_of_le' h
  rfl

theorem flagOf_eq_some {n : Nat} (h : n ≤ 1) : flagOf n = some (decide (n = 1)) := by
  match n, h with
  | 0, _ => rfl
  | 1, _ => rfl

theorem endOf_eq_none {n : Nat} (h : 1 < n) : endOf n = none := by
  obtain ⟨k, rfl⟩ := Nat.exists_eq_add_of_le' h
  rfl

theorem endOf_eq_some {n : Nat} (h : n ≤ 1) : endOf n = some (if n = 0 then .front else .rear) := by
  match n, h with
  | 0, _ => rfl
  | 1, _ => rfl

/-- An end a store may not name (R43 check 2). -/
theorem storeEndOf_eq_none {a : AisleId} {n : Nat} (h : 1 < n ∨ (n = 1 ∧ s.isTandem a = false)) : s.storeEndOf a n = none := by
  unfold State.storeEndOf
  rcases h with h | ⟨rfl, h⟩
  · rw [endOf_eq_none h]
    rfl
  · rw [Option.filter_eq_none_iff]
    rintro e he hx
    cases he
    exact absurd (h.symm.trans hx) (by decide)

theorem storeEndOf_eq_some {a : AisleId} {n : Nat} (hc : s.configured a = true)
    (h : n = 0 ∨ (n = 1 ∧ s.isTandem a = true)) :
    s.storeEndOf a n = some (if n = 0 then .front else .rear) := by
  unfold State.storeEndOf
  rw [Option.filter_eq_some_iff]
  rcases h with rfl | ⟨rfl, h⟩
  · exact ⟨rfl, hc⟩
  · exact ⟨rfl, h⟩

theorem poolRefusal_full {l : OrderLink} (h : s.jpl.freeList.length ≤ 8) : s.poolRefusal l = some .poolFull := if_pos h

theorem poolRefusal_quota {l : OrderLink} (h : 8 < s.jpl.freeList.length) (hq : s.jpl.quota.get l ≤ s.jpl.live.get l) :
    s.poolRefusal l = some .quota := by
  rw [State.poolRefusal, if_neg (show ¬ s.jpl.freeList.length ≤ Config.slotReserve from Nat.not_le_of_lt h), if_pos hq]

theorem poolRefusal_none {l : OrderLink} (h : 8 < s.jpl.freeList.length) (hq : s.jpl.live.get l < s.jpl.quota.get l) :
    s.poolRefusal l = none := by
  rw [State.poolRefusal, if_neg (show ¬ s.jpl.freeList.length ≤ Config.slotReserve from Nat.not_le_of_lt h),
    if_neg (by omega)]

theorem tagTaken_iff {tag : Word} : s.tagTaken tag = true ↔ ∃ j ∈ s.jobs, j.kind = .store ∧ j.tag = tag := by
  simp [State.tagTaken]

/-- A fixed cell that ENTER STORE accepts (R43 checks 5 to 7). -/
def State.fixedFree (s : State) (a : AisleId) (d : Option CellAddr) : Prop :=
  ∀ c, d = some c → s.hasCell a c = true ∧ (s.cell c).state = .empty ∧ s.pairAllows c = true

theorem fixedRefusal_none {a : AisleId} {d : Option CellAddr} (h : s.fixedFree a d) : s.fixedRefusal a d = none := by
  cases d with
  | none => rfl
  | some c =>
    obtain ⟨h1, h2, h3⟩ := h c rfl
    simp [State.fixedRefusal, h1, h2, h3]

section Answer

variable {l : OrderLink} {p : List Byte} {f : EnterStoreFields} {a : AisleId} (r : State)

theorem enterStore_unread (h : decodeEnterStore p = none) : r.enterStore l p = r.refuse .badField := by
  rw [State.enterStore, h, State.withField_none]

theorem enterStore_noAisle (hf : decodeEnterStore p = some f) (h : ∀ a : AisleId, f.aisle = a.val → r.configured a = false) :
    r.enterStore l p = r.refuse .noAisle := by
  rw [State.enterStore, hf, State.withField_some, configuredAisle_eq_none h]

variable (hf : decodeEnterStore p = some f) (ha : f.aisle = a.val) (hc : r.configured a = true)
include hf ha hc

theorem enterStore_badField (h : 1 < f.end_ ∨ (f.end_ = 1 ∧ r.isTandem a = false) ∨ 1 < f.redirectAllowed) :
    r.enterStore l p = r.refuse .badField := by
  rw [State.enterStore, hf, State.withField_some, configuredAisle_eq_some ha hc]
  dsimp only
  rw [← or_assoc] at h
  rcases h with h | h
  · rw [storeEndOf_eq_none h, State.withField_none]
  · rw [flagOf_eq_none h]
    cases r.storeEndOf a f.end_ <;> rfl

variable (he : f.end_ = 0 ∨ (f.end_ = 1 ∧ r.isTandem a = true)) (hr : f.redirectAllowed ≤ 1)
include he hr

/-- Past the checks of its aisle and of its codes. -/
theorem enterStore_read : r.enterStore l p =
    (r.storeRefusal l f a).elim
      (r.createStore l f a (if f.end_ = 0 then .front else .rear) (decide (f.redirectAllowed = 1)) p) r.refuse := by
  rw [State.enterStore, hf, State.withField_some, configuredAisle_eq_some ha hc]
  dsimp only
  rw [storeEndOf_eq_some hc he, State.withField_some, flagOf_eq_some hr, State.withField_some]
  cases r.storeRefusal l f a <;> rfl

theorem enterStore_refuse {x : Result} (h : r.storeRefusal l f a = some x) : r.enterStore l p = r.refuse x := by
  rw [enterStore_read r hf ha hc he hr, h, Option.elim_some]

theorem enterStore_pool {x : Result} (h : r.poolRefusal l = some x) : r.enterStore l p = r.refuse x :=
  enterStore_refuse r hf ha hc he hr (by rw [State.storeRefusal, h]; rfl)

variable (hp : r.poolRefusal l = none)
include hp

theorem enterStore_dupTag (h : r.tagTaken f.tag = true) : r.enterStore l p = r.refuse .dupTag :=
  enterStore_refuse r hf ha hc he hr (by rw [State.storeRefusal, hp, if_pos h]; rfl)

variable (ht : ¬ r.tagTaken f.tag = true)
include ht

theorem enterStore_fixed {x : Result} (h : r.fixedRefusal a f.destination = some x) : r.enterStore l p = r.refuse x :=
  enterStore_refuse r hf ha hc he hr (by rw [State.storeRefusal, hp, if_neg ht, h]; rfl)

theorem enterStore_create (h : r.fixedFree a f.destination) : r.enterStore l p =
    r.createStore l f a (if f.end_ = 0 then .front else .rear) (decide (f.redirectAllowed = 1)) p := by
  rw [enterStore_read r hf ha hc he hr, State.storeRefusal, hp, if_neg ht, fixedRefusal_none h]
  rfl

end Answer

/-! ## The creation -/

theorem existing_of_hasCell {a : AisleId} {c : CellAddr} (h : s.hasCell a c = true) : s.existing c := by
  unfold State.hasCell at h
  cases hp : s.profile? a with
  | none => rw [hp] at h; cases h
  | some p =>
    rw [hp, Bool.and_eq_true, decide_eq_true_eq] at h
    exact ⟨p, h.1 ▸ hp, h.2⟩

/-- What the reservation of a store's fixed cell leaves: that cell, and the re-evaluations of the retrieves that name it. -/
theorem reserveFixed_leaves {a : AisleId} {d : Option CellAddr} (h : Handle) (hw : MapWf s) (hd : s.fixedFree a d) :
    ∃ m es, s.reserveFixed d h = { s with cmp := m, events := s.events ++ es }
      ∧ (∀ c, ({ s with cmp := m } : State).cell c =
          if d = some c then { s.cell c with state := .inReserved h } else s.cell c)
      ∧ (d = none → es = []) ∧ ∀ e ∈ es, ∃ g, e = .reEvaluation g := by
  cases d with
  | none => exact ⟨s.cmp, [], by simp [State.reserveFixed], fun c => rfl, fun _ => rfl, fun e he => absurd he (by simp)⟩
  | some c =>
    obtain ⟨hc, hempty, hpair⟩ := hd c rfl
    have exist := existing_of_hasCell hc
    let y : Cell := { s.cell c with state := .inReserved h }
    let q : Job → Bool := fun j => namesCell c j || (false && pendingWith c.aisle [.noSpace, .noRelocSpace] j)
    refine ⟨(s.putCell c y).cmp, s.reEvaluations q, ?_, fun x => ?_, fun e => (by cases e), fun e he => ?_⟩
    · have reserved : s.reserveDrop c h = some ((s.putCell c y).reEvaluate q) := if_pos ⟨hempty, hpair⟩
      rw [show s.reserveFixed (some c) h = (s.reserveDrop c h).getD s from rfl, reserved, Option.getD_some, State.reEvaluate_eq, State.putCell_reEvaluations]
      conv_lhs => rw [State.putCell_eq]
    · refine (State.cell_putCell hw c x y exist).trans ?_
      by_cases hx : x = c
      · subst hx; simp [y]
      · simp [hx, Ne.symm hx]
    · obtain ⟨j, -, rfl, -⟩ := State.mem_reEvaluations.mp he
      exact ⟨j.handle, rfl⟩

theorem nextHandle_eq_some (h : s.jpl.freeList ≠ []) : ∃ h, s.nextHandle = some h := by
  unfold State.nextHandle
  cases hl : s.jpl.freeList with
  | nil => exact absurd hl h
  | cons i is => exact ⟨_, rfl⟩

theorem createJob_job {j : Job} {h : Handle} (hj : j.handle = h) :
    (s.createJob j).job? h = some { j with entryOrder := s.jpl.entryOrder } := by
  subst hj
  rw [State.job?, State.createJob_slot, if_pos rfl]
  exact if_pos rfl

theorem createJob_job_other {j : Job} {g : Handle} (h : g.slot ≠ j.handle.slot) :
    (s.createJob j).job? g = s.job? g := by
  rw [State.job?, State.createJob_slot, if_neg h]
  rfl

theorem createStore_eq {l : OrderLink} {f : EnterStoreFields} {a : AisleId} {e : End} {b : Bool} {p : List Byte} {h : Handle}
    (hn : s.nextHandle = some h) : s.createStore l f a e b p =
      (((s.createJob (storeRecord h l f a e b)).reserveFixed f.destination h).raise (.storeHandOver h l p)).okClamped
        (decide (3 < f.cls)) (.entered h .pending (some .noPallet) none none) := by
  rw [State.createStore, hn]

theorem clampClass_val (n : Nat) : (clampClass n).val = min n 3 :=
  Nat.mod_eq_of_lt (Nat.lt_of_le_of_lt (Nat.min_le_right n 3) (by decide))

/-- Settles O33: the refusals of ENTER STORE in order, and the record, the cell and the events of the accepted one. -/
theorem enterStoreChecksThenCreates : Obligations.EnterStoreChecksThenCreates := by
  intro s l p hears
  let r := s.heard (.enterStore l p) (.order l)
  refine ⟨fun h => exec_refuse rfl hears (enterStore_unread _ h), fun f hf =>
    ⟨fun h => exec_refuse rfl hears (enterStore_noAisle _ hf h), fun a ha hc =>
      ⟨fun h => exec_refuse rfl hears (enterStore_badField _ hf ha hc h), fun he hr =>
        ⟨fun h => exec_refuse rfl hears (enterStore_pool r hf ha hc he hr (poolRefusal_full h)),
          fun h hq => exec_refuse rfl hears (enterStore_pool r hf ha hc he hr (poolRefusal_quota h hq)),
          fun hfree hquota => ?_⟩⟩⟩⟩
  have pool : r.poolRefusal l = none := poolRefusal_none hfree hquota
  refine ⟨fun h => exec_refuse rfl hears (enterStore_dupTag r hf ha hc he hr pool (tagTaken_iff.mpr h)), fun hno => ?_⟩
  have untaken : ¬ r.tagTaken f.tag = true := fun h => by
    obtain ⟨j, hj, hk, ht⟩ := tagTaken_iff.mp h
    exact hno j hj hk ht
  have fixed := fun x h => exec_refuse (i := .enterStore l p) (r := x) rfl hears
    (enterStore_fixed (l := l) r hf ha hc he hr pool untaken h)
  refine ⟨fun c hd h => fixed _ ?_, fun c hd h he => fixed _ ?_, fun c hd h he hp => fixed _ ?_, fun hd hw => ?_⟩
  · rw [hd]
    exact if_pos h
  · rw [hd]
    exact (if_neg (by rw [Bool.not_eq_false]; exact h)).trans (if_pos he)
  · rw [hd]
    exact (if_neg (by rw [Bool.not_eq_false]; exact h)).trans ((if_neg (not_not_intro he)).trans (if_pos hp))
  · obtain ⟨h, hn⟩ := nextHandle_eq_some (s := r) (List.ne_nil_of_length_pos (Nat.zero_lt_of_lt hfree))
    let j := storeRecord h l f a (if f.end_ = 0 then .front else .rear) (decide (f.redirectAllowed = 1))
    have create := (enterStore_create (l := l) r hf ha hc he hr pool untaken hd).trans (createStore_eq hn)
    obtain ⟨m, es, leaves, cells, none, each⟩ := reserveFixed_leaves (s := r.createJob j) (a := a) (d := f.destination) h hw hd
    rw [leaves] at create
    refine ⟨_, h, { j with entryOrder := s.jpl.entryOrder }, es, exec_done rfl hears create rfl, hn, createJob_job (s := r) rfl, rfl,
      rfl, rfl, rfl, rfl, rfl, clampClass_val _, rfl, ?_, ?_, rfl, rfl, ?_, rfl, rfl, rfl, rfl, rfl, rfl, rfl, rfl, rfl,
      fun g hg => createJob_job_other (s := r) hg, cells, none, each⟩
    · rcases he with he | he <;> simp [j, storeRecord, jobEnd, he]
    · rcases he with he | he <;> simp [j, storeRecord, jobEnd, he]
    · exact decide_eq_true_iff

end Sys2Proof.Machine
end
section
/-! The four resets, register by register (R201). -/

namespace Sys2Proof.Machine

variable {s : State}

/-! ## The registers after power-on -/

section Initial

variable (rate : LineRate) (gates : Vector Bool 8)

theorem initial_slot (i : Fin 256) : (State.initial rate gates).slot i = { gen := 0, job := none } := by
  simp [State.slot, State.initial, JobPool.initial, Slot.initial]

theorem initial_aisle (a : AisleId) :
    (State.initial rate gates).aisle a = { profile := none, pendingProfile := none, cells := [] } := by
  simp [State.aisle, State.initial, CellMap.initial, Aisle.initial]

theorem initial_holdBack (c : CraneId) : (State.initial rate gates).holdBack c = { timer := none, heldBack := false } := by
  simp [State.holdBack, State.initial, Allotment.initial, HoldBack.initial]

theorem initial_crane (c : CraneId) : (State.initial rate gates).crane c = Crane.initial := by
  simp [State.crane, State.initial, Tracker.initial]

theorem initial_rail (a : AisleId) : (State.initial rate gates).rail a = none := by
  simp [State.rail, State.initial, Tracker.initial]

theorem initial_input (a : AisleId) (e : End) : (State.initial rate gates).input a e = .empty := by
  cases e <;> simp [State.input, State.initial, Stations.initial, PerEnd.get]

theorem initial_credit (a : AisleId) (e : End) :
    (State.initial rate gates).credit a e = { reportedFree := 0, inFlight := 0 } := by
  cases e <;> simp [State.credit, State.initial, Stations.initial, PerEnd.get]

theorem initial_hold (a : AisleId) : (State.initial rate gates).hold a = AisleHold.initial gates[a] := by
  simp [State.hold, State.initial, AisleControl.initial]

theorem initial_parkOwed (c : CraneId) : (State.initial rate gates).parkOwed c = false := by
  simp [State.parkOwed, State.initial, AisleControl.initial]

theorem initial_tx (k : Link) : (State.initial rate gates).tx k = [] := by
  simp [State.tx, State.initial, Links.initial]

theorem initial_finishing (k : Link) : (State.initial rate gates).finishing k = none := by
  simp [State.finishing, State.initial, Links.initial]

theorem initial_rx (k : Link) : (State.initial rate gates).rx k = .hunting := by
  simp [State.rx, State.initial, Links.initial]

theorem initial_links (l : OrderLink) : (State.initial rate gates).queue l = []
    ∧ (State.initial rate gates).liu.attn.get l = false ∧ (State.initial rate gates).liu.active.get l = false
    ∧ (State.initial rate gates).liu.lastFetched.get l = [] := by
  cases l <;> exact ⟨rfl, rfl, rfl, rfl⟩

theorem initial_faultKind (k : FaultKind) : (State.initial rate gates).faultKind k =
    { flag := false, masked := decide (k = .loadRejected)
      severity := if k = .foreignReport ∨ k = .railBreach then .aisle else .note } := by
  cases k <;> rfl

theorem initial_faultHold (a : AisleId) : (State.initial rate gates).faultHold a = { isSet := false, kinds := [] } := by
  simp [State.faultHold, State.initial, FaultLog.initial]

end Initial

theorem strapRate_eq (x y : Bool) : strapRate x y =
    if x then (if y then .r460800 else .r230400) else (if y then .r115200 else .r57600) := by
  cases x <;> cases y <;> rfl

/-! ## The hard resets -/

theorem hardReset_faultKind (s : State) (rate : LineRate) (gates : Vector Bool 8) (k : FaultKind) :
    (s.hardReset rate gates).faultKind k =
      { (State.initial rate gates).faultKind k with flag := (s.faultKind k).flag } := by
  simp [State.faultKind, State.hardReset, FaultLog.hardReset, State.initial, FaultLog.initial]

theorem hardReset_faultHold (s : State) (rate : LineRate) (gates : Vector Bool 8) (a : AisleId) :
    (s.hardReset rate gates).faultHold a = { isSet := false, kinds := [] } := by
  simp [State.faultHold, State.hardReset, FaultLog.hardReset]

/-- The frame a restart lets complete on a link: none on the sending one. -/
theorem restartLinks_finishing (s : State) (k : Link) : s.restartLinks.finishing[linkIndex k] =
    if (s.liu.restarting.map fun r => Link.order r.link) = some k then none else (s.finishing k).or (s.tx k).head? := by
  have same : ((s.liu.restarting.map fun r => linkIndex (.order r.link)) = some (linkIndex k)) ↔
      (s.liu.restarting.map fun r => Link.order r.link) = some k := by
    simp only [Option.map_eq_some_iff]
    exact exists_congr fun r => and_congr_right fun _ => ⟨linkIndex_injective, congrArg linkIndex⟩
  simp only [State.restartLinks, Fin.getElem_fin, Vector.getElem_ofFn, State.frameInFlight, Fin.eta, same]
  rfl

theorem gateLevels_get (s : State) (a : AisleId) : s.gateLevels[a] = !(s.hold a).sources.gate := by
  simp [State.gateLevels, State.hold]

/-! ## RESTART SOFT -/

theorem railCheck_raiseAll (s : State) (es : List Instr) (a : AisleId) : (s.raiseAll es).railCheck a = s.railCheck a := rfl

/-- The rail checks of a list of aisles raise the breaches of those that fail. -/
theorem each_checkRail (s : State) (as : List AisleId) : s.each as State.checkRail =
    s.raiseAll ((as.filter fun a => !s.railCheck a).map fun a =>
      .faultReport { kind := .railBreach, source := .internal, aisle := some a, job := none, payload := [] }) := by
  unfold State.each
  induction as generalizing s with
  | nil => simp [State.raiseAll]
  | cons a as ih =>
    rw [List.foldl_cons, ih, State.checkRail_eq]
    show (s.raiseAll (s.breaches a)).raiseAll ((as.filter fun b => !s.railCheck b).map _) = _
    cases h : s.railCheck a <;> simp [State.raiseAll, State.breaches, h]

/-- Where no crane waits the end of a halt starts no selection. -/
theorem selectAll_of_not_waiting (h : ∀ c, (s.crane c).state ≠ .waiting) : s.selectAll = s := by
  have one : ∀ a, s.select a = s := fun a => by
    have none : s.wakes a = [] := by simp [State.wakes, h]
    rw [State.select_eq, none]
    simp [State.raiseAll]
  unfold State.selectAll State.each
  exact List.foldl_fixed' one _

theorem evaluateHalt_of_not_waiting (h : ∀ c, (s.crane c).state ≠ .waiting) :
    s.evaluateHalt = { s with flg := { s.flg with halt := s.haltCondition } } := by
  unfold State.evaluateHalt
  dsimp only
  split
  · exact selectAll_of_not_waiting (s := { s with flg := { s.flg with halt := s.haltCondition } }) h
  · rfl

theorem State.softReset_state (s : State) (c : CraneId) : (s.softReset.crane c).state ≠ .waiting := by
  rw [State.softReset_crane]
  exact fun h => by cases h

theorem restartSoft_state (s : State) : s.restartSoft =
    { s.softReset with
      flg := { s.flg with halt := s.haltCondition }
      events := ((List.finRange 8).filter fun a => !s.softReset.railCheck a).map fun a =>
        .faultReport { kind := .railBreach, source := .internal, aisle := some a, job := none, payload := [] } } := by
  rw [State.restartSoft_eq, each_checkRail, evaluateHalt_of_not_waiting]
  · rfl
  · exact s.softReset_state

theorem tableGet_softCells (s : State) {l : List (Nat × Cell)} (h : tableWf l = true) (k : Nat) :
    tableGet (s.softCells l) k = s.softCell (tableGet l k) := by
  have initial : s.softCell Cell.initial = Cell.initial := rfl
  by_cases hk : k ∈ l.map (·.1)
  · obtain ⟨y, hy, rfl⟩ := List.mem_map.mp hk
    rw [tableGet_of_mem h hy]
    by_cases hc : s.softCell y.2 = Cell.initial
    · rw [hc]
      refine tableGet_of_not_mem fun hm => ?_
      obtain ⟨z, hz, hzy⟩ := List.mem_map.mp hm
      obtain ⟨hz, hne⟩ := List.mem_filter.mp hz
      obtain ⟨w, hw, rfl⟩ := List.mem_map.mp hz
      have same : w.2 = y.2 := by
        rw [← tableGet_of_mem h hw, ← tableGet_of_mem h hy]
        exact congrArg _ hzy
      simp [same, hc] at hne
    · have listed : (y.1, s.softCell y.2) ∈ s.softCells l :=
        List.mem_filter.mpr ⟨List.mem_map.mpr ⟨y, hy, rfl⟩, decide_eq_true hc⟩
      exact tableGet_of_mem (s.softCells_wf h) listed
  · rw [tableGet_of_not_mem hk, initial]
    refine tableGet_of_not_mem fun hm => hk ?_
    obtain ⟨z, hz, rfl⟩ := List.mem_map.mp hm
    obtain ⟨w, hw, rfl⟩ := List.mem_map.mp (List.mem_filter.mp hz).1
    exact List.mem_map.mpr ⟨w, hw, rfl⟩

theorem State.softReset_profile (s : State) (a : AisleId) : s.softReset.profile? a = (s.profile? a).map (fun q =>
    { q with op := ((s.aisle a).pendingProfile.map (·.op)).getD q.op }) := by
  unfold State.profile?
  rw [State.softReset_aisle]
  cases s.aisle a with
  | mk p q cells => cases p <;> cases q <;> rfl

theorem State.softReset_cell (hw : MapWf s) (c : CellAddr) : s.softReset.cell c = s.softCell (s.cell c) := by
  unfold State.cell
  rw [State.softReset_profile, State.softReset_aisle]
  cases s.profile? c.aisle with
  | none => rfl
  | some q =>
    dsimp only [Option.map_some]
    by_cases hc : q.geo.hasCell c = true
    · rw [if_pos hc, if_pos hc, tableGet_softCells s (hw c.aisle)]
    · rw [if_neg hc, if_neg hc]
      rfl

theorem softCell_eq (s : State) (x : Cell) : s.softCell x = { x with
    state := match x.state with
      | .inReserved h => if (s.job? h).map (·.state) = some .loaded then .unknown else .empty
      | .outReserved _ k => .full k
      | y => y } := by
  obtain ⟨x, b⟩ := x
  cases x with
  | inReserved h =>
    unfold State.softCell
    dsimp only
    cases s.job? h with
    | none => rfl
    | some j => by_cases hj : j.state = .loaded <;> simp [hj]
  | _ => rfl

theorem State.softReset_rail (s : State) (a : AisleId) : s.softReset.rail a = if s.isTandem a then
    some { front := { granted := .at (s.parkEnd a .front), claim := none, clear := none }
           rear := { granted := .at (s.parkEnd a .rear), claim := none, clear := none } } else none := by
  have rail : s.softReset.rail a = softRail (s.softReset.aisle a) := by
    simp [State.rail, State.aisle, State.softReset, Tracker.softReset]
  have profile : (s.softReset.aisle a).profile = s.softReset.profile? a := rfl
  rw [rail, softRail, profile, State.softReset_profile, State.isTandem, State.parkEnd, State.parkEnd]
  cases s.profile? a with
  | none => rfl
  | some q =>
    dsimp only [Option.map_some]
    by_cases hk : q.geo.kind = .tandem <;> simp [hk, RailEntry.at]

theorem AisleHold.softReset_eq (x : AisleHold) (src : HoldSources) : x.softReset src =
    { sources := src
      state := if x.state = .unconfigured then .unconfigured else if src.any then .held else .isOpen
      gack := if x.state = .unconfigured then x.gack else src.any } := by
  unfold AisleHold.softReset
  by_cases h : x.state = .unconfigured
  · obtain ⟨_, _, _⟩ := x
    cases h
    rfl
  · cases ha : src.any <;> simp [h]

theorem State.softReset_crane_registers (s : State) (c : CraneId) : s.softReset.crane c =
    { mapping := (s.crane c).mapping, state := .absent, bay := (s.softReset.crane c).bay
      level := (s.softReset.crane c).level
      known := false, unitCounter := (s.crane c).unitCounter, unit := none, deadline := none, offerTimer := none
      redirect := none, strikes := 0, backoffTimer := none, parkTimer := none
      leaveService := (s.crane c).leaveService || decide ((s.crane c).state = .outOfService)
      lastRefusal := none, lastFault := none } := by
  rw [State.softReset_crane]
  rfl

/-- Settles O15: each register of each reset, read off the reset states. -/
theorem resetsLeaveTheirState : Obligations.ResetsLeaveTheirState := by
  refine ⟨fun s pins => ?_, fun s pins => ?_, fun s hw => ?_⟩
  · let r := strapRate pins.rate1 pins.rate0
    refine ⟨s.powerOn pins, rfl, initial_slot r pins.gates, rfl, initial_aisle r pins.gates, rfl, rfl,
      initial_holdBack r pins.gates, fun c => ?_, initial_rail r pins.gates, rfl,
      fun a e => ⟨initial_input r pins.gates a e, initial_credit r pins.gates a e⟩, rfl, initial_hold r pins.gates,
      initial_parkOwed r pins.gates, initial_faultKind r pins.gates, initial_faultHold r pins.gates, rfl, rfl, rfl,
      initial_links r pins.gates,
      fun k => ⟨initial_tx r pins.gates k, initial_finishing r pins.gates k, initial_rx r pins.gates k⟩, rfl, rfl,
      strapRate_eq pins.rate1 pins.rate0⟩
    rw [show (s.powerOn pins).crane c = Crane.initial from initial_crane r pins.gates c]
    rfl
  · refine ⟨s.powerOn pins, s.pinReset pins, s.restartHard, rfl, rfl, rfl,
      fun k => ⟨hardReset_faultKind s _ _ k, rfl⟩, rfl, rfl, rfl, hardReset_faultHold s _ _, rfl,
      rfl, rfl, rfl, rfl, rfl, rfl, rfl, rfl, restartLinks_finishing s, rfl, rfl, rfl, rfl, rfl, rfl, rfl, rfl, fun a => ?_⟩
    refine (initial_hold s.liu.rate s.gateLevels a).trans ?_
    rw [AisleHold.initial, gateLevels_get, Bool.not_not]
  · refine ⟨s.restartSoft, rfl, ?_⟩
    rw [restartSoft_state]
    refine ⟨fun c => (State.softReset_cell hw c).trans (softCell_eq s _),
      fun a => ⟨s.softReset_profile a, congrArg Aisle.pendingProfile (s.softReset_aisle a)⟩, fun i => ?_, rfl, rfl, fun c => ?_,
      fun c => ?_, rfl, s.softReset_rail, fun a src hsrc => ?_, fun c => ?_, fun a e => ?_, rfl, ?_, fun k => ?_, rfl, rfl,
      rfl, rfl⟩
    · refine (s.softReset_slot i).trans ?_
      cases hj : (s.slot i).job with
      | none => rw [if_neg (by simp), if_neg (by simp), ← hj]
      | some j => rfl
    · exact Vector.getElem_replicate ..
    · exact s.softReset_crane_registers c
    · rw [hsrc]
      exact (s.softReset_hold a).trans (AisleHold.softReset_eq _ _)
    · exact Vector.getElem_replicate ..
    · exact ⟨initial_input .r57600 s.gateLevels a e, initial_credit .r57600 s.gateLevels a e⟩
    · exact initial_links s.liu.rate s.gateLevels
    · exact ⟨initial_rx s.liu.rate s.gateLevels k, initial_tx s.liu.rate s.gateLevels k, restartLinks_finishing s k⟩

end Sys2Proof.Machine
end
section
/-! Rules for the job records and the reservations, used by the statements on job commands and on searches. -/

namespace Sys2Proof.Machine

variable {s : State}

theorem State.updJob_eq {h : Handle} {j : Job} (hj : s.job? h = some j) (f : Job → Job) :
    s.updJob h f = s.setSlot h.slot { gen := h.gen, job := some (f j) } := by
  rw [State.updJob, hj]

theorem State.updJob_of_none {h : Handle} (hj : s.job? h = none) (f : Job → Job) : s.updJob h f = s := by
  rw [State.updJob, hj]

/-- A handle names a live job where its slot is of its generation. -/
theorem State.job?_eq_some {h : Handle} {j : Job} :
    s.job? h = some j ↔ (s.slot h.slot).gen = h.gen ∧ (s.slot h.slot).job = some j := by
  unfold State.job?
  split <;> simp_all

theorem State.setSlot_job {h : Handle} {j : Job} (hj : s.job? h = some j) (k : Job) (g : Handle) :
    (s.setSlot h.slot { gen := h.gen, job := some k }).job? g = if g = h then some k else s.job? g := by
  have gen := (State.job?_eq_some.mp hj).1
  unfold State.job?
  rw [State.setSlot_slot]
  by_cases hs : g.slot = h.slot
  · rw [if_pos hs, hs, gen]
    by_cases hg : h.gen = g.gen
    · have same : g = h := by cases g; cases h; simp_all
      simp [same]
    · have ne : g ≠ h := fun e => hg (e ▸ rfl)
      simp [hg, ne]
  · have ne : g ≠ h := fun e => hs (e ▸ rfl)
    rw [if_neg hs, if_neg ne]

/-- A change of a live job's record is read at its own handle and at no other. -/
theorem State.updJob_job {h : Handle} {j : Job} (hj : s.job? h = some j) (f : Job → Job) (g : Handle) :
    (s.updJob h f).job? g = if g = h then some (f j) else s.job? g := by
  rw [State.updJob_eq hj, State.setSlot_job hj]

/-- A change of a record touches the slots alone. -/
theorem State.updJob_slots (s : State) (h : Handle) (f : Job → Job) :
    s.updJob h f = { s with jpl := { s.jpl with slots := (s.updJob h f).jpl.slots } } := by
  cases hj : s.job? h with
  | none => rw [State.updJob_of_none hj]
  | some j => rw [State.updJob_eq hj]; rfl

theorem recheckCell_eq (s : State) (c : CellAddr) (b : Bool) : s.recheckCell c b =
    s.raiseAll (s.reEvaluations fun j => namesCell c j || (b && pendingWith c.aisle [.noSpace, .noRelocSpace] j)) := rfl

theorem becameReady_eq (s : State) (j : Job) : s.becameReady j =
    s.raiseAll (s.wakes j.aisle ++ if j.cls = 0 then [.preemptionCheck j.handle] else []) := by
  unfold State.becameReady
  by_cases hc : j.cls = 0 <;> simp [hc, State.select_eq, State.raiseAll, State.raise]

/-- The state that a reservation for a drop leaves. -/
theorem reserveDrop_eq {c : CellAddr} (h : Handle) (he : (s.cell c).state = .empty) (hp : s.pairAllows c = true) :
    s.reserveDrop c h = some ((s.putState c (.inReserved h)).recheckCell c false) := if_pos ⟨he, hp⟩

theorem State.existing_of_ne_initial {c : CellAddr} (h : s.cell c ≠ Cell.initial) : s.existing c := by
  by_contra hn
  exact h (State.cell_of_not_existing hn)

/-- A cell that a search admits may be reserved for a drop (R13, R83). -/
theorem pairAllows_of_admits {p : Profile} {k : Sys2Proof.Class} {c : CellAddr} (hp : s.profile? c.aisle = some p)
    (h : p.geo.Admits s.cell k c) : s.pairAllows c = true := by
  obtain ⟨-, -, -, hd⟩ := h
  have deep : s.isDoubleDeep c.aisle = p.geo.doubleDeep := by rw [State.isDoubleDeep, hp]
  unfold State.pairAllows
  rw [deep]
  by_cases hg : p.geo.doubleDeep = true
  · obtain ⟨h1, h2⟩ := hd hg
    rw [if_pos hg]
    cases hz : c.depth with
    | deep => exact decide_eq_true (h1 hz)
    | near => rcases h2 hz with ⟨x, hx⟩ | hx <;> rw [hx] <;> rfl
  · rw [if_neg hg]

end Sys2Proof.Machine
end
section
/-! The slot search for a store whose load has passed (R83, R47). -/

namespace Sys2Proof.Machine

variable {s : State}

/-- The reservation of a cell for a drop: its record, and the re-evaluations of the retrieves that name it. -/
theorem reserveDrop_state {c : CellAddr} (h : Handle) (he : (s.cell c).state = .empty) (hp : s.pairAllows c = true) :
    ∃ es, s.reserveDrop c h = some { s with
      cmp := (s.putCell c { s.cell c with state := .inReserved h }).cmp, events := s.events ++ es } := by
  have put := reserveDrop_eq h he hp
  rw [State.putState, recheckCell_eq, State.putCell_reEvaluations, State.putCell_eq] at put
  exact ⟨_, put⟩

theorem Job.storeEnd_of_end {j : Job} {e : End} (h : j.end_ = jobEnd e) : j.storeEnd = e := by
  unfold Job.storeEnd
  rw [h]
  cases e <;> rfl

theorem stationPoint_eq {q : Profile} {a : AisleId} (hq : s.profile? a = some q) (e : End) :
    s.stationPoint a e = { bay := if e = .front then 0 else q.geo.bays + 1, level := 0 } := by
  rw [State.stationPoint, State.parkEnd, hq]
  cases e <;> rfl

/-- The store a slot search is for (R83). -/
def Job.searches (j : Job) : Prop :=
  j.kind = .store ∧ j.state = .pending ∧ j.load ≠ none ∧ j.destination = none
    ∧ (j.reason = none ∨ j.reason = some .noSpace)

/-- A search overtaken has no effect. -/
theorem runSlotSearch_overtaken {h : Handle} (hn : ∀ j, s.job? h = some j → ¬ j.searches) : s.runSlotSearch h = s := by
  unfold State.runSlotSearch
  cases hj : s.job? h with
  | none => rfl
  | some j => exact if_neg (hn j hj)

section Search

variable {h : Handle} {j : Job} (hj : s.job? h = some j) (hs : j.searches)
include hj hs

theorem runSlotSearch_none
    (hw : s.slotWinner j.aisle j.storeEnd (s.stationPoint j.aisle j.storeEnd) j.loadClass (fun _ => true) = none) :
    s.runSlotSearch h = s.pend h .noSpace := by
  unfold State.runSlotSearch
  rw [hj]
  exact (if_pos hs).trans (by rw [hw])

theorem runSlotSearch_some {c : CellAddr} {t : State}
    (hw : s.slotWinner j.aisle j.storeEnd (s.stationPoint j.aisle j.storeEnd) j.loadClass (fun _ => true) = some c)
    (ht : s.reserveDrop c h = some t) : s.runSlotSearch h =
      (t.updJob h fun x => { x with chosen := some c, state := .ready, reason := none }).becameReady j := by
  unfold State.runSlotSearch
  rw [hj]
  exact (if_pos hs).trans (by rw [hw]; dsimp only; rw [ht])

end Search

/-- Settles O57: the winner of the search, by its key and order, and the effect of its reservation. -/
theorem slotSearchReservesTheLeastCell : Obligations.SlotSearchReservesTheLeastCell := by
  intro s h
  let r := s.take (.slotSearch h)
  refine ⟨fun hn => congrArg Host.Outcome.next (runSlotSearch_overtaken (s := r) fun j hj hs => ?_),
    fun j q e k x hj hkind hstate hload hdest hreason hq hend hw hk hx => ?_⟩
  · obtain ⟨h1, h2, h3, h4, h5⟩ := hs
    have := hn j hj
    simp only [h1, h2, h3, h4, ne_eq, not_true_eq_false, false_or] at this
    rcases h5 with h5 | h5 <;> simp [h5] at this
  · have searches : j.searches := ⟨hkind, hstate, hload, hdest, hreason⟩
    have winner : ∀ c, r.slotWinner j.aisle j.storeEnd (r.stationPoint j.aisle j.storeEnd) j.loadClass (fun _ => true)
        = some c ↔ Wins (SlotCell q s.cell j.aisle k) (SlotBefore q s.ale.waste x k e) c := fun c => by
      rw [Job.storeEnd_of_end hend, stationPoint_eq (s := r) hq, ← hx, show j.loadClass = k from hk.symm,
        State.slotWinner_eq_some (s := r) hq]
      simp only [and_true]
      exact Iff.rfl
    have loser := State.slotWinner_eq_none (s := r) (a := j.aisle) (e := j.storeEnd)
      (x := r.stationPoint j.aisle j.storeEnd) (k := j.loadClass) (ok := fun _ => true) hq
    simp only [and_true] at loser
    refine ⟨fun hno => ?_, fun d hd => ?_⟩
    · have run := runSlotSearch_none (s := r) hj searches (loser.mpr (by rw [hk] at hno; exact hno))
      rw [State.pend, State.updJob_slots] at run
      refine ⟨_, congrArg Host.Outcome.next run, rfl, ?_, fun g hg => ?_⟩
      · exact (State.updJob_job (s := r) hj _ h).trans ((if_pos rfl).trans (by rw [hstate]))
      · exact (State.updJob_job (s := r) hj _ g).trans (if_neg hg)
    · obtain ⟨c, hc⟩ : ∃ c, r.slotWinner j.aisle j.storeEnd (r.stationPoint j.aisle j.storeEnd) j.loadClass
          (fun _ => true) = some c := by
        by_contra hn
        rw [← Option.ne_none_iff_exists', not_not, loser] at hn
        rw [hk] at hd
        exact hn d hd
      have wins := (winner c).mp hc
      obtain ⟨⟨⟨hca, hplace⟩, hadmits⟩, -⟩ := wins
      have hqc : s.profile? c.aisle = some q := hca ▸ hq
      have empty := hadmits.1
      have existing : s.existing c := State.existing_of_ne_initial fun e => by rw [e] at empty; cases empty
      obtain ⟨es, reserved⟩ := reserveDrop_state (s := r) h empty (pairAllows_of_admits (s := r) hqc hadmits)
      have run := runSlotSearch_some (s := r) hj searches hc reserved
      rw [becameReady_eq, State.updJob_slots] at run
      refine ⟨_, c, congrArg Host.Outcome.next run, (winner c).mp hc, fun b => ?_, ?_, fun g hg => ?_, rfl, rfl, rfl, rfl, rfl, rfl⟩
      · refine (State.cell_putCell (s := r) hw c b _ existing).trans ?_
        have record : ({ s.cell c with state := .inReserved h } : Cell) = { state := .inReserved h, conflict := false } :=
          congrArg (Cell.mk (.inReserved h)) hadmits.2.1
        exact if_congr Iff.rfl record rfl
      · exact (State.updJob_job (s := { r with cmp := _, events := r.events ++ es }) hj _ h).trans (if_pos rfl)
      · exact (State.updJob_job (s := { r with cmp := _, events := r.events ++ es }) hj _ g).trans (if_neg hg)

end Sys2Proof.Machine
end
section
/-! O36 and O50. That a relocated pallet's move leaves every other live job in the pool but for its cells (R98) is stated
for every state with the laws of the work. No law ties the waiting field of the served retrieve to the relocation, so a
state with every law may have one that waits for a READY retrieve of its own. At the end of the relocation the served
retrieve closes NO_STOCK, and takes with it the job it waits for (R57), which is then in the pool no longer. -/

namespace Sys2Proof.Refutations

open Sys2Proof Sys2Proof.Machine

/-- A relocation from one low cell to the next, its pallet on the crane. -/
def movedPallet (stranded : Bool) : Job :=
  { Job.new (firstHandle 0) .relocate .internal 0 0 0 with
    served := some (firstHandle 1), state := .loaded, chosen := some (lowCell 1), target := some (lowCell 2)
    carried := some 0, unit := some pairUnit, stranded := stranded }

/-- The served retrieve, without a candidate, waiting by its record for the third job. -/
def servedRetrieve : Job :=
  { Job.new (firstHandle 1) .retrieve (.order .o0) 0 0 0 with
    reason := some .relocating, waitsFor := some (firstHandle 2) }

/-- A READY retrieve, no part of the move. -/
def readyRetrieve : Job :=
  { Job.new (firstHandle 2) .retrieve (.order .o0) 0 0 0 with candidates := [lowCell 3], state := .ready }

/-- The crane that carries the relocation, at its second step. -/
def movingCrane (stranded : Bool) : Crane :=
  { Crane.initial with
    mapping := some (0, .front), state := .working, known := true
    unit := some { number := 9, jobs := [firstHandle 0], current := 2, steps := relocateSteps (movedPallet stranded) } }

/-- Aisle A0 with the relocation on its crane, bound for a cell of the record given. -/
def movingState (stranded : Bool) (cell : CellState) : State :=
  let s := State.reset.setAisle 0 { profile := some plainAisle, pendingProfile := none, cells := [] }
  let s := ((s.createJob (movedPallet stranded)).createJob servedRetrieve).createJob readyRetrieve
  let s := s.putCell (lowCell 2) { state := cell, conflict := false }
  s.setCrane 0 (movingCrane stranded)

/-- The relocation has a drop cell that it holds. -/
def droppingState : State := movingState false (.inReserved (firstHandle 0))

/-- The relocation is stranded before its drop cell, which has been cleared. -/
def strandedState : State := movingState true .empty

theorem droppingState_laws : Lawful droppingState ∧ PoolLawful droppingState ∧ WorkLawful droppingState :=
  State.passesChecks_laws (by decide +kernel)

theorem strandedState_laws : Lawful strandedState ∧ PoolLawful strandedState ∧ WorkLawful strandedState :=
  State.passesChecks_laws (by decide +kernel)

/-- The DROPPED takes the READY retrieve from the pool. -/
theorem dropped_takes_readyRetrieve : ∃ t, exec (.dropped 0 (encodeHandle (firstHandle 0))) droppingState = .next t
    ∧ t.job? (firstHandle 2) = none :=
  ⟨_, rfl, by decide +kernel⟩

/-- So does the RESOLVE of the relocation at its destination. -/
theorem resolve_takes_readyRetrieve :
    ∃ t, exec (.resolve .o0 (encodeHandle (firstHandle 0) ++ [1, 255])) strandedState = .next t
      ∧ t.job? (firstHandle 2) = none :=
  ⟨_, rfl, by decide +kernel⟩

/-- A move that takes the READY retrieve from the pool has not kept its record. -/
theorem not_rewritten_of_taken {s t : State} {j : Job} (hj : s.job? (firstHandle 2) = some j) (hk : j.kind = .retrieve)
    (hs : j.state = .ready) (hc : (s.cell (lowCell 1)).state ≠ .inReserved (firstHandle 2))
    (ht : t.job? (firstHandle 2) = none) :
    ¬ Rewritten s t (firstHandle 0) (some (firstHandle 1)) (lowCell 1) (lowCell 2) := by
  intro kept
  obtain ⟨k', hk', -⟩ := (kept (firstHandle 2) j (by decide) (by decide) hj (by rw [hs]; decide) hc).1 hk
  exact absurd (ht.symm.trans hk') (by simp)

/-- Refutes O50: a dropped relocation's served retrieve closes NO_STOCK and takes with it the READY retrieve that it
waits for by its record. -/
theorem not_droppedClosesTheJob : ¬ Obligations.DroppedClosesTheJob := by
  intro holds
  obtain ⟨lawful, pool, work⟩ := droppingState_laws
  obtain ⟨u, hu, gone⟩ := dropped_takes_readyRetrieve
  obtain ⟨t, ht, -, -, -, -, -, kept, -⟩ := holds droppingState 0 0 .front (firstHandle 0) _ _ _
    ⟨rfl, by decide, by decide⟩ rfl rfl rfl rfl (by decide +kernel) rfl rfl rfl rfl lawful pool work
  have same : u = t := Host.Outcome.next.inj (hu.symm.trans ht)
  exact not_rewritten_of_taken (s := droppingState) rfl rfl rfl (by decide +kernel) (same ▸ gone)
    (kept _ _ rfl rfl rfl (by decide))

/-- Refutes O36: so does the served retrieve of a relocation resolved at its destination. -/
theorem not_resolveClosesAStrandedJob : ¬ Obligations.ResolveClosesAStrandedJob := by
  intro holds
  obtain ⟨lawful, pool, work⟩ := strandedState_laws
  obtain ⟨u, hu, gone⟩ := resolve_takes_readyRetrieve
  have live := ((holds strandedState .o0 (encodeHandle (firstHandle 0) ++ [1, 255]) ⟨rfl, by decide +kernel⟩).2
    (firstHandle 0) 1 255 rfl).2 _ rfl (by decide)
  obtain ⟨t, declined, ht, -, -, -, -, -, -, -, moved⟩ :=
    (live.2 (by decide) (.inr (by decide))).2 rfl rfl lawful pool work
  have same : u = t := Host.Outcome.next.inj (hu.symm.trans ht)
  obtain ⟨-, kept, -⟩ := (moved rfl rfl).2.2.2 _ _ (by decide) rfl rfl (by decide)
  exact not_rewritten_of_taken (s := strandedState) rfl rfl rfl (by decide +kernel) (same ▸ gone) kept

end Sys2Proof.Refutations
end
section
/-! The reports of a crane's steps: what a reported step does to the crane's record and to its interval (R100, R114,
R116), and O49, the pick (R141). -/

namespace Sys2Proof.Machine

variable {s t u : State} {c : CraneId} {a : AisleId} {e : End}

/-! ## Events that stand -/

/-- The expiry of a crane's timer: the events that a timer which stops or starts anew takes back (R137). -/
def isExpiry (i : Instr) : Bool :=
  match i with
  | .offerTimerExpiry _ | .holdBackExpiry _ | .parkTimerExpiry _ | .backoffExpiry _ | .stepDeadlineExpiry _ => true
  | _ => false

/-- Every raised event but the expiry of a timer stands. -/
def EventsStand (s t : State) : Prop := ∀ i ∈ s.events, isExpiry i = false → i ∈ t.events

theorem EventsStand.refl (s : State) : EventsStand s s := fun _ h _ => h

theorem EventsStand.trans (h : EventsStand s t) (k : EventsStand t u) : EventsStand s u :=
  fun i hi hx => k i (h i hi hx) hx

theorem EventsStand.of_append {es : List Instr} (h : t.events = s.events ++ es) : EventsStand s t :=
  fun _ hi _ => h ▸ List.mem_append_left _ hi

theorem EventsStand.of_eq (h : t.events = s.events) : EventsStand s t := fun _ hi _ => h ▸ hi

theorem EventsStand.forget (s : State) {i : Instr} (hi : isExpiry i = true) : EventsStand s (s.forget i) := by
  intro x hx hn
  refine List.mem_filter.mpr ⟨hx, decide_eq_true fun eq => ?_⟩
  rw [eq, hi] at hn
  cases hn

/-- No notice leaves a queue, and those that join stand behind. -/
def QueuesGrow (s t : State) : Prop := ∀ l, ∃ more, t.queue l = s.queue l ++ more

theorem QueuesGrow.refl (s : State) : QueuesGrow s s := fun _ => ⟨[], (List.append_nil _).symm⟩

theorem QueuesGrow.trans (h : QueuesGrow s t) (k : QueuesGrow t u) : QueuesGrow s u := fun l => by
  obtain ⟨xs, hx⟩ := h l
  obtain ⟨ys, hy⟩ := k l
  exact ⟨xs ++ ys, by rw [hy, hx, List.append_assoc]⟩

theorem QueuesGrow.of_eq (h : ∀ l, t.queue l = s.queue l) : QueuesGrow s t :=
  fun l => ⟨[], (h l).trans (List.append_nil _).symm⟩

theorem QueuesGrow.of_frame {ps : List Part} (h : Frame ps s t) (hp : .queue ∉ ps) : QueuesGrow s t :=
  .of_eq fun l => congrArg (fun q : PerLink (List Notice) => q.get l) (h .queue hp).1

theorem QueuesGrow.each {α : Type} {f : State → α → State} (xs : List α) (hf : ∀ s x, QueuesGrow s (f s x)) (s : State) :
    QueuesGrow s (s.each xs f) := by
  induction xs generalizing s with
  | nil => exact .refl s
  | cons x xs ih => exact (hf s x).trans (ih _)

theorem offerNotice_grows (s : State) (l : OrderLink) (n : Notice) : QueuesGrow s (s.offerNotice l n) := by
  intro m
  rw [State.offerNotice_queue]
  split
  · next h => exact ⟨[n], by rw [h.1]⟩
  · exact ⟨[], (List.append_nil _).symm⟩

theorem State.mem_wakes {d : CraneId} : .selection d ∈ s.wakes a ↔ d ∈ s.cranesOf a ∧ (s.crane d).state = .waiting := by
  simp [State.wakes]

/-! ## What has been said of an interval stands while the tables do -/

theorem State.cranesOf_congr (h : ∀ d, (t.crane d).mapping = (s.crane d).mapping) (b : AisleId) :
    t.cranesOf b = s.cranesOf b := by
  simp only [State.cranesOf, State.craneAt, h]

theorem IntervalMoves.earlier {f w : Interval → Interval} (h : IntervalMoves t u a e f w) (hr : t.crt.rail = s.crt.rail)
    (hm : ∀ d, (t.crane d).mapping = (s.crane d).mapping)
    (hs : ∀ d, (s.crane d).state = .waiting → (t.crane d).state = .waiting) : IntervalMoves s u a e f w := by
  have rail : ∀ b, t.rail b = s.rail b := fun b => by simp only [State.rail, hr]
  obtain ⟨own, none, others⟩ := h
  refine ⟨fun r h => ⟨(own r ((rail a).trans h)).1, fun moved d hd hw => ?_⟩, fun h => none ((rail a).trans h),
    fun b hb => (others b hb).trans (rail b)⟩
  exact (own r ((rail a).trans h)).2 moved d (State.cranesOf_congr hm a ▸ hd) (hs d hw)

theorem IntervalMoves.later {f w : Interval → Interval} (h : IntervalMoves s t a e f w) (hr : u.crt.rail = t.crt.rail)
    (he : EventsStand t u) : IntervalMoves s u a e f w := by
  have rail : ∀ b, u.rail b = t.rail b := fun b => by simp only [State.rail, hr]
  obtain ⟨own, none, others⟩ := h
  refine ⟨fun r h => ⟨(rail a).trans (own r h).1, fun moved d hd hw => ?_⟩, fun h => (rail a).trans (none h),
    fun b hb => (rail b).trans (others b hb)⟩
  exact he _ ((own r h).2 moved d hd hw) rfl

theorem BreachRaised.earlier {bay : Nat} {j : Option Handle} {p : List Byte} (h : BreachRaised t u c bay j p)
    (hr : t.crt.rail = s.crt.rail) (hm : (t.crane c).mapping = (s.crane c).mapping) : BreachRaised s u c bay j p := by
  have rail : ∀ b, t.rail b = s.rail b := fun b => by simp only [State.rail, hr]
  have entry : t.entry c = s.entry c := by simp only [State.entry, hm, rail]
  have fault : t.craneReported .railBreach c j p = s.craneReported .railBreach c j p := by
    simp only [State.craneReported, State.craneAisle, hm]
  exact fun r hr out => fault ▸ h r (entry.trans hr) out

theorem BreachRaised.later {bay : Nat} {j : Option Handle} {p : List Byte} (h : BreachRaised s t c bay j p)
    (he : EventsStand t u) : BreachRaised s u c bay j p :=
  fun r hr out => he _ (h r hr out) rfl

/-! ## Readings of a frame -/

theorem Frame.now {ps : List Part} (h : Frame ps s t) (hp : .rest ∉ ps) : t.now = s.now := (h .rest hp).2.1

theorem Frame.factor {ps : List Part} (h : Frame ps s t) (hp : .rest ∉ ps) : t.crt.factor = s.crt.factor := by
  obtain ⟨-, -, -, -, -, -, crt, -⟩ := h .rest hp
  rw [crt]

theorem Frame.profile? {ps : List Part} (h : Frame ps s t) (hp : .profiles ∉ ps) : t.profile? = s.profile? :=
  funext fun b => (h .profiles hp b).1

theorem Frame.rail {ps : List Part} (h : Frame ps s t) (hp : .rail ∉ ps) (b : AisleId) : t.rail b = s.rail b :=
  congrArg (fun v : Vector (Option (PerEnd RailEntry)) 8 => v[b]) (h .rail hp)

theorem Frame.hold {ps : List Part} (h : Frame ps s t) (hp : .holds ∉ ps) (b : AisleId) : t.hold b = s.hold b :=
  congrArg (fun v : Vector AisleHold 8 => v[b]) (h .holds hp)

theorem Frame.input_eq {ps : List Part} (h : Frame ps s t) (hp : .input ∉ ps) (b : AisleId) (f : End) :
    t.input b f = s.input b f := congrArg (fun v : Vector (PerEnd InputRecord) 8 => v[b].get f) (h .input hp)

theorem Frame.credit_eq {ps : List Part} (h : Frame ps s t) (hp : .credit ∉ ps) (b : AisleId) (f : End) :
    t.credit b f = s.credit b f := congrArg (fun v : Vector (PerEnd Credit) 8 => v[b].get f) (h .credit hp)

theorem placePoint_congr (h : t.profile? = s.profile?) : t.placePoint = s.placePoint := by
  have ends : t.parkEnd = s.parkEnd := by
    unfold State.parkEnd
    rw [h]
  funext q
  cases q with
  | cell d => rfl
  | station b output e => simp only [State.placePoint, State.stationPoint, ends]

/-! ## A step reported -/

section Report

variable (bay : Nat) (xs : List Step) (j : Option Handle) (p : List Byte)

/-- Inside the interval of a WORKING crane a reported bay shrinks it to the hull of the bay and of what is still to
come. -/
theorem railReport_inside {r : PerEnd RailEntry} (hm : (s.crane c).mapping = some (a, e)) (hs : (s.crane c).state = .working)
    (hr : s.rail a = some r) (hb : (r.get e).granted.holds bay = true) : s.railReport c bay xs j p =
      if (r.get e).granted = hull bay (s.stepBays (xs ++ (s.crane c).redirectSteps)) then s
      else (s.setRail a (some (r.set e { r.get e with
        granted := hull bay (s.stepBays (xs ++ (s.crane c).redirectSteps)) }))).select a := by
  unfold State.railReport State.shrunkHull State.shrink State.grant State.updOwn State.updEntry State.entry
  simp only [hm, hs, hr, Option.map_some, hb, if_true]

/-- Outside it the report is a breach. -/
theorem railReport_outside {r : PerEnd RailEntry} (hm : (s.crane c).mapping = some (a, e)) (hr : s.rail a = some r)
    (hb : (r.get e).granted.holds bay = false) :
    s.railReport c bay xs j p = s.raiseFault .railBreach (.link (.crane c)) (s.craneAisle c) j p := by
  unfold State.railReport State.entry
  simp only [hm, hr, Option.map_some, hb, Bool.false_eq_true, if_false]

/-- A crane without an entry reports its bay to no effect. -/
theorem railReport_none (hm : (s.crane c).mapping = some (a, e)) (hr : s.rail a = none) : s.railReport c bay xs j p = s := by
  unfold State.railReport State.entry
  simp only [hm, hr, Option.map_none]

theorem PerEnd.set_get {α : Type} (r : PerEnd α) (e : End) : r.set e (r.get e) = r := by cases e <;> rfl

/-- A WORKING crane's interval falls to the bay it reports and what it has still to reach (R114). -/
theorem railReport_moves (hm : (s.crane c).mapping = some (a, e)) (hs : (s.crane c).state = .working) :
    IntervalMoves s (s.railReport c bay xs j p) a e
      (fun i => i.fallen bay (s.stepBays (xs ++ (s.crane c).redirectSteps))) id := by
  refine ⟨fun r hr => ?_, fun hr => by rw [railReport_none bay xs j p hm hr, hr], fun b hb => ?_⟩
  · by_cases hb : (r.get e).granted.holds bay = true
    · rw [railReport_inside bay xs j p hm hs hr hb]
      simp only [Interval.fallen, hb, if_true, id]
      split
      next same =>
        exact ⟨by rw [hr, ← same, PerEnd.set_get], fun moved => absurd same.symm moved⟩
      next =>
        refine ⟨(State.setRail_rail s a a _).trans (if_pos rfl), fun _ d hd hw => ?_⟩
        exact List.mem_append_right _ (State.mem_wakes.mpr ⟨hd, hw⟩)
    · rw [Bool.not_eq_true] at hb
      rw [railReport_outside bay xs j p hm hr hb]
      simp only [Interval.fallen, hb, Bool.false_eq_true, if_false, id]
      exact ⟨hr.trans (congrArg some (PerEnd.set_get r e).symm), fun moved => absurd rfl moved⟩
  · cases hr : s.rail a with
    | none => rw [railReport_none bay xs j p hm hr]
    | some r =>
      by_cases hb' : (r.get e).granted.holds bay = true
      · rw [railReport_inside bay xs j p hm hs hr hb']
        split
        · rfl
        · exact (State.setRail_rail s a b _).trans (if_neg hb)
      · rw [Bool.not_eq_true] at hb'
        rw [railReport_outside bay xs j p hm hr hb']
        rfl

/-- A bay reported from outside raises RAIL_BREACH (R116). -/
theorem railReport_breach (hm : (s.crane c).mapping = some (a, e)) :
    BreachRaised s (s.railReport c bay xs j p) c bay j p := by
  intro r hr out
  obtain ⟨x, hx, rfl⟩ : ∃ x, s.rail a = some x ∧ x.get e = r := by
    simpa only [State.entry, hm, Option.map_eq_some_iff] using hr
  rw [railReport_outside bay xs j p hm hx out]
  exact List.mem_append_right _ (List.mem_singleton_self _)

end Report

/-- The record of a crane that reports the end of a step: it stands at the step's place, with no deadline (R100). -/
def Crane.reached (x : Crane) (q : Point) (known : Bool) : Crane :=
  { x with bay := q.bay, level := q.level, known := known, deadline := none }

/-- What a WORKING crane's report of its current step does, whatever the report says (R100, R114, R116). -/
theorem reachStep_reached (j : Job) (x : Step) (xs : List Step) (p : List Byte) (hm : (s.crane c).mapping = some (a, e))
    (hs : (s.crane c).state = .working) :
    (s.reachStep c j x xs p).crane c = (s.crane c).reached (s.placePoint x.place) (s.configured a)
      ∧ IntervalMoves s (s.reachStep c j x xs p) a e
          (fun i => i.fallen (s.placePoint x.place).bay (s.stepBays (xs ++ (s.crane c).redirectSteps))) id
      ∧ BreachRaised s (s.reachStep c j x xs p) c (s.placePoint x.place).bay (some j.handle) p := by
  let q := s.placePoint x.place
  let r := s.stopDeadline c
  have crane : ∀ d, r.crane d = if d = c then { s.crane c with deadline := none } else s.crane d :=
    fun d => State.setCrane_crane s c d _
  have own : r.crane c = { s.crane c with deadline := none } := (crane c).trans (if_pos rfl)
  have mapping : (r.crane c).mapping = some (a, e) := own ▸ hm
  have state : (r.crane c).state = .working := own ▸ hs
  have same : ∀ d, (r.crane d).mapping = (s.crane d).mapping ∧ (r.crane d).state = (s.crane d).state := fun d => by
    rw [crane]
    by_cases h : d = c <;> simp [h]
  have frame : Frame [.rail, .events] r (r.railReport c q.bay xs (some j.handle) p) :=
    .railReport (.refl _ _) _ _ _ _ _ (by simp)
  have still : (r.railReport c q.bay xs (some j.handle) p).crane c = { s.crane c with deadline := none } :=
    (frame.crane c (by simp)).trans own
  have configured : (r.railReport c q.bay xs (some j.handle) p).configured a = s.configured a := by
    simp only [State.configured, State.profile?, State.aisle, frame.cmp (by simp) (by simp)]
    rfl
  have moves := railReport_moves q.bay xs (some j.handle) p mapping state
  rw [show (r.crane c).redirectSteps = (s.crane c).redirectSteps by rw [own]; rfl] at moves
  refine ⟨?_, ?_, ?_⟩
  · refine (State.setCrane_crane _ c c _).trans ((if_pos rfl).trans ?_)
    rw [still, hm, ← configured]
    rfl
  · exact (moves.earlier (s := s) rfl (fun d => (same d).1) fun d h => (same d).2.trans h).later rfl (.refl _)
  · exact ((railReport_breach q.bay xs (some j.handle) p mapping).earlier (s := s) rfl (same c).1).later (.refl _)

/-! ## The message -/

theorem decodeHandle_encodeHandle (h : Handle) : decodeHandle (encodeHandle h) = some h := by
  obtain ⟨slot, gen⟩ := h
  have hg : gen.val % 256 = gen.val := Nat.mod_eq_of_lt (gen.isLt.trans (by decide))
  simp [decodeHandle, handleAt, encodeHandle, byteAt, u8, hg]

/-- A report that fits the current step of a WORKING crane's unit is taken (R140). -/
theorem stepReport_fits {h : Handle} {j : Job} {u : WorkUnit} {x : Step} (hc : Announced s c)
    (hs : (s.crane c).state = .working) (hu : (s.crane c).unit = some u) (hj : s.job? h = some j) (hmem : h ∈ u.jobs)
    (hx : u.remaining.head? = some x) (hxj : x.job = h) (hstr : j.stranded = false) (i : Instr) (k : ReportKind)
    (hk : k.matchesStep x = true) (act : State → Job → WorkUnit → Step → State) :
    s.stepReport i c k (encodeHandle h) act = act (s.take i) j u x := by
  rw [State.stepReport, State.craneMessage_read hc i _ false _ _ _ (decodeHandle_encodeHandle h)]
  have fits : (s.take i).fitting c k h = some (j, u, x) := by
    have state : ((s.take i).crane c).state = .working := hs
    have unit : ((s.take i).crane c).unit = some u := hu
    have job : (s.take i).job? h = some j := hj
    simp only [State.fitting, state, unit, job, hx]
    exact if_pos ⟨List.elem_iff.mpr hmem, hxj, hstr, hk⟩
  rw [fits]

/-! ## What a report leaves of the records -/

theorem stopOfferTimer_crane (d : CraneId) : (s.stopOfferTimer c).crane d =
    if d = c then { s.crane c with offerTimer := none } else s.crane d := State.setCrane_crane s c d _

theorem advanceStep_eq {u : WorkUnit} (hu : (s.crane c).unit = some u) :
    s.advanceStep c = s.setCrane c { s.crane c with unit := some { u with current := u.current + 1 } } := by
  rw [State.advanceStep, hu]

/-- A deadline that starts touches its crane's deadline alone. -/
theorem startDeadline_crane (s : State) (c : CraneId) (q : Point) : ∃ dl,
    (s.startDeadline c q).crane c = { s.crane c with deadline := dl } := by
  unfold State.startDeadline
  split
  · split
    · exact ⟨_, (State.setCrane_crane s c c _).trans (if_pos rfl)⟩
    · exact ⟨_, rfl⟩
  · exact ⟨_, rfl⟩

theorem startDeadline_stand (s : State) (c : CraneId) (q : Point) : EventsStand s (s.startDeadline c q) := by
  unfold State.startDeadline
  split
  · split
    · exact EventsStand.forget _ rfl
    · exact .refl s
  · exact .refl s

theorem startDeadline_events (s : State) (c : CraneId) (q : Point) : ∀ i ∈ (s.startDeadline c q).events, i ∈ s.events := by
  unfold State.startDeadline
  split
  · split
    · exact fun i hi => (List.mem_filter.mp hi).1
    · exact fun i hi => hi
  · exact fun i hi => hi

/-- The deadline of a unit's current step (R143). -/
theorem startDeadline_runs {u : WorkUnit} {y : Step} {q : Profile} (start : Point) (hu : (s.crane c).unit = some u)
    (hy : u.remaining.head? = some y) (hm : (s.crane c).mapping = some (a, e)) (hq : s.profile? a = some q) :
    ((s.startDeadline c start).crane c).deadline = some { step := u.current, expiry :=
      s.now + (stepEstimate q start y.place * s.crt.factor / 100 + 10000) } := by
  have aisle : (s.craneAisle c).bind s.profile? = some q := by simp [State.craneAisle, hm, hq]
  simp only [State.startDeadline, hu, hy, aisle]
  exact congrArg Crane.deadline ((State.setCrane_crane s c c _).trans (if_pos rfl))

/-! ## PICKED -/

/-- The pick of a job that is no store: its cell is emptied and the class handed over (R15, R51). -/
theorem pickCarried_eq {j : Job} {d : CellAddr} {k : Sys2Proof.Class} (hd : j.chosen = some d)
    (hc : (s.cell d).state = .outReserved j.handle k) : s.pickCarried j =
      (((s.putState d .empty).recheckCell d true).updJob j.handle fun x => { x with carried := some k }) := by
  simp only [State.pickCarried, hd, State.pickMade, hc, if_true]

theorem pickEffects_of_ne_store {j : Job} (hk : j.kind ≠ .store) : s.pickEffects j = s.pickCarried j := by
  unfold State.pickEffects
  cases h : j.kind with
  | store => exact absurd h hk
  | retrieve => rfl
  | relocate => rfl

/-- A pick is made, where the cell is reserved for it, or leaves the state as it stands. -/
theorem pickMade_cases (s : State) (d : CellAddr) (h : Handle) : s.pickMade d h = (s, none)
    ∨ ∃ k, s.pickMade d h = ((s.putState d .empty).recheckCell d true, some k) := by
  cases hc : (s.cell d).state with
  | outReserved g k =>
    by_cases hg : g = h
    · exact .inr ⟨k, by simp only [State.pickMade, hc, hg, if_true]⟩
    · exact .inl (by simp only [State.pickMade, hc, hg, if_false])
  | unknown | empty | full | inReserved | blocked => exact .inl (by simp only [State.pickMade, hc])

/-- The events of a pick are re-evaluations. -/
def OnlyReEvaluations (s t : State) : Prop := ∃ es, t.events = s.events ++ es ∧ ∀ i ∈ es, ∃ g, i = .reEvaluation g

theorem OnlyReEvaluations.of_eq (h : t.events = s.events) : OnlyReEvaluations s t :=
  ⟨[], h.trans (List.append_nil _).symm, by simp⟩

theorem OnlyReEvaluations.stand (h : OnlyReEvaluations s t) : EventsStand s t := by
  obtain ⟨es, he, -⟩ := h
  exact .of_append he

theorem OnlyReEvaluations.not_mem (h : OnlyReEvaluations s t) (hs : .offerTimerExpiry c ∉ s.events) :
    .offerTimerExpiry c ∉ t.events := by
  obtain ⟨es, he, only⟩ := h
  rw [he, List.mem_append, not_or]
  refine ⟨hs, fun hm => ?_⟩
  obtain ⟨g, hg⟩ := only _ hm
  cases hg

theorem pickCarried_events (s : State) (j : Job) : OnlyReEvaluations s (s.pickCarried j) := by
  cases hd : j.chosen with
  | none => exact .of_eq (by simp only [State.pickCarried, hd])
  | some d =>
    have events : (s.pickCarried j).events = (s.pickMade d j.handle).1.events := by
      simp only [State.pickCarried, hd]
      rw [State.updJob_slots]
    rcases pickMade_cases s d j.handle with h | ⟨k, h⟩
    · exact .of_eq (by rw [events, h])
    · rw [OnlyReEvaluations, events, h, recheckCell_eq, State.putState, State.putCell_eq]
      refine ⟨_, rfl, fun i hi => ?_⟩
      obtain ⟨x, -, rfl, -⟩ := State.mem_reEvaluations.mp hi
      exact ⟨_, rfl⟩

theorem pickEffects_store {j : Job} (hk : j.kind = .store) : s.pickEffects j = s.takePallet j := by
  simp only [State.pickEffects, hk]

theorem pickEffects_events (s : State) (j : Job) : OnlyReEvaluations s (s.pickEffects j) := by
  by_cases hk : j.kind = .store
  · rw [pickEffects_store hk]
    exact .of_eq rfl
  · rw [pickEffects_of_ne_store hk]
    exact pickCarried_events s j

/-- A pick changes the record of its own job alone. -/
theorem pickEffects_job {j : Job} {k : Job} (hj : s.job? j.handle = some k) {g : Handle} (hg : g ≠ j.handle) :
    (s.pickEffects j).job? g = s.job? g := by
  by_cases hk : j.kind = .store
  · rw [pickEffects_store hk]
    rfl
  · rw [pickEffects_of_ne_store hk]
    cases hd : j.chosen with
    | none => simp only [State.pickCarried, hd]
    | some d =>
      have made : (s.pickMade d j.handle).1.job? = s.job? := by
        rcases pickMade_cases s d j.handle with h | ⟨k, h⟩
        · rw [h]
        · rw [h, recheckCell_eq, State.putState, State.putCell_eq]
          rfl
      simp only [State.pickCarried, hd]
      rw [State.updJob_job (made ▸ hj), if_neg hg, made]

/-- The state in which a fitting PICKED has its effects on cell and station: the crane stands at the place, its offer timer
stopped, and the job is LOADED (R87, R141). -/
def State.atPick (s : State) (c : CraneId) (j : Job) (u : WorkUnit) (x : Step) (p : List Byte) : State :=
  ((s.reachStep c j x (u.remaining.drop 1) p).stopOfferTimer c).updJob j.handle fun y => { y with state := .loaded }

section Picked

variable {j : Job} {u : WorkUnit} {x : Step} (p : List Byte) (hm : (s.crane c).mapping = some (a, e))
  (hs : (s.crane c).state = .working) (hj : s.job? j.handle = some j)

theorem atPick_frame (s : State) (c : CraneId) (j : Job) (u : WorkUnit) (x : Step) (p : List Byte) :
    Frame [.crane c, .rail, .jobs, .events] s (s.atPick c j u x p) :=
  (((Frame.refl _ s).reachStep c j x _ p (by simp)).stopOfferTimer c (by simp)).updJob _ _ (by simp)

theorem picked_eq (s : State) (c : CraneId) (j : Job) (u : WorkUnit) (x : Step) (p : List Byte) : s.picked c j u x p =
    (((s.atPick c j u x p).pickEffects j).advanceStep c).startDeadline c
      ((((s.atPick c j u x p).pickEffects j).advanceStep c).placePoint x.place) := rfl

/-- Behind the effects only the crane and its deadline change. -/
theorem picked_frame (s : State) (c : CraneId) (j : Job) (u : WorkUnit) (x : Step) (p : List Byte) :
    Frame [.crane c, .events] ((s.atPick c j u x p).pickEffects j) (s.picked c j u x p) :=
  ((Frame.refl _ _).advanceStep c (by simp)).startDeadline c _ (by simp)

theorem atPick_events (s : State) (c : CraneId) (j : Job) (u : WorkUnit) (x : Step) (p : List Byte) :
    (s.atPick c j u x p).events = ((s.reachStep c j x (u.remaining.drop 1) p).stopOfferTimer c).events := by
  rw [State.atPick, State.updJob_slots]

theorem atPick_stand (s : State) (c : CraneId) (j : Job) (u : WorkUnit) (x : Step) (p : List Byte) :
    EventsStand (s.reachStep c j x (u.remaining.drop 1) p) (s.atPick c j u x p) :=
  (EventsStand.forget (s := _) rfl).trans (.of_eq (atPick_events s c j u x p))

theorem picked_stand (s : State) (c : CraneId) (j : Job) (u : WorkUnit) (x : Step) (p : List Byte) :
    EventsStand (s.reachStep c j x (u.remaining.drop 1) p) (s.picked c j u x p) := by
  have advance : EventsStand ((s.atPick c j u x p).pickEffects j) (((s.atPick c j u x p).pickEffects j).advanceStep c) := by
    unfold State.advanceStep
    split <;> exact .of_eq rfl
  exact (((atPick_stand s c j u x p).trans (pickEffects_events _ j).stand).trans advance).trans
    (startDeadline_stand _ c _)

include hm hs

theorem atPick_crane : (s.atPick c j u x p).crane c =
    { (s.crane c).reached (s.placePoint x.place) (s.configured a) with offerTimer := none } := by
  have jobs : Frame [.jobs] ((s.reachStep c j x (u.remaining.drop 1) p).stopOfferTimer c) (s.atPick c j u x p) :=
    (Frame.refl _ _).updJob _ _ (by simp)
  rw [jobs.crane c (by simp), stopOfferTimer_crane, if_pos rfl, (reachStep_reached j x _ p hm hs).1]

omit hm hs in
include hj in
theorem atPick_job (g : Handle) : (s.atPick c j u x p).job? g =
    if g = j.handle then some { j with state := .loaded } else s.job? g := by
  have before : Frame [.crane c, .rail, .events] s ((s.reachStep c j x (u.remaining.drop 1) p).stopOfferTimer c) :=
    ((Frame.refl _ s).reachStep c j x _ p (by simp)).stopOfferTimer c (by simp)
  rw [State.atPick, State.updJob_job ((before.job? (by simp) _).trans hj), before.job? (by simp)]

/-- The next step is current, and its deadline runs where it has one. -/
theorem picked_crane (hu : (s.crane c).unit = some u) : ∃ dl, (s.picked c j u x p).crane c =
    { (s.crane c).reached (s.placePoint x.place) (s.configured a) with
      offerTimer := none, unit := some { u with current := u.current + 1 }, deadline := dl }
    ∧ ∀ q y, s.profile? a = some q → u.steps[u.current]? = some y → 1 ≤ u.current →
        dl = some { step := u.current + 1, expiry :=
          s.now + (stepEstimate q (s.placePoint x.place) y.place * s.crt.factor / 100 + 10000) } := by
  let r := (s.atPick c j u x p).pickEffects j
  have effects : Frame [.crane c, .rail, .cells, .jobs, .input, .tx .station, .events] s r :=
    ((atPick_frame s c j u x p).mono (by simp)).pickEffects j (by simp)
  have own : r.crane c = { (s.crane c).reached (s.placePoint x.place) (s.configured a) with offerTimer := none } :=
    (((Frame.refl _ _).pickEffects j (List.Subset.refl _)).crane c (by simp)).trans (atPick_crane p hm hs)
  have unit : (r.crane c).unit = some u := own ▸ hu
  let w : State := r.setCrane c { r.crane c with unit := some { u with current := u.current + 1 } }
  have advanced : (r.advanceStep c) = w := advanceStep_eq unit
  have crane : w.crane c = { (s.crane c).reached (s.placePoint x.place) (s.configured a) with
      offerTimer := none, unit := some { u with current := u.current + 1 } } :=
    (State.setCrane_crane r c c _).trans ((if_pos rfl).trans (by rw [own]))
  obtain ⟨dl, hdl⟩ := startDeadline_crane w c (w.placePoint x.place)
  have final : (s.picked c j u x p).crane c = { w.crane c with deadline := dl } := by
    rw [picked_eq]
    exact advanced ▸ hdl
  refine ⟨dl, by rw [final, crane], fun q y hq hy hcur => ?_⟩
  have profile : w.profile? = s.profile? := effects.profile? (by simp)
  have head : ({ u with current := u.current + 1 } : WorkUnit).remaining.head? = some y := by
    rw [WorkUnit.remaining, List.head?_drop]
    exact hy
  have runs := startDeadline_runs (s := w) (w.placePoint x.place) (congrArg Crane.unit crane) head
    ((congrArg Crane.mapping crane).trans hm) ((congrFun profile a).trans hq)
  rw [hdl, placePoint_congr profile, show w.now = s.now from effects.now (by simp),
    show w.crt.factor = s.crt.factor from effects.factor (by simp)] at runs
  exact runs

omit hm hs in
include hj in
/-- The pick of a store leaves the Cell Map and sends TAKEN (R51, R159). -/
theorem picked_store (hk : j.kind = .store) : (s.picked c j u x p).job? j.handle = some { j with state := .loaded }
    ∧ (s.picked c j u x p).input j.aisle j.storeEnd = .empty
    ∧ (s.picked c j u x p).tx .station = s.tx .station ++ [.taken j.aisle j.storeEnd j.tag]
    ∧ (s.picked c j u x p).cmp = s.cmp := by
  have last := picked_frame s c j u x p
  have first := atPick_frame s c j u x p
  have job := atPick_job (c := c) (u := u) (x := x) p hj j.handle
  rw [pickEffects_store hk] at last
  generalize s.picked c j u x p = t at last ⊢
  generalize s.atPick c j u x p = r at first last job
  have inputs : t.input j.aisle j.storeEnd = (r.takePallet j).input j.aisle j.storeEnd :=
    congrArg (fun v : Vector (PerEnd InputRecord) 8 => v[j.aisle].get j.storeEnd) (last .input (by simp))
  refine ⟨(last.job? (by simp) _).trans (job.trans (if_pos rfl)), ?_, ?_, ?_⟩
  · rw [inputs, State.takePallet]
    exact (State.setInput_input r ..).trans (if_pos ⟨rfl, rfl⟩)
  · rw [last.tx _ (by simp), ← first.tx .station (by simp), State.takePallet, State.send, State.setTx_tx, if_pos rfl]
    rfl
  · exact (last.cmp (by simp) (by simp)).trans (first.cmp (by simp) (by simp))

omit hm hs in
include hj in
/-- The pick of a job at its cell empties the cell and hands its class over (R15, R51). -/
theorem picked_cell {d : CellAddr} {k : Sys2Proof.Class} (hw : MapWf s) (hk : j.kind ≠ .store) (hd : j.chosen = some d)
    (hc : (s.cell d).state = .outReserved j.handle k) :
    (s.picked c j u x p).job? j.handle = some { j with state := .loaded, carried := some k }
      ∧ (∀ b, (s.picked c j u x p).cell b = if b = d then { s.cell d with state := .empty } else s.cell b)
      ∧ (s.picked c j u x p).tx .station = s.tx .station ∧ (s.picked c j u x p).swu = s.swu := by
  let r := s.atPick c j u x p
  have last := picked_frame s c j u x p
  have first := atPick_frame s c j u x p
  have cmp : r.cmp = s.cmp := first.cmp (by simp) (by simp)
  have cell : r.cell = s.cell := State.cell_of_cmp cmp
  have reserved : (r.cell d).state = .outReserved j.handle k := cell ▸ hc
  have exists_ : r.existing d := State.existing_of_ne_initial fun h => by rw [h] at reserved; cases reserved
  have wf : MapWf r := fun b => by simpa only [State.aisle, cmp] using hw b
  let m := (r.putState d .empty).recheckCell d true
  have made : r.pickEffects j = m.updJob j.handle fun y => { y with carried := some k } := by
    rw [pickEffects_of_ne_store hk, pickCarried_eq hd reserved]
  have slots : ∀ g, m.job? g = r.job? g :=
    (((Frame.refl [.cells, .events] r).putState d .empty (by simp)).recheckCell d true (by simp)).job? (by simp)
  have live : m.job? j.handle = some { j with state := .loaded } :=
    (slots _).trans ((atPick_job p hj _).trans (if_pos rfl))
  have same : Frame [.cells, .jobs, .events] r (r.pickEffects j) := by
    rw [pickEffects_of_ne_store hk]
    exact (Frame.refl _ r).pickCarried j (by simp)
  have cells : Frame [.jobs, .events] (r.putState d .empty) (r.pickEffects j) := by
    rw [made]
    exact ((Frame.refl _ _).recheckCell d true (by simp)).updJob _ _ (by simp)
  refine ⟨?_, fun b => ?_, ?_, ?_⟩
  · rw [last.job? (by simp), show (s.atPick c j u x p).pickEffects j = _ from made, State.updJob_job live, if_pos rfl]
  · rw [last.cell (by simp) (by simp), cells.cell (by simp) (by simp), State.putState,
      State.cell_putCell wf d b _ exists_, cell]
  · exact (last.tx _ (by simp)).trans ((same.tx _ (by simp)).trans (first.tx _ (by simp)))
  · exact (last.swu (by simp) (by simp) (by simp)).trans
      ((same.swu (by simp) (by simp) (by simp)).trans (first.swu (by simp) (by simp) (by simp)))

omit hm hs in
/-- No expiry of the offer timer is owed any longer (R137). -/
theorem picked_expiry (s : State) (c : CraneId) (j : Job) (u : WorkUnit) (x : Step) (p : List Byte) :
    .offerTimerExpiry c ∉ (s.picked c j u x p).events := by
  have pick : .offerTimerExpiry c ∉ (s.atPick c j u x p).events := by
    rw [atPick_events]
    exact fun h => absurd rfl (of_decide_eq_true (List.mem_filter.mp h).2)
  have effects := (pickEffects_events (s.atPick c j u x p) j).not_mem pick
  refine fun h => effects ?_
  have events : (((s.atPick c j u x p).pickEffects j).advanceStep c).events = ((s.atPick c j u x p).pickEffects j).events := by
    unfold State.advanceStep
    split <;> rfl
  exact events ▸ startDeadline_events _ _ _ _ h

omit hm hs in
theorem picked_rail (s : State) (c : CraneId) (j : Job) (u : WorkUnit) (x : Step) (p : List Byte) :
    (s.picked c j u x p).crt.rail = (s.reachStep c j x (u.remaining.drop 1) p).crt.rail := by
  have frame : Frame [.crane c, .cells, .jobs, .input, .tx .station, .events] (s.reachStep c j x (u.remaining.drop 1) p)
      (s.picked c j u x p) :=
    (((((Frame.refl _ _).stopOfferTimer c (by simp)).updJob _ _ (by simp)).pickEffects j (by simp)).advanceStep c
      (by simp)).startDeadline c _ (by simp)
  exact frame .rail (by simp)

omit hm hs in
include hj in
theorem picked_job {g : Handle} (hg : g ≠ j.handle) : (s.picked c j u x p).job? g = s.job? g := by
  rw [(picked_frame s c j u x p).job? (by simp), pickEffects_job ((atPick_job p hj _).trans (if_pos rfl)) hg,
    atPick_job p hj, if_neg hg]

end Picked

/-- Settles O49: the report is read, the crane reaches the place, the pick has its effects, and the next step is
current. -/
theorem pickedLoadsTheJob : Obligations.PickedLoadsTheJob := by
  intro s c a e h j u x hc hm hs hu hj hmem hx hxj hpick hstr handles wf
  have handle : j.handle = h := by
    obtain ⟨gen, job⟩ := State.job?_eq_some.mp hj
    rw [handles _ j job, gen]
  subst handle
  let r := s.take (.picked c (encodeHandle j.handle))
  have fits : ReportKind.picked.matchesStep x = true := by simp [ReportKind.matchesStep, hpick]
  have frame : Frame _ r (r.picked c j u x (encodeHandle j.handle)) := .picked (.refl _ _) c j u x _ (List.Subset.refl _)
  obtain ⟨-, moves, breach⟩ := reachStep_reached (s := r) j x (u.remaining.drop 1) (encodeHandle j.handle) hm hs
  have stand := picked_stand r c j u x (encodeHandle j.handle)
  obtain ⟨dl, crane, runs⟩ := picked_crane (s := r) (x := x) (j := j) (encodeHandle j.handle) hm hs hu
  refine ⟨_, congrArg Host.Outcome.next (stepReport_fits hc hs hu hj hmem hx hxj hstr _ _ fits _), ?_, ?_, ?_, ?_, ?_, ?_, ?_,
    ?_, ?_, ?_, ?_, ?_⟩
  · rw [show (r.picked c j u x _).crane c = _ from crane, placePoint_congr (s := s) (t := r) rfl]
    rfl
  · exact picked_expiry r c j u x _
  · exact fun d hd => frame.crane d (by simp [hd])
  · exact fun q y hq hy hcur => (congrArg Crane.deadline crane).trans (runs q y hq hy hcur)
  · exact fun g hg => picked_job (s := r) _ hj hg
  · exact moves.later (picked_rail r c j u x _) stand
  · exact breach.later stand
  · exact fun hk => picked_store (s := r) _ hj hk
  · exact fun d k hk hd hcell => picked_cell (s := r) _ hj wf hk hd hcell
  · exact frame.flg (by simp)
  · exact frame.ale (by simp) (by simp)
  · exact frame.aic (by simp) (by simp)

end Sys2Proof.Machine
end
section
/-! What a geometry load makes of the rail tables and of the cranes' positions in the re-laid aisles (R7, R111). -/

namespace Sys2Proof.Machine

variable {s t : State} {a b : AisleId} {c d : CraneId}

theorem State.craneAt_mapping {e : End} (h : s.craneAt a e = some c) : (s.crane c).mapping = some (a, e) := by
  simpa using List.find?_some h

/-- The cranes of an aisle, by the roles they hold. -/
theorem State.mem_cranesOf : c ∈ s.cranesOf a ↔ ∃ e, s.craneAt a e = some c := by
  simp only [State.cranesOf, List.mem_append, Option.mem_toList]
  exact ⟨fun h => h.elim (fun h => ⟨.front, h⟩) fun h => ⟨.rear, h⟩, fun ⟨e, h⟩ => by cases e <;> simp [h]⟩

theorem State.cranesOf_mapping (h : c ∈ s.cranesOf a) : ∃ e, (s.crane c).mapping = some (a, e) := by
  obtain ⟨e, he⟩ := State.mem_cranesOf.mp h
  exact ⟨e, State.craneAt_mapping he⟩

/-- No crane belongs to two aisles. -/
theorem State.aisle_of_cranesOf (ha : c ∈ s.cranesOf a) (hb : c ∈ s.cranesOf b) : a = b := by
  obtain ⟨e, he⟩ := State.cranesOf_mapping ha
  obtain ⟨f, hf⟩ := State.cranesOf_mapping hb
  exact congrArg Prod.fst (Option.some.inj (he.symm.trans hf))

theorem State.craneAt_congr (h : ∀ d, (t.crane d).mapping = (s.crane d).mapping) (e : End) :
    t.craneAt b e = s.craneAt b e := by
  simp only [State.craneAt, h]

/-! ## Positions -/

/-- A crane's record with its position tested against a geometry (R7). -/
def Crane.checked (x : Crane) (g : Geometry) : Crane :=
  { x with known := x.known && decide (x.bay ≤ g.bays + 1 ∧ x.level ≤ g.levels) }

theorem checkPosition_crane (s : State) (g : Geometry) (c d : CraneId) :
    (s.checkPosition g c).crane d = if d = c then (s.crane c).checked g else s.crane d := by
  unfold State.checkPosition Crane.checked
  by_cases h : g.bays + 1 < (s.crane c).bay ∨ g.levels < (s.crane c).level
  · have beyond : ¬ ((s.crane c).bay ≤ g.bays + 1 ∧ (s.crane c).level ≤ g.levels) := by omega
    rw [if_pos h, State.setCrane_crane, decide_eq_false beyond, Bool.and_false]
  · have within : (s.crane c).bay ≤ g.bays + 1 ∧ (s.crane c).level ≤ g.levels := by omega
    rw [if_neg h, decide_eq_true within, Bool.and_true]
    split <;> simp [*]

theorem Crane.checked_checked (x : Crane) (g : Geometry) : (x.checked g).checked g = x.checked g := by
  simp [Crane.checked]

theorem each_checkPosition_crane (g : Geometry) (cs : List CraneId) (s : State) (d : CraneId) :
    (s.each cs fun s c => s.checkPosition g c).crane d = if d ∈ cs then (s.crane d).checked g else s.crane d := by
  unfold State.each
  induction cs generalizing s with
  | nil => simp
  | cons c cs ih =>
    rw [List.foldl_cons, ih, checkPosition_crane]
    by_cases hd : d = c
    · subst hd
      simp [Crane.checked_checked]
    · simp [hd]

/-! ## One aisle -/

/-- The bay at which a role's entry is rebuilt: that of its crane where announced and known, else the park end (R7). -/
def State.relaidBay (s : State) (g : Geometry) (a : AisleId) (e : End) : Nat :=
  (s.craneAt a e).elim (g.parkEnd e) fun c =>
    if (s.crane c).state ≠ .absent ∧ ((s.crane c).checked g).known = true then (s.crane c).bay else g.parkEnd e

/-- A table rebuilt. -/
def State.relaidRail (s : State) (g : Geometry) (a : AisleId) : Option (PerEnd RailEntry) :=
  if g.kind = .tandem then some { front := .at (s.relaidBay g a .front), rear := .at (s.relaidBay g a .rear) } else none

theorem relaidBay_congr {g : Geometry} {e : End} (hm : ∀ d, (t.crane d).mapping = (s.crane d).mapping)
    (hc : ∀ d ∈ s.cranesOf a, t.crane d = s.crane d) : t.relaidBay g a e = s.relaidBay g a e := by
  unfold State.relaidBay
  rw [State.craneAt_congr hm]
  cases hd : s.craneAt a e with
  | none => rfl
  | some d => simp only [Option.elim_some, hc d (State.mem_cranesOf.mpr ⟨e, hd⟩)]

theorem rebuiltEntry_eq {g : Geometry} {e : End} (hm : ∀ d, (t.crane d).mapping = (s.crane d).mapping)
    (hc : ∀ d ∈ s.cranesOf a, t.crane d = (s.crane d).checked g) :
    t.rebuiltEntry g a e = .at (s.relaidBay g a e) := by
  unfold State.rebuiltEntry State.relaidBay
  rw [State.craneAt_congr hm]
  cases hd : s.craneAt a e with
  | none => rfl
  | some d =>
    simp only [hc d (State.mem_cranesOf.mpr ⟨e, hd⟩), Option.elim_some]
    rw [show ((s.crane d).checked g).state = (s.crane d).state from rfl,
      show ((s.crane d).checked g).bay = (s.crane d).bay from rfl, apply_ite RailEntry.at]

/-- RAIL_BREACH has been raised for a table rebuilt whose intervals do not keep the gap (R111). -/
def RelaidBreach (s t : State) (q : Profile) (a : AisleId) : Prop :=
  ∀ r, s.relaidRail q.geo a = some r → keepsGap q.op.gap .front r.front.granted r.rear.granted = false →
    .faultReport { kind := .railBreach, source := .internal, aisle := some a, job := none, payload := [] } ∈ t.events

/-- The positions of an aisle's cranes tested, the rest as it stands. -/
def State.positionsChecked (s : State) (g : Geometry) (a : AisleId) : State :=
  s.each (s.cranesOf a) fun s c => s.checkPosition g c

theorem positionsChecked_frame (s : State) (g : Geometry) (a : AisleId) :
    Frame Part.cranes s (s.positionsChecked g a) :=
  Frame.each _ (fun _ c h => h.checkPosition g c (by simp)) (.refl _ s)

theorem positionsChecked_crane (s : State) (g : Geometry) (a : AisleId) (d : CraneId) :
    (s.positionsChecked g a).crane d = if d ∈ s.cranesOf a then (s.crane d).checked g else s.crane d :=
  each_checkPosition_crane g _ s d

theorem positionsChecked_mapping (s : State) (g : Geometry) (a : AisleId) (d : CraneId) :
    ((s.positionsChecked g a).crane d).mapping = (s.crane d).mapping := by
  rw [positionsChecked_crane]
  split <;> rfl

theorem rebuildRail_none (h : s.profile? a = none) : s.rebuildRail a = s := by rw [State.rebuildRail, h]

/-- The table of a configured aisle rebuilt, before its rail check. -/
theorem rebuildRail_eq {q : Profile} (hq : s.profile? a = some q) : s.rebuildRail a =
    if q.geo.kind = .tandem then
      ((s.positionsChecked q.geo a).setRail a (s.relaidRail q.geo a)).checkRail a
    else (s.positionsChecked q.geo a).setRail a none := by
  have entry : ∀ e, (s.positionsChecked q.geo a).rebuiltEntry q.geo a e = .at (s.relaidBay q.geo a e) := fun e =>
    rebuiltEntry_eq (positionsChecked_mapping s q.geo a) fun d hd => (positionsChecked_crane s q.geo a d).trans (if_pos hd)
  have made : s.rebuildRail a = match q.geo.kind with
      | .tandem => ((s.positionsChecked q.geo a).setRail a (some {
          front := (s.positionsChecked q.geo a).rebuiltEntry q.geo a .front
          rear := (s.positionsChecked q.geo a).rebuiltEntry q.geo a .rear })).checkRail a
      | .single => (s.positionsChecked q.geo a).setRail a none := by
    rw [State.rebuildRail, hq]
    rfl
  rw [made, entry, entry, State.relaidRail]
  cases q.geo.kind <;> simp

/-- What the rebuilding of one aisle's table does (R7, R111). -/
theorem rebuildRail_relaid {q : Profile} (hq : s.profile? a = some q) :
    (∀ d, (s.rebuildRail a).crane d = if d ∈ s.cranesOf a then (s.crane d).checked q.geo else s.crane d)
      ∧ (∀ b, (s.rebuildRail a).rail b = if b = a then s.relaidRail q.geo a else s.rail b)
      ∧ RelaidBreach s (s.rebuildRail a) q a ∧ EventsStand s (s.rebuildRail a) := by
  have frame := positionsChecked_frame s q.geo a
  have rails : ∀ b, (s.positionsChecked q.geo a).rail b = s.rail b := frame.rail (by simp)
  have events : (s.positionsChecked q.geo a).events = s.events := frame .events (by simp)
  rw [rebuildRail_eq hq]
  by_cases hk : q.geo.kind = .tandem
  · rw [if_pos hk, State.checkRail_eq]
    refine ⟨fun d => positionsChecked_crane s q.geo a d, fun b => ?_, fun r hr gap => ?_, .of_append (by rw [← events]; rfl)⟩
    · exact (State.setRail_rail _ a b _).trans (by rw [rails])
    · have profile : ((s.positionsChecked q.geo a).setRail a (s.relaidRail q.geo a)).gap a = q.op.gap := by
        unfold State.gap
        rw [show ((s.positionsChecked q.geo a).setRail a (s.relaidRail q.geo a)).profile? a = some q from
          (congrFun (frame.profile? (by simp)) a).trans hq]
      have own : ((s.positionsChecked q.geo a).setRail a (s.relaidRail q.geo a)).rail a = some r :=
        (State.setRail_rail _ a a _).trans ((if_pos rfl).trans hr)
      have failed : ((s.positionsChecked q.geo a).setRail a (s.relaidRail q.geo a)).railCheck a = false := by
        rw [State.railCheck, own, profile]
        exact gap
      refine List.mem_append_right _ ?_
      rw [State.breaches, failed]
      exact List.mem_singleton_self _
  · have none : s.relaidRail q.geo a = none := if_neg hk
    rw [if_neg hk]
    refine ⟨fun d => positionsChecked_crane s q.geo a d, fun b => ?_, fun r hr => ?_, .of_eq events⟩
    · exact (State.setRail_rail _ a b _).trans (by rw [rails, none])
    · rw [none] at hr
      cases hr

/-! ## The aisles from one up -/

/-- An aisle's table after the rebuilding of the tables of some aisles. -/
def State.relaidTable (s : State) (bs : List AisleId) (b : AisleId) : Option (PerEnd RailEntry) :=
  if b ∈ bs then (s.profile? b).elim (s.rail b) fun q => s.relaidRail q.geo b else s.rail b

/-- A crane of an aisle after the rebuilding of the tables of some aisles. -/
def State.relaidCrane (s : State) (bs : List AisleId) (b : AisleId) (c : CraneId) : Crane :=
  if b ∈ bs then (s.profile? b).elim (s.crane c) fun q => (s.crane c).checked q.geo else s.crane c

/-- What the rebuilding of the tables of some aisles does. -/
structure Relaid (bs : List AisleId) (s t : State) : Prop where
  frame : Frame (.rail :: .events :: Part.cranes) s t
  crane : ∀ b, ∀ c ∈ s.cranesOf b, t.crane c = s.relaidCrane bs b c
  mapping : ∀ c, (t.crane c).mapping = (s.crane c).mapping
  state : ∀ c, (t.crane c).state = (s.crane c).state
  rail : ∀ b, t.rail b = s.relaidTable bs b
  breach : ∀ b ∈ bs, ∀ q, s.profile? b = some q → RelaidBreach s t q b
  stand : EventsStand s t

theorem Relaid.rebuildRail (s : State) (a : AisleId) : Relaid [a] s (s.rebuildRail a) := by
  cases hq : s.profile? a with
  | none =>
    rw [rebuildRail_none hq]
    exact {
      frame := .refl _ _
      crane := fun b c _ => by
        unfold State.relaidCrane
        by_cases hb : b = a
        · subst hb
          simp [hq]
        · simp [hb]
      mapping := fun _ => rfl
      state := fun _ => rfl
      rail := fun b => by
        unfold State.relaidTable
        by_cases hb : b = a
        · subst hb
          simp [hq]
        · simp [hb]
      breach := fun b hb q h => by
        rw [List.mem_singleton.mp hb, hq] at h
        cases h
      stand := .refl _ }
  | some q =>
    obtain ⟨crane, rail, breach, stand⟩ := rebuildRail_relaid hq
    exact {
      frame := (Frame.refl _ s).rebuildRail a (by simp)
      crane := fun b c hc => by
        rw [crane]
        unfold State.relaidCrane
        by_cases hb : b = a
        · subst hb
          simp [hc, hq]
        · have other : c ∉ s.cranesOf a := fun h => hb (State.aisle_of_cranesOf hc h)
          simp [hb, other]
      mapping := fun c => by
        rw [crane]
        split <;> rfl
      state := fun c => by
        rw [crane]
        split <;> rfl
      rail := fun b => by
        rw [rail]
        unfold State.relaidTable
        by_cases hb : b = a
        · subst hb
          simp [hq]
        · simp [hb]
      breach := fun b hb p hp => by
        cases List.mem_singleton.mp hb
        cases hq.symm.trans hp
        exact breach
      stand := stand }

theorem Relaid.nil (s : State) : Relaid [] s s where
  frame := .refl _ _
  crane := fun b c _ => by simp [State.relaidCrane]
  mapping := fun _ => rfl
  state := fun _ => rfl
  rail := fun b => by simp [State.relaidTable]
  breach := fun b hb => by simp at hb
  stand := .refl s

variable {u : State} {bs : List AisleId}

/-- What is rebuilt for one aisle reads nothing that the rebuilding of another writes. -/
theorem Relaid.relaidRail (h : Relaid [a] s t) (g : Geometry) (hb : b ≠ a) : t.relaidRail g b = s.relaidRail g b := by
  have bay : ∀ e, t.relaidBay g b e = s.relaidBay g b e := fun e =>
    relaidBay_congr h.mapping fun d hd => (h.crane b d hd).trans (by simp [State.relaidCrane, hb])
  simp only [State.relaidRail, bay]

theorem Relaid.cons (h : Relaid [a] s t) (k : Relaid bs t u) (ha : a ∉ bs) : Relaid (a :: bs) s u := by
  have profile : t.profile? = s.profile? := h.frame.profile? (by simp)
  have apart : ∀ b ∈ bs, b ≠ a := fun b hb e => ha (e ▸ hb)
  refine {
    frame := h.frame.trans k.frame
    crane := fun b c hc => ?_
    mapping := fun c => (k.mapping c).trans (h.mapping c)
    state := fun c => (k.state c).trans (h.state c)
    rail := fun b => ?_
    breach := fun b hb q hq => ?_
    stand := h.stand.trans k.stand }
  · have here := h.crane b c hc
    rw [k.crane b c (State.cranesOf_congr h.mapping b ▸ hc)]
    unfold State.relaidCrane at here ⊢
    rw [here, profile]
    by_cases hb : b ∈ bs
    · simp [hb, apart b hb]
    · simp [hb]
  · have here := h.rail b
    rw [k.rail]
    unfold State.relaidTable at here ⊢
    rw [here, profile]
    by_cases hb : b ∈ bs
    · simp [hb, apart b hb, h.relaidRail _ (apart b hb)]
    · simp [hb]
  · rcases List.mem_cons.mp hb with rfl | hb
    · exact fun r hr gap => k.stand _ (h.breach b (List.mem_singleton_self b) q hq r hr gap) rfl
    · intro r hr gap
      exact k.breach b hb q ((congrFun profile b).trans hq) r ((h.relaidRail q.geo (apart b hb)).trans hr) gap

theorem Relaid.each (bs : List AisleId) (h : bs.Nodup) (s : State) : Relaid bs s (s.each bs State.rebuildRail) := by
  induction bs generalizing s with
  | nil => exact .nil s
  | cons b bs ih =>
    obtain ⟨hb, nodup⟩ := List.nodup_cons.mp h
    exact (Relaid.rebuildRail s b).cons (ih nodup _) hb

theorem aislesFrom_nodup (a : AisleId) : (aislesFrom a).Nodup := (List.nodup_finRange 8).filter _

end Sys2Proof.Machine
end
section
/-! The drain of an aisle whose cranes are all ABSENT, IDLE, OUT_OF_SERVICE or PARKED: the only drain that a geometry load
can draw (R3, R172, R178). -/

namespace Sys2Proof.Machine

variable {s t : State} {a b : AisleId} {e : End} {c d : CraneId}

/-! ## PARK to an IDLE crane -/

/-- The record of an IDLE crane that a drain has sent PARK: OUT_OF_SERVICE where it was to leave service, else PARKING with
its park timer running until `n` (R128, R144). -/
def Crane.sentPark (x : Crane) (n : Nat) : Crane :=
  if x.leaveService then { x with state := .outOfService, leaveService := false }
  else { x with state := .parking, parkTimer := some n, leaveService := false }

theorem widenToPark_rail (hm : (s.crane c).mapping = some (a, e)) (b : AisleId) : (s.widenToPark c).rail b =
    if b = a then (s.rail a).map fun r => r.set e { r.get e with
      granted := (r.get e).granted.join (.at (s.parkEnd a e)) }
    else s.rail b := by
  unfold State.widenToPark State.entry State.grant State.updOwn State.updEntry
  cases hr : s.rail a with
  | none =>
    simp only [hm, hr, Option.map_none]
    split
    · next h => rw [h, hr]
    · rfl
  | some r =>
    simp only [hm, hr, Option.map_some]
    exact State.setRail_rail s a b _

/-- A crane that is IDLE enters PARKING, or OUT_OF_SERVICE where it was to leave service (R128). -/
theorem enterState_parking (hs : (s.crane c).state = .idle) (hm : (s.crane c).mapping = some (a, e)) :
    s.enterState c .parking = ((s.setCrane c { s.crane c with
      state := if (s.crane c).leaveService then .outOfService else .parking, leaveService := false }).setParkOwed c
        false).testHold a := by
  unfold State.enterState Crane.destination
  cases hl : (s.crane c).leaveService <;> simp [hl, hs, hm, CraneState.leaveDiverts, CraneState.busy]

/-- The state in which the hold is tested when an IDLE crane has been sent PARK. -/
def State.parkSent (s : State) (c : CraneId) : State :=
  ((if (s.crane c).leaveService then s else (s.tellPark c).startParkTimer c).setCrane c
    ((s.crane c).sentPark (s.now + s.crt.tPark))).setParkOwed c false

theorem tPark_tellPark (s : State) (c : CraneId) : (s.tellPark c).crt.tPark = s.crt.tPark ∧ (s.tellPark c).now = s.now := by
  have frame : Frame [.rail, .tx (.crane c)] s (s.tellPark c) := (Frame.refl _ s).tellPark c (by simp)
  obtain ⟨-, now, -, -, -, -, crt, -⟩ := frame .rest (by simp)
  exact ⟨by rw [crt], now⟩

theorem sendPark_idle (hs : (s.crane c).state = .idle) (hm : (s.crane c).mapping = some (a, e)) :
    s.sendPark c = (s.parkSent c).testHold a := by
  have stays : s.leaveBackoff c = s := by simp [State.leaveBackoff, hs]
  unfold State.sendPark State.parkSent Crane.sentPark
  simp only [stays]
  cases hl : (s.crane c).leaveService with
  | true =>
    simp only [if_true]
    rw [enterState_parking hs hm, hl]
    rfl
  | false =>
    obtain ⟨timer, now⟩ := tPark_tellPark s c
    have crane : ((s.tellPark c).startParkTimer c).crane c =
        { s.crane c with parkTimer := some (s.now + s.crt.tPark) } := by
      have told : (s.tellPark c).crane c = s.crane c :=
        ((Frame.refl [.rail, .tx (.crane c)] s).tellPark c (by simp)).crane c (by simp)
      refine (State.setCrane_crane _ c c _).trans ((if_pos rfl).trans ?_)
      rw [told, timer, now]
    have idle : (((s.tellPark c).startParkTimer c).crane c).state = .idle := crane ▸ hs
    have mapped : (((s.tellPark c).startParkTimer c).crane c).mapping = some (a, e) := crane ▸ hm
    simp only [Bool.false_eq_true, if_false]
    rw [enterState_parking idle mapped, crane, hl]
    rfl

/-- What the PARK of a drain may touch. -/
theorem parkSent_frame (s : State) (c : CraneId) :
    Frame [.crane c, .rail, .parkOwed, .tx (.crane c), .events] s (s.parkSent c) := by
  unfold State.parkSent
  split
  · exact ((Frame.refl _ s).setCrane c _ (by simp)).setParkOwed c _ (by simp)
  · exact ((((Frame.refl _ s).tellPark c (by simp)).startParkTimer c (by simp)).setCrane c _ (by simp)).setParkOwed c _
      (by simp)

theorem parkSent_crane (s : State) (c d : CraneId) : (s.parkSent c).crane d =
    if d = c then (s.crane c).sentPark (s.now + s.crt.tPark) else s.crane d := by
  by_cases hd : d = c
  · subst hd
    exact (State.setCrane_crane _ d d _).trans (by rw [if_pos rfl, if_pos rfl])
  · rw [if_neg hd]
    exact (parkSent_frame s c).crane d (by simp [hd])

theorem parkSent_rail (hm : (s.crane c).mapping = some (a, e)) (b : AisleId) : (s.parkSent c).rail b =
    if b = a ∧ (s.crane c).leaveService = false then (s.rail a).map fun r => r.set e { r.get e with
      granted := (r.get e).granted.join (.at (s.parkEnd a e)) }
    else s.rail b := by
  cases hl : (s.crane c).leaveService with
  | true =>
    have frame : Frame [.crane c, .parkOwed] s (s.parkSent c) := by
      rw [State.parkSent, if_pos hl]
      exact ((Frame.refl _ s).setCrane c _ (by simp)).setParkOwed c _ (by simp)
    rw [frame.rail (by simp)]
    simp
  | false =>
    have frame : Frame [.crane c, .parkOwed, .events] (s.tellPark c) (s.parkSent c) := by
      rw [State.parkSent, if_neg (by simp [hl])]
      exact (((Frame.refl _ _).startParkTimer c (by simp)).setCrane c _ (by simp)).setParkOwed c _ (by simp)
    rw [frame.rail (by simp), State.tellPark, widenToPark_rail (s := s.send (.crane c) .park) hm]
    simp only [and_true]
    rfl

theorem parkSent_stand (s : State) (c : CraneId) : EventsStand s (s.parkSent c) := by
  have told : EventsStand s (s.tellPark c) :=
    .of_eq (((Frame.refl [.rail, .tx (.crane c)] s).tellPark c (by simp)) .events (by simp))
  have timed : EventsStand s ((s.tellPark c).startParkTimer c) := told.trans (EventsStand.forget _ rfl)
  unfold State.parkSent
  split
  · exact .of_eq rfl
  · exact timed

/-! ## The test of the hold -/

theorem offerNotices_keep {α : Type} (f : State → α) (hf : ∀ s l n, f (s.offerNotice l n) = f s) (n : State → OrderLink → Notice)
    (ls : List OrderLink) (s : State) : f (s.each ls fun s l => s.offerNotice l (n s l)) = f s := by
  unfold State.each
  induction ls generalizing s with
  | nil => rfl
  | cons l ls ih => rw [List.foldl_cons, ih, hf]

theorem enterHeld_hold (s : State) (a b : AisleId) : (s.enterHeld a).hold b =
    if b = a then { s.hold a with state := .held, gack := true } else s.hold b := by
  refine (offerNotices_keep (fun s => s.hold b) (fun s l n => ?_) (fun s _ => .holdGranted a (s.hold a).sources) _ _).trans ?_
  · rw [State.offerNotice_eq]
    rfl
  · exact State.setHold_hold s a b _

/-- A test of the hold leaves the state of a stopped aisle as its cranes' rest says (R174). -/
theorem testHold_hold (hs : (s.hold a).state = .draining ∨ (s.hold a).state = .held) :
    (∀ b, b ≠ a → (s.testHold a).hold b = s.hold b) ∧ ((s.testHold a).hold a).sources = (s.hold a).sources
      ∧ ((s.testHold a).hold a).state = if s.allRest a then .held else .draining := by
  rcases hs with hs | hs
  · have test : s.testHold a = if s.allRest a then s.enterHeld a else s := by
      simp only [State.testHold, hs]
    rw [test]
    split
    · refine ⟨fun b hb => by rw [enterHeld_hold, if_neg hb], ?_, ?_⟩ <;> rw [enterHeld_hold, if_pos rfl]
    · exact ⟨fun _ _ => rfl, rfl, hs⟩
  · have test : s.testHold a = if s.allRest a then s else s.setHoldState a .draining := by
      simp only [State.testHold, hs]
    rw [test]
    split
    · exact ⟨fun _ _ => rfl, rfl, hs⟩
    · have hold : ∀ b, (s.setHoldState a .draining).hold b = _ := fun b => State.setHold_hold s a b _
      refine ⟨fun b hb => by rw [hold, if_neg hb], ?_, ?_⟩ <;> rw [hold, if_pos rfl]

theorem testHold_stand (s : State) (a : AisleId) : EventsStand s (s.testHold a) :=
  .of_eq (((Frame.refl [.holds, .queue] s).testHold a (by simp)) .events (by simp))

theorem testHold_grows (s : State) (a : AisleId) : QueuesGrow s (s.testHold a) := by
  have enter : QueuesGrow s (s.enterHeld a) :=
    QueuesGrow.each _ (fun s l => offerNotice_grows s l _) (s.setHoldState a .held)
  cases hs : (s.hold a).state with
  | draining =>
    simp only [State.testHold, hs]
    split
    · exact enter
    · exact .refl s
  | held =>
    simp only [State.testHold, hs]
    split
    · exact .refl s
    · exact .refl s
  | isOpen | unconfigured =>
    simp only [State.testHold, hs]
    exact .refl s

/-! ## The cranes of a drain -/

/-- ABSENT, IDLE, OUT_OF_SERVICE or PARKED (R3). -/
theorem CraneState.quiet_iff {x : CraneState} :
    x.quiet = true ↔ x ∈ [CraneState.absent, .idle, .outOfService, .parked] := by
  cases x <;> decide

theorem drainCrane_idle (hs : (s.crane c).state = .idle) : s.drainCrane c = s.sendPark c := by
  simp only [State.drainCrane, hs]

theorem drainCrane_rest (hq : (s.crane c).state.quiet = true) (hs : (s.crane c).state ≠ .idle) : s.drainCrane c = s := by
  have states := CraneState.quiet_iff.mp hq
  simp only [List.mem_cons, List.not_mem_nil, or_false] at states
  rcases states with h | h | h | h
  · simp only [State.drainCrane, h]
  · exact absurd h hs
  · simp only [State.drainCrane, h]
  · simp only [State.drainCrane, h]

/-- A quiet crane's record after a drain. -/
def Crane.drained (x : Crane) (n : Nat) : Crane := if x.state = .idle then x.sentPark n else x

/-- Whether a drain sends a quiet crane PARK. -/
def Crane.parks (x : Crane) : Bool := decide (x.state = .idle) && !x.leaveService

/-- The entry of a role in an aisle's table. -/
def State.roleEntry (s : State) (b : AisleId) (e : End) : Option RailEntry := (s.rail b).map (·.get e)

/-- An entry whose interval is widened to a bay. -/
def RailEntry.widened (r : RailEntry) (bay : Nat) : RailEntry := { r with granted := r.granted.join (.at bay) }

/-- A drain of some quiet cranes sends the crane of a role PARK. -/
def State.parksRole (s : State) (cs : List CraneId) (a : AisleId) (e : End) : Bool :=
  cs.any fun c => decide ((s.crane c).mapping = some (a, e)) && (s.crane c).parks

theorem State.parksRole_iff {cs : List CraneId} : s.parksRole cs a e = true ↔
    ∃ c ∈ cs, (s.crane c).mapping = some (a, e) ∧ (s.crane c).parks = true := by
  simp [State.parksRole]

/-- What the drain of some quiet cranes of an aisle does. -/
structure Drained (cs : List CraneId) (a : AisleId) (s t : State) : Prop where
  frame : Frame (.rail :: .parkOwed :: .holds :: .queue :: .events :: (Part.cranes ++ Part.craneTxs)) s t
  crane : ∀ d, t.crane d = if d ∈ cs then (s.crane d).drained (s.now + s.crt.tPark) else s.crane d
  rail : ∀ b e, t.roleEntry b e =
    if b = a ∧ s.parksRole cs a e = true then (s.roleEntry a e).map (·.widened (s.parkEnd a e)) else s.roleEntry b e
  hold : ∀ b, b ≠ a → t.hold b = s.hold b
  sources : (t.hold a).sources = (s.hold a).sources
  stand : EventsStand s t
  queue : QueuesGrow s t

/-- An aisle is DRAINING or HELD. -/
def State.stopped (s : State) (a : AisleId) : Prop := (s.hold a).state = .draining ∨ (s.hold a).state = .held

theorem Drained.nil (a : AisleId) (s : State) : Drained [] a s s where
  frame := .refl _ _
  crane := fun d => by simp
  rail := fun b e => by simp [State.parksRole]
  hold := fun _ _ => rfl
  sources := rfl
  stand := .refl s
  queue := .refl s

theorem Crane.drained_of_ne_idle {x : Crane} (h : x.state ≠ .idle) (n : Nat) : x.drained n = x := if_neg h

theorem Crane.parks_of_ne_idle {x : Crane} (h : x.state ≠ .idle) : x.parks = false := by simp [Crane.parks, h]

/-- A quiet crane in an aisle that is DRAINING or HELD. -/
theorem Drained.one (hm : (s.crane c).mapping = some (a, e)) (hq : (s.crane c).state.quiet = true)
    (hh : s.stopped a) : Drained [c] a s (s.drainCrane c) ∧ (s.drainCrane c).stopped a := by
  by_cases hs : (s.crane c).state = .idle
  · have sent := parkSent_frame s c
    have tested : Frame [.holds, .queue] (s.parkSent c) ((s.parkSent c).testHold a) := (Frame.refl _ _).testHold a (by simp)
    have holds : ∀ b, (s.parkSent c).hold b = s.hold b := sent.hold (by simp)
    obtain ⟨others, sources, state⟩ := testHold_hold (s := s.parkSent c) (a := a) (by rw [holds]; exact hh)
    have rails : ∀ b, ((s.parkSent c).testHold a).rail b = (s.parkSent c).rail b := tested.rail (by simp)
    rw [drainCrane_idle hs, sendPark_idle hs hm]
    refine ⟨{
      frame := (sent.mono (by simp)).trans (tested.mono (by simp))
      crane := fun d => ?_
      rail := fun b f => ?_
      hold := fun b hb => (others b hb).trans (holds b)
      sources := sources.trans (by rw [holds])
      stand := (parkSent_stand s c).trans (testHold_stand _ a)
      queue := (QueuesGrow.of_frame sent (by simp)).trans (testHold_grows _ a) }, ?_⟩
    · rw [tested.crane d (by simp), parkSent_crane]
      by_cases hd : d = c
      · subst hd
        simp [Crane.drained, hs]
      · simp [hd]
    · have parks : s.parksRole [c] a f = true ↔ f = e ∧ (s.crane c).leaveService = false := by
        rw [State.parksRole_iff]
        simp [hm, Crane.parks, hs, eq_comm (a := e)]
      unfold State.roleEntry
      rw [rails, parkSent_rail hm]
      by_cases hb : b = a
      · subst hb
        by_cases hl : (s.crane c).leaveService = false
        · by_cases he : f = e
          · subst he
            rw [if_pos ⟨rfl, hl⟩, if_pos ⟨rfl, parks.mpr ⟨rfl, hl⟩⟩]
            simp [Function.comp_def, RailEntry.widened]
          · rw [if_pos ⟨rfl, hl⟩, if_neg fun h => he (parks.mp h.2).1]
            simp [Function.comp_def, he]
        · rw [if_neg fun h => hl h.2, if_neg fun h => hl (parks.mp h.2).2]
      · rw [if_neg fun h => hb h.1, if_neg fun h => hb h.1]
    · rw [State.stopped, state]
      split
      · exact .inr rfl
      · exact .inl rfl
  · rw [drainCrane_rest hq hs]
    refine ⟨{ Drained.nil a s with crane := fun d => ?_, rail := fun b f => ?_ }, hh⟩
    · by_cases hd : d = c
      · subst hd
        rw [if_pos (List.mem_singleton_self d), Crane.drained_of_ne_idle hs]
      · simp [hd]
    · simp [State.parksRole, Crane.parks_of_ne_idle hs]

theorem Interval.join_join (i j : Interval) : (i.join j).join j = i.join j := by
  simp [Interval.join]

theorem RailEntry.widened_widened (r : RailEntry) (bay : Nat) : (r.widened bay).widened bay = r.widened bay := by
  simp [RailEntry.widened, Interval.join_join]

theorem parkEnd_congr (h : t.profile? = s.profile?) : t.parkEnd = s.parkEnd := by
  unfold State.parkEnd
  rw [h]

/-- A role that the drain of one crane, or that of the others, sends PARK has its entry widened once. -/
theorem Drained.cons {u : State} {cs : List CraneId} (h : Drained [c] a s t) (k : Drained cs a t u) (hc : c ∉ cs) :
    Drained (c :: cs) a s u := by
  have now : t.now = s.now := h.frame.now (by simp)
  have timer : t.crt.tPark = s.crt.tPark := by
    obtain ⟨-, -, -, -, -, -, crt, -⟩ := h.frame .rest (by simp)
    rw [crt]
  have crane : ∀ d ∈ cs, t.crane d = s.crane d := fun d hd => (h.crane d).trans (if_neg fun m =>
    hc (by rw [← List.mem_singleton.mp m]; exact hd))
  have parks : ∀ e, t.parksRole cs a e = s.parksRole cs a e := fun e => by
    rw [Bool.eq_iff_iff, State.parksRole_iff, State.parksRole_iff]
    exact exists_congr fun d => and_congr_right fun hd => by rw [crane d hd]
  refine {
    frame := h.frame.trans k.frame
    crane := fun d => ?_
    rail := fun b e => ?_
    hold := fun b hb => (k.hold b hb).trans (h.hold b hb)
    sources := k.sources.trans h.sources
    stand := h.stand.trans k.stand
    queue := h.queue.trans k.queue }
  · rw [k.crane, h.crane, now, timer]
    by_cases hd : d ∈ cs
    · have ne : d ≠ c := fun e => hc (e ▸ hd)
      simp [hd, ne]
    · simp [hd]
  · have split : s.parksRole (c :: cs) a e = (s.parksRole [c] a e || s.parksRole cs a e) := by simp [State.parksRole]
    rw [k.rail, parks, parkEnd_congr (h.frame.profile? (by simp)), h.rail, h.rail, split]
    by_cases hb : b = a
    · subst hb
      cases s.parksRole [c] b e <;> cases s.parksRole cs b e <;>
        simp [Function.comp_def, RailEntry.widened_widened]
    · simp [hb]

/-- The drain of some quiet cranes of an aisle that is DRAINING or HELD. -/
theorem Drained.each (cs : List CraneId) (hn : cs.Nodup) (hh : s.stopped a)
    (hm : ∀ c ∈ cs, ∃ e, (s.crane c).mapping = some (a, e)) (hq : ∀ c ∈ cs, (s.crane c).state.quiet = true) :
    Drained cs a s (s.each cs State.drainCrane) ∧ (s.each cs State.drainCrane).stopped a := by
  induction cs generalizing s with
  | nil => exact ⟨.nil a s, hh⟩
  | cons c cs ih =>
    obtain ⟨hc, nodup⟩ := List.nodup_cons.mp hn
    obtain ⟨e, mapped⟩ := hm c (by simp)
    obtain ⟨first, stopped⟩ := Drained.one mapped (hq c (by simp)) hh
    have crane : ∀ d ∈ cs, (s.drainCrane c).crane d = s.crane d := fun d hd =>
      (first.crane d).trans (if_neg fun m => hc (by rw [← List.mem_singleton.mp m]; exact hd))
    obtain ⟨rest, last⟩ := ih nodup stopped (fun d hd => by rw [crane d hd]; exact hm d (by simp [hd]))
      fun d hd => by rw [crane d hd]; exact hq d (by simp [hd])
    exact ⟨first.cons rest hc, last⟩

theorem State.cranesOf_nodup (s : State) (a : AisleId) : (s.cranesOf a).Nodup := by
  have apart : ∀ c, s.craneAt a .front = some c → s.craneAt a .rear ≠ some c := fun c hf hr => by
    have := (State.craneAt_mapping hf).symm.trans (State.craneAt_mapping hr)
    simp at this
  unfold State.cranesOf
  cases hf : s.craneAt a .front with
  | none => cases s.craneAt a .rear <;> simp
  | some c =>
    cases hr : s.craneAt a .rear with
    | none => simp
    | some d => 
      have ne : c ≠ d := fun e => apart c hf (e ▸ hr)
      simp [ne]

theorem allRest_congr (h : ∀ d, t.crane d = s.crane d) (a : AisleId) : t.allRest a = s.allRest a := by
  simp only [State.allRest, State.cranesOf, State.craneAt, h]

/-- The drain of an aisle whose cranes are all quiet (R172). -/
theorem drain_quiet (hq : ∀ c ∈ s.cranesOf a, (s.crane c).state.quiet = true) :
    Drained (s.cranesOf a) a s (s.drain a)
      ∧ ((s.drain a).hold a).state = if (s.drain a).allRest a then .held else .draining := by
  let r := s.setHoldState a .draining
  have start : Frame [.holds] s r := (Frame.refl _ s).setHoldState a _ (by simp)
  have hold : ∀ b, r.hold b = if b = a then _ else s.hold b := fun b => State.setHold_hold s a b _
  have stopped : (r.hold a).state = .draining := by rw [hold, if_pos rfl]
  obtain ⟨each, halted⟩ := Drained.each (s := r) (s.cranesOf a) (s.cranesOf_nodup a) (.inl stopped)
    (fun c hc => State.cranesOf_mapping hc) hq
  let m := r.each (s.cranesOf a) State.drainCrane
  have tested : Frame [.holds, .queue] m (m.testHold a) := (Frame.refl _ m).testHold a (by simp)
  obtain ⟨others, sources, state⟩ := testHold_hold (s := m) (a := a) halted
  have rest : (m.testHold a).allRest a = m.allRest a := allRest_congr (fun d => tested.crane d (by simp)) a
  have final : s.drain a = m.testHold a := rfl
  rw [final, rest]
  refine ⟨{
    frame := (start.mono (by simp)).trans (each.frame.trans (tested.mono (by simp)))
    crane := fun d => (tested.crane d (by simp)).trans (each.crane d)
    rail := fun b e => ?_
    hold := fun b hb => (others b hb).trans ((each.hold b hb).trans ((hold b).trans (if_neg hb)))
    sources := sources.trans (each.sources.trans (by rw [hold, if_pos rfl]))
    stand := each.stand.trans (testHold_stand m a)
    queue := each.queue.trans (testHold_grows m a) }, state⟩
  · unfold State.roleEntry
    rw [tested.rail (by simp)]
    exact each.rail b e

/-- A drain that finds every crane at rest goes straight to HELD (R172, R175). -/
theorem drain_rest (hq : ∀ c ∈ s.cranesOf a, (s.crane c).state.quiet = true)
    (hi : ∀ c ∈ s.cranesOf a, (s.crane c).state ≠ .idle) : s.drain a = (s.setHoldState a .draining).enterHeld a := by
  have each : ∀ cs : List CraneId, (∀ c ∈ cs, c ∈ s.cranesOf a) →
      (s.setHoldState a .draining).each cs State.drainCrane = s.setHoldState a .draining := fun cs h => by
    unfold State.each
    induction cs with
    | nil => rfl
    | cons c cs ih =>
      have still : (s.setHoldState a .draining).drainCrane c = s.setHoldState a .draining :=
        drainCrane_rest (s := s.setHoldState a .draining) (hq c (h c (by simp))) (hi c (h c (by simp)))
      rw [List.foldl_cons, still]
      exact ih fun d hd => h d (by simp [hd])
  have rest : (s.setHoldState a .draining).allRest a = true := by
    refine List.all_eq_true.mpr fun c hc => ?_
    have quiet := CraneState.quiet_iff.mp (hq c hc)
    have moving := hi c hc
    simp only [List.mem_cons, List.not_mem_nil, or_false] at quiet
    rcases quiet with h | h | h | h
    · exact congrArg CraneState.atRest h
    · exact absurd h moving
    · exact congrArg CraneState.atRest h
    · exact congrArg CraneState.atRest h
  have state : ((s.setHoldState a .draining).hold a).state = .draining := by
    rw [State.setHoldState, State.setHold_hold, if_pos rfl]
  have drained : s.drain a = (s.setHoldState a .draining).testHold a :=
    congrArg (State.testHold · a) (each (s.cranesOf a) fun _ h => h)
  rw [drained]
  simp only [State.testHold, state, rest, if_true]

/-- The first hold state of an aisle, whose cranes are all quiet, drains some of them or none (R178). -/
theorem configureHold_drained (hq : ∀ c ∈ s.cranesOf a, (s.crane c).state.quiet = true) :
    ∃ cs, (cs = [] ∨ cs = s.cranesOf a) ∧ Drained cs a s (s.configureHold a) := by
  cases hs : (s.hold a).state with
  | unconfigured =>
    by_cases hx : (s.hold a).sources.any = true
    · exact ⟨_, .inr rfl, by simpa only [State.configureHold, hs, hx, if_true] using (drain_quiet hq).1⟩
    · refine ⟨[], .inl rfl, ?_⟩
      have hold : ∀ b, (s.setHoldState a .isOpen).hold b = if b = a then _ else s.hold b := fun b => State.setHold_hold s a b _
      simp only [State.configureHold, hs, hx, if_false, Bool.false_eq_true]
      exact { Drained.nil a s with
        frame := (Frame.refl _ s).setHoldState a _ (by simp)
        hold := fun b hb => (hold b).trans (if_neg hb)
        sources := by rw [hold, if_pos rfl]
        crane := fun d => (Drained.nil a s).crane d
        rail := fun b e => (Drained.nil a s).rail b e
        stand := .of_eq rfl
        queue := .refl s }
  | isOpen | draining | held => exact ⟨[], .inl rfl, by simpa only [State.configureHold, hs] using Drained.nil a s⟩

section Notices

variable {n : State → Notice} (hn : ∀ s l k, n (State.offerNotice s l k) = n s) {ls : List OrderLink} {m : OrderLink}

/-- A notice offered to some links leaves the queue of another. -/
theorem each_offerNotice_other (hm : m ∉ ls) (s : State) :
    (s.each ls fun s l => s.offerNotice l (n s)).queue m = s.queue m := by
  unfold State.each
  induction ls generalizing s with
  | nil => rfl
  | cons l ls ih =>
    rw [List.mem_cons, not_or] at hm
    obtain ⟨ne, out⟩ := hm
    rw [List.foldl_cons, ih out, State.offerNotice_queue, if_neg fun e => ne e.1]

include hn in
/-- A notice offered to some links, one each, stands at the tail of the queue of each where there was room. -/
theorem each_offerNotice_queue (hl : ls.Nodup) (hm : m ∈ ls) (hroom : (s.queue m).length < 32) :
    (s.each ls fun s l => s.offerNotice l (n s)).queue m = s.queue m ++ [n s] := by
  induction ls generalizing s with
  | nil => cases hm
  | cons l ls ih =>
    obtain ⟨out, nodup⟩ := List.nodup_cons.mp hl
    show ((s.offerNotice l (n s)).each ls fun s l => s.offerNotice l (n s)).queue m = _
    by_cases hml : m = l
    · subst hml
      rw [each_offerNotice_other out, State.offerNotice_queue, if_pos ⟨rfl, hroom⟩]
    · have queue : (s.offerNotice l (n s)).queue m = s.queue m := by
        rw [State.offerNotice_queue, if_neg fun e => hml e.1]
      rw [ih nodup ((List.mem_cons.mp hm).resolve_left hml) (by rw [queue]; exact hroom), queue, hn]

end Notices

/-- HOLD_GRANTED goes to the links whose source is set, one each (R175). -/
theorem enterHeld_queue (s : State) (a : AisleId) (m : OrderLink) (hroom : (s.queue m).length < 32) :
    (s.enterHeld a).queue m = s.queue m ++ if (s.hold a).sources.link m then [.holdGranted a (s.hold a).sources] else [] := by
  let r := s.setHoldState a .held
  let n : State → Notice := fun s => .holdGranted a (s.hold a).sources
  have sources : (r.hold a).sources = (s.hold a).sources := by
    rw [show r.hold a = _ from State.setHold_hold s a a _, if_pos rfl]
  have hn : ∀ s l k, n (State.offerNotice s l k) = n s := fun s l k => by
    show Notice.holdGranted a ((s.offerNotice l k).hold a).sources = _
    rw [State.offerNotice_eq]
    rfl
  have held : s.enterHeld a = r.each ([OrderLink.o0, OrderLink.o1].filter (s.hold a).sources.link) fun s l =>
      s.offerNotice l (n s) := by
    rw [← sources]
    rfl
  have member : m ∈ [OrderLink.o0, OrderLink.o1].filter (s.hold a).sources.link ↔ (s.hold a).sources.link m = true := by
    rw [List.mem_filter]
    cases m <;> simp
  rw [held]
  by_cases hm : (s.hold a).sources.link m = true
  · rw [each_offerNotice_queue (s := r) hn (List.Nodup.filter _ (by decide)) (member.mpr hm) hroom, if_pos hm,
      show n r = .holdGranted a (s.hold a).sources from congrArg (Notice.holdGranted a) sources]
    rfl
  · rw [each_offerNotice_other fun h => hm (member.mp h), if_neg hm]
    exact (List.append_nil _).symm

end Sys2Proof.Machine
end
section
/-! O27: the checks of a LOAD PROFILE and the geometry load (R1 to R7, R111, R178). -/

namespace Sys2Proof.Machine

variable {s t : State} {l : OrderLink} {p : List Byte} {f : LoadProfileFields} {a b : AisleId} {c : CraneId} {g : Geometry}

/-! ## The checks of the fields -/

theorem decodeLoadProfile_eq_none (h : byteAt p 3 = 0 ∨ 40 < byteAt p 3 ∨ p.length ≠ 38 + (byteAt p 3 + 3) / 4) :
    decodeLoadProfile p = none := by
  unfold decodeLoadProfile
  exact if_neg (by omega)

theorem kindOfCode_eq_none {n : Nat} (h : 1 < n) : kindOfCode n = none := by
  obtain ⟨k, rfl⟩ := Nat.exists_eq_add_of_le' h
  rfl

theorem depthField_eq_none {n : Nat} (h : n = 0 ∨ 2 < n) : depthField n = none := by
  rcases h with rfl | h
  · rfl
  · obtain ⟨k, rfl⟩ := Nat.exists_eq_add_of_le' h
    rfl

/-- A geometry field out of range leaves no geometry (R1 checks 1 and 2). -/
theorem loadGeometry_eq_none (h : 1 < f.kind ∨ f.bays = 0 ∨ 120 < f.bays ∨ f.depth = 0 ∨ 2 < f.depth ∨ f.classCount = 0
    ∨ 4 < f.classCount ∨ ∃ x ∈ f.classTable, f.classCount ≤ x.val) : loadGeometry f = none := by
  unfold loadGeometry
  cases hk : kindOfCode f.kind with
  | none => rfl
  | some k =>
    cases hd : depthField f.depth with
    | none => rfl
    | some d =>
      have kind : ¬ 1 < f.kind := fun h => by rw [kindOfCode_eq_none h] at hk; cases hk
      have depth : ¬ (f.depth = 0 ∨ 2 < f.depth) := fun h => by rw [depthField_eq_none h] at hd; cases hd
      refine if_neg fun ⟨h1, h2, h3, h4, h5, h6, h7, h8⟩ => ?_
      have table : ¬ ∃ x ∈ f.classTable, f.classCount ≤ x.val := fun ⟨x, hx, hle⟩ => by
        have := List.all_eq_true.mp h8 x hx
        simp only [decide_eq_true_eq] at this
        omega
      simp only [table, or_false] at h
      omega

/-- Limits in use that do not rise, or an empty weight range (R1 check 3). -/
theorem not_consistent {o : Operating} (h0 : o.classCount ≤ 4)
    (h : (2 ≤ o.classCount ∧ o.limit1 ≤ o.limit0) ∨ (3 ≤ o.classCount ∧ o.limit2 ≤ o.limit1)
      ∨ (4 ≤ o.classCount ∧ o.limit3 ≤ o.limit2) ∨ o.weightMax < o.weightMin) : o.consistent = false := by
  unfold Operating.consistent Operating.limits
  generalize o.classCount = n at h0 h
  interval_cases n <;> simp [increasing] <;> omega

theorem loadProfile_unread (h : decodeLoadProfile p = none) : s.loadProfile l p = s.refuse .badField := by
  rw [State.loadProfile, h, State.withField_none]

/-- A load of unsound fields is refused before any other check. -/
theorem loadProfile_unsound (hf : decodeLoadProfile p = some f)
    (h : 7 < f.aisle ∨ loadGeometry f = none ∨ (loadOperating f).clamped.consistent = false) :
    s.loadProfile l p = s.refuse .badField := by
  rw [State.loadProfile, hf, State.withField_some]
  cases ha : aisleOf f.aisle with
  | none => rfl
  | some a =>
    rw [State.withField_some]
    cases hg : loadGeometry f with
    | none => rfl
    | some g =>
      have small : ¬ 7 < f.aisle := fun big => by rw [aisleOf_eq_none.mpr big] at ha; cases ha
      have consistent : (loadOperating f).clamped.consistent = false := by
        rcases h with h | h | h
        · exact absurd h small
        · rw [hg] at h; cases h
        · exact h
      rw [State.withField_some, if_neg (by simp [consistent])]

/-! ## The path and the refusals of a geometry load -/

theorem takesGeometryPath_of_ne (h : ∀ q, s.profile? a = some q → q.geo ≠ g) : s.takesGeometryPath a g = true := by
  unfold State.takesGeometryPath
  cases hq : s.profile? a with
  | none => rfl
  | some q => exact decide_eq_true (h q hq)

/-- The conditions of R3 that refuse a geometry load. -/
theorem geometryBusy_iff : s.geometryBusy a g = true ↔ (∃ j ∈ s.jobs, a ≤ j.aisle)
    ∨ (∃ b c, a ≤ b ∧ c ∈ s.cranesOf b ∧ (s.crane c).state ∉ [CraneState.absent, .idle, .outOfService, .parked])
    ∨ (g.kind = .single ∧ s.craneAt a .rear ≠ none) := by
  have quiet : ∀ x : CraneState, (!x.quiet) = true ↔ x ∉ [CraneState.absent, .idle, .outOfService, .parked] := fun x => by
    rw [← CraneState.quiet_iff, Bool.not_eq_true', Bool.not_eq_true]
  simp only [State.geometryBusy, Bool.or_eq_true, List.any_eq_true, mem_aislesFrom, quiet, Bool.and_eq_true, decide_eq_true_eq,
    Option.isSome_iff_ne_none]
  constructor
  · rintro (⟨b, hb, ⟨j, hj, rfl⟩ | ⟨c, hc, hx⟩⟩ | h)
    · exact .inl ⟨j, hj, hb⟩
    · exact .inr (.inl ⟨b, c, hb, hc, hx⟩)
    · exact .inr (.inr h)
  · rintro (⟨j, hj, hb⟩ | ⟨b, c, hb, hc, hx⟩ | h)
    · exact .inl ⟨_, hb, .inl ⟨j, hj, rfl⟩⟩
    · exact .inl ⟨b, hb, .inr ⟨c, hc, hx⟩⟩
    · exact .inr h

theorem geometryFree (hj : ∀ j ∈ s.jobs, j.aisle < a)
    (hq : ∀ b c, a ≤ b → c ∈ s.cranesOf b → (s.crane c).state ∈ [CraneState.absent, .idle, .outOfService, .parked])
    (hr : g.kind = .tandem ∨ s.craneAt a .rear = none) : s.geometryBusy a g = false := by
  rw [← Bool.not_eq_true, geometryBusy_iff]
  rintro (⟨j, live, above⟩ | ⟨b, c, above, own, busy⟩ | ⟨single, rear⟩)
  · exact absurd (hj j live) (not_lt.mpr above)
  · exact busy (hq b c above own)
  · rcases hr with tandem | none
    · rw [single] at tandem
      cases tandem
    · exact rear none

/-- A load of sound fields with a geometry of its own. -/
theorem loadProfile_geometry (hf : decodeLoadProfile p = some f) (ha : f.aisle = a.val) (hg : loadGeometry f = some g)
    (hc : (loadOperating f).clamped.consistent = true) (hn : ∀ q, s.profile? a = some q → q.geo ≠ g) :
    s.loadProfile l p =
      if s.geometryBusy a g then s.refuse .busy
      else if 32768 < s.totalCells a g then s.refuse .tooLarge
      else (s.geometryLoad l a { geo := g, op := (loadOperating f).clamped }).okClamped
        (decide ((loadOperating f).clamped ≠ loadOperating f)) (.profileLoaded true true (some
          ((s.geometryLoad l a { geo := g, op := (loadOperating f).clamped }).base a, g.cellCount))) := by
  rw [loadProfile_read s hf ha hg hc, State.applyLoad, if_pos (takesGeometryPath_of_ne hn)]
  rfl

/-! ## The load itself -/

/-- The state in which a geometry load rebuilds the rail tables: the aisles re-laid and PROFILE_APPLIED offered. -/
def State.laid (s : State) (l : OrderLink) (a : AisleId) (q : Profile) : State :=
  (s.relay a q).offerNotice l (.profileApplied a)

section Laid

variable (s : State) (l : OrderLink) (a : AisleId) (q : Profile)

theorem laid_aisle (b : AisleId) : (s.laid l a q).aisle b =
    if b = a then { profile := some q, pendingProfile := none, cells := [] }
    else if a ≤ b then { s.aisle b with cells := [] } else s.aisle b := by
  rw [State.laid, State.offerNotice_eq]
  exact State.relay_aisle s a q b

/-- Beside the Cell Map a load's re-laying touches the queues alone. -/
theorem laid_eq : s.laid l a q = { s with cmp := (s.relay a q).cmp, liu := (s.offerNotice l (.profileApplied a)).liu } := by
  have same : s.relay a q = { s with cmp := (s.relay a q).cmp } :=
    State.relay_others (fun u => { u with cmp := (s.relay a q).cmp }) (fun _ _ _ => rfl) s a q
  have room : (s.relay a q).liu = s.liu := by rw [same]
  have links : ((s.relay a q).offerNotice l (.profileApplied a)).liu = (s.offerNotice l (.profileApplied a)).liu := by
    unfold State.offerNotice
    rw [show (s.relay a q).hasRoom l = s.hasRoom l by unfold State.hasRoom State.queue; rw [room]]
    split
    · unfold State.setQueue State.queue
      rw [room]
    · exact room
  rw [State.laid, State.offerNotice_eq, links]
  exact congrArg (fun u : State => { u with liu := (s.offerNotice l (.profileApplied a)).liu }) same

theorem laid_profile (b : AisleId) : (s.laid l a q).profile? b = if b = a then some q else s.profile? b := by
  unfold State.profile?
  rw [laid_aisle]
  repeat' split
  all_goals rfl

theorem laid_queue (m : OrderLink) : (s.laid l a q).queue m =
    if m = l ∧ (s.queue l).length < 32 then s.queue l ++ [.profileApplied a] else s.queue m := by
  rw [← State.offerNotice_queue, laid_eq]
  rfl

/-- The tables rebuilt behind it. -/
theorem laid_relaid : Relaid (aislesFrom a) (s.laid l a q) ((s.laid l a q).each (aislesFrom a) State.rebuildRail) :=
  .each _ (aislesFrom_nodup a) _

end Laid

/-! ## The stations and the hold -/

/-- The rear stations of an aisle made SINGLE lose their record and their free count (R7). -/
theorem dropRearStations_input (s : State) (a b : AisleId) (e : End) : (s.dropRearStations a).input b e =
    if b = a ∧ e = .rear ∧ s.isTandem a = false then .empty else s.input b e := by
  unfold State.dropRearStations
  cases s.isTandem a with
  | true => simp
  | false =>
    refine (State.setInput_input s a b .rear e .empty).trans ?_
    simp

theorem dropRearStations_credit (s : State) (a b : AisleId) (e : End) : (s.dropRearStations a).credit b e =
    if b = a ∧ e = .rear ∧ s.isTandem a = false then { s.credit a .rear with reportedFree := 0 } else s.credit b e := by
  unfold State.dropRearStations
  cases s.isTandem a with
  | true => simp
  | false =>
    refine (State.setCredit_credit (s.setInput a .rear .empty) a b .rear e _).trans ?_
    simp

section Load

variable {q : Profile}

/-- The state in which the hold is configured: tables rebuilt and rear stations dropped. -/
def State.rebuilt (s : State) (l : OrderLink) (a : AisleId) (q : Profile) : State :=
  ((s.laid l a q).each (aislesFrom a) State.rebuildRail).dropRearStations a

theorem rebuilt_frame (s : State) (l : OrderLink) (a : AisleId) (q : Profile) :
    Frame (.input :: .credit :: .rail :: .events :: Part.cranes) (s.laid l a q) (s.rebuilt l a q) :=
  ((laid_relaid s l a q).frame.mono (by simp)).dropRearStations a (by simp)

theorem rebuilt_crane (s : State) (l : OrderLink) (a : AisleId) (q : Profile) (c : CraneId) :
    (s.rebuilt l a q).crane c = ((s.laid l a q).each (aislesFrom a) State.rebuildRail).crane c :=
  ((Frame.refl [.input, .credit] _).dropRearStations a (by simp)).crane c (by simp)

theorem laid_crane (s : State) (l : OrderLink) (a : AisleId) (q : Profile) (c : CraneId) :
    (s.laid l a q).crane c = s.crane c := by
  rw [laid_eq]
  rfl

theorem rebuilt_mapping (s : State) (l : OrderLink) (a : AisleId) (q : Profile) (c : CraneId) :
    ((s.rebuilt l a q).crane c).mapping = (s.crane c).mapping := by
  rw [rebuilt_crane, (laid_relaid s l a q).mapping, laid_crane]

theorem laid_cranesOf (s : State) (l : OrderLink) (a : AisleId) (q : Profile) (b : AisleId) :
    (s.laid l a q).cranesOf b = s.cranesOf b := State.cranesOf_congr (fun d => by rw [laid_crane]) b

/-- A crane of an aisle that a geometry load re-lays, before the hold is configured. -/
theorem rebuilt_checked {x : Profile} (hb : a ≤ b) (hx : (s.laid l a q).profile? b = some x) (hc : c ∈ s.cranesOf b) :
    (s.rebuilt l a q).crane c = (s.crane c).checked x.geo := by
  rw [rebuilt_crane, (laid_relaid s l a q).crane b c (by rwa [laid_cranesOf])]
  simp [State.relaidCrane, mem_aislesFrom, hb, hx, laid_crane]

/-- A crane of an aisle below. -/
theorem rebuilt_below (hb : b < a) (hc : c ∈ s.cranesOf b) : (s.rebuilt l a q).crane c = s.crane c := by
  rw [rebuilt_crane, (laid_relaid s l a q).crane b c (by rwa [laid_cranesOf])]
  simp [State.relaidCrane, mem_aislesFrom, not_le.mpr hb, laid_crane]

theorem rebuilt_rail (s : State) (l : OrderLink) (a : AisleId) (q : Profile) (b : AisleId) :
    (s.rebuilt l a q).rail b = (s.laid l a q).relaidTable (aislesFrom a) b := by
  rw [← (laid_relaid s l a q).rail]
  exact ((Frame.refl [.input, .credit] _).dropRearStations a (by simp)).rail (by simp) b

variable (hq : ∀ b c, a ≤ b → c ∈ s.cranesOf b → (s.crane c).state ∈ [CraneState.absent, .idle, .outOfService, .parked])

include hq in
/-- The hold's first state drains the cranes of the aisle or none of them. -/
theorem geometryLoad_drained : ∃ cs, (cs = [] ∨ cs = s.cranesOf a) ∧ Drained cs a (s.rebuilt l a q) (s.geometryLoad l a q) := by
  have cranes : (s.rebuilt l a q).cranesOf a = s.cranesOf a := State.cranesOf_congr (rebuilt_mapping s l a q) a
  have state : ∀ c, ((s.rebuilt l a q).crane c).state = (s.crane c).state := fun c => by
    rw [rebuilt_crane, (laid_relaid s l a q).state, laid_crane]
  have quiet : ∀ c ∈ (s.rebuilt l a q).cranesOf a, ((s.rebuilt l a q).crane c).state.quiet = true := fun c hc => by
    rw [state, CraneState.quiet_iff]
    exact hq a c le_rfl (cranes ▸ hc)
  obtain ⟨cs, which, drained⟩ := configureHold_drained quiet
  exact ⟨cs, by rwa [cranes] at which, drained⟩

theorem Crane.drained_place (x : Crane) (n : Nat) : (x.drained n).bay = x.bay ∧ (x.drained n).level = x.level
    ∧ (x.drained n).known = x.known ∧ (x.drained n).mapping = x.mapping := by
  unfold Crane.drained Crane.sentPark
  repeat' split
  all_goals exact ⟨rfl, rfl, rfl, rfl⟩

theorem Crane.drained_parking {x : Crane} (h : x.state ≠ .parking) (n : Nat) :
    (x.drained n).state = .parking ↔ x.parks = true := by
  unfold Crane.drained Crane.sentPark Crane.parks
  by_cases hi : x.state = .idle
  · cases hl : x.leaveService <;> simp [hi]
  · simp [hi, h]

variable {cs : List CraneId} (which : cs = [] ∨ cs = s.cranesOf a)
  (hd : Drained cs a (s.rebuilt l a q) (s.geometryLoad l a q))

include hq hd in
/-- A crane of a re-laid aisle keeps its position, known where the geometry holds it, and goes to PARKING where the drain
sends it PARK. -/
theorem geometryLoad_crane {x : Profile} (hb : a ≤ b) (hx : (s.laid l a q).profile? b = some x) (hc : c ∈ s.cranesOf b) :
    ((s.geometryLoad l a q).crane c).bay = (s.crane c).bay ∧ ((s.geometryLoad l a q).crane c).level = (s.crane c).level
      ∧ ((s.geometryLoad l a q).crane c).known = ((s.crane c).checked x.geo).known
      ∧ (((s.geometryLoad l a q).crane c).state = .parking ↔ c ∈ cs ∧ (s.crane c).parks = true) := by
  have checked := rebuilt_checked (q := q) (l := l) hb hx hc
  have awake : (s.crane c).state ≠ .parking := fun h => by
    have := hq b c hb hc
    rw [h] at this
    simp at this
  rw [hd.crane c, checked]
  by_cases hm : c ∈ cs
  · rw [if_pos hm]
    obtain ⟨bay, level, known, -⟩ := ((s.crane c).checked x.geo).drained_place
      ((s.rebuilt l a q).now + (s.rebuilt l a q).crt.tPark)
    refine ⟨bay, level, known, ?_⟩
    rw [Crane.drained_parking (x := (s.crane c).checked x.geo) awake]
    exact ⟨fun h => ⟨hm, h⟩, fun h => h.2⟩
  · rw [if_neg hm]
    exact ⟨rfl, rfl, rfl, fun h => absurd h awake, fun h => absurd h.1 hm⟩

include which hd in
theorem geometryLoad_below (hb : b < a) (hc : c ∈ s.cranesOf b) : (s.geometryLoad l a q).crane c = s.crane c := by
  have out : c ∉ cs := by
    rcases which with rfl | rfl
    · simp
    · exact fun h => absurd (State.aisle_of_cranesOf hc h) (ne_of_lt hb)
  rw [hd.crane c, if_neg out, rebuilt_below hb hc]

theorem rail_of_entries {x y : RailEntry} (hf : t.roleEntry b .front = some x) (hr : t.roleEntry b .rear = some y) :
    t.rail b = some { front := x, rear := y } := by
  obtain ⟨r, h, rfl⟩ := Option.map_eq_some_iff.mp hf
  obtain ⟨r', h', rfl⟩ := Option.map_eq_some_iff.mp hr
  cases h.symm.trans h'
  exact h

theorem rail_of_no_entry (h : t.roleEntry b .front = none) : t.rail b = none := Option.map_eq_none_iff.mp h

theorem rail_of_roleEntry (h : ∀ e, t.roleEntry b e = s.roleEntry b e) : t.rail b = s.rail b := by
  cases hs : s.rail b with
  | none => exact rail_of_no_entry ((h .front).trans (by rw [State.roleEntry, hs]; rfl))
  | some r =>
    have entries : ∀ e, t.roleEntry b e = some (r.get e) := fun e => (h e).trans (by rw [State.roleEntry, hs]; rfl)
    exact rail_of_entries (entries .front) (entries .rear)

theorem laid_rail (s : State) (l : OrderLink) (a : AisleId) (q : Profile) (b : AisleId) :
    (s.laid l a q).rail b = s.rail b := by
  rw [laid_eq]
  rfl

include hd in
theorem geometryLoad_rail_below (hb : b < a) : (s.geometryLoad l a q).rail b = s.rail b := by
  refine rail_of_roleEntry fun e => ?_
  rw [hd.rail b e, if_neg fun h => absurd h.1 (ne_of_lt hb), State.roleEntry, rebuilt_rail, State.relaidTable,
    if_neg (by simp [mem_aislesFrom, hb]), laid_rail]
  rfl

include which hd in
/-- A role's crane is sent PARK where it goes to PARKING. -/
theorem rebuilt_parksRole (e : End) (hx : ∃ x, (s.laid l a q).profile? a = some x) :
    (s.rebuilt l a q).parksRole cs a e = true ↔ ∃ c, s.craneAt a e = some c ∧ c ∈ cs ∧ (s.crane c).parks = true := by
  obtain ⟨x, hx⟩ := hx
  have member : ∀ c ∈ cs, c ∈ s.cranesOf a := fun c hc => by
    rcases which with rfl | rfl
    · simp at hc
    · exact hc
  have parks : ∀ c ∈ cs, ((s.rebuilt l a q).crane c).parks = (s.crane c).parks := fun c hc => by
    rw [rebuilt_checked le_rfl hx (member c hc)]
    rfl
  rw [State.parksRole_iff]
  constructor
  · rintro ⟨c, hc, mapped, h⟩
    obtain ⟨e', at'⟩ := State.mem_cranesOf.mp (member c hc)
    rw [rebuilt_mapping, State.craneAt_mapping at'] at mapped
    cases mapped
    exact ⟨c, at', hc, by rwa [parks c hc] at h⟩
  · rintro ⟨c, at', hc, h⟩
    exact ⟨c, hc, by rw [rebuilt_mapping]; exact State.craneAt_mapping at', by rwa [parks c hc]⟩

include hq which hd in
/-- The entries of a re-laid aisle: rebuilt, and widened to the park end where the crane is sent PARK. -/
theorem geometryLoad_entry {x : Profile} (hb : a ≤ b) (hx : (s.laid l a q).profile? b = some x) (e : End) :
    (s.geometryLoad l a q).roleEntry b e = if x.geo.kind = .tandem then
      some (if (s.craneAt b e).any fun c => decide (((s.geometryLoad l a q).crane c).state = .parking) then
        (RailEntry.at (s.relaidBay x.geo b e)).widened (x.geo.parkEnd e)
      else .at (s.relaidBay x.geo b e)) else none := by
  have built : (s.rebuilt l a q).roleEntry b e =
      if x.geo.kind = .tandem then some (.at (s.relaidBay x.geo b e)) else none := by
    have bay : ∀ e, (s.laid l a q).relaidBay x.geo b e = s.relaidBay x.geo b e := fun e =>
      relaidBay_congr (fun d => by rw [laid_crane]) fun d _ => laid_crane s l a q d
    rw [State.roleEntry, rebuilt_rail, State.relaidTable, if_pos (mem_aislesFrom.mpr hb), hx, Option.elim_some,
      State.relaidRail, bay, bay]
    split
    · cases e <;> rfl
    · rfl
  have parked : ((s.craneAt b e).any fun c => decide (((s.geometryLoad l a q).crane c).state = .parking)) = true
      ↔ b = a ∧ (s.rebuilt l a q).parksRole cs a e = true := by
    rw [Option.any_eq_true]
    constructor
    · rintro ⟨c, at', h⟩
      have own := State.mem_cranesOf.mpr ⟨e, at'⟩
      obtain ⟨-, -, -, parks⟩ := geometryLoad_crane hq hd hb hx own
      obtain ⟨hc, hp⟩ := parks.mp (of_decide_eq_true h)
      have same : b = a := by
        rcases which with rfl | rfl
        · cases hc
        · exact State.aisle_of_cranesOf own hc
      subst same
      exact ⟨rfl, (rebuilt_parksRole which hd e ⟨x, hx⟩).mpr ⟨c, at', hc, hp⟩⟩
    · rintro ⟨rfl, h⟩
      obtain ⟨c, at', hc, hp⟩ := (rebuilt_parksRole which hd e ⟨x, hx⟩).mp h
      obtain ⟨-, -, -, parks⟩ := geometryLoad_crane hq hd hb hx (State.mem_cranesOf.mpr ⟨e, at'⟩)
      exact ⟨c, at', decide_eq_true (parks.mpr ⟨hc, hp⟩)⟩
  rw [hd.rail b e]
  by_cases hp : ((s.craneAt b e).any fun c => decide (((s.geometryLoad l a q).crane c).state = .parking)) = true
  · obtain ⟨rfl, hr⟩ := parked.mp hp
    have park : (s.rebuilt l b q).parkEnd b e = x.geo.parkEnd e := by
      rw [State.parkEnd, (rebuilt_frame s l b q).profile? (by simp), hx]
    rw [if_pos ⟨rfl, hr⟩, built, park]
    simp only [hp, if_true]
    split <;> rfl
  · rw [if_neg fun h => hp (parked.mpr h), built]
    simp only [hp, if_false, Bool.false_eq_true]

include hq which hd in
/-- The table of a re-laid TANDEM aisle (R7, R111). -/
theorem geometryLoad_tandem {x : Profile} (hb : a ≤ b) (hx : (s.laid l a q).profile? b = some x) (hk : x.geo.kind = .tandem) :
    ∃ r : PerEnd RailEntry, (s.geometryLoad l a q).rail b = some r
      ∧ (∀ e, r.get e = if (s.craneAt b e).any fun c => decide (((s.geometryLoad l a q).crane c).state = .parking) then
          (RailEntry.at (s.relaidBay x.geo b e)).widened (x.geo.parkEnd e)
        else .at (s.relaidBay x.geo b e))
      ∧ ((∀ c ∈ s.cranesOf b, ((s.geometryLoad l a q).crane c).state ≠ .parking) →
          keepsGap x.op.gap .front r.front.granted r.rear.granted = false →
          .faultReport { kind := .railBreach, source := .internal, aisle := some b, job := none, payload := [] }
            ∈ (s.geometryLoad l a q).events) := by
  have entry := fun e => (geometryLoad_entry hq which hd hb hx e).trans (if_pos hk)
  refine ⟨_, rail_of_entries (entry .front) (entry .rear), fun e => ?_, fun still gap => ?_⟩
  · cases e <;> rfl
  · have none : ∀ e, ((s.craneAt b e).any fun c => decide (((s.geometryLoad l a q).crane c).state = .parking)) = false :=
      fun e => by
        rw [Option.any_eq_false]
        exact fun c at' => decide_eq_false (still c (State.mem_cranesOf.mpr ⟨e, at'⟩))
    have bay : ∀ e, (s.laid l a q).relaidBay x.geo b e = s.relaidBay x.geo b e := fun e =>
      relaidBay_congr (fun d => by rw [laid_crane]) fun d _ => laid_crane s l a q d
    have table : (s.laid l a q).relaidRail x.geo b =
        some { front := .at (s.relaidBay x.geo b .front), rear := .at (s.relaidBay x.geo b .rear) } := by
      rw [State.relaidRail, if_pos hk, bay, bay]
    simp only [none, Bool.false_eq_true, if_false] at gap
    have raised := (laid_relaid s l a q).breach b (mem_aislesFrom.mpr hb) x hx _ table gap
    have dropped : EventsStand ((s.laid l a q).each (aislesFrom a) State.rebuildRail) (s.rebuilt l a q) :=
      .of_eq (((Frame.refl [.input, .credit] _).dropRearStations a (by simp)) .events (by simp))
    exact hd.stand _ (dropped _ raised rfl) rfl

include hq which hd in
theorem geometryLoad_single {x : Profile} (hb : a ≤ b) (hx : (s.laid l a q).profile? b = some x) (hk : x.geo.kind = .single) :
    (s.geometryLoad l a q).rail b = none :=
  rail_of_no_entry ((geometryLoad_entry hq which hd hb hx .front).trans (if_neg (by rw [hk]; decide)))

include hd in
/-- Behind the re-laying a geometry load leaves the Cell Map, the Job Pool and the Fault Log. -/
theorem geometryLoad_frame : Frame (.input :: .credit :: .rail :: .parkOwed :: .holds :: .queue :: .events ::
    (Part.cranes ++ Part.craneTxs)) (s.laid l a q) (s.geometryLoad l a q) :=
  ((rebuilt_frame s l a q).mono (by simp)).trans (hd.frame.mono (by simp))

include hd in
theorem geometryLoad_aisle (b : AisleId) : (s.geometryLoad l a q).aisle b =
    if b = a then { profile := some q, pendingProfile := none, cells := [] }
    else if a ≤ b then { s.aisle b with cells := [] } else s.aisle b := by
  rw [← laid_aisle s l a q]
  simp only [State.aisle, (geometryLoad_frame hd).cmp (by simp) (by simp)]

include hd in
theorem geometryLoad_base : (s.geometryLoad l a q).base a = s.base a := by
  have below : ∀ b < a, (s.geometryLoad l a q).profile? b = s.profile? b := fun b hb => by
    rw [State.profile?, geometryLoad_aisle hd, if_neg (ne_of_lt hb), if_neg (not_le.mpr hb)]
    rfl
  unfold State.base
  refine congrArg List.sum (List.map_congr_left fun b hb => ?_)
  rw [below b (of_decide_eq_true (List.mem_filter.mp hb).2)]

include hd in
theorem geometryLoad_cell {c : CellAddr} (hc : a ≤ c.aisle) :
    (s.geometryLoad l a q).cell c = { state := .unknown, conflict := false } := by
  refine State.cell_of_no_cells ?_
  rw [geometryLoad_aisle hd]
  repeat' split
  all_goals rfl

include hd in
theorem geometryLoad_queue (m : OrderLink) : ∃ more, (s.geometryLoad l a q).queue m =
    (if m = l ∧ (s.queue l).length < 32 then s.queue l ++ [.profileApplied a] else s.queue m) ++ more := by
  obtain ⟨more, h⟩ := (QueuesGrow.of_frame (rebuilt_frame s l a q) (by simp)).trans hd.queue m
  exact ⟨more, by rw [h, laid_queue]⟩

/-- The stations, as the rebuilding leaves them. -/
theorem rebuilt_stations (b : AisleId) (e : End) :
    (s.rebuilt l a q).input b e = (if b = a ∧ e = .rear ∧ decide (q.geo.kind = .tandem) = false then .empty else s.input b e)
      ∧ (s.rebuilt l a q).credit b e = if b = a ∧ e = .rear ∧ decide (q.geo.kind = .tandem) = false then
          { s.credit a .rear with reportedFree := 0 } else s.credit b e := by
  have frame := (laid_relaid s l a q).frame
  have profile : ((s.laid l a q).each (aislesFrom a) State.rebuildRail).profile? a = some q := by
    rw [frame.profile? (by simp), laid_profile, if_pos rfl]
  have tandem : ((s.laid l a q).each (aislesFrom a) State.rebuildRail).isTandem a = decide (q.geo.kind = .tandem) := by
    rw [State.isTandem, profile]
  have input : ∀ b e, ((s.laid l a q).each (aislesFrom a) State.rebuildRail).input b e = s.input b e := fun b e => by
    rw [frame.input_eq (by simp), laid_eq]
    rfl
  have credit : ∀ b e, ((s.laid l a q).each (aislesFrom a) State.rebuildRail).credit b e = s.credit b e := fun b e => by
    rw [frame.credit_eq (by simp), laid_eq]
    rfl
  rw [State.rebuilt, dropRearStations_input, dropRearStations_credit, tandem, input, credit, credit]
  exact ⟨rfl, rfl⟩

include hd in
theorem geometryLoad_stations (b : AisleId) (e : End) :
    (s.geometryLoad l a q).input b e = (s.rebuilt l a q).input b e
      ∧ (s.geometryLoad l a q).credit b e = (s.rebuilt l a q).credit b e :=
  ⟨hd.frame.input_eq (by simp) b e, hd.frame.credit_eq (by simp) b e⟩

theorem rebuilt_hold (s : State) (l : OrderLink) (a : AisleId) (q : Profile) (b : AisleId) :
    (s.rebuilt l a q).hold b = s.hold b := by
  rw [(rebuilt_frame s l a q).hold (by simp), laid_eq]
  rfl

theorem geometryLoad_eq (s : State) (l : OrderLink) (a : AisleId) (q : Profile) :
    s.geometryLoad l a q = (s.rebuilt l a q).configureHold a := rfl

/-- An aisle configured before keeps its hold state (R178). -/
theorem geometryLoad_hold_kept (h : (s.hold a).state ≠ .unconfigured) : (s.geometryLoad l a q).hold a = s.hold a := by
  rw [← rebuilt_hold s l a q] at h
  rw [geometryLoad_eq, State.configureHold]
  cases hs : ((s.rebuilt l a q).hold a).state with
  | unconfigured => exact absurd hs h
  | isOpen | draining | held => exact rebuilt_hold s l a q a

/-- A first load in an aisle without a source opens it. -/
theorem geometryLoad_opens (h : (s.hold a).state = .unconfigured) (hx : (s.hold a).sources.any = false) :
    ((s.geometryLoad l a q).hold a).state = .isOpen := by
  rw [← rebuilt_hold s l a q] at h hx
  simp only [geometryLoad_eq, State.configureHold, h, hx, if_false, Bool.false_eq_true]
  exact congrArg AisleHold.state ((State.setHold_hold _ a a _).trans (if_pos rfl))

/-- A first load in an aisle with a source drains it. -/
theorem geometryLoad_drains (h : (s.hold a).state = .unconfigured) (hx : (s.hold a).sources.any = true) :
    s.geometryLoad l a q = (s.rebuilt l a q).drain a := by
  rw [← rebuilt_hold s l a q] at h hx
  simp only [geometryLoad_eq, State.configureHold, h, hx, if_true]

theorem rebuilt_cranesOf (s : State) (l : OrderLink) (a : AisleId) (q : Profile) (b : AisleId) :
    (s.rebuilt l a q).cranesOf b = s.cranesOf b := State.cranesOf_congr (rebuilt_mapping s l a q) b

theorem rebuilt_state (s : State) (l : OrderLink) (a : AisleId) (q : Profile) (c : CraneId) :
    ((s.rebuilt l a q).crane c).state = (s.crane c).state := by
  rw [rebuilt_crane, (laid_relaid s l a q).state, laid_crane]

include hq in
theorem rebuilt_quiet : ∀ c ∈ (s.rebuilt l a q).cranesOf a, ((s.rebuilt l a q).crane c).state.quiet = true := fun c hc => by
  rw [rebuilt_state, CraneState.quiet_iff]
  exact hq a c le_rfl (rebuilt_cranesOf s l a q a ▸ hc)

include hq in
/-- A drained aisle is DRAINING or HELD, and DRAINING while a crane of it parks (R174). -/
theorem geometryLoad_stops (h : (s.hold a).state = .unconfigured) (hx : (s.hold a).sources.any = true) :
    (((s.geometryLoad l a q).hold a).state = .draining ∨ ((s.geometryLoad l a q).hold a).state = .held)
      ∧ ((∃ c ∈ s.cranesOf a, (s.crane c).state = .idle ∧ (s.crane c).leaveService = false) →
          ((s.geometryLoad l a q).hold a).state = .draining) := by
  obtain ⟨drained, state⟩ := drain_quiet (rebuilt_quiet (l := l) (q := q) hq)
  rw [geometryLoad_drains h hx, state]
  refine ⟨by split <;> simp, fun ⟨c, hc, idle, stays⟩ => if_neg fun rest => ?_⟩
  have own : c ∈ (s.rebuilt l a q).cranesOf a := (rebuilt_cranesOf s l a q a).symm ▸ hc
  have profile : (s.laid l a q).profile? a = some q := by rw [laid_profile, if_pos rfl]
  have parking : (((s.rebuilt l a q).drain a).crane c).state = .parking := by
    rw [drained.crane c, if_pos own, rebuilt_checked le_rfl profile hc,
      Crane.drained_parking (x := (s.crane c).checked q.geo) (by simp [Crane.checked, idle])]
    simp [Crane.parks, Crane.checked, idle, stays]
  have still : ((s.rebuilt l a q).drain a).cranesOf a = (s.rebuilt l a q).cranesOf a :=
    State.cranesOf_congr (fun d => by
      rw [drained.crane d]
      split
      · exact ((s.rebuilt l a q).crane d).drained_place _ |>.2.2.2
      · rfl) a
  have resting := List.all_eq_true.mp rest c (still.symm ▸ own)
  rw [parking] at resting
  cases resting

include hq in
/-- A first load that finds every crane at rest goes straight to HELD (R175, R178). -/
theorem geometryLoad_holds (h : (s.hold a).state = .unconfigured) (hx : (s.hold a).sources.any = true)
    (hi : ∀ c ∈ s.cranesOf a, (s.crane c).state ≠ .idle) :
    ((s.geometryLoad l a q).hold a).state = .held ∧ ((s.geometryLoad l a q).hold a).gack = true
      ∧ ∀ m, (s.queue m).length + 2 ≤ 32 → (s.geometryLoad l a q).queue m =
          s.queue m ++ (if m = l then [.profileApplied a] else [])
            ++ (if (s.hold a).sources.link m then [.holdGranted a (s.hold a).sources] else []) := by
  have idle : ∀ c ∈ (s.rebuilt l a q).cranesOf a, ((s.rebuilt l a q).crane c).state ≠ .idle := fun c hc => by
    rw [rebuilt_state]
    exact hi c (rebuilt_cranesOf s l a q a ▸ hc)
  let r := (s.rebuilt l a q).setHoldState a .draining
  have load : s.geometryLoad l a q = r.enterHeld a := by
    rw [geometryLoad_drains h hx, drain_rest (rebuilt_quiet hq) idle]
  have sources : (r.hold a).sources = (s.hold a).sources := by
    rw [show r.hold a = _ from State.setHold_hold _ a a _, if_pos rfl, rebuilt_hold]
  rw [load, enterHeld_hold, if_pos rfl]
  refine ⟨rfl, rfl, fun m room => ?_⟩
  have queue : r.queue m = s.queue m ++ if m = l then [.profileApplied a] else [] := by
    obtain ⟨same, -⟩ := (rebuilt_frame s l a q) .queue (by simp)
    have laid : r.queue m = (s.laid l a q).queue m := congrArg (fun q : PerLink (List Notice) => q.get m) same
    rw [laid, laid_queue]
    by_cases hm : m = l
    · subst hm
      rw [if_pos ⟨rfl, by omega⟩, if_pos rfl]
    · rw [if_neg fun e => hm e.1, if_neg hm, List.append_nil]
  have short : (r.queue m).length < 32 := by
    rw [queue, List.length_append]
    split <;> simp <;> omega
  rw [enterHeld_queue r a m short, sources, queue]

/-- What a geometry load makes of the cranes and of the table of an aisle of profile `x` that it re-lays (R7, R111). -/
structure AisleRelaid (s t : State) (b : AisleId) (x : Profile) : Prop where
  crane : ∀ c ∈ s.cranesOf b, (t.crane c).bay = (s.crane c).bay ∧ (t.crane c).level = (s.crane c).level
    ∧ (t.crane c).known = ((s.crane c).checked x.geo).known
  single : x.geo.kind = .single → t.rail b = none
  tandem : x.geo.kind = .tandem → ∃ r : PerEnd RailEntry, t.rail b = some r
    ∧ (∀ e, r.get e = if (s.craneAt b e).any fun c => decide ((t.crane c).state = .parking) then
        (RailEntry.at (s.relaidBay x.geo b e)).widened (x.geo.parkEnd e)
      else .at (s.relaidBay x.geo b e))
    ∧ ((∀ c ∈ s.cranesOf b, (t.crane c).state ≠ .parking) →
        keepsGap x.op.gap .front r.front.granted r.rear.granted = false →
        .faultReport { kind := .railBreach, source := .internal, aisle := some b, job := none, payload := [] } ∈ t.events)

/-- What a first geometry load makes of the hold of an aisle that has a source set (R178). -/
structure FirstHold (s t : State) (l : OrderLink) (a : AisleId) : Prop where
  stops : (t.hold a).state = .draining ∨ (t.hold a).state = .held
  drains : (∃ c ∈ s.cranesOf a, (s.crane c).state = .idle ∧ (s.crane c).leaveService = false) →
    (t.hold a).state = .draining
  holds : (∀ c ∈ s.cranesOf a, (s.crane c).state ≠ .idle) → (t.hold a).state = .held ∧ (t.hold a).gack = true
    ∧ ∀ m, (s.queue m).length + 2 ≤ 32 → t.queue m = s.queue m ++ (if m = l then [.profileApplied a] else [])
        ++ (if (s.hold a).sources.link m then [.holdGranted a (s.hold a).sources] else [])

/-- What a geometry load makes of the state, block by block. -/
structure GeometryLoaded (s : State) (l : OrderLink) (a : AisleId) (q : Profile) (t : State) : Prop where
  tx : t.tx (.order l) = s.tx (.order l)
  base : t.base a = s.base a
  aisle : ∀ b, t.aisle b = if b = a then { profile := some q, pendingProfile := none, cells := [] }
    else if a ≤ b then { s.aisle b with cells := [] } else s.aisle b
  cell : ∀ c, a ≤ c.aisle → t.cell c = { state := .unknown, conflict := false }
  queue : ∃ more, t.queue l =
    (if (s.queue l).length < 32 then s.queue l ++ [.profileApplied a] else s.queue l) ++ more
  jpl : t.jpl = s.jpl
  flg : t.flg = s.flg
  relaid : ∀ b x, a ≤ b → t.profile? b = some x → AisleRelaid s t b x
  below : ∀ b, b < a → t.rail b = s.rail b ∧ ∀ c ∈ s.cranesOf b, t.crane c = s.crane c
  input : ∀ b e, t.input b e = if b = a ∧ e = .rear ∧ q.geo.kind ≠ .tandem then .empty else s.input b e
  credit : ∀ b e, t.credit b e = if b = a ∧ e = .rear ∧ q.geo.kind ≠ .tandem then
    { s.credit a .rear with reportedFree := 0 } else s.credit b e
  waves : t.swu.waves = s.swu.waves
  hold : ∀ b, b ≠ a → t.hold b = s.hold b
  sources : (t.hold a).sources = (s.hold a).sources
  kept : (s.hold a).state ≠ .unconfigured → t.hold a = s.hold a
  opens : (s.hold a).state = .unconfigured → (s.hold a).sources.any = false → (t.hold a).state = .isOpen
  first : (s.hold a).state = .unconfigured → (s.hold a).sources.any = true → FirstHold s t l a

include hq in
theorem geometryLoad_loaded : GeometryLoaded s l a q (s.geometryLoad l a q) := by
  obtain ⟨cs, which, hd⟩ := geometryLoad_drained (l := l) (q := q) hq
  have frame := geometryLoad_frame hd
  have kind : (decide (q.geo.kind = .tandem) = false) = (q.geo.kind ≠ .tandem) := by simp
  exact {
    tx := by
      rw [frame.tx _ (by simp), laid_eq]
      exact State.offerNotice_tx s l _ _
    base := geometryLoad_base hd
    aisle := geometryLoad_aisle hd
    cell := fun c hc => geometryLoad_cell hd hc
    queue := by simpa only [true_and] using geometryLoad_queue hd l
    jpl := (frame.jpl (by simp) (by simp) (by simp) (by simp)).trans (by rw [laid_eq])
    flg := (frame.flg (by simp)).trans (by rw [laid_eq])
    relaid := fun b x hb hx => by
      rw [frame.profile? (by simp)] at hx
      refine ⟨fun c hc => ?_, geometryLoad_single hq which hd hb hx, geometryLoad_tandem hq which hd hb hx⟩
      obtain ⟨bay, level, known, -⟩ := geometryLoad_crane hq hd hb hx hc
      exact ⟨bay, level, known⟩
    below := fun b hb => ⟨geometryLoad_rail_below hd hb, fun c hc => geometryLoad_below which hd hb hc⟩
    input := fun b e => by simp only [(geometryLoad_stations hd b e).1, rebuilt_stations, kind]
    credit := fun b e => by simp only [(geometryLoad_stations hd b e).2, rebuilt_stations, kind]
    waves := (frame .waves (by simp)).trans (by rw [laid_eq])
    hold := fun b hb => (hd.hold b hb).trans (rebuilt_hold s l a q b)
    sources := hd.sources.trans (congrArg AisleHold.sources (rebuilt_hold s l a q a))
    kept := geometryLoad_hold_kept
    opens := geometryLoad_opens
    first := fun h hx => ⟨(geometryLoad_stops hq h hx).1, (geometryLoad_stops hq h hx).2, geometryLoad_holds hq h hx⟩ }

end Load

/-- An entry that holds an interval, with no claim and no clear. -/
def RailEntry.holding (i : Interval) : RailEntry := { granted := i, claim := none, clear := none }

/-- Settles O27: the checks, the refusals, and the geometry load read block by block. -/
theorem geometryLoadRelaysTheCells : Obligations.GeometryLoadRelaysTheCells := by
  refine ⟨fun s l p hears => ⟨fun h => ?_, fun f o hf ho h => ?_⟩, fun s l p f a g hears hf ha hg hc hn => ⟨fun h => ?_,
    fun hj hq hrear => ⟨fun h => ?_, fun h => ?_⟩⟩⟩
  · exact exec_refuse rfl hears (loadProfile_unread (decodeLoadProfile_eq_none h))
  · refine exec_refuse rfl hears (loadProfile_unsound hf ?_)
    by_cases aisle : 7 < f.aisle
    · exact .inl aisle
    by_cases geometry : loadGeometry f = none
    · exact .inr (.inl geometry)
    have fields : ¬ (1 < f.kind ∨ f.bays = 0 ∨ 120 < f.bays ∨ f.depth = 0 ∨ 2 < f.depth ∨ f.classCount = 0
        ∨ 4 < f.classCount ∨ ∃ x ∈ f.classTable, f.classCount ≤ x.val) := fun h => geometry (loadGeometry_eq_none h)
    have count : o.classCount = f.classCount := by rw [ho]; rfl
    refine .inr (.inr (ho ▸ not_consistent (by omega) ?_))
    simp only [not_or] at fields
    rw [count]
    simpa only [aisle, fields, false_or] using h
  · let r := s.heard (.loadProfile l p) (.order l)
    have busy : r.geometryBusy a g = true := geometryBusy_iff.mpr h
    exact exec_refuse rfl hears ((loadProfile_geometry (s := r) hf ha hg hc hn).trans (if_pos busy))
  · let r := s.heard (.loadProfile l p) (.order l)
    have free : r.geometryBusy a g = false := geometryFree hj hq hrear
    have large : 32768 < r.totalCells a g := h
    exact exec_refuse rfl hears ((loadProfile_geometry (s := r) hf ha hg hc hn).trans
      ((if_neg (by simp [free])).trans (if_pos large)))
  · let r := s.heard (.loadProfile l p) (.order l)
    let q : Profile := { geo := g, op := (loadOperating f).clamped }
    have free : r.geometryBusy a g = false := geometryFree hj hq hrear
    have fits : ¬ 32768 < r.totalCells a g := not_lt.mpr h
    have quiet : ∀ b c, a ≤ b → c ∈ r.cranesOf b →
        (r.crane c).state ∈ [CraneState.absent, .idle, .outOfService, .parked] := hq
    have load := (loadProfile_geometry (s := r) (l := l) hf ha hg hc hn).trans
      ((if_neg (by simp [free])).trans (if_neg fits))
    have loaded := geometryLoad_loaded (s := r) (l := l) (q := q) quiet
    generalize r.geometryLoad l a q = u at load loaded
    refine ⟨_, u.base a, exec_done rfl hears load loaded.tx, ?_, loaded.base, ?_, ?_, loaded.cell, ?_, ?_, loaded.queue,
      loaded.jpl, loaded.flg, ?_, loaded.below, ?_, ?_, loaded.waves, loaded.hold, loaded.sources, loaded.kept, ?_⟩
    · exact (State.setTx_tx ..).trans ((if_pos rfl).trans (congrArg (· ++ _) loaded.tx))
    · exact congrArg Aisle.profile ((loaded.aisle a).trans (if_pos rfl))
    · exact congrArg Aisle.pendingProfile ((loaded.aisle a).trans (if_pos rfl))
    · intro b hb
      have aisle := congrArg Aisle.profile (loaded.aisle b)
      rw [if_neg (ne_of_gt hb), if_pos (le_of_lt hb)] at aisle
      exact aisle
    · intro b hb
      have aisle := loaded.aisle b
      rw [if_neg (ne_of_lt hb), if_neg (not_le.mpr hb)] at aisle
      exact aisle
    · intro b x hb hx
      obtain ⟨crane, single, tandem⟩ := loaded.relaid b x hb hx
      refine ⟨crane, single, fun hk => ?_⟩
      obtain ⟨table, rail, entry, breach⟩ := tandem hk
      refine ⟨table, rail, fun e y hy => ?_, breach⟩
      have bay : r.relaidBay x.geo b e = y := by
        rw [hy]
        unfold State.relaidBay
        cases at' : r.craneAt b e with
        | none => simp only [show s.craneAt b e = none from at', Option.elim_none]
        | some c =>
          obtain ⟨-, -, known⟩ := crane c (State.mem_cranesOf.mpr ⟨e, at'⟩)
          simp only [show s.craneAt b e = some c from at', Option.elim_some, ← known]
          rfl
      rw [entry e, bay]
      split
      · next parked => exact (congrArg RailEntry.holding (if_pos parked)).symm
      · next stays => exact (congrArg RailEntry.holding (if_neg stays)).symm
    · intro _ single
      have dropped : a = a ∧ End.rear = .rear ∧ q.geo.kind ≠ .tandem := ⟨rfl, rfl, by rw [show q.geo.kind = _ from single]; decide⟩
      exact ⟨(loaded.input a .rear).trans (if_pos dropped), (loaded.credit a .rear).trans (if_pos dropped)⟩
    · intro b e other
      have stays : ¬ (b = a ∧ e = .rear ∧ q.geo.kind ≠ .tandem) := fun ⟨same, rear, kind⟩ => by
        subst rear
        exact other.elim (· same) fun h => h.elim (by simp) kind
      exact ⟨(loaded.input b e).trans (if_neg stays), (loaded.credit b e).trans (if_neg stays)⟩
    · exact fun fresh => ⟨loaded.opens fresh, fun set => (loaded.first fresh set).stops,
        fun set => (loaded.first fresh set).drains, fun set => (loaded.first fresh set).holds⟩

end Sys2Proof.Machine
end
section
/-! The interval of one crane that falls, falls again and is widened within one event (R113 to R115). -/

namespace Sys2Proof.Machine

variable {s t u : State} {c : CraneId} {a : AisleId} {e : End}

/-- An interval that falls, and then falls again and is widened. -/
theorem IntervalMoves.comp {f g w : Interval → Interval} (h : IntervalMoves s t a e f id) (k : IntervalMoves t u a e g w)
    (hm : ∀ d, (t.crane d).mapping = (s.crane d).mapping)
    (hs : ∀ d ∈ s.cranesOf a, (s.crane d).state = .waiting → (t.crane d).state = .waiting) (he : EventsStand t u) :
    IntervalMoves s u a e (fun i => g (f i)) w := by
  obtain ⟨own, none, others⟩ := h
  obtain ⟨own', none', others'⟩ := k
  refine ⟨fun r hr => ?_, fun hr => none' (none hr), fun b hb => (others' b hb).trans (others b hb)⟩
  obtain ⟨first, wakes⟩ := own r hr
  obtain ⟨second, wakes'⟩ := own' _ first
  simp only [PerEnd.get_set, if_true, id] at second wakes'
  refine ⟨?_, fun moved d hd hw => ?_⟩
  · rw [second]
    cases e <;> rfl
  · by_cases same : f (r.get e).granted = (r.get e).granted
    · replace moved : g (f (r.get e).granted) ≠ (r.get e).granted := moved
      rw [same] at moved wakes'
      exact wakes' moved d (State.cranesOf_congr hm a ▸ hd) (hs d hd hw)
    · exact he _ (wakes same d hd hw) rfl

/-- Tables that stand. -/
theorem IntervalMoves.refl (s : State) (a : AisleId) (e : End) : IntervalMoves s s a e id id :=
  ⟨fun r hr => ⟨by rw [hr]; exact congrArg some (PerEnd.set_get r e).symm, fun h => absurd rfl h⟩, fun h => h, fun _ _ => rfl⟩

section Mapped

variable (hm : (s.crane c).mapping = some (a, e))
include hm

theorem entry_mapped : s.entry c = (s.rail a).map (·.get e) := by
  simp only [State.entry, hm]

/-- A crane's own entry rewritten. -/
theorem updOwn_moves (f : Interval → Interval) : IntervalMoves s (s.updOwn c fun r => { r with granted := f r.granted }) a e id f := by
  simp only [State.updOwn, hm, State.updEntry]
  cases hr : s.rail a with
  | none => exact ⟨fun r h => absurd (hr.symm.trans h) (by simp), fun _ => hr, fun _ _ => rfl⟩
  | some r =>
    refine ⟨fun r' h => ⟨?_, fun h => absurd rfl h⟩, fun h => absurd (hr.symm.trans h) (by simp), fun b hb => ?_⟩
    · obtain rfl : r = r' := Option.some.inj (hr.symm.trans h)
      exact (State.setRail_rail s a a _).trans (if_pos rfl)
    · exact (State.setRail_rail s a b _).trans (if_neg hb)

/-- A shrink gives the interval, with the selections it draws (R68, R114). -/
theorem shrink_moves (i : Interval) : IntervalMoves s (s.shrink c i) a e (fun _ => i) id := by
  have granted := updOwn_moves (s := s) hm fun _ => i
  unfold State.shrink
  rw [entry_mapped hm, hm]
  cases hr : s.rail a with
  | none => exact ⟨fun r h => absurd (hr.symm.trans h) (by simp), fun _ => hr, fun _ _ => rfl⟩
  | some r =>
    simp only [Option.map_some]
    by_cases same : (r.get e).granted = i
    · rw [if_pos same]
      refine ⟨fun r' h => ?_, fun h => h, fun _ _ => rfl⟩
      obtain rfl : r = r' := Option.some.inj (hr.symm.trans h)
      exact ⟨by rw [hr, id, ← same, PerEnd.set_get], fun h => absurd same.symm h⟩
    · rw [if_neg same]
      obtain ⟨own, -, others⟩ := granted
      refine ⟨fun r' h => ⟨(own r' h).1, fun _ d hd hw => ?_⟩, fun h => absurd (hr.symm.trans h) (by simp), others⟩
      have frame : Frame [.rail] s (s.grant c i) := (Frame.refl _ s).grant c i (by simp)
      have wakes : (s.grant c i).wakes a = s.wakes a := by
        simp only [State.wakes, State.cranesOf, State.craneAt, frame.crane _ (show Part.crane _ ∉ [Part.rail] by simp)]
      rw [State.select_eq]
      exact List.mem_append_right _ (wakes ▸ State.mem_wakes.mpr ⟨hd, hw⟩)

/-- The interval of a crane falls to the hull of its bay and further bays (R115). -/
theorem fall_moves (bs : List Nat) : IntervalMoves s (s.fall c bs) a e (fun i => i.fallen (s.craneBay c) bs) id := by
  have shrunk := shrink_moves hm (hull (s.craneBay c) bs)
  unfold State.fall
  rw [entry_mapped hm]
  cases hr : s.rail a with
  | none => exact ⟨fun r h => absurd (hr.symm.trans h) (by simp), fun _ => hr, fun _ _ => rfl⟩
  | some r =>
    simp only [Option.map_some]
    by_cases inside : (r.get e).granted.holds (s.craneBay c) = true
    · rw [if_pos inside]
      obtain ⟨own, -, others⟩ := shrunk
      refine ⟨fun r' h => ?_, fun h => absurd (hr.symm.trans h) (by simp), others⟩
      obtain rfl : r = r' := Option.some.inj (hr.symm.trans h)
      simp only [Interval.fallen, inside, if_true]
      exact own r h
    · rw [if_neg inside]
      refine ⟨fun r' h => ?_, fun h => h, fun _ _ => rfl⟩
      obtain rfl : r = r' := Option.some.inj (hr.symm.trans h)
      simp only [Interval.fallen, inside, Bool.false_eq_true, if_false]
      exact ⟨by rw [hr]; exact congrArg some (PerEnd.set_get r e).symm, fun h => absurd rfl h⟩

end Mapped

/-! ## What raises events alone, or offers notices behind the old ones -/

theorem select_stand (s : State) (a : AisleId) : EventsStand s (s.select a) := by
  rw [State.select_eq]
  exact .of_append rfl

theorem becameReady_stand (s : State) (j : Job) : EventsStand s (s.becameReady j) := by
  rw [becameReady_eq]
  exact .of_append rfl

theorem updEntry_events (s : State) (a : AisleId) (e : End) (f : RailEntry → RailEntry) :
    (s.updEntry a e f).events = s.events := by
  unfold State.updEntry
  split <;> rfl

theorem updOwn_events (s : State) (c : CraneId) (f : RailEntry → RailEntry) : (s.updOwn c f).events = s.events := by
  unfold State.updOwn
  split
  · exact updEntry_events ..
  · rfl

theorem shrink_stand (s : State) (c : CraneId) (i : Interval) : EventsStand s (s.shrink c i) := by
  unfold State.shrink
  split
  · split
    · exact .refl s
    · exact (EventsStand.of_eq (updOwn_events s c _)).trans (select_stand _ _)
  · exact .refl s

theorem fall_stand (s : State) (c : CraneId) (bs : List Nat) : EventsStand s (s.fall c bs) := by
  unfold State.fall
  split
  · split
    · exact shrink_stand s c _
    · exact .refl s
  · exact .refl s

theorem putCell_events (s : State) (d : CellAddr) (x : Cell) : (s.putCell d x).events = s.events := by
  rw [State.putCell_eq]

theorem recheckCell_stand (s : State) (d : CellAddr) (space : Bool) : EventsStand s (s.recheckCell d space) := by
  rw [recheckCell_eq]
  exact .of_append rfl

theorem put_recheck_stand (s : State) (d : CellAddr) (x : Cell) (space : Bool) :
    EventsStand s ((s.putCell d x).recheckCell d space) :=
  (EventsStand.of_eq (putCell_events s d x)).trans (recheckCell_stand _ d space)

/-- A release empties or refills its reserved cell, or leaves the state as it stands. -/
theorem release_cases (s : State) (d : CellAddr) (h : Handle) : s.release d h = s
    ∨ ∃ x, (s.cell d).state.isReserved = true
      ∧ s.release d h = (s.putCell d { s.cell d with state := x }).recheckCell d true := by
  unfold State.release
  cases (s.cell d).state with
  | inReserved j => exact (em (j = h)).elim (fun e => .inr ⟨.empty, rfl, if_pos e⟩) fun n => .inl (if_neg n)
  | outReserved j k => exact (em (j = h)).elim (fun e => .inr ⟨.full k, rfl, if_pos e⟩) fun n => .inl (if_neg n)
  | unknown | empty | full | blocked => exact .inl rfl

theorem release_stand (s : State) (d : CellAddr) (h : Handle) : EventsStand s (s.release d h) := by
  rcases release_cases s d h with hr | ⟨x, -, hr⟩ <;> rw [hr]
  · exact .refl s
  · exact put_recheck_stand s d _ true

theorem releaseOpt_stand (s : State) (d : Option CellAddr) (h : Handle) : EventsStand s (s.release? d h) := by
  cases d with
  | none => exact .refl s
  | some d => exact release_stand s d h

theorem updJob_events (s : State) (h : Handle) (f : Job → Job) : (s.updJob h f).events = s.events := by
  rw [State.updJob_slots]

theorem dropPartner_events (s : State) (j : Job) : (s.dropPartner j).events = s.events := by
  unfold State.dropPartner
  split
  · exact updJob_events ..
  · rfl

theorem updBound_stand (s : State) (c : CraneId) (j : Job) (f : Credit → Credit) : EventsStand s (s.updBound c j f) := by
  unfold State.updBound
  split
  · unfold State.updCredit
    split
    · exact (EventsStand.of_eq rfl).trans (select_stand _ _)
    · exact .of_eq rfl
  · exact .refl s

theorem raiseFault_stand (s : State) (k : FaultKind) (src : FaultSource) (a : Option AisleId) (j : Option Handle)
    (p : List Byte) : EventsStand s (s.raiseFault k src a j p) := .of_append rfl

theorem offerNotice_events (s : State) (l : OrderLink) (n : Notice) : (s.offerNotice l n).events = s.events := by
  rw [State.offerNotice_eq]

theorem EventsStand.each {α : Type} {f : State → α → State} (xs : List α) (hf : ∀ s x, EventsStand s (f s x)) (s : State) :
    EventsStand s (s.each xs f) := by
  induction xs generalizing s with
  | nil => exact .refl s
  | cons x xs ih => exact (hf s x).trans (ih _)

theorem offerActive_stand (s : State) (n : Notice) : EventsStand s (s.offerActive n) :=
  EventsStand.each _ (fun s l => .of_eq (offerNotice_events s l n)) s

theorem returnToReady_stand (s : State) (c : CraneId) (h : Handle) : EventsStand s (s.returnToReady c h) := by
  unfold State.returnToReady
  cases s.job? h with
  | none => exact .refl s
  | some j =>
    exact ((EventsStand.of_eq (dropPartner_events s j)).trans (.of_eq (updJob_events ..))).trans
      ((releaseOpt_stand _ _ h).trans ((updBound_stand _ c j _).trans (becameReady_stand _ j)))

theorem withdraw_stand (s : State) (c : CraneId) (keep : Nat) : EventsStand s (s.withdraw c keep) := by
  unfold State.withdraw
  split
  · exact .refl s
  · split
    · exact (EventsStand.of_eq rfl).trans (.forget _ rfl)
    · exact .of_eq rfl

end Sys2Proof.Machine
end
section
/-! What a finding reports, whether the cell was found occupied or empty (R100, R101): the crane reaches the cell, the record
is corrected, and the fault and CELL_CONFLICT come. -/

namespace Sys2Proof.Machine

variable {s t : State} {c : CraneId} {a : AisleId} {e : End}

/-- A notice offered to every active order link joins the queues of those with room (R198, R199). -/
theorem offerActive_queue (s : State) (n : Notice) (l : OrderLink) : (s.offerActive n).queue l =
    s.queue l ++ if s.liu.active.get l = true ∧ s.hasRoom l = true then [n] else [] := by
  have member : l ∈ s.activeLinks ↔ s.liu.active.get l = true := by
    rw [State.activeLinks, List.mem_filter]
    cases l <;> simp
  by_cases hm : s.liu.active.get l = true
  · by_cases room : (s.queue l).length < 32
    · rw [if_pos ⟨hm, decide_eq_true room⟩]
      exact each_offerNotice_queue (n := fun _ => n) (fun _ _ _ => rfl) (List.Nodup.filter _ (by decide)) (member.mpr hm) room
    · rw [if_neg fun h => room (of_decide_eq_true h.2), List.append_nil]
      refine List.foldlRecOn (motive := fun t : State => t.queue l = s.queue l) s.activeLinks _ rfl fun t ht m _ => ?_
      rw [State.offerNotice_queue, ht, if_neg fun h => room (by rw [← ht, h.1]; exact h.2)]
  · rw [if_neg fun h => hm h.1, List.append_nil]
    exact each_offerNotice_other (fun h => hm (member.mp h)) s

/-- The report of a finding by a WORKING crane that stands at the cell `d`: the state behind it, with the cell's record `y`
(R100, R101). -/
structure FindingReported (s m : State) (c : CraneId) (a : AisleId) (e : End) (j : Job) (xs : List Step) (d : CellAddr)
    (y : Cell) (f : Finding) (k : FaultKind) (p : List Byte) : Prop where
  frame : Frame [.crane c, .rail, .cells, .queue, .events] s m
  crane : m.crane c = (s.crane c).reached (cellPoint d) (s.configured a)
  map : MapWf m
  cell : m.cell = fun b => if b = d then y else s.cell b
  moves : IntervalMoves s m a e (fun i => i.fallen d.bay (s.stepBays (xs ++ (s.crane c).redirectSteps))) id
  breach : BreachRaised s m c d.bay (some j.handle) p
  fault : s.craneReported k c (some j.handle) p ∈ m.events
  queue : ∀ l, m.queue l = s.queue l ++
    if s.liu.active.get l = true ∧ s.hasRoom l = true then [.cellConflict d f y.state j.handle c] else []

/-- A finding reported at a cell whose record is corrected. -/
theorem findingReported {j : Job} {x : Step} {xs : List Step} {d : CellAddr} {y : Cell} {f : Finding} {k : FaultKind}
    {p : List Byte} (hm : (s.crane c).mapping = some (a, e)) (hs : (s.crane c).state = .working) (hx : x.place = .cell d)
    {found : State → State} (hf : Frame [.cells, .events] (s.reachStep c j x xs p) (found (s.reachStep c j x xs p)))
    (hst : EventsStand (s.reachStep c j x xs p) (found (s.reachStep c j x xs p)))
    (hw : MapWf (found (s.reachStep c j x xs p)))
    (hy : (found (s.reachStep c j x xs p)).cell = fun b => if b = d then y else s.cell b) :
    FindingReported s ((found (s.reachStep c j x xs p)).reportFinding c j d f k p) c a e j xs d y f k p := by
  obtain ⟨crane, moves, breach⟩ := reachStep_reached j x xs p hm hs
  have place : s.placePoint x.place = cellPoint d := by rw [hx]; rfl
  rw [place] at crane moves breach
  have reach : Frame [.crane c, .rail, .events] s (s.reachStep c j x xs p) := (Frame.refl _ s).reachStep c j x xs p (by simp)
  generalize s.reachStep c j x xs p = r at *
  generalize found r = m at *
  have frame : Frame [.crane c, .rail, .cells, .events] s m := (reach.mono (by simp)).trans (hf.mono (by simp))
  have reported : Frame [.queue, .events] m (m.reportFinding c j d f k p) :=
    (Frame.refl _ m).reportFinding c j d f k p (by simp)
  have cell : (m.reportFinding c j d f k p).cell = fun b => if b = d then y else s.cell b := by
    rw [← hy]
    exact State.cell_of_cmp (reported.cmp (by simp) (by simp))
  have stand : EventsStand m (m.reportFinding c j d f k p) := (raiseFault_stand m k _ _ _ p).trans (offerActive_stand _ _)
  have own : m.crane c = r.crane c := hf.crane c (by simp)
  have fault : m.raiseFault k (.link (.crane c)) (m.craneAisle c) (some j.handle) p
      = m.raise (s.craneReported k c (some j.handle) p) := by
    have aisle : m.craneAisle c = s.craneAisle c := by
      simp only [State.craneAisle, own, crane, Crane.reached]
    rw [aisle]
    rfl
  refine {
    frame := (frame.mono (by simp)).trans (reported.mono (by simp))
    crane := (reported.crane c (by simp)).trans (own.trans crane)
    map := mapWf_of_cmp (reported.cmp (by simp) (by simp)) hw
    cell := cell
    moves := moves.later ((hf .rail (by simp)).symm ▸ (reported .rail (by simp))) (hst.trans stand)
    breach := breach.later (hst.trans stand)
    fault := ?_
    queue := fun l => ?_ }
  · refine offerActive_stand _ _ _ ?_ rfl
    rw [fault]
    exact List.mem_append_right _ (List.mem_singleton_self _)
  · have links : m.liu.active = s.liu.active ∧ m.queue l = s.queue l := by
      obtain ⟨-, -, -, liu, -⟩ := frame .rest (by simp)
      exact ⟨by rw [liu], congrArg (fun q : PerLink (List Notice) => q.get l) (frame .queue (by simp)).1⟩
    obtain ⟨active, queue⟩ := links
    have record : (m.cell d).state = y.state := by simp only [hy, if_true]
    rw [State.reportFinding, fault]
    refine (offerActive_queue (m.raise _) _ l).trans ?_
    show m.queue l ++ (if m.liu.active.get l = true ∧ decide ((m.queue l).length < Config.queueCapacity) = true
      then [Notice.cellConflict d f (m.cell d).state j.handle c] else []) = _
    rw [active, queue, record]
    rfl

end Sys2Proof.Machine
end
section
/-! The new drop cell of a job whose drop cell was found occupied (R104). -/

namespace Sys2Proof.Machine

variable {s t : State} {c : CraneId} {a : AisleId} {e : End} {j : Job} {u : WorkUnit} {x : Step} {d new : CellAddr}

/-- The place of the current step is replaced. -/
theorem replacePlace_head (hx : u.remaining.head? = some x) (hc : 1 ≤ u.current) (new : CellAddr) :
    (u.replacePlace new).remaining.head? = some { x with place := .cell new } := by
  rw [WorkUnit.remaining, List.head?_drop] at hx ⊢
  have index : 1 + (u.current - 1) = u.current := by omega
  show ((u.steps.zipIdx 1).map _)[u.current - 1]? = _
  rw [List.getElem?_map, List.getElem?_zipIdx, hx, Option.map_some, Option.map_some, index]
  exact congrArg some (if_pos rfl)

/-- STORE_REDIRECTED joins the tail of the queue of a store's link (R104 step 5). -/
theorem noteRedirect_grows (s : State) (j : Job) (old new : CellAddr) : QueuesGrow s (s.noteRedirect j old new) := by
  cases hk : j.kind <;> cases ho : j.origin <;> simp only [State.noteRedirect, hk, ho]
  case store.order l => exact offerNotice_grows s l _
  all_goals exact .refl s

theorem noteRedirect_store {l : OrderLink} (hk : j.kind = .store) (ho : j.origin = .order l)
    (room : (s.queue l).length < 32) (old new : CellAddr) :
    (s.noteRedirect j old new).queue l = s.queue l ++ [.storeRedirected j.handle j.reference old (some new)] := by
  simp only [State.noteRedirect, hk, ho]
  rw [State.offerNotice_queue, if_pos ⟨rfl, room⟩]

theorem noteRedirect_events (s : State) (j : Job) (old new : CellAddr) : (s.noteRedirect j old new).events = s.events := by
  cases hk : j.kind <;> cases ho : j.origin <;> simp only [State.noteRedirect, hk, ho]
  exact offerNotice_events ..

/-- What the steps that give a job its new drop cell do (R104 steps 1 to 5). -/
structure DropGiven (s t : State) (c : CraneId) (a : AisleId) (e : End) (j : Job) (u : WorkUnit) (d new : CellAddr) :
    Prop where
  frame : Frame [.crane c, .rail, .jobs, .tx (.crane c), .queue, .events] s t
  crane : ∃ dl, t.crane c = { s.crane c with unit := some (u.replacePlace new), deadline := dl }
    ∧ ∀ q, s.profile? a = some q → 1 ≤ u.current → dl = some { step := u.current, expiry :=
        s.now + (stepEstimate q (cellPoint d) (.cell new) * s.crt.factor / 100 + 10000) }
  job : ∀ k, s.job? j.handle = some k → ∀ g, t.job? g = if g = j.handle then some (k.redrop new) else s.job? g
  tx : t.tx (.crane c) = s.tx (.crane c) ++ [.newDrop j.handle new]
  moves : IntervalMoves s t a e id fun i => i.join (.at new.bay)
  stand : EventsStand s t
  grows : QueuesGrow s t
  note : ∀ l, j.kind = .store → j.origin = .order l → (s.queue l).length < 32 →
    .storeRedirected j.handle j.reference d (some new) ∈ t.queue l

/-- The job's record takes the new cell, and the crane's interval is widened to its bay. -/
def State.redropped (s : State) (c : CraneId) (h : Handle) (new : CellAddr) : State :=
  (s.updJob h fun x => x.redrop new).updOwn c fun r => { r with granted := r.redirectTo new.bay }

theorem redropped_frame (s : State) (c : CraneId) (h : Handle) (new : CellAddr) :
    Frame [.rail, .jobs] s (s.redropped c h new) :=
  ((Frame.refl _ s).updJob _ _ (by simp)).updOwn c _ (by simp)

theorem redropped_moves (hm : (s.crane c).mapping = some (a, e)) (h : Handle) (new : CellAddr) :
    IntervalMoves s (s.redropped c h new) a e id fun i => i.join (.at new.bay) := by
  have first : Frame [.jobs] s (s.updJob h fun x => x.redrop new) := (Frame.refl _ s).updJob _ _ (by simp)
  have cranes : ∀ d, (s.updJob h fun x => x.redrop new).crane d = s.crane d := fun d => first.crane d (by simp)
  have moves := updOwn_moves (s := s.updJob h fun x => x.redrop new) ((congrArg Crane.mapping (cranes c)).trans hm)
    fun i => i.join (.at new.bay)
  exact moves.earlier (first .rail (by simp)) (fun d => congrArg Crane.mapping (cranes d)) fun d hw => by rw [cranes, hw]

theorem redropped_events (s : State) (c : CraneId) (h : Handle) (new : CellAddr) :
    (s.redropped c h new).events = s.events := (updOwn_events ..).trans (updJob_events ..)

theorem redropped_job {h : Handle} {k : Job} (hk : s.job? h = some k) (c : CraneId) (new : CellAddr) (g : Handle) :
    (s.redropped c h new).job? g = if g = h then some (k.redrop new) else s.job? g := by
  have last : Frame [.rail] (s.updJob h fun x => x.redrop new) (s.redropped c h new) := (Frame.refl _ _).updOwn c _ (by simp)
  rw [last.job? (by simp), State.updJob_job hk]

/-- The current step's place is replaced, NEW_DROP is sent and the deadline starts anew. -/
def State.rerouted (s : State) (c : CraneId) (u : WorkUnit) (h : Handle) (d new : CellAddr) : State :=
  ((s.setCrane c { s.crane c with unit := some (u.replacePlace new) }).send (.crane c) (.newDrop h new)).startDeadline c
    (cellPoint d)

theorem rerouted_frame (s : State) (c : CraneId) (u : WorkUnit) (h : Handle) (d new : CellAddr) :
    Frame [.crane c, .tx (.crane c), .events] s (s.rerouted c u h d new) :=
  (((Frame.refl _ s).setCrane c _ (by simp)).send _ _ (by simp)).startDeadline c _ (by simp)

theorem rerouted_stand (s : State) (c : CraneId) (u : WorkUnit) (h : Handle) (d new : CellAddr) :
    EventsStand s (s.rerouted c u h d new) := by
  unfold State.rerouted
  refine EventsStand.trans ?_ (startDeadline_stand _ c _)
  exact .of_eq rfl

theorem rerouted_tx (s : State) (c : CraneId) (u : WorkUnit) (h : Handle) (d new : CellAddr) :
    (s.rerouted c u h d new).tx (.crane c) = s.tx (.crane c) ++ [.newDrop h new] := by
  have last : Frame [.crane c, .events] _ (s.rerouted c u h d new) := (Frame.refl _ _).startDeadline c _ (by simp)
  rw [last.tx _ (by simp)]
  exact (State.setTx_tx _ _ _ _).trans (if_pos rfl)

theorem rerouted_crane (hm : (s.crane c).mapping = some (a, e)) (hx : u.remaining.head? = some x) (h : Handle)
    (d new : CellAddr) : ∃ dl, (s.rerouted c u h d new).crane c =
      { s.crane c with unit := some (u.replacePlace new), deadline := dl }
    ∧ ∀ q, s.profile? a = some q → 1 ≤ u.current → dl = some { step := u.current, expiry :=
        s.now + (stepEstimate q (cellPoint d) (.cell new) * s.crt.factor / 100 + 10000) } := by
  have own : ((s.setCrane c { s.crane c with unit := some (u.replacePlace new) }).send (.crane c) (.newDrop h new)).crane c
      = { s.crane c with unit := some (u.replacePlace new) } := (State.setCrane_crane s c c _).trans (if_pos rfl)
  have before : Frame [.crane c, .tx (.crane c)] s _ :=
    ((Frame.refl _ s).setCrane c { s.crane c with unit := some (u.replacePlace new) } (by simp)).send (.crane c)
      (.newDrop h new) (by simp)
  obtain ⟨dl, hdl⟩ := startDeadline_crane _ c (cellPoint d)
  refine ⟨dl, hdl.trans (by rw [own]), fun q hq hc => ?_⟩
  have runs := startDeadline_runs (cellPoint d) (congrArg Crane.unit own) (replacePlace_head hx hc new)
    ((congrArg Crane.mapping own).trans hm) ((congrFun (before.profile? (by simp)) a).trans hq)
  rw [hdl, before.now (by simp), before.factor (by simp)] at runs
  exact runs

theorem newDrop_eq (hu : (s.crane c).unit = some u) (j : Job) (d new : CellAddr) : s.newDrop c j d new =
    ((s.redropped c j.handle new).rerouted c u j.handle d new).noteRedirect j d new := by
  have unit : ((s.redropped c j.handle new).crane c).unit = some u :=
    ((redropped_frame s c j.handle new).crane c (by simp)) ▸ hu
  unfold State.newDrop State.rerouted
  show State.noteRedirect (State.startDeadline (State.send (match ((s.redropped c j.handle new).crane c).unit with
    | some u => _
    | none => _) _ _) _ _) _ _ _ = _
  rw [unit]
  rfl

/-- A new drop cell given to a job on a mapped crane. -/
theorem newDrop_given (hm : (s.crane c).mapping = some (a, e)) (hu : (s.crane c).unit = some u)
    (hx : u.remaining.head? = some x) (j : Job) (d new : CellAddr) :
    DropGiven s (s.newDrop c j d new) c a e j u d new := by
  rw [newDrop_eq hu]
  have first := redropped_frame s c j.handle new
  have moves := redropped_moves hm j.handle new
  have events := redropped_events s c j.handle new
  have job := fun k hk => redropped_job (s := s) (h := j.handle) (k := k) hk c new
  generalize s.redropped c j.handle new = m at *
  have own : m.crane c = s.crane c := first.crane c (by simp)
  have second := rerouted_frame m c u j.handle d new
  obtain ⟨dl, crane, runs⟩ := rerouted_crane (s := m) (own ▸ hm) hx j.handle d new
  have stand := rerouted_stand m c u j.handle d new
  have tx := rerouted_tx m c u j.handle d new
  generalize m.rerouted c u j.handle d new = n at *
  have third : Frame [.queue] n (n.noteRedirect j d new) := (Frame.refl _ n).noteRedirect j d new (by simp)
  have last : Frame [.crane c, .tx (.crane c), .queue, .events] m (n.noteRedirect j d new) :=
    (second.mono (by simp)).trans (third.mono (by simp))
  have queue : ∀ l, n.queue l = s.queue l := fun l => congrArg (fun q : PerLink (List Notice) => q.get l)
    ((second .queue (by simp)).1.trans (first .queue (by simp)).1)
  have stands : EventsStand m (n.noteRedirect j d new) := stand.trans (.of_eq (noteRedirect_events ..))
  refine {
    frame := (first.mono (by simp)).trans (last.mono (by simp))
    crane := ⟨dl, (third.crane c (by simp)).trans (crane.trans (by rw [own])), fun q hq hc => ?_⟩
    job := fun k hk g => (last.job? (by simp) g).trans (job k hk g)
    tx := (third.tx _ (by simp)).trans (tx.trans (by rw [first.tx _ (by simp)]))
    moves := moves.later (last .rail (by simp)) stands
    stand := (EventsStand.of_eq events).trans stands
    grows := (QueuesGrow.of_eq queue).trans (noteRedirect_grows n j d new)
    note := fun l hk ho room => ?_ }
  · rw [runs q ((congrFun (first.profile? (by simp)) a).trans hq) hc, first.now (by simp), first.factor (by simp)]
  · rw [noteRedirect_store hk ho (by rw [queue]; exact room)]
    exact List.mem_append_right _ (List.mem_singleton_self _)

end Sys2Proof.Machine
end
section
/-! A job stranded at its occupied drop cell (R105), and the return of its partner to READY (R52). -/

namespace Sys2Proof.Machine

variable {s t : State} {c : CraneId} {a : AisleId} {e : End} {j k : Job} {u : WorkUnit} {g h : Handle} {d : CellAddr}

theorem craneBay_known (hk : (s.crane c).known = true) : s.craneBay c = (s.crane c).bay := by
  simp [State.craneBay, State.cranePoint, hk]

/-- A release touches no cell that is not reserved. -/
theorem release_cell (hw : MapWf s) (b : CellAddr) (h : Handle) (hd : (s.cell d).state.isReserved = false) :
    (s.release b h).cell d = s.cell d := by
  rcases release_cases s b h with hr | ⟨x, reserved, hr⟩
  · rw [hr]
  · have exists_ : s.existing b := State.existing_of_ne_initial fun eq => by rw [eq] at reserved; cases reserved
    have ne : d ≠ b := fun eq => by rw [eq, reserved] at hd; cases hd
    rw [hr, recheckCell_eq]
    exact (State.cell_putCell hw b d _ exists_).trans (if_neg ne)

theorem releaseOpt_cell (hw : MapWf s) (b : Option CellAddr) (h : Handle) (hd : (s.cell d).state.isReserved = false) :
    (s.release? b h).cell d = s.cell d := by
  cases b with
  | none => rfl
  | some b => exact release_cell hw b h hd

/-! ## The return to READY -/

/-- The record of a retrieve that returns to READY (R52). -/
def Job.returned (k : Job) : Job := { k with state := .ready, unit := none, partner := none, chosen := k.keptCell }

/-- The records that a return to READY changes, the rest of it being a release, the credit and selections. -/
def State.returning (s : State) (k : Job) (g : Handle) : State :=
  (s.dropPartner k).updJob g fun x =>
    { x with state := .ready, unit := none, partner := none, chosen := k.keptCell }

theorem returnToReady_eq (hk : s.job? g = some k) (c : CraneId) : s.returnToReady c g =
    (((s.returning k g).release? k.pickCell g).updBound c k Credit.unbind).becameReady k := by
  unfold State.returnToReady
  rw [hk]
  rfl

theorem returnToReady_frame (hk : s.job? g = some k) (c : CraneId) :
    Frame [.cells, .credit, .events] (s.returning k g) (s.returnToReady c g) := by
  rw [returnToReady_eq hk]
  exact (((Frame.refl _ _).release_q _ g (by simp)).updBound c k _ (by simp)).becameReady k (by simp)

theorem returning_frame (s : State) (k : Job) (g : Handle) : Frame [.jobs] s (s.returning k g) :=
  ((Frame.refl _ s).dropPartner k (by simp)).updJob g _ (by simp)

/-- Of a pair, the partner alone is changed besides. -/
theorem returning_job (hk : s.job? g = some k) (hp : k.partner = some h) (hj : s.job? h = some j) (hne : h ≠ g)
    (f : Handle) : (s.returning k g).job? f =
      if f = g then some k.returned else if f = h then some { j with partner := none } else s.job? f := by
  have drop : s.dropPartner k = s.updJob h fun x => { x with partner := none } := by simp only [State.dropPartner, hp]
  have first := State.updJob_job hj fun x => { x with partner := none }
  have own : (s.dropPartner k).job? g = some k := by rw [drop, first, if_neg hne.symm, hk]
  rw [State.returning, State.updJob_job own, drop, first]
  rfl

/-- The return of a pair's retrieve to READY. -/
theorem returnToReady_job (hk : s.job? g = some k) (hp : k.partner = some h) (hj : s.job? h = some j) (hne : h ≠ g)
    (c : CraneId) (f : Handle) : (s.returnToReady c g).job? f =
      if f = g then some k.returned else if f = h then some { j with partner := none } else s.job? f :=
  ((returnToReady_frame hk c).job? (by simp) f).trans (returning_job hk hp hj hne f)

theorem returnToReady_cell (hk : s.job? g = some k) (hw : MapWf s) (c : CraneId)
    (hd : (s.cell d).state.isReserved = false) : (s.returnToReady c g).cell d = s.cell d := by
  have first := returning_frame s k g
  have cmp : (s.returning k g).cmp = s.cmp := first.cmp (by simp) (by simp)
  have last : Frame [.credit, .events] ((s.returning k g).release? k.pickCell g) (s.returnToReady c g) := by
    rw [returnToReady_eq hk]
    exact ((Frame.refl _ _).updBound c k _ (by simp)).becameReady k (by simp)
  rw [last.cell (by simp) (by simp), releaseOpt_cell (mapWf_of_cmp cmp hw) _ g (by rw [State.cell_of_cmp cmp]; exact hd),
    State.cell_of_cmp cmp]

/-! ## The stranding -/

theorem strandAt_alone (hc : u.steps.length ≤ u.current) (s : State) (c : CraneId) (j : Job) :
    s.strandAt c j u = s.updJob j.handle fun x => { x with stranded := true } := by
  unfold State.strandAt
  exact if_neg (Nat.not_lt.mpr hc)

/-- A withdrawal that keeps the current step leaves the deadline as it stands. -/
theorem withdraw_keep (hu : (s.crane c).unit = some u) : s.withdraw c u.current =
    (s.send (.crane c) (.withdraw u.number u.current)).setCrane c { s.crane c with
      unit := some { u with
        steps := u.steps.take u.current
        jobs := u.jobs.filter fun h => (u.steps.take u.current).any fun x => decide (x.job = h) } } := by
  unfold State.withdraw
  rw [hu]
  exact if_neg (Nat.lt_irrefl _)

/-- What strands the store of a pair and returns the retrieve to READY (R105, R115). -/
structure PairStranded (s t : State) (c : CraneId) (a : AisleId) (e : End) (j : Job) (g : Handle) (k : Job) (u : WorkUnit)
    (d : CellAddr) : Prop where
  frame : Frame [.crane c, .rail, .cells, .jobs, .credit, .tx (.crane c), .events] s t
  crane : ∃ js, t.crane c = { s.crane c with unit := some { u with steps := u.steps.take u.current, jobs := js } }
  job : ∀ f, t.job? f = if f = g then some k.returned
    else if f = j.handle then some { j with stranded := true, partner := none } else s.job? f
  cell : t.cell d = s.cell d
  tx : t.tx (.crane c) = s.tx (.crane c) ++ [.withdraw u.number u.current]
  moves : IntervalMoves s t a e (fun i => i.fallen (s.crane c).bay (s.stepBays
    ((u.steps.take u.current).drop (u.current - 1) ++ (s.crane c).redirectSteps))) id
  stand : EventsStand s t

theorem strandAt_pair (hm : (s.crane c).mapping = some (a, e)) (hu : (s.crane c).unit = some u)
    (hknown : (s.crane c).known = true) (hcur : u.current < u.steps.length) (hjobs : u.jobs = [j.handle, g])
    (hne : j.handle ≠ g) (hj : s.job? j.handle = some j) (hk : s.job? g = some k) (hp : k.partner = some j.handle)
    (hw : MapWf s) (hd : (s.cell d).state.isReserved = false) :
    PairStranded s (s.strandAt c j u) c a e j g k u d := by
  have others : u.jobs.filter (· ≠ j.handle) = [g] := by simp [hjobs, hne.symm]
  let w := s.updJob j.handle fun x => { x with stranded := true }
  have form : s.strandAt c j u = ((w.withdraw c u.current).returnToReady c g).fall c
      (((w.withdraw c u.current).returnToReady c g).stepBays
        ((((w.withdraw c u.current).returnToReady c g).crane c).remaining
          ++ (((w.withdraw c u.current).returnToReady c g).crane c).redirectSteps)) := by
    unfold State.strandAt
    rw [others]
    exact if_pos hcur
  rw [form]
  have first : Frame [.jobs] s w := (Frame.refl _ s).updJob _ _ (by simp)
  have job : ∀ f, w.job? f = if f = j.handle then some { j with stranded := true } else s.job? f :=
    State.updJob_job hj _
  have events : w.events = s.events := updJob_events ..
  generalize w = m at *
  have own : m.crane c = s.crane c := first.crane c (by simp)
  have second : Frame [.crane c, .tx (.crane c), .events] m (m.withdraw c u.current) :=
    (Frame.refl _ m).withdraw c _ (by simp)
  have kept := withdraw_keep (own ▸ hu)
  have crane : (m.withdraw c u.current).crane c = { s.crane c with unit := some { u with
      steps := u.steps.take u.current
      jobs := u.jobs.filter fun h => (u.steps.take u.current).any fun x => decide (x.job = h) } } := by
    rw [kept]
    exact (State.setCrane_crane _ c c _).trans ((if_pos rfl).trans (by rw [own]))
  have tx : (m.withdraw c u.current).tx (.crane c) = s.tx (.crane c) ++ [.withdraw u.number u.current] := by
    rw [kept]
    exact (State.setTx_tx m _ _ _).trans ((if_pos rfl).trans (by rw [first.tx _ (by simp)]))
  have stand := withdraw_stand m c u.current
  generalize m.withdraw c u.current = n at *
  have until2 : Frame [.crane c, .jobs, .tx (.crane c), .events] s n := (first.mono (by simp)).trans (second.mono (by simp))
  have cmp : n.cmp = s.cmp := until2.cmp (by simp) (by simp)
  have jobn : ∀ f, n.job? f = if f = j.handle then some { j with stranded := true } else s.job? f :=
    fun f => (second.job? (by simp) f).trans (job f)
  have hkn : n.job? g = some k := by rw [jobn, if_neg hne.symm, hk]
  have third : Frame [.cells, .jobs, .credit, .events] n (n.returnToReady c g) :=
    (Frame.refl _ n).returnToReady c g (by simp)
  have returned := returnToReady_job hkn hp ((jobn j.handle).trans (if_pos rfl)) hne c
  have cell : (n.returnToReady c g).cell d = n.cell d :=
    returnToReady_cell hkn (mapWf_of_cmp cmp hw) c (by rw [State.cell_of_cmp cmp]; exact hd)
  have stand3 := returnToReady_stand n c g
  generalize n.returnToReady c g = r at *
  have until3 : Frame [.crane c, .cells, .jobs, .credit, .tx (.crane c), .events] s r :=
    (until2.mono (by simp)).trans (third.mono (by simp))
  have crane3 : r.crane c = n.crane c := third.crane c (by simp)
  have mapped : (r.crane c).mapping = some (a, e) := by rw [crane3, crane]; exact hm
  have known : (r.crane c).known = true := by rw [crane3, crane]; exact hknown
  have bay : r.craneBay c = (s.crane c).bay := by rw [craneBay_known known, crane3, crane]
  have bays : r.stepBays ((r.crane c).remaining ++ (r.crane c).redirectSteps) = s.stepBays
      ((u.steps.take u.current).drop (u.current - 1) ++ (s.crane c).redirectSteps) := by
    simp only [State.stepBays, placePoint_congr (until3.profile? (by simp)), crane3, crane]
    rfl
  have falls := fall_moves mapped (r.stepBays ((r.crane c).remaining ++ (r.crane c).redirectSteps))
  rw [bay, bays] at falls
  have last : Frame [.rail, .events] r (r.fall c (r.stepBays ((r.crane c).remaining ++ (r.crane c).redirectSteps))) :=
    (Frame.refl _ r).fall c _ (by simp)
  have same : ∀ o, (r.crane o).mapping = (s.crane o).mapping ∧ (r.crane o).state = (s.crane o).state := fun o => by
    by_cases ho : o = c
    · rw [ho, crane3, crane]
      exact ⟨rfl, rfl⟩
    · rw [until3.crane o (by simp [ho])]
      exact ⟨rfl, rfl⟩
  refine {
    frame := (until3.mono (by simp)).trans (last.mono (by simp))
    crane := ⟨_, (last.crane c (by simp)).trans (crane3.trans crane)⟩
    job := fun f => ?_
    cell := by rw [last.cell (by simp) (by simp), cell, State.cell_of_cmp cmp]
    tx := (last.tx _ (by simp)).trans ((third.tx _ (by simp)).trans tx)
    moves := ?_
    stand := (EventsStand.of_eq events).trans (stand.trans (stand3.trans (fall_stand r c _))) }
  · rw [last.job? (by simp), returned, jobn]
    by_cases hf : f = g
    · rw [if_pos hf, if_pos hf]
    · rw [if_neg hf, if_neg hf]
      by_cases hh : f = j.handle
      · rw [if_pos hh, if_pos hh]
      · rw [if_neg hh, if_neg hh, if_neg hh]
  · rw [bays]
    exact falls.earlier (until3 .rail (by simp)) (fun o => (same o).1) fun o => (same o).2.trans

end Sys2Proof.Machine
end
section
/-! O51: a drop cell found occupied (R100 to R105). -/

namespace Sys2Proof.Machine

variable {s t : State} {c : CraneId} {a : AisleId} {e : End} {j k : Job} {u : WorkUnit} {x : Step} {g h : Handle}
  {d new : CellAddr}

/-! ## The unit of a crane that drops -/

/-- A job's steps are its pick and its drop. -/
theorem allSteps_pick_drop (j : Job) (a : AisleId) (e : End) : ∃ p q, j.allSteps a e =
    [{ action := .pick, place := p, job := j.handle }, { action := .drop, place := q, job := j.handle }] := by
  unfold Job.allSteps
  cases j.kind <;> exact ⟨_, _, rfl⟩

theorem stepsLeft_head (j : Job) (a : AisleId) (e : End) : ∃ y, (j.stepsLeft a e).head? = some y ∧ y.job = j.handle := by
  obtain ⟨p, q, hs⟩ := allSteps_pick_drop j a e
  unfold Job.stepsLeft
  rw [hs]
  split <;> exact ⟨_, rfl, rfl⟩

/-- A job whose drop comes next has that step left alone. -/
theorem stepsLeft_drop (hx : (j.stepsLeft a e).head? = some x) (hd : x.action = .drop) : (j.stepsLeft a e).length = 1 := by
  obtain ⟨p, q, hs⟩ := allSteps_pick_drop j a e
  unfold Job.stepsLeft at hx ⊢
  rw [hs] at hx ⊢
  split
  · rfl
  · next h =>
    rw [if_neg h] at hx
    obtain rfl := Option.some.inj hx
    cases hd

theorem remaining_length (u : WorkUnit) : u.remaining.length = u.steps.length - (u.current - 1) := List.length_drop

/-- Steps behind a drop are those of the retrieve of a pair, whose store is dropped (R50, R129). -/
theorem pair_of_drop (laws : StepsLaw s) (handles : HandleLaw s) (hm : (s.crane c).mapping = some (a, e))
    (hu : (s.crane c).unit = some u) (hj : s.job? h = some j) (hmem : h ∈ u.jobs) (hx : u.remaining.head? = some x)
    (hxj : x.job = h) (hdrop : x.action = .drop) (hstr : j.stranded = false) (hcur : u.current < u.steps.length) :
    ∃ g k, u.jobs = [h, g] ∧ s.job? g = some k ∧ k.kind = .retrieve ∧ k.partner = some h := by
  obtain ⟨low, -, left, each, -, pair⟩ := laws c a e u hm hu
  have long : 2 ≤ u.remaining.length := by
    rw [remaining_length]
    omega
  match hjobs : u.jobs with
  | [] =>
    rw [hjobs] at hmem
    cases hmem
  | [f] =>
    rw [hjobs, List.mem_singleton] at hmem
    subst hmem
    have steps : u.remaining = j.stepsLeft a e := by
      rw [left fun f hf k hk => ?_, hjobs]
      · simp [hj]
      · rw [hjobs, List.mem_singleton] at hf
        subst hf
        obtain rfl : j = k := Option.some.inj (hj.symm.trans hk)
        exact hstr
    rw [steps] at hx long
    rw [stepsLeft_drop hx hdrop] at long
    omega
  | f :: g :: more =>
    obtain ⟨rfl, ⟨jf, hjf, -, -⟩, k, hk, kind, partner, -⟩ := pair f g more hjobs
    have steps : u.remaining = jf.stepsLeft a e ++ k.stepsLeft a e := by
      rw [left fun f' hf k' hk' => ?_, hjobs]
      · simp [hjf, hk]
      · by_contra stranded
        rw [Bool.not_eq_false] at stranded
        have one := ((each f' hf k' hk').2 stranded).1
        rw [hjobs] at one
        cases one
    obtain ⟨y, head, job⟩ := stepsLeft_head jf a e
    have first : x = y := by
      rw [steps, List.head?_append_of_ne_nil _ fun nil => by rw [nil] at head; cases head] at hx
      exact Option.some.inj (hx.symm.trans head)
    have named : jf.handle = f := by
      obtain ⟨gen, slot⟩ := State.job?_eq_some.mp hjf
      rw [handles _ jf slot, gen]
    have same : h = f := by rw [← hxj, first, job, named]
    exact ⟨g, k, by rw [same], hk, kind, by rw [same]; exact partner⟩

/-! ## The search -/

/-- What a new drop cell is: a cell of the aisle that the search admits (R104). -/
theorem newDropCell_admits {q : Profile} {waste : Nat} {cells : CellAddr → Cell} {keeps : CellAddr → Prop}
    (hn : NewDropCell q waste cells keeps j d new) (ha : j.aisle = a)
    (hs : j.kind = .relocate → ∀ b, j.chosen = some b → b.aisle = a) :
    new.aisle = a ∧ ∃ k, q.geo.Admits cells k new := by
  unfold NewDropCell at hn
  cases hk : j.kind <;> simp only [hk] at hn
  case store =>
    obtain ⟨-, ⟨⟨⟨place, -⟩, admits⟩, -⟩, -⟩ := hn
    exact ⟨place.trans ha, _, admits⟩
  case relocate =>
    obtain ⟨source, chosen, ⟨⟨⟨place, -⟩, -, -, admits, -⟩, -⟩, -⟩ := hn
    exact ⟨place.trans (hs hk source chosen), _, admits⟩

/-- The search reads the Cell Map, the settings, the cranes and the tables alone. -/
theorem newDropCell_congr (hmap : t.cmp = s.cmp) (hset : t.ale = s.ale) (hcrt : t.crt = s.crt) (c : CraneId) (j : Job)
    (d : CellAddr) : t.newDropCell c j d = s.newDropCell c j d := by
  cases s
  cases t
  cases hmap
  cases hset
  cases hcrt
  rfl

theorem fit_congr (h : t.profile? = s.profile?) : t.fit = s.fit := by
  unfold State.fit
  rw [h]

theorem foundOccupied_eq (hd : (s.cell d).state = .inReserved h) : s.foundOccupied d h =
    (s.putCell d { state := .full (s.fit d), conflict := true }).recheckCell d true := if_pos hd

/-- A reservation for a drop that is accepted writes its cell (R14). -/
theorem reserveDrop_written (hw : MapWf s) (h : Handle) (he : (s.cell new).state = .empty)
    (hp : s.pairAllows new = true) : ∃ t, s.reserveDrop new h = some t ∧ Frame [.cells, .events] s t
      ∧ (∀ b, t.cell b = if b = new then { s.cell new with state := .inReserved h } else s.cell b) ∧ EventsStand s t := by
  have existing : s.existing new := State.existing_of_ne_initial fun eq => by rw [eq] at he; cases he
  obtain ⟨es, reserved⟩ := reserveDrop_state h he hp
  exact ⟨_, reserved, (Frame.refl _ s).reserveDrop new h reserved (by simp),
    fun b => State.cell_putCell hw new b _ existing, .of_append rfl⟩

theorem redirectDrop_found (hn : s.newDropCell c j d = some new) (ht : s.reserveDrop new j.handle = some t) :
    s.redirectDrop c j u d = t.newDrop c j d new := by
  simp only [State.redirectDrop, hn, ht]

theorem redirectDrop_none (hn : s.newDropCell c j d = none) : s.redirectDrop c j u d = s.strandAt c j u := by
  simp only [State.redirectDrop, hn]

/-- A crane that works on the drop of a job at the cell `d`, reserved for it. -/
structure DropsAt (s : State) (c : CraneId) (a : AisleId) (e : End) (j : Job) (u : WorkUnit) (x : Step) (d : CellAddr) :
    Prop where
  mapping : (s.crane c).mapping = some (a, e)
  state : (s.crane c).state = .working
  unit : (s.crane c).unit = some u
  job : s.job? j.handle = some j
  head : u.remaining.head? = some x
  place : x.place = .cell d
  cell : (s.cell d).state = .inReserved j.handle
  map : MapWf s
  aisle : j.aisle = a
  source : j.kind = .relocate → ∀ b, j.chosen = some b → b.aisle = a
  configured : s.configured a = true
  pair : u.current < u.steps.length → ∃ g k, u.jobs = [j.handle, g] ∧ j.handle ≠ g ∧ s.job? g = some k
    ∧ k.partner = some j.handle

/-- The state once the occupied cell is corrected and reported. -/
def State.atOccupied (s : State) (c : CraneId) (j : Job) (u : WorkUnit) (x : Step) (d : CellAddr) (p : List Byte) : State :=
  ((s.reachStep c j x u.remaining p).foundOccupied d j.handle).reportFinding c j d .occupied .doubleOccupancy p

/-- The records as corrected. -/
def State.occupiedCells (s : State) (d : CellAddr) (b : CellAddr) : Cell :=
  if b = d then { state := .full (s.fit d), conflict := true } else s.cell b

/-- The interval shrunk to the occupied cell and what the crane has still to reach. -/
def State.occupiedShrink (s : State) (c : CraneId) (u : WorkUnit) (d : CellAddr) (i : Interval) : Interval :=
  i.fallen d.bay (s.stepBays (u.remaining ++ (s.crane c).redirectSteps))

/-- The cells whose bay, joined to the shrunk interval, keeps the gap. -/
def State.occupiedKeeps (s : State) (c : CraneId) (a : AisleId) (e : End) (u : WorkUnit) (d : CellAddr) (q : Profile)
    (b : CellAddr) : Prop :=
  ∀ r, s.rail a = some r →
    KeepsGapFrom q.op.gap e ((s.occupiedShrink c u d (r.get e).granted).join (.at b.bay)) (r.get (otherEnd e))

section Drops

variable (w : DropsAt s c a e j u x d) (p : List Byte)
include w

theorem DropsAt.reported : FindingReported s (s.atOccupied c j u x d p) c a e j u.remaining d
    { state := .full (s.fit d), conflict := true } .occupied .doubleOccupancy p := by
  have reach : Frame [.crane c, .rail, .events] s (s.reachStep c j x u.remaining p) :=
    (Frame.refl _ s).reachStep c j x _ p (by simp)
  have cmp : (s.reachStep c j x u.remaining p).cmp = s.cmp := reach.cmp (by simp) (by simp)
  have cell : (s.reachStep c j x u.remaining p).cell = s.cell := State.cell_of_cmp cmp
  have fit : (s.reachStep c j x u.remaining p).fit d = s.fit d :=
    congrFun (fit_congr (reach.profile? (by simp))) d
  have map := mapWf_of_cmp cmp w.map
  have reserved : ((s.reachStep c j x u.remaining p).cell d).state = .inReserved j.handle := by rw [cell]; exact w.cell
  refine findingReported (found := fun r => r.foundOccupied d j.handle) w.mapping w.state w.place
    ((Frame.refl _ _).foundOccupied d _ (by simp)) ?_ ?_ ?_
  · rw [foundOccupied_eq reserved]
    exact put_recheck_stand _ d _ true
  · rw [foundOccupied_eq reserved]
    exact mapWf_of_cmp rfl (State.putCell_wf _ _ map)
  · rw [State.foundOccupied_cell map reserved, cell, fit]

/-- The search in the state so left (R34, R104). -/
theorem DropsAt.search {q : Profile} (hq : s.profile? a = some q) (new : CellAddr) :
    (s.atOccupied c j u x d p).newDropCell c j d = some new ↔
      NewDropCell q s.ale.waste (s.occupiedCells d) (s.occupiedKeeps c a e u d q) j d new := by
  have frame : Frame [.queue, .events] _ (s.atOccupied c j u x d p) := (Frame.refl _ _).reportFinding c j d _ _ p (by simp)
  rw [newDropCell_congr (frame.cmp (by simp) (by simp)) (frame.ale (by simp) (by simp))
    (frame.crt (by simp) (by simp) (by simp))]
  exact State.newDropCell_reached u.remaining p new w.mapping w.state w.place w.cell w.map hq w.aisle w.source

/-- What every outcome leaves: the crane works on at the cell, and the correction stands. -/
structure OccupiedKept (s t : State) (c : CraneId) (d : CellAddr) : Prop where
  frame : Frame [.crane c, .rail, .cells, .jobs, .credit, .tx (.crane c), .queue, .events] s t
  crane : ∃ v dl, t.crane c = { s.crane c with unit := v, deadline := dl }
  cell : t.cell d = s.cell d
  stand : EventsStand s t
  grows : QueuesGrow s t

/-- A new drop cell found: it is reserved for the job and given to it. -/
structure DropFound (s t : State) (c : CraneId) (a : AisleId) (e : End) (j : Job) (u : WorkUnit) (d new : CellAddr) :
    Prop where
  kept : OccupiedKept s t c d
  given : ∃ n, Frame [.cells, .events] s n ∧ DropGiven n t c a e j u d new
  cells : ∀ b, t.cell b = if b = new then { s.cell new with state := .inReserved j.handle } else s.cell b

theorem DropsAt.waiting : ∀ o, (s.crane o).state = .waiting → ((s.atOccupied c j u x d p).crane o).state = .waiting :=
  fun o ho => by
    rw [(w.reported p).frame.crane o (by
      have : o ≠ c := fun eq => by rw [eq, w.state] at ho; cases ho
      simp [this]), ho]

theorem DropsAt.mappings : ∀ o, ((s.atOccupied c j u x d p).crane o).mapping = (s.crane o).mapping := fun o => by
  by_cases ho : o = c
  · rw [ho, (w.reported p).crane]
    rfl
  · rw [(w.reported p).frame.crane o (by simp [ho])]

theorem DropsAt.crane_unit : ((s.atOccupied c j u x d p).crane c).unit = some u := by
  rw [(w.reported p).crane]
  exact w.unit

/-- The winner of the search is reserved and given (R104). -/
theorem DropsAt.found {q : Profile} (hq : s.profile? a = some q)
    (hn : NewDropCell q s.ale.waste (s.occupiedCells d) (s.occupiedKeeps c a e u d q) j d new) :
    new ≠ d ∧ (s.cell new).state = .empty ∧ (s.cell new).conflict = false
      ∧ DropFound (s.atOccupied c j u x d p) ((s.atOccupied c j u x d p).redirectDrop c j u d) c a e j u d new := by
  have reported := w.reported p
  have mapping := (w.mappings p c).trans w.mapping
  have unit := w.crane_unit p
  have search := (w.search p hq new).mpr hn
  obtain ⟨place, k, admits⟩ := newDropCell_admits hn w.aisle w.source
  have cells : (s.atOccupied c j u x d p).cell = s.occupiedCells d := reported.cell
  have profile : (s.atOccupied c j u x d p).profile? new.aisle = some q := by
    rw [reported.frame.profile? (by simp), place, hq]
  have empty := admits.1
  have clear := admits.2.1
  have ne : new ≠ d := fun eq => by
    rw [eq, State.occupiedCells, if_pos rfl] at empty
    cases empty
  have record : s.occupiedCells d new = s.cell new := if_neg ne
  generalize s.atOccupied c j u x d p = m at *
  rw [← cells] at admits
  obtain ⟨n, reserved, frame, taken, stand⟩ := reserveDrop_written reported.map j.handle admits.1
    (pairAllows_of_admits profile admits)
  rw [redirectDrop_found search reserved]
  have given := newDrop_given (s := n) ((congrArg Crane.mapping (frame.crane c (by simp))).trans mapping)
    ((congrArg Crane.unit (frame.crane c (by simp))).trans unit) w.head j d new
  have final : ∀ b, (n.newDrop c j d new).cell b = _ := fun b =>
    (congrFun (State.cell_of_cmp (given.frame.cmp (by simp) (by simp))) b).trans (taken b)
  refine ⟨ne, record ▸ empty, record ▸ clear, {
    kept := {
      frame := (frame.mono (by simp)).trans (given.frame.mono (by simp))
      crane := ?_
      cell := (final d).trans (if_neg ne.symm)
      stand := stand.trans given.stand
      grows := (QueuesGrow.of_frame frame (by simp)).trans given.grows }
    given := ⟨n, frame, given⟩
    cells := final }⟩
  obtain ⟨dl, crane, -⟩ := given.crane
  exact ⟨_, dl, by rw [crane, frame.crane c (by simp)]⟩

/-- A job stranded at its occupied drop cell: alone, or the store of a pair (R105). -/
def Stranded (s t : State) (c : CraneId) (a : AisleId) (e : End) (j : Job) (u : WorkUnit) (d : CellAddr) : Prop :=
  (u.steps.length ≤ u.current ∧ t = s.updJob j.handle fun x => { x with stranded := true })
    ∨ (u.current < u.steps.length
      ∧ ∃ g k, u.jobs = [j.handle, g] ∧ j.handle ≠ g ∧ s.job? g = some k ∧ PairStranded s t c a e j g k u d)

theorem DropsAt.stranded (hn : (s.atOccupied c j u x d p).newDropCell c j d = none) :
    OccupiedKept (s.atOccupied c j u x d p) ((s.atOccupied c j u x d p).redirectDrop c j u d) c d
      ∧ Stranded (s.atOccupied c j u x d p) ((s.atOccupied c j u x d p).redirectDrop c j u d) c a e j u d := by
  have reported := w.reported p
  have mapping := (w.mappings p c).trans w.mapping
  have unit := w.crane_unit p
  rw [redirectDrop_none hn]
  generalize s.atOccupied c j u x d p = m at *
  by_cases hc : u.current < u.steps.length
  · obtain ⟨g, k, jobs, ne, hk, partner⟩ := w.pair hc
    have live : ∀ f, m.job? f = s.job? f := reported.frame.job? (by simp)
    have known : (m.crane c).known = true := by rw [reported.crane]; exact w.configured
    have free : (m.cell d).state.isReserved = false := by
      have record : m.cell d = { state := .full (s.fit d), conflict := true } := by
        rw [reported.cell]
        exact if_pos rfl
      rw [record]
      rfl
    have pair := strandAt_pair (d := d) mapping unit known hc jobs ne ((live _).trans w.job) ((live _).trans hk) partner
      reported.map free
    obtain ⟨js, crane⟩ := pair.crane
    exact ⟨{
      frame := pair.frame.mono (by simp)
      crane := ⟨_, (m.crane c).deadline, crane⟩
      cell := pair.cell
      stand := pair.stand
      grows := .of_frame pair.frame (by simp) }, .inr ⟨hc, g, k, jobs, ne, (live g).trans hk, pair⟩⟩
  · rw [strandAt_alone (Nat.not_lt.mp hc)]
    have frame : Frame [.jobs] m (m.updJob j.handle fun x => { x with stranded := true }) :=
      (Frame.refl _ m).updJob _ _ (by simp)
    exact ⟨{
      frame := frame.mono (by simp)
      crane := ⟨(m.crane c).unit, (m.crane c).deadline, frame.crane c (by simp)⟩
      cell := frame.cell (by simp) (by simp) d
      stand := .of_eq (updJob_events ..)
      grows := .of_frame frame (by simp) }, .inl ⟨Nat.not_lt.mp hc, rfl⟩⟩

end Drops

/-- The job and the unit that O51 speaks of. -/
theorem dropsAt_of_laws (hm : (s.crane c).mapping = some (a, e)) (hs : (s.crane c).state = .working)
    (hu : (s.crane c).unit = some u) (hj : s.job? h = some j) (hmem : h ∈ u.jobs) (hx : u.remaining.head? = some x)
    (hxj : x.job = h) (hdrop : x.action = .drop) (hplace : x.place = .cell d) (hstr : j.stranded = false)
    (hcell : (s.cell d).state = .inReserved h) (laws : Lawful s) (work : WorkLawful s) :
    j.handle = h ∧ DropsAt s c a e j u x d := by
  obtain ⟨gen, slot⟩ := State.job?_eq_some.mp hj
  have handle : j.handle = h := by rw [laws.handle _ j slot, gen]
  subst handle
  have live : j ∈ s.jobs := State.mem_jobs.mpr ⟨_, slot⟩
  obtain ⟨-, -, -, each, -⟩ := work.steps c a e u hm hu
  have aisle : j.aisle = a := (each _ hmem j hj).1
  obtain ⟨-, nodup, members⟩ := work.unit.1 c u hu
  obtain ⟨k, hk, atWork, -⟩ := members _ hmem
  obtain rfl : j = k := Option.some.inj (hj.symm.trans hk)
  have open_ : j.state ≠ .closing := fun eq => by rw [eq] at atWork; cases atWork
  refine ⟨rfl, {
    mapping := hm
    state := hs
    unit := hu
    job := hj
    head := hx
    place := hplace
    cell := hcell
    map := laws.map
    aisle := aisle
    source := fun hk b hb => ?_
    configured := aisle ▸ (work.job j live).1
    pair := fun hc => ?_ }⟩
  · have held := (((work.reservation.2.2 j live open_).2 b) (by simp only [Job.sourceCell, hk, hb])).1
    unfold State.hasCell at held
    rw [aisle] at held
    cases hp : s.profile? a with
    | none => rw [hp] at held; cases held
    | some q =>
      simp only [hp, Bool.and_eq_true, decide_eq_true_eq] at held
      exact held.1
  · obtain ⟨g, k, jobs, hk, -, partner⟩ := pair_of_drop work.steps laws.handle hm hu hj hmem hx hxj hdrop hstr hc
    rw [jobs] at nodup
    exact ⟨g, k, jobs, by simpa using nodup, hk, partner⟩

theorem cellOccupied_eq (hx : x.place = .cell d) (s : State) (c : CraneId) (j : Job) (u : WorkUnit) (p : List Byte) :
    s.cellOccupied c j u x p = (s.atOccupied c j u x d p).redirectDrop c j u d := by
  have cell : x.cell? = some d := by rw [Step.cell?, hx]
  simp only [State.cellOccupied, cell]
  rfl

/-- What a job's new drop cell leaves (R104). -/
theorem DropsAt.redirected {q : Profile} (w : DropsAt s c a e j u x d) (p : List Byte) (hq : s.profile? a = some q)
    (hn : NewDropCell q s.ale.waste (s.occupiedCells d) (s.occupiedKeeps c a e u d q) j d new)
    (ht : t = (s.atOccupied c j u x d p).redirectDrop c j u d) :
    (s.cell new).state = .empty ∧ (s.cell new).conflict = false
      ∧ t.job? j.handle = some (if j.kind = .relocate then { j with target := some new }
          else { j with chosen := some new, destination := none })
      ∧ t.cell new = { state := .inReserved j.handle, conflict := false }
      ∧ (∀ b, b ≠ d → b ≠ new → t.cell b = s.cell b)
      ∧ (∀ g, g ≠ j.handle → t.job? g = s.job? g)
      ∧ (t.crane c).unit = some (u.replacePlace new)
      ∧ t.tx (.crane c) = s.tx (.crane c) ++ [.newDrop j.handle new]
      ∧ IntervalMoves s t a e (s.occupiedShrink c u d) (fun i => i.join (.at new.bay))
      ∧ (1 ≤ u.current → (t.crane c).deadline = some { step := u.current, expiry :=
          s.now + (stepEstimate q (cellPoint d) (.cell new) * s.crt.factor / 100 + 10000) })
      ∧ ∀ l, j.kind = .store → j.origin = .order l → (s.queue l).length + 1 < 32 →
          .storeRedirected j.handle j.reference d (some new) ∈ t.queue l := by
  have reported := w.reported p
  have mappings := w.mappings p
  have waiting := w.waiting p
  obtain ⟨ne, empty, clear, found⟩ := w.found p hq hn
  rw [← ht] at found
  obtain ⟨n, reserved, given⟩ := found.given
  obtain ⟨dl, crane, runs⟩ := given.crane
  have cells := found.cells
  have stand := found.kept.stand
  generalize s.atOccupied c j u x d p = m at *
  have until_ : Frame [.crane c, .rail, .cells, .queue, .events] s n := reported.frame.trans (reserved.mono (by simp))
  have live : ∀ f, n.job? f = s.job? f := until_.job? (by simp)
  have job := given.job j ((live _).trans w.job)
  have moves : IntervalMoves m t a e id fun i => i.join (.at new.bay) :=
    given.moves.earlier (reserved .rail (by simp)) (fun o => congrArg Crane.mapping (reserved.crane o (by simp)))
      fun o ho => by rw [reserved.crane o (by simp), ho]
  have old : ∀ b, b ≠ d → m.cell b = s.cell b := fun b hb => by rw [reported.cell]; exact if_neg hb
  refine ⟨empty, clear, ?_, ?_, fun b hd hb => ?_, fun g hg => ?_, ?_, ?_, ?_, fun hc => ?_, fun l hk ho room => ?_⟩
  · rw [job, if_pos rfl]
    cases hk : j.kind <;> simp [Job.redrop, hk]
  · rw [cells, if_pos rfl, old new ne]
    exact congrArg (Cell.mk (.inReserved j.handle)) clear
  · rw [cells, if_neg hb, old b hd]
  · rw [job, if_neg hg, live]
  · rw [crane]
  · rw [given.tx, until_.tx _ (by simp)]
  · exact reported.moves.comp moves mappings (fun o _ => waiting o) stand
  · rw [crane]
    have := runs q ((congrFun (until_.profile? (by simp)) a).trans hq) hc
    rw [until_.now (by simp), until_.factor (by simp)] at this
    exact this
  · refine given.note l hk ho ?_
    have queue : n.queue l = m.queue l := congrArg (fun q : PerLink (List Notice) => q.get l) (reserved .queue (by simp)).1
    rw [queue, reported.queue, List.length_append]
    refine Nat.lt_of_le_of_lt (Nat.add_le_add_left ?_ _) room
    split <;> simp

/-- What a stranding leaves (R105). -/
theorem DropsAt.strands (w : DropsAt s c a e j u x d) (p : List Byte)
    (hn : (s.atOccupied c j u x d p).newDropCell c j d = none)
    (ht : t = (s.atOccupied c j u x d p).redirectDrop c j u d) :
    (t.crane c).deadline = none
      ∧ (u.steps.length ≤ u.current → t.job? j.handle = some { j with stranded := true } ∧ (t.crane c).unit = some u
          ∧ t.tx (.crane c) = s.tx (.crane c) ∧ IntervalMoves s t a e (s.occupiedShrink c u d) id
          ∧ ∀ g, g ≠ j.handle → t.job? g = s.job? g)
      ∧ (u.current < u.steps.length →
          t.job? j.handle = some { j with stranded := true, partner := none }
          ∧ (t.crane c).unit.map (·.steps) = some (u.steps.take u.current)
          ∧ t.tx (.crane c) = s.tx (.crane c) ++ [.withdraw u.number u.current]
          ∧ IntervalMoves s t a e (fun i => (s.occupiedShrink c u d i).fallen d.bay (s.stepBays
              ((u.steps.take u.current).drop (u.current - 1) ++ (s.crane c).redirectSteps))) id
          ∧ ∀ g ∈ u.jobs, g ≠ j.handle → ∀ k, s.job? g = some k → ∃ k', t.job? g = some k' ∧ k'.state = .ready
              ∧ k'.unit = none ∧ k'.partner = none) := by
  have reported := w.reported p
  have mappings := w.mappings p
  have waiting := w.waiting p
  have unit := w.crane_unit p
  obtain ⟨kept, stranded⟩ := w.stranded p hn
  rw [← ht] at kept stranded
  generalize s.atOccupied c j u x d p = m at *
  have live : ∀ f, m.job? f = s.job? f := reported.frame.job? (by simp)
  have tx : m.tx (.crane c) = s.tx (.crane c) := reported.frame.tx _ (by simp)
  have idle : (m.crane c).deadline = none := by rw [reported.crane]; rfl
  rcases stranded with ⟨hc, rfl⟩ | ⟨hc, g, k, jobs, ne, hk, pair⟩
  · have frame : Frame [.jobs] m (m.updJob j.handle fun x => { x with stranded := true }) :=
      (Frame.refl _ m).updJob _ _ (by simp)
    have job := State.updJob_job ((live _).trans w.job) fun x => { x with stranded := true }
    refine ⟨by rw [frame.crane c (by simp), idle], fun _ => ⟨(job _).trans (if_pos rfl), ?_, ?_, ?_, fun g hg => ?_⟩,
      fun h => absurd hc (Nat.not_le.mpr h)⟩
    · rw [frame.crane c (by simp), unit]
    · rw [frame.tx _ (by simp), tx]
    · exact reported.moves.later (frame .rail (by simp)) kept.stand
    · rw [job, if_neg hg, live]
  · obtain ⟨js, crane⟩ := pair.crane
    refine ⟨by rw [crane]; exact idle, fun h => absurd hc (Nat.not_lt.mpr h), fun _ => ⟨?_, ?_, ?_, ?_, fun f hf hne k' hk' => ?_⟩⟩
    · rw [pair.job, if_neg ne, if_pos rfl]
    · rw [crane]
      rfl
    · rw [pair.tx, tx]
    · have moves := pair.moves
      simp only [State.stepBays, placePoint_congr (reported.frame.profile? (by simp))] at moves
      rw [reported.crane] at moves
      exact reported.moves.comp moves mappings (fun o _ => waiting o) pair.stand
    · rw [jobs, List.mem_cons, List.mem_singleton] at hf
      obtain rfl := hf.resolve_left hne
      exact ⟨k.returned, by rw [pair.job, if_pos rfl], rfl, rfl, rfl⟩

/-- Settles O51: the drop cell is corrected and reported, and the search on the map so corrected finds the job its new drop
cell or strands it. -/
theorem cellOccupiedRedirectsOrStrands : Obligations.CellOccupiedRedirectsOrStrands := by
  intro s c a e h j u x d hc hm hs hu hj hmem hx hxj hdrop hplace hstr hcell laws pool work
  obtain ⟨rfl, drops⟩ := dropsAt_of_laws hm hs hu hj hmem hx hxj hdrop hplace hstr hcell laws work
  let r := s.take (.cellOccupied c (encodeHandle j.handle))
  let p := encodeHandle j.handle
  have fits : ReportKind.cellOccupied.matchesStep x = true := by simp [ReportKind.matchesStep, hdrop, hplace]
  have w : DropsAt r c a e j u x d := { drops with }
  have run := congrArg (Host.Outcome.next (φ := Fault) (ρ := Refusal)) ((stepReport_fits hc hs hu hj hmem hx hxj hstr _ _ fits fun s j u x =>
    s.cellOccupied c j u x p).trans (cellOccupied_eq hplace r c j u p))
  generalize ht : (r.atOccupied c j u x d p).redirectDrop c j u d = t at run
  have reported := w.reported p
  obtain ⟨q, hq⟩ : ∃ q, s.profile? a = some q := Option.isSome_iff_exists.mp w.configured
  have kept : OccupiedKept (r.atOccupied c j u x d p) t c d := by
    cases hn : (r.atOccupied c j u x d p).newDropCell c j d with
    | none => exact ht ▸ (w.stranded p hn).1
    | some new => exact ht ▸ (w.found p hq ((w.search p hq new).mp hn)).2.2.2.kept
  obtain ⟨v, dl, crane⟩ := kept.crane
  have own := crane.trans (by rw [reported.crane])
  refine ⟨t, run, ?_, ?_, ?_, ?_, fun o ho => ?_, ?_, ?_, ?_, fun l active room => ?_, ?_,
    fun shrink q cells keeps hshrink hq hcells hkeeps => ⟨fun new hn => ?_, fun hno => ?_⟩, fun hk hdest hallowed => ?_⟩
  · rw [own]; rfl
  · rw [own]; rfl
  · rw [own]; rfl
  · rw [own]; exact hs
  · rw [kept.frame.crane o (by simp [ho]), reported.frame.crane o (by simp [ho])]
    rfl
  · rw [kept.frame.flg (by simp), reported.frame.flg (by simp)]
    rfl
  · rw [kept.cell, reported.cell]
    exact if_pos rfl
  · exact kept.stand _ reported.fault rfl
  · obtain ⟨more, grows⟩ := kept.grows l
    refine ⟨more, ?_⟩
    rw [grows, reported.queue, if_pos ⟨active, room⟩, List.append_assoc]
    rfl
  · exact reported.breach.later kept.stand
  · subst hshrink hcells hkeeps
    exact w.redirected p hq hn ht.symm
  · subst hshrink hcells hkeeps
    refine w.strands p (Option.eq_none_iff_forall_ne_some.mpr fun new hn => ?_) ht.symm
    exact hno new ((w.search p hq new).mp hn)
  · have none := Option.eq_none_iff_forall_ne_some.mpr fun new hn => by
      have found := (w.search p hq new).mp hn
      simp only [NewDropCell, hk, hdest, hallowed] at found
      simp at found
    obtain ⟨-, alone, pair⟩ := w.strands p none ht.symm
    by_cases hcur : u.current < u.steps.length
    · exact .inl (pair hcur).1
    · exact .inr (alone (Nat.not_lt.mp hcur)).1

end Sys2Proof.Machine
end
section
/-! What the end of a unit and the closing of jobs leave, however far the jobs that close with others reach: no crane moves
or gains a unit or a deadline, no free cell changes, and no job regains what it has lost (R52, R56, R57, R129). -/

namespace Sys2Proof.Machine

variable {r s t : State} {c : CraneId} {x : Option Handle} {g h : Handle} {j k : Job}

/-- A crane's record that keeps its place and gains no unit and no deadline. -/
structure Crane.Keeps (y z : Crane) : Prop where
  bay : z.bay = y.bay
  level : z.level = y.level
  known : z.known = y.known
  unit : y.unit = none → z.unit = none
  deadline : y.deadline = none → z.deadline = none

theorem Crane.Keeps.refl (y : Crane) : y.Keeps y := ⟨rfl, rfl, rfl, id, id⟩

theorem Crane.Keeps.trans {y z w : Crane} (h : y.Keeps z) (k : z.Keeps w) : y.Keeps w :=
  ⟨k.bay.trans h.bay, k.level.trans h.level, k.known.trans h.known, k.unit ∘ h.unit, k.deadline ∘ h.deadline⟩

/-- A job's record that regains nothing it has lost. -/
structure Job.Keeps (j k : Job) : Prop where
  handle : k.handle = j.handle
  waits : k.waitsFor = none ∨ k.waitsFor = j.waitsFor
  unit : j.unit = none → k.unit = none
  partner : j.partner = none → k.partner = none
  chosen : j.chosen = none → k.chosen = none
  candidates : ∀ b ∈ k.candidates, b ∈ j.candidates

theorem Job.Keeps.refl (j : Job) : j.Keeps j := ⟨rfl, .inr rfl, id, id, id, fun _ => id⟩

theorem Job.Keeps.trans {i : Job} (h : i.Keeps j) (k' : j.Keeps k) : i.Keeps k :=
  ⟨k'.handle.trans h.handle, k'.waits.elim .inl fun e => h.waits.elim (fun n => .inl (e.trans n)) fun n => .inr (e.trans n), k'.unit ∘ h.unit, k'.partner ∘ h.partner, k'.chosen ∘ h.chosen,
    fun b hb => h.candidates b (k'.candidates b hb)⟩

/-- A CLOSING record stays one, of its outcome. -/
def Job.StaysClosing (j k : Job) : Prop := j.state = .closing → k.state = .closing ∧ k.outcome = j.outcome

/-- The records of a state that regain nothing, that of the handle `x` staying CLOSING where it is. -/
structure Unwinds (x : Option Handle) (s t : State) : Prop where
  stand : EventsStand s t
  crane : ∀ c, (s.crane c).Keeps (t.crane c)
  cell : MapWf s → MapWf t ∧ ∀ b, (s.cell b).state.isReserved = false → t.cell b = s.cell b
  job : ∀ g k, t.job? g = some k → ∃ j, s.job? g = some j ∧ j.Keeps k ∧ (x = some g → j.StaysClosing k)

theorem Unwinds.refl (s : State) : Unwinds x s s where
  stand := .refl s
  crane := fun _ => .refl _
  cell := fun h => ⟨h, fun _ _ => rfl⟩
  job := fun _ k h => ⟨k, h, .refl k, fun _ hc => ⟨hc, rfl⟩⟩

theorem Unwinds.trans (h : Unwinds x r s) (k : Unwinds x s t) : Unwinds x r t where
  stand := h.stand.trans k.stand
  crane := fun c => (h.crane c).trans (k.crane c)
  cell := fun wf => by
    obtain ⟨wf', first⟩ := h.cell wf
    obtain ⟨wf'', second⟩ := k.cell wf'
    refine ⟨wf'', fun b hb => ?_⟩
    have same := first b hb
    exact (second b (by rw [same]; exact hb)).trans same
  job := fun g j hj => by
    obtain ⟨j', hj', keeps', stays'⟩ := k.job g j hj
    obtain ⟨i, hi, keeps, stays⟩ := h.job g j' hj'
    refine ⟨i, hi, keeps.trans keeps', fun hx hc => ?_⟩
    obtain ⟨closing, outcome⟩ := stays hx hc
    obtain ⟨closing', outcome'⟩ := stays' hx closing
    exact ⟨closing', outcome'.trans outcome⟩

theorem Unwinds.each {α : Type} {f : State → α → State} (hf : ∀ s y, Unwinds x s (f s y)) (ys : List α) (s : State) :
    Unwinds x s (s.each ys f) := by
  induction ys generalizing s with
  | nil => exact .refl s
  | cons y ys ih => exact (hf s y).trans (ih _)

/-! ## By the parts that change -/

/-- A part that is no crane's record, no job's and no cell's. -/
def Part.aside (p : Part) : Bool :=
  match p with
  | .crane _ | .cells | .jobs | .rest => false
  | _ => true

theorem Part.not_mem_of_aside {ps : List Part} (hp : ps.all Part.aside = true) {p : Part} (ha : p.aside = false) : p ∉ ps :=
  fun h => by
    have := List.all_eq_true.mp hp p h
    rw [ha] at this
    cases this

section Parts

variable {ps : List Part} (hf : Frame ps s t) (he : EventsStand s t)
include hf he

theorem Unwinds.of_jobs (hp : (ps.filter (· ≠ .jobs)).all Part.aside = true)
    (hj : ∀ g k, t.job? g = some k → ∃ j, s.job? g = some j ∧ j.Keeps k ∧ (x = some g → j.StaysClosing k)) :
    Unwinds x s t := by
  have out : ∀ p : Part, p.aside = false → p ≠ .jobs → p ∉ ps := fun p ha hne hm =>
    Part.not_mem_of_aside hp ha (List.mem_filter.mpr ⟨hm, decide_eq_true hne⟩)
  refine ⟨he, fun c => ?_, fun wf => ⟨fun a => ?_, fun b _ => hf.cell (out _ rfl (by simp)) (out _ rfl (by simp)) b⟩, hj⟩
  · rw [hf.crane c (out _ rfl (by simp))]
    exact .refl _
  · rw [hf .cells (out _ rfl (by simp)) a]
    exact wf a

theorem Unwinds.of_crane (c : CraneId) (hp : (ps.filter (· ≠ .crane c)).all Part.aside = true)
    (hc : (s.crane c).Keeps (t.crane c)) : Unwinds x s t := by
  have out : ∀ p : Part, p.aside = false → p ≠ .crane c → p ∉ ps := fun p ha hne hm =>
    Part.not_mem_of_aside hp ha (List.mem_filter.mpr ⟨hm, decide_eq_true hne⟩)
  refine ⟨he, fun d => ?_, fun wf => ⟨fun a => ?_, fun b _ => hf.cell (out _ rfl (by simp)) (out _ rfl (by simp)) b⟩,
    fun g k hk => ⟨k, by rw [← hf.job? (out _ rfl (by simp)) g, hk], .refl k, fun _ h => ⟨h, rfl⟩⟩⟩
  · by_cases hd : d = c
    · rw [hd]
      exact hc
    · rw [hf.crane d (out _ rfl (by simp [hd]))]
      exact .refl _
  · rw [hf .cells (out _ rfl (by simp)) a]
    exact wf a

theorem Unwinds.of_aside (hp : ps.all Part.aside = true) : Unwinds x s t := by
  refine .of_jobs hf he ?_ fun g k hk => ⟨k, by rw [← hf.job? (Part.not_mem_of_aside hp rfl) g, hk], .refl k,
    fun _ h => ⟨h, rfl⟩⟩
  exact List.all_eq_true.mpr fun p hm => List.all_eq_true.mp hp p (List.mem_filter.mp hm).1

end Parts

/-! ## Job records -/

theorem Unwinds.updJob (s : State) (g : Handle) (f : Job → Job) (hf : ∀ j, s.job? g = some j → j.Keeps (f j))
    (hx : ∀ j, s.job? g = some j → x = some g → j.StaysClosing (f j)) : Unwinds x s (s.updJob g f) := by
  refine .of_jobs (ps := [.jobs]) ((Frame.refl _ s).updJob g f (by simp)) (.of_eq (updJob_events s g f)) rfl fun i k hk => ?_
  cases hj : s.job? g with
  | none =>
    rw [State.updJob_of_none hj] at hk
    exact ⟨k, hk, .refl k, fun _ h => ⟨h, rfl⟩⟩
  | some j =>
    rw [State.updJob_job hj] at hk
    by_cases hi : i = g
    · rw [if_pos hi] at hk
      obtain rfl := Option.some.inj hk
      exact ⟨j, hi ▸ hj, hf j hj, fun h => hx j hj (hi ▸ h)⟩
    · rw [if_neg hi] at hk
      exact ⟨k, hk, .refl k, fun _ h => ⟨h, rfl⟩⟩

theorem Unwinds.dropPartner (s : State) (j : Job) : Unwinds x s (s.dropPartner j) := by
  unfold State.dropPartner
  cases j.partner with
  | none => exact .refl s
  | some q => exact .updJob s q _ (fun _ _ => ⟨rfl, .inr rfl, id, fun _ => rfl, id, fun _ => id⟩) fun _ _ _ h => ⟨h, rfl⟩

theorem Unwinds.clearWaits (s : State) (j : Job) : Unwinds x s (s.clearWaits j) := by
  unfold State.clearWaits
  cases j.served with
  | none => exact .refl s
  | some q =>
    refine .updJob s q _ (fun i _ => ?_) fun i _ _ h => ?_
    · by_cases hw : i.waitsFor = some j.handle
      · simp only [hw, if_true]
        exact ⟨rfl, .inl rfl, id, id, id, fun _ => id⟩
      · simp only [hw, if_false]
        exact .refl i
    · split <;> exact ⟨h, rfl⟩

theorem Unwinds.payNotice (s : State) (g : Handle) (l : OrderLink) (n : Notice) : Unwinds x s (s.payNotice g l n) := by
  unfold State.payNotice
  have queue : Unwinds x s (s.setQueue l (s.queue l ++ [n])) :=
    .of_aside ((Frame.refl [.queue] s).setQueue l _ (by simp)) (.of_eq rfl) rfl
  refine queue.trans (.updJob _ g _ ?_ ?_)
  · exact fun _ _ => ⟨rfl, .inr rfl, id, id, id, fun _ => id⟩
  · exact fun _ _ _ h => ⟨h, rfl⟩

theorem Unwinds.placeClosing (s : State) (g : Handle) (l : OrderLink) : Unwinds x s (s.placeClosing g l) := by
  unfold State.placeClosing
  cases (s.job? g).bind (·.notice) with
  | none => exact .refl s
  | some n =>
    by_cases hr : s.hasRoom l = true
    · simp only [hr, if_true]
      exact .payNotice s g l n
    · simp only [hr, Bool.false_eq_true, if_false]
      exact .of_aside (ps := [.pool]) ((Frame.refl _ s).setClosingWait l _ (by simp)) (.of_eq rfl) rfl

/-- A job that leaves the pool takes no other with it. -/
theorem leavePool_job (s : State) (h g : Handle) : (s.leavePool h).job? g = if g.slot = h.slot ∧ s.job? h ≠ none then none
    else s.job? g := by
  unfold State.leavePool
  cases hj : s.job? h with
  | none => simp
  | some j =>
    have vacated : (s.vacate h j).job? g = if g.slot = h.slot then none else s.job? g := by
      have count : ∀ (s : State) (o : Origin) (f : Nat → Nat), (s.countLive o f).job? g = s.job? g := fun s o f => by
        cases o <;> rfl
      unfold State.vacate
      refine (count ..).trans ?_
      unfold State.job?
      show (if ((s.setSlot h.slot _).slot g.slot).gen = g.gen then ((s.setSlot h.slot _).slot g.slot).job else none) = _
      rw [State.setSlot_slot]
      by_cases hs : g.slot = h.slot
      · simp [hs]
      · simp [hs]
    have last : Frame [.waves, .events] (s.vacate h j) (((s.vacate h j).waveLeft j.wave).reEvaluate fun x =>
        decide (x.kind = .retrieve) && decide (x.state = .pending) && decide (x.reason = some .noRelocSpace)) :=
      ((Frame.refl _ _).waveLeft _ (by simp)).reEvaluate _ (by simp)
    refine (last.job? (by simp) g).trans (vacated.trans ?_)
    simp

theorem Unwinds.leavePool (s : State) (h : Handle) : Unwinds x s (s.leavePool h) := by
  have stand : EventsStand s (s.leavePool h) := by
    unfold State.leavePool
    cases hj : s.job? h with
    | none => exact .refl s
    | some j =>
      have before : ((s.vacate h j).waveLeft j.wave).events = s.events :=
        ((Frame.refl [.waves] _).waveLeft _ (by simp) .events (by simp)).trans (by
          unfold State.vacate
          cases j.origin <;> rfl)
      exact (EventsStand.of_eq before).trans (.of_append rfl)
  refine .of_jobs ((Frame.refl [.jobs, .pool, .waves, .events] s).leavePool h (by simp)) stand rfl fun g k hk => ?_
  rw [leavePool_job] at hk
  split at hk
  · cases hk
  · exact ⟨k, hk, .refl k, fun _ h => ⟨h, rfl⟩⟩

theorem Unwinds.leaveIfPaid (s : State) (h : Handle) : Unwinds x s (s.leaveIfPaid h) := by
  unfold State.leaveIfPaid
  cases s.job? h with
  | none => exact .refl s
  | some j =>
    by_cases hp : j.owed = []
    · simp only [hp, if_true]
      exact .leavePool s h
    · simp only [hp, if_false]
      exact .refl s

theorem Unwinds.offerClosing (s : State) (h : Handle) : Unwinds x s (s.offerClosing h) := by
  unfold State.offerClosing
  cases s.job? h with
  | none => exact .refl s
  | some j => exact (Unwinds.each (fun s l => .placeClosing s h l) j.owed s).trans (.leaveIfPaid _ h)

/-! ## Cells and credits -/

theorem Unwinds.release (s : State) (b : CellAddr) (h : Handle) : Unwinds x s (s.release b h) := by
  have frame : Frame [.cells, .events] s (s.release b h) := (Frame.refl _ s).release b h (by simp)
  refine ⟨release_stand s b h, fun c => ?_, fun wf => ⟨((Changes.refl s).release b h).keep (fun _ _ => Change.mapWf) wf,
    fun d hd => release_cell wf b h hd⟩, fun g k hk => ⟨k, by rw [← frame.job? (by simp) g, hk], .refl k,
    fun _ h => ⟨h, rfl⟩⟩⟩
  rw [frame.crane c (by simp)]
  exact .refl _

theorem Unwinds.releaseOpt (s : State) (b : Option CellAddr) (h : Handle) : Unwinds x s (s.release? b h) := by
  cases b with
  | none => exact .refl s
  | some b => exact .release s b h

theorem Unwinds.updBound (s : State) (c : CraneId) (j : Job) (f : Credit → Credit) : Unwinds x s (s.updBound c j f) :=
  .of_aside ((Frame.refl [.credit, .events] s).updBound c j f (by simp)) (updBound_stand s c j f) rfl

theorem Unwinds.becameReady (s : State) (j : Job) : Unwinds x s (s.becameReady j) :=
  .of_aside ((Frame.refl [.events] s).becameReady j (by simp)) (becameReady_stand s j) rfl

theorem Unwinds.select (s : State) (a : AisleId) : Unwinds x s (s.select a) :=
  .of_aside ((Frame.refl [.events] s).select a (by simp)) (select_stand s a) rfl

/-! ## Cranes -/

theorem Unwinds.setCrane (s : State) (c : CraneId) (y : Crane) (hy : (s.crane c).Keeps y) : Unwinds x s (s.setCrane c y) := by
  refine .of_crane ((Frame.refl [.crane c] s).setCrane c y (by simp)) (.of_eq rfl) c (by simp) ?_
  rw [State.setCrane_crane, if_pos rfl]
  exact hy

theorem Unwinds.forget (s : State) {i : Instr} (hi : isExpiry i = true) : Unwinds x s (s.forget i) :=
  .of_aside ((Frame.refl [.events] s).forget i (by simp)) (.forget s hi) rfl

theorem Unwinds.stopDeadline (s : State) (c : CraneId) : Unwinds x s (s.stopDeadline c) :=
  (Unwinds.setCrane s c { s.crane c with deadline := none } ⟨rfl, rfl, rfl, id, fun _ => rfl⟩).trans (.forget _ rfl)

theorem Unwinds.stopOfferTimer (s : State) (c : CraneId) : Unwinds x s (s.stopOfferTimer c) :=
  (Unwinds.setCrane s c { s.crane c with offerTimer := none } ⟨rfl, rfl, rfl, id, id⟩).trans (.forget _ rfl)

theorem Unwinds.endRedirect (s : State) (c : CraneId) : Unwinds x s (s.endRedirect c) := by
  unfold State.endRedirect
  cases (s.crane c).redirect with
  | none => exact .refl s
  | some r =>
    have first : Unwinds x s ((s.setCrane c { s.crane c with redirect := none }).stopOfferTimer c) :=
      (Unwinds.setCrane s c { s.crane c with redirect := none } ⟨rfl, rfl, rfl, id, id⟩).trans (.stopOfferTimer _ c)
    refine first.trans ?_
    dsimp only
    generalize (s.setCrane c { s.crane c with redirect := none }).stopOfferTimer c = m
    cases hj : m.job? r.job with
    | none => exact .refl m
    | some j =>
      have same : ∀ i, m.job? r.job = some i → j = i := fun i hi => Option.some.inj (hj.symm.trans hi)
      have kept : j.chosen = none → j.keptCell = none := fun h => by
        unfold Job.keptCell
        cases j.kind <;> simp [h]
      refine Unwinds.trans (Unwinds.updJob m r.job _ (fun i hi => ?_) ?_) (Unwinds.trans (.releaseOpt _ j.pickCell r.job)
        (Unwinds.trans (.updBound _ c j _) (.select _ _)))
      · obtain rfl := same i hi
        exact ⟨rfl, .inr rfl, id, id, kept, fun _ => id⟩
      · exact fun _ _ _ h => ⟨h, rfl⟩

theorem Unwinds.send (s : State) (c : CraneId) (m : Message) : Unwinds x s (s.send (.crane c) m) :=
  .of_aside ((Frame.refl [.tx (.crane c)] s).send (.crane c) m (by simp)) (.of_eq rfl) rfl

theorem Unwinds.withdrawRedirect (s : State) (c : CraneId) : Unwinds x s (s.withdrawRedirect c) := by
  unfold State.withdrawRedirect
  cases (s.crane c).redirect with
  | none => exact .refl s
  | some r => exact (Unwinds.send s c _).trans (.endRedirect _ c)

theorem Unwinds.withdraw (s : State) (c : CraneId) (keep : Nat) : Unwinds x s (s.withdraw c keep) := by
  unfold State.withdraw
  cases hu : (s.crane c).unit with
  | none => exact .refl s
  | some u =>
    have first := Unwinds.send (x := x) s c (.withdraw u.number keep)
    have written := fun w => Unwinds.setCrane (x := x) (s.send (.crane c) (.withdraw u.number keep)) c
      { s.crane c with unit := some w } ⟨rfl, rfl, rfl, fun h => absurd (hu.symm.trans h) (by simp), id⟩
    dsimp only
    split
    · exact (first.trans (written _)).trans (.stopDeadline _ c)
    · exact first.trans (written _)

theorem Unwinds.fall (s : State) (c : CraneId) (bs : List Nat) : Unwinds x s (s.fall c bs) :=
  .of_aside ((Frame.refl [.rail, .events] s).fall c bs (by simp)) (fall_stand s c bs) rfl

theorem Unwinds.endUnit (s : State) (c : CraneId) : Unwinds x s (s.endUnit c) := by
  unfold State.endUnit
  exact ((Unwinds.setCrane s c { s.crane c with unit := none } ⟨rfl, rfl, rfl, fun _ => rfl, id⟩).trans
    (.stopDeadline _ c)).trans ((Unwinds.stopOfferTimer _ c).trans ((Unwinds.withdrawRedirect _ c).trans (.fall _ c _)))

end Sys2Proof.Machine
end
section
/-! The end of a unit and the state its crane goes to (R128, R129, R144, R173). -/

namespace Sys2Proof.Machine

variable {r s t : State} {c : CraneId} {a : AisleId} {e : End} {x : Option Handle}

/-! ## A change of a crane's state -/

theorem Unwinds.ite {p : Prop} [Decidable p] (h : Unwinds x r s) (k : Unwinds x r t) : Unwinds x r (if p then s else t) := by
  split <;> assumption

theorem endClaim_stand (s : State) (a : AisleId) (e : End) : EventsStand s (s.endClaim a e) := by
  unfold State.endClaim
  cases (s.rail a).bind fun r => (r.get e).claim with
  | none => exact .refl s
  | some k => exact (EventsStand.of_eq (updEntry_events s a e _)).trans (select_stand _ a)

theorem leaveWaiting_stand (s : State) (c : CraneId) : EventsStand s (s.leaveWaiting c) := by
  have stopped : EventsStand s (s.stopHoldBack c) := EventsStand.forget (s.setHoldBack c _) rfl
  unfold State.leaveWaiting
  dsimp only
  cases ((s.stopHoldBack c).crane c).mapping with
  | none => exact stopped
  | some m => exact stopped.trans (endClaim_stand _ m.1 m.2)

theorem checkRail_stand (s : State) (a : AisleId) : EventsStand s (s.checkRail a) := by
  unfold State.checkRail
  split
  · exact .refl s
  · exact raiseFault_stand s _ _ _ _ _

theorem testPending_stand (s : State) (a : AisleId) : EventsStand s (s.testPending a) := by
  unfold State.testPending
  cases (s.aisle a).profile with
  | none => exact .refl s
  | some p =>
    cases (s.aisle a).pendingProfile with
    | none => exact .refl s
    | some q =>
      dsimp only
      split
      · exact .refl s
      · refine EventsStand.trans (EventsStand.trans ?_ (select_stand _ a)) (checkRail_stand _ a)
        exact .of_eq (offerNotice_events _ _ _)

theorem Unwinds.leaveWaiting (s : State) (c : CraneId) : Unwinds x s (s.leaveWaiting c) :=
  .of_aside ((Frame.refl [.rail, .holdBack, .events] s).leaveWaiting c (by simp)) (leaveWaiting_stand s c) rfl

theorem Unwinds.setParkOwed (s : State) (c : CraneId) (b : Bool) : Unwinds x s (s.setParkOwed c b) :=
  .of_aside ((Frame.refl [.parkOwed] s).setParkOwed c b (by simp)) (.of_eq rfl) rfl

theorem Unwinds.testPending (s : State) (a : AisleId) : Unwinds x s (s.testPending a) :=
  .of_aside ((Frame.refl [.profiles, .queue, .events] s).testPending a (by simp)) (testPending_stand s a) rfl

theorem Unwinds.testHold (s : State) (a : AisleId) : Unwinds x s (s.testHold a) :=
  .of_aside ((Frame.refl [.holds, .queue] s).testHold a (by simp)) (testHold_stand s a) rfl

/-- What follows a crane's change of state in its aisle (R9, R68, R174). -/
def State.settled (s : State) (a : AisleId) (pending idle : Prop) [Decidable pending] [Decidable idle] : State :=
  let s := if pending then s.testPending a else s
  (if idle then s.select a else s).testHold a

/-- The record of a crane that enters a state (R128). -/
def Crane.entering (y : Crane) (target : CraneState) : Crane :=
  { y with
    state := y.destination target
    leaveService := y.leaveService && decide (y.destination target ≠ .outOfService) }

/-- The state in which a crane has entered a state and its aisle has not yet been tested. -/
def State.entering (s : State) (c : CraneId) (target : CraneState) : State :=
  let m := s.setCrane c ((s.crane c).entering target)
  let m := if (s.crane c).state = .waiting ∧ (s.crane c).destination target ≠ .waiting then m.leaveWaiting c else m
  if (s.crane c).destination target = .working ∨ (s.crane c).destination target = .clearing then m
  else m.setParkOwed c false

theorem enterState_mapped (hm : (s.crane c).mapping = some (a, e)) (target : CraneState) : s.enterState c target =
    (s.entering c target).settled a
      ((s.crane c).state.busy = true ∧ (s.crane c).destination target ≠ (s.crane c).state)
      ((s.crane c).destination target = .idle ∧ (s.crane c).state ≠ .idle) := by
  simp only [State.enterState, hm, State.settled, State.entering, Crane.entering]

theorem enterState_unmapped (hm : (s.crane c).mapping = none) (target : CraneState) :
    s.enterState c target = s.entering c target := by
  simp only [State.enterState, hm, State.entering, Crane.entering]

theorem Unwinds.entering (s : State) (c : CraneId) (target : CraneState) : Unwinds x s (s.entering c target) := by
  have first : Unwinds x s (s.setCrane c ((s.crane c).entering target)) := .setCrane s c _ ⟨rfl, rfl, rfl, id, id⟩
  have second := Unwinds.ite (p := (s.crane c).state = .waiting ∧ (s.crane c).destination target ≠ .waiting)
    (first.trans (.leaveWaiting _ c)) first
  exact second.ite (second.trans (.setParkOwed _ c false))

theorem Unwinds.settled (s : State) (a : AisleId) (p q : Prop) [Decidable p] [Decidable q] :
    Unwinds x s (s.settled a p q) := by
  have first := Unwinds.ite (p := p) (Unwinds.testPending (x := x) s a) (.refl s)
  exact (Unwinds.ite (first.trans (.select _ a)) first).trans (.testHold _ a)

theorem Unwinds.enterState (s : State) (c : CraneId) (target : CraneState) : Unwinds x s (s.enterState c target) := by
  cases hm : (s.crane c).mapping with
  | none =>
    rw [enterState_unmapped hm]
    exact .entering s c target
  | some m =>
    rw [enterState_mapped (a := m.1) (e := m.2) hm]
    exact (Unwinds.entering s c target).trans (.settled _ _ _ _)

/-! ## PARK, or IDLE -/

theorem Unwinds.leaveBackoff (s : State) (c : CraneId) : Unwinds x s (s.leaveBackoff c) := by
  have stopped : Unwinds x s (s.stopBackoffTimer c) :=
    (Unwinds.setCrane s c { s.crane c with backoffTimer := none } ⟨rfl, rfl, rfl, id, id⟩).trans (.forget _ rfl)
  exact Unwinds.ite (stopped.trans (.setCrane _ c _ ⟨rfl, rfl, rfl, id, id⟩)) (.refl s)

theorem tellPark_stand (s : State) (c : CraneId) : EventsStand s (s.tellPark c) :=
  .of_eq ((Frame.refl [.rail, .tx (.crane c)] s).tellPark c (by simp) .events (by simp))

theorem Unwinds.tellPark (s : State) (c : CraneId) : Unwinds x s (s.tellPark c) :=
  .of_aside ((Frame.refl [.rail, .tx (.crane c)] s).tellPark c (by simp)) (tellPark_stand s c) rfl

theorem Unwinds.startParkTimer (s : State) (c : CraneId) : Unwinds x s (s.startParkTimer c) :=
  (Unwinds.setCrane s c { s.crane c with parkTimer := some (s.now + s.crt.tPark) } ⟨rfl, rfl, rfl, id, id⟩).trans
    (.forget _ rfl)

theorem Unwinds.sendPark (s : State) (c : CraneId) : Unwinds x s (s.sendPark c) := by
  have first := Unwinds.leaveBackoff (x := x) s c
  exact Unwinds.ite (first.trans (.enterState _ c _))
    (first.trans ((Unwinds.tellPark _ c).trans ((Unwinds.startParkTimer _ c).trans (.enterState _ c _))))

theorem Unwinds.goIdle (s : State) (c : CraneId) : Unwinds x s (s.goIdle c) :=
  .ite (.sendPark s c) (.enterState s c _)

theorem Unwinds.finishUnit (s : State) (c : CraneId) : Unwinds x s (s.finishUnit c) :=
  (Unwinds.endUnit s c).trans (.goIdle _ c)

/-! ## What a crane's change of state puts into the queues -/

/-- Some notices offered to distinct links add one to a queue at most. -/
theorem each_offerNotice_length (n : State → OrderLink → Notice) (ls : List OrderLink) (hn : ls.Nodup) (s : State)
    (m : OrderLink) : ((s.each ls fun s l => s.offerNotice l (n s l)).queue m).length
      ≤ (s.queue m).length + if m ∈ ls then 1 else 0 := by
  induction ls generalizing s with
  | nil => exact Nat.le_refl _
  | cons l ls ih =>
    obtain ⟨out, nodup⟩ := List.nodup_cons.mp hn
    have rest := ih nodup (s.offerNotice l (n s l))
    have first : ((s.offerNotice l (n s l)).queue m).length ≤ (s.queue m).length + if m = l then 1 else 0 := by
      rw [State.offerNotice_queue]
      split
      · next h => simp [h.1]
      · omega
    show (((s.offerNotice l (n s l)).each ls fun s l => s.offerNotice l (n s l)).queue m).length ≤ _
    by_cases hml : m = l
    · rw [if_neg (hml ▸ out)] at rest
      rw [if_pos hml] at first
      simp only [hml, List.mem_cons, true_or, if_true] at rest first ⊢
      omega
    · rw [if_neg hml] at first
      simp only [List.mem_cons, hml, false_or]
      omega

/-- At most so many notices join each queue. -/
def QueuesAtMost (n : Nat) (s t : State) : Prop := ∀ l, (t.queue l).length ≤ (s.queue l).length + n

theorem QueuesAtMost.of_frame {ps : List Part} (h : Frame ps s t) (hp : .queue ∉ ps) : QueuesAtMost 0 s t := fun l =>
  Nat.le_of_eq (congrArg (fun q : PerLink (List Notice) => (q.get l).length) (h .queue hp).1)

theorem QueuesAtMost.trans {m n : Nat} (h : QueuesAtMost m r s) (k : QueuesAtMost n s t) : QueuesAtMost (m + n) r t :=
  fun l => by
    have := h l
    have := k l
    omega

theorem testPending_queues (s : State) (a : AisleId) : QueuesAtMost 1 s (s.testPending a) := by
  unfold State.testPending
  cases (s.aisle a).profile with
  | none => exact fun l => Nat.le_succ _
  | some p =>
    cases (s.aisle a).pendingProfile with
    | none => exact fun l => Nat.le_succ _
    | some q =>
      dsimp only
      split
      · exact fun l => Nat.le_succ _
      · refine QueuesAtMost.trans (m := 1) (n := 0) (fun l => ?_) (.of_frame (ps := [.events])
          (((Frame.refl _ _).select a (by simp)).checkRail a (by simp)) (by simp))
        rw [State.offerNotice_queue]
        split
        · next h =>
          rw [h.1, List.length_append]
          exact Nat.le_refl _
        · exact Nat.le_succ _

theorem testHold_queues (s : State) (a : AisleId) : QueuesAtMost 1 s (s.testHold a) := by
  have enter : QueuesAtMost 1 s (s.enterHeld a) := fun m => by
    refine (each_offerNotice_length (fun s _ => .holdGranted a (s.hold a).sources) _ (List.Nodup.filter _ (by decide))
      (s.setHoldState a .held) m).trans ?_
    refine Nat.add_le_add_left ?_ _
    split <;> decide
  unfold State.testHold
  cases (s.hold a).state with
  | draining => dsimp only; split; exacts [enter, fun l => Nat.le_succ _]
  | held => dsimp only; split <;> exact fun l => Nat.le_succ _
  | isOpen | unconfigured => exact fun l => Nat.le_succ _

theorem settled_queues (s : State) (a : AisleId) (p q : Prop) [Decidable p] [Decidable q] :
    QueuesAtMost 2 s (s.settled a p q) := by
  have first : QueuesAtMost 1 s (if p then s.testPending a else s) := by
    split
    · exact testPending_queues s a
    · exact fun l => Nat.le_succ _
  have second : QueuesAtMost 1 s (if q then (if p then s.testPending a else s).select a
      else if p then s.testPending a else s) := by
    split
    · exact first.trans (n := 0) (.of_frame ((Frame.refl [.events] _).select a (by simp)) (by simp))
    · exact first
  exact second.trans (testHold_queues _ a)

/-! ## The end of the work of a WORKING crane -/

/-- A crane that is not WAITING enters a state. -/
theorem entering_moving (hs : (s.crane c).state ≠ .waiting) (target : CraneState) : s.entering c target =
    if (s.crane c).destination target = .working ∨ (s.crane c).destination target = .clearing then
      s.setCrane c ((s.crane c).entering target)
    else (s.setCrane c ((s.crane c).entering target)).setParkOwed c false := by
  have waits : ((s.crane c).state = .waiting ∧ (s.crane c).destination target ≠ .waiting) = False :=
    eq_false fun h => hs h.1
  simp only [State.entering, waits, if_false]

theorem entering_frame (hs : (s.crane c).state ≠ .waiting) (target : CraneState) :
    Frame [.crane c, .parkOwed] s (s.entering c target) := by
  have first : Frame [.crane c, .parkOwed] s (s.setCrane c ((s.crane c).entering target)) :=
    (Frame.refl _ s).setCrane c _ (by simp)
  rw [entering_moving hs]
  exact first.ite (first.setParkOwed c _ (by simp))

theorem entering_crane (hs : (s.crane c).state ≠ .waiting) (target : CraneState) :
    (s.entering c target).crane c = (s.crane c).entering target := by
  rw [entering_moving hs]
  split <;> exact (State.setCrane_crane s c c _).trans (if_pos rfl)

theorem settled_frame (s : State) (a : AisleId) (p q : Prop) [Decidable p] [Decidable q] :
    Frame [.holds, .profiles, .queue, .events] s (s.settled a p q) := by
  have first : Frame [.holds, .profiles, .queue, .events] s (if p then s.testPending a else s) :=
    ((Frame.refl _ s).testPending a (by simp)).ite (.refl _ s)
  exact ((first.select a (by simp)).ite first).testHold a (by simp)

/-- What the entry of a mapped crane that is not WAITING to a state does. -/
structure StateEntered (s t : State) (c : CraneId) (target : CraneState) : Prop where
  frame : Frame [.crane c, .parkOwed, .holds, .profiles, .queue, .events] s t
  crane : t.crane c = (s.crane c).entering target
  stand : EventsStand s t
  queues : QueuesAtMost 2 s t

theorem enterState_entered (hm : (s.crane c).mapping = some (a, e)) (hs : (s.crane c).state ≠ .waiting)
    (target : CraneState) : StateEntered s (s.enterState c target) c target := by
  have stand := (Unwinds.enterState (x := none) s c target).stand
  rw [enterState_mapped hm] at stand ⊢
  have first := entering_frame hs target
  have last := settled_frame (s.entering c target) a
    ((s.crane c).state.busy = true ∧ (s.crane c).destination target ≠ (s.crane c).state)
    ((s.crane c).destination target = .idle ∧ (s.crane c).state ≠ .idle)
  exact {
    frame := (first.mono (by simp)).trans (last.mono (by simp))
    crane := (last.crane c (by simp)).trans (entering_crane hs target)
    stand := stand
    queues := (QueuesAtMost.of_frame first (by simp)).trans (settled_queues _ a _ _) }

/-- What the end of the work of a WORKING crane does: it goes to its state, its interval widened where it is sent PARK. -/
structure WorkEnded (s t : State) (c : CraneId) (a : AisleId) (e : End) : Prop where
  state : (t.crane c).state = s.afterWork c
  moves : IntervalMoves s t a e id (s.parkWidened c (s.afterWork c))
  queues : QueuesAtMost 2 s t

section Working

variable (hm : (s.crane c).mapping = some (a, e)) (hs : (s.crane c).state = .working)
include hm hs

omit hm hs in
/-- The interval stands where no PARK is sent. -/
theorem workEnded_of_entered {target : CraneState} (h : StateEntered s t c target)
    (hd : (s.crane c).destination target = s.afterWork c) (hp : s.afterWork c ≠ .parking) : WorkEnded s t c a e where
  state := by rw [h.crane]; exact hd
  moves := by
    have widen : s.parkWidened c (s.afterWork c) = id := by
      funext i
      unfold State.parkWidened
      cases hx : s.afterWork c <;> first | rfl | exact absurd hx hp
    rw [widen]
    exact (IntervalMoves.refl s a e).later (h.frame .rail (by simp)) h.stand
  queues := h.queues

theorem goIdle_ended : WorkEnded s (s.goIdle c) c a e := by
  have moving : (s.crane c).state ≠ .waiting := by rw [hs]; decide
  have stays : s.leaveBackoff c = s := if_neg (by rw [hs]; decide)
  cases hl : (s.crane c).leaveService with
  | true =>
    have after : s.afterWork c = .outOfService := if_pos hl
    have leaves : ∀ target : CraneState, target.leaveDiverts = true → (s.crane c).destination target = .outOfService :=
      fun target h => if_pos (by rw [hl, h]; rfl)
    have form : s.goIdle c = if s.parkOwed c then s.enterState c .parking else s.enterState c .idle := by
      unfold State.goIdle State.sendPark
      simp only [stays, hl, if_true]
    rw [form]
    split
    · exact workEnded_of_entered (enterState_entered hm moving .parking) ((leaves _ rfl).trans after.symm) (by simp [after])
    · exact workEnded_of_entered (enterState_entered hm moving .idle) ((leaves _ rfl).trans after.symm) (by simp [after])
  | false =>
    have goes : ∀ target : CraneState, (s.crane c).destination target = target :=
      fun target => if_neg (by simp [hl])
    by_cases hp : s.parkOwed c = true
    · have after : s.afterWork c = .parking := by simp [State.afterWork, hl, hp]
      have form : s.goIdle c = ((s.tellPark c).startParkTimer c).enterState c .parking := by
        unfold State.goIdle State.sendPark
        simp only [hp, if_true, stays, hl, Bool.false_eq_true, if_false]
      have told : Frame [.rail, .tx (.crane c)] s (s.tellPark c) := (Frame.refl _ s).tellPark c (by simp)
      have timed : Frame [.crane c, .events] (s.tellPark c) ((s.tellPark c).startParkTimer c) :=
        (Frame.refl _ _).startParkTimer c (by simp)
      have own : ∃ n, ((s.tellPark c).startParkTimer c).crane c = { s.crane c with parkTimer := n } :=
        ⟨_, (State.setCrane_crane _ c c _).trans ((if_pos rfl).trans (by rw [told.crane c (by simp)]))⟩
      obtain ⟨n, own⟩ := own
      have entered := enterState_entered (s := (s.tellPark c).startParkTimer c) (c := c) (a := a) (e := e)
        (by rw [own]; exact hm) (by rw [own]; exact moving) .parking
      have destination : (((s.tellPark c).startParkTimer c).crane c).destination .parking = .parking := by
        rw [own]
        exact if_neg (by simp [hl])
      have widen : s.parkWidened c .parking = fun i => i.join (.at (s.parkEnd a e)) := by
        funext i
        simp only [State.parkWidened, hm]
      have rail : IntervalMoves s (s.tellPark c) a e id fun i => i.join (.at (s.parkEnd a e)) := by
        have sent := widenToPark_rail (s := s.send (.crane c) .park) hm
        refine ⟨fun r hr => ⟨(sent a).trans ((if_pos rfl).trans ?_), fun h => absurd rfl h⟩, fun hr => ?_, fun b hb => ?_⟩
        · rw [show (s.send (.crane c) .park).rail a = some r from hr]
          rfl
        · refine (sent a).trans ((if_pos rfl).trans ?_)
          rw [show (s.send (.crane c) .park).rail a = none from hr]
          rfl
        · exact (sent b).trans (if_neg hb)
      rw [form]
      refine ⟨?_, ?_, ?_⟩
      · rw [entered.crane, after]
        exact destination
      · rw [after, widen]
        exact rail.later ((entered.frame .rail (by simp)).trans (timed .rail (by simp)))
          ((Unwinds.startParkTimer (x := none) _ c).stand.trans entered.stand)
      · exact ((QueuesAtMost.of_frame told (by simp)).trans (.of_frame timed (by simp))).trans entered.queues
    · have after : s.afterWork c = .idle := by simp [State.afterWork, hl, hp]
      have form : s.goIdle c = s.enterState c .idle := if_neg hp
      rw [form]
      exact workEnded_of_entered (enterState_entered hm moving .idle) ((goes _).trans after.symm) (by simp [after])

end Working

end Sys2Proof.Machine
end
section
/-! The end of a WORKING crane's unit, whole (R129, R173). -/

namespace Sys2Proof.Machine

variable {r s t : State} {c : CraneId} {a : AisleId} {e : End} {x : Option Handle} {g h : Handle} {j k : Job}

/-- No redirect of the crane is promised to a job. -/
def State.notPromised (s : State) (c : CraneId) (g : Handle) : Prop := ∀ r, (s.crane c).redirect = some r → r.job ≠ g

theorem endRedirect_none (hr : (s.crane c).redirect = none) : s.endRedirect c = s := by
  unfold State.endRedirect
  rw [hr]

/-- The record and the promise of a crane whose redirect ends. -/
def State.redirectDropped (s : State) (c : CraneId) : State :=
  (s.setCrane c { s.crane c with redirect := none }).stopOfferTimer c

theorem redirectDropped_crane (s : State) (c : CraneId) :
    (s.redirectDropped c).crane c = { s.crane c with redirect := none, offerTimer := none } := by
  have first : (s.setCrane c { s.crane c with redirect := none }).crane c = { s.crane c with redirect := none } :=
    (State.setCrane_crane s c c _).trans (if_pos rfl)
  unfold State.redirectDropped
  rw [stopOfferTimer_crane, if_pos rfl, first]

theorem endRedirect_some {q : Redirect} (hr : (s.crane c).redirect = some q) :
    Frame [.cells, .jobs, .credit, .events] (s.redirectDropped c) (s.endRedirect c)
      ∧ ∀ g, q.job ≠ g → (s.endRedirect c).job? g = s.job? g := by
  have first : Frame [.crane c, .events] s (s.redirectDropped c) :=
    ((Frame.refl _ s).setCrane c _ (by simp)).stopOfferTimer c (by simp)
  cases hj : (s.redirectDropped c).job? q.job with
  | none =>
    have form : s.endRedirect c = s.redirectDropped c := by
      unfold State.redirectDropped at hj
      simp only [State.endRedirect, hr, hj]
      rfl
    rw [form]
    exact ⟨.refl _ _, fun g _ => first.job? (by simp) g⟩
  | some j =>
    have form : s.endRedirect c = ((((s.redirectDropped c).updJob q.job fun x =>
        { x with promised := none, chosen := j.keptCell }).release? j.pickCell q.job).updBound c j Credit.unbind).select j.aisle := by
      unfold State.redirectDropped at hj
      simp only [State.endRedirect, hr, hj]
      rfl
    rw [form]
    have last : Frame [.cells, .credit, .events] ((s.redirectDropped c).updJob q.job fun x =>
        { x with promised := none, chosen := j.keptCell }) _ :=
      (((Frame.refl _ _).release_q j.pickCell q.job (by simp)).updBound c j Credit.unbind (by simp)).select j.aisle (by simp)
    refine ⟨((Frame.refl _ _).updJob _ _ (by simp)).trans (last.mono (by simp)), fun g hg => ?_⟩
    rw [last.job? (by simp), State.updJob_job hj, if_neg hg.symm, first.job? (by simp)]

/-- What the end of a crane's redirect leaves of its record and of the jobs it was not promised to. -/
theorem withdrawRedirect_leaves (s : State) (c : CraneId) :
    (∃ o, (s.withdrawRedirect c).crane c = { s.crane c with redirect := none, offerTimer := o })
      ∧ ∀ g, s.notPromised c g → (s.withdrawRedirect c).job? g = s.job? g := by
  cases hr : (s.crane c).redirect with
  | none =>
    have form : s.withdrawRedirect c = s := by
      unfold State.withdrawRedirect
      rw [hr]
    rw [form]
    exact ⟨⟨(s.crane c).offerTimer, by rw [← hr]⟩, fun _ _ => rfl⟩
  | some q =>
    have form : s.withdrawRedirect c = (s.send (.crane c) (.withdraw q.number 0)).endRedirect c := by
      unfold State.withdrawRedirect
      rw [hr]
    obtain ⟨frame, job⟩ := endRedirect_some (s := s.send (.crane c) (.withdraw q.number 0)) (c := c) hr
    rw [form]
    exact ⟨⟨none, (frame.crane c (by simp)).trans (redirectDropped_crane _ c)⟩, fun g hg => job g (hg q hr)⟩

/-- The record of a crane whose unit has ended (R129). -/
def Crane.unitless (y : Crane) : Crane := { y with unit := none, deadline := none, redirect := none }

/-- What the end of a unit does (R129). -/
structure UnitGone (s t : State) (c : CraneId) (a : AisleId) (e : End) : Prop where
  frame : Frame [.crane c, .rail, .cells, .jobs, .credit, .tx (.crane c), .events] s t
  crane : ∃ o, t.crane c = { (s.crane c).unitless with offerTimer := o }
  job : ∀ g, s.notPromised c g → t.job? g = s.job? g
  moves : IntervalMoves s t a e (fun i => i.fallen (s.craneBay c) []) id

theorem craneBay_unitless {o : Option Nat} (hc : t.crane c = { (s.crane c).unitless with offerTimer := o })
    (hp : t.profile? = s.profile?) : t.craneBay c = s.craneBay c := by
  have ends : t.stationPoint = s.stationPoint := by
    funext b f
    simp only [State.stationPoint, parkEnd_congr hp]
  unfold State.craneBay State.cranePoint
  rw [hc, ends]
  rfl

theorem endUnit_gone (hm : (s.crane c).mapping = some (a, e)) : UnitGone s (s.endUnit c) c a e := by
  let m := ((s.setCrane c { s.crane c with unit := none }).stopDeadline c).stopOfferTimer c
  have start : Frame [.crane c, .events] s m :=
    (((Frame.refl _ s).setCrane c _ (by simp)).stopDeadline c (by simp)).stopOfferTimer c (by simp)
  have own : m.crane c = { s.crane c with unit := none, deadline := none, offerTimer := none } := by
    have first : (s.setCrane c { s.crane c with unit := none }).crane c = { s.crane c with unit := none } :=
      (State.setCrane_crane s c c _).trans (if_pos rfl)
    have second : ((s.setCrane c { s.crane c with unit := none }).stopDeadline c).crane c =
        { s.crane c with unit := none, deadline := none } :=
      (State.setCrane_crane _ c c _).trans ((if_pos rfl).trans (by rw [first]))
    exact (stopOfferTimer_crane c).trans ((if_pos rfl).trans (by rw [second]))
  have form : s.endUnit c = (m.withdrawRedirect c).fall c [] := rfl
  rw [form]
  generalize m = m at *
  have ended : Frame [.crane c, .cells, .jobs, .credit, .tx (.crane c), .events] m (m.withdrawRedirect c) :=
    (Frame.refl _ m).withdrawRedirect c (by simp)
  obtain ⟨⟨o, crane⟩, job⟩ := withdrawRedirect_leaves m c
  generalize m.withdrawRedirect c = n at *
  have fell : Frame [.rail, .events] n (n.fall c []) := (Frame.refl _ n).fall c [] (by simp)
  have until_ : Frame [.crane c, .cells, .jobs, .credit, .tx (.crane c), .events] s n := (start.mono (by simp)).trans ended
  have record : n.crane c = { (s.crane c).unitless with offerTimer := o } := by rw [crane, own]; rfl
  have bay := craneBay_unitless record (until_.profile? (by simp))
  have mapped : (n.crane c).mapping = some (a, e) := by rw [record]; exact hm
  have moves := fall_moves mapped []
  rw [bay] at moves
  have same : ∀ d, (n.crane d).mapping = (s.crane d).mapping ∧ (n.crane d).state = (s.crane d).state := fun d => by
    by_cases hd : d = c
    · rw [hd, record]
      exact ⟨rfl, rfl⟩
    · rw [until_.crane d (by simp [hd])]
      exact ⟨rfl, rfl⟩
  exact {
    frame := (until_.mono (by simp)).trans (fell.mono (by simp))
    crane := ⟨o, (fell.crane c (by simp)).trans record⟩
    job := fun g hg => by
      rw [fell.job? (by simp), job g fun q hq => hg q (by rw [own] at hq; exact hq), start.job? (by simp)]
    moves := moves.earlier (until_ .rail (by simp)) (fun d => (same d).1) fun d => (same d).2.trans }

/-- What the end of a WORKING crane's unit and the state it goes to leave (R129, R173). -/
structure UnitFinished (s t : State) (c : CraneId) (a : AisleId) (e : End) : Prop where
  frame : Frame [.crane c, .rail, .holdBack, .parkOwed, .holds, .profiles, .cells, .jobs, .credit, .tx (.crane c), .queue,
    .events] s t
  unit : (t.crane c).unit = none
  deadline : (t.crane c).deadline = none
  state : (t.crane c).state = s.afterWork c
  moves : IntervalMoves s t a e (fun i => i.fallen (s.craneBay c) []) (s.parkWidened c (s.afterWork c))
  job : ∀ g, s.notPromised c g → t.job? g = s.job? g
  queues : QueuesAtMost 2 s t

theorem finishUnit_finished (hm : (s.crane c).mapping = some (a, e)) (hs : (s.crane c).state = .working) :
    UnitFinished s (s.finishUnit c) c a e := by
  have gone := endUnit_gone hm
  have frame : Frame [.crane c, .rail, .holdBack, .parkOwed, .holds, .profiles, .cells, .jobs, .credit, .tx (.crane c),
    .queue, .events] s (s.finishUnit c) := (Frame.refl _ s).finishUnit c (by simp)
  rw [State.finishUnit] at frame ⊢
  generalize s.endUnit c = m at *
  obtain ⟨o, crane⟩ := gone.crane
  have ended := goIdle_ended (s := m) (c := c) (a := a) (e := e) (by rw [crane]; exact hm) (by rw [crane]; exact hs)
  have keeps := Unwinds.goIdle (x := none) m c
  have idle : Frame [.crane c, .rail, .holdBack, .parkOwed, .holds, .profiles, .tx (.crane c), .queue, .events] m
      (m.goIdle c) := (Frame.refl _ m).goIdle c (by simp)
  have owed : m.parkOwed c = s.parkOwed c := congrArg (fun v : Vector Bool 12 => v[c]) (gone.frame .parkOwed (by simp))
  have after : m.afterWork c = s.afterWork c := by
    unfold State.afterWork
    rw [owed, crane]
    rfl
  have widened : m.parkWidened c (s.afterWork c) = s.parkWidened c (s.afterWork c) := by
    funext i
    unfold State.parkWidened
    rw [crane, parkEnd_congr (gone.frame.profile? (by simp))]
    rfl
  have moves := ended.moves
  rw [after, widened] at moves
  have same : ∀ d, (m.crane d).mapping = (s.crane d).mapping ∧ (m.crane d).state = (s.crane d).state := fun d => by
    by_cases hd : d = c
    · rw [hd, crane]
      exact ⟨rfl, rfl⟩
    · rw [gone.frame.crane d (by simp [hd])]
      exact ⟨rfl, rfl⟩
  exact {
    frame := frame
    unit := (keeps.crane c).unit (by rw [crane]; rfl)
    deadline := (keeps.crane c).deadline (by rw [crane]; rfl)
    state := ended.state.trans after
    moves := gone.moves.comp moves (fun d => (same d).1) (fun d _ => (same d).2.trans) keeps.stand
    job := fun g hg => (idle.job? (by simp) g).trans (gone.job g hg)
    queues := (QueuesAtMost.of_frame gone.frame (by simp)).trans ended.queues }

end Sys2Proof.Machine
end
section
/-! The closing of jobs and the evaluation of retrieves, as far as they may reach (R48, R56, R57), and what they do where
no relocation is cancelled with them. -/

namespace Sys2Proof.Machine

variable {r s t : State} {c : CraneId} {x : Option Handle} {g h q : Handle} {j k : Job}

/-! ## How far a closing reaches -/

/-- The job `x`, where one is named, is CLOSING or gone. -/
def Closing (x : Option Handle) (s : State) : Prop := ∀ h, x = some h → ∀ j, s.job? h = some j → j.state = .closing

theorem Closing.none (s : State) : Closing none s := fun _ h => by cases h

theorem Unwinds.closing (h : Unwinds x s t) (hc : Closing x s) : Closing x t := fun g hg k hk => by
  obtain ⟨j, hj, -, stays⟩ := h.job g k hk
  exact (stays hg (hc g hg j hj)).1

theorem Changes.handleLaw (h : Changes s t) (hs : HandleLaw s) : HandleLaw t := h.keep (fun _ _ => Change.handleLaw) hs

theorem job?_handle (hl : HandleLaw s) (hj : s.job? h = some j) : j.handle = h := by
  obtain ⟨gen, slot⟩ := State.job?_eq_some.mp hj
  rw [hl _ j slot, gen]

/-- A relocation that may be cancelled is not the job `x`. -/
theorem cancelledWith_ne (hl : HandleLaw s) (hc : Closing x s) (hr : s.cancelledWith j = some k) : x ≠ some k.handle := by
  intro hx
  obtain ⟨found, early⟩ := Option.filter_eq_some_iff.mp hr
  obtain ⟨w, -, hk⟩ := Option.bind_eq_some_iff.mp found
  rw [job?_handle hl hk] at hx
  rw [hc w hx k hk] at early
  simp at early

/-- The record of a job that enters CLOSING (R56). -/
def Job.closed (j : Job) (o : JobOutcome) (moved : Bool) (owed : List OrderLink) : Job :=
  { j with
    state := .closing
    reason := none
    unit := none
    partner := none
    promised := none
    outcome := some o
    notice := some (j.closingNotice o moved)
    owed := owed }

/-- The records when a job enters CLOSING, the rest of it being two releases and the credit. -/
def State.closedRecord (s : State) (j : Job) (h : Handle) (o : JobOutcome) (moved : Bool) : State :=
  (s.dropPartner j).updJob h fun x => { x with
    state := .closing
    reason := none
    unit := none
    partner := none
    promised := none
    outcome := some o
    notice := some (j.closingNotice o moved)
    owed := s.owedLinks j }

/-- The credit of the station that a job which closes was bound for. -/
def State.closedCredit (s : State) (j : Job) (f : Credit → Credit) : State :=
  match j.unit with
  | some u => s.updBound u.crane j f
  | none => s

theorem closeStart_eq (hj : s.job? h = some j) (o : JobOutcome) (moved : Bool) (f : Credit → Credit) :
    s.closeStart h o moved f =
      (((s.closedRecord j h o moved).release? j.chosen h).release? j.target h).closedCredit j f := by
  have owed : (s.dropPartner j).owedLinks j = s.owedLinks j := by
    have active : (s.dropPartner j).activeLinks = s.activeLinks := by
      unfold State.dropPartner
      cases j.partner with
      | none => rfl
      | some q =>
        dsimp only
        rw [State.updJob_slots]
        rfl
    unfold State.owedLinks
    rw [active]
  unfold State.closeStart
  simp only [hj, owed]
  rfl

theorem Unwinds.closedCredit (s : State) (j : Job) (f : Credit → Credit) : Unwinds x s (s.closedCredit j f) := by
  unfold State.closedCredit
  cases j.unit with
  | none => exact .refl s
  | some u => exact .updBound s u.crane j f

theorem Unwinds.closedRecord (s : State) (j : Job) (o : JobOutcome) (moved : Bool) (hx : x ≠ some h) :
    Unwinds x s (s.closedRecord j h o moved) := by
  refine (Unwinds.dropPartner s j).trans (.updJob _ h _ ?_ ?_)
  · exact fun _ _ => ⟨rfl, .inr rfl, fun _ => rfl, fun _ => rfl, id, fun _ => id⟩
  · exact fun _ _ e => absurd e hx

theorem Unwinds.closeStart (s : State) (o : JobOutcome) (moved : Bool) (f : Credit → Credit) (hx : x ≠ some h) :
    Unwinds x s (s.closeStart h o moved f) := by
  cases hj : s.job? h with
  | none =>
    have stays : s.closeStart h o moved f = s := by
      unfold State.closeStart
      rw [hj]
    rw [stays]
    exact .refl s
  | some j =>
    rw [closeStart_eq hj]
    exact ((Unwinds.closedRecord s j o moved hx).trans (.releaseOpt _ _ h)).trans
      ((Unwinds.releaseOpt _ _ h).trans (.closedCredit _ j f))

/-- The redirect promised to a relocation that is cancelled ends. -/
def State.promiseWithdrawn (s : State) (k : Job) : State :=
  match k.promised with
  | some u => s.withdrawRedirect u.crane
  | none => s

/-- The unit of a relocation that is cancelled is withdrawn. -/
def State.unitWithdrawn (s : State) (k : Job) : State :=
  match k.unit with
  | some u => s.withdraw u.crane 0
  | none => s

theorem cancelRelocation_eq (s : State) (k : Job) : s.cancelRelocation k =
    (((s.promiseWithdrawn k).unitWithdrawn k).closeStart k.handle .cancelled false Credit.unbind).clearWaits k := rfl

theorem Unwinds.promiseWithdrawn (s : State) (k : Job) : Unwinds x s (s.promiseWithdrawn k) := by
  unfold State.promiseWithdrawn
  cases k.promised with
  | none => exact .refl s
  | some u => exact .withdrawRedirect s u.crane

theorem Unwinds.unitWithdrawn (s : State) (k : Job) : Unwinds x s (s.unitWithdrawn k) := by
  unfold State.unitWithdrawn
  cases k.unit with
  | none => exact .refl s
  | some u => exact .withdraw s u.crane 0

theorem Unwinds.cancelRelocation (s : State) (hx : x ≠ some k.handle) : Unwinds x s (s.cancelRelocation k) := by
  rw [cancelRelocation_eq]
  exact ((Unwinds.promiseWithdrawn s k).trans (.unitWithdrawn _ k)).trans
    ((Unwinds.closeStart _ .cancelled false _ hx).trans (.clearWaits _ k))

theorem Unwinds.closeRetrieveStart (s : State) (o : JobOutcome) (f : Credit → Credit) (hl : HandleLaw s)
    (hc : Closing x s) (hx : x ≠ some h) : Unwinds x s (s.closeRetrieveStart h o f) := by
  unfold State.closeRetrieveStart
  cases hj : s.job? h with
  | none => exact .refl s
  | some j =>
    dsimp only
    cases hr : s.cancelledWith j with
    | none => exact .closeStart s o false f hx
    | some k => exact (Unwinds.closeStart s o false f hx).trans (.cancelRelocation _ (cancelledWith_ne hl hc hr))

theorem Unwinds.closeRetrieveEnd (s : State) (h : Handle) (y : Option Job) : Unwinds x s (s.closeRetrieveEnd h y) := by
  have first := Unwinds.offerClosing (x := x) s h
  unfold State.closeRetrieveEnd
  cases y with
  | none => exact first
  | some k =>
    dsimp only
    cases k.unit with
    | none => exact first.trans (.offerClosing _ _)
    | some u => exact first.trans ((Unwinds.offerClosing _ _).trans (.finishUnit _ u.crane))

theorem Unwinds.pend (s : State) (h : Handle) (y : PendingReason) (hx : x ≠ some h) : Unwinds x s (s.pend h y) :=
  .updJob s h _ (fun _ _ => ⟨rfl, .inr rfl, id, id, id, fun _ => id⟩) fun _ _ e => absurd e hx

theorem Unwinds.keepCandidates (s : State) (h : Handle) (cs : List CellAddr)
    (hcs : ∀ j, s.job? h = some j → ∀ b ∈ cs, b ∈ j.candidates) : Unwinds x s (s.keepCandidates h cs) :=
  .updJob s h _ (fun j hj => ⟨rfl, .inr rfl, id, id, id, hcs j hj⟩) fun _ _ _ e => ⟨e, rfl⟩

theorem Unwinds.raise (s : State) (i : Instr) : Unwinds x s (s.raise i) :=
  .of_aside ((Frame.refl [.events] s).raise i (by simp)) (.of_append rfl) rfl

theorem Unwinds.evaluateKept (s : State) (j : Job) (cs : List CellAddr) (hx : x ≠ some h) :
    Unwinds x s (s.evaluateKept h j cs) := by
  have ready : Unwinds x s (s.updJob h fun j => { j with state := .ready, reason := none }) :=
    .updJob s h _ (fun _ _ => ⟨rfl, .inr rfl, id, id, id, fun _ => id⟩) fun _ _ e => absurd e hx
  have pend := fun y => Unwinds.pend s h y hx
  unfold State.evaluateKept
  dsimp only
  exact .ite (pend _) (.ite (.ite (ready.trans (.becameReady _ j)) ready)
    (.ite (pend _) (.ite ((pend _).trans (.raise _ _)) (pend _))))

/-- The candidates an evaluation keeps are among the old ones. -/
theorem kept_subset (s : State) (j : Job) : ∀ b ∈ s.kept j, b ∈ j.candidates := fun _ hb => (List.mem_filter.mp hb).1

theorem isEvaluated_state (h : j.isEvaluated = true) : j.state = .pending ∨ j.state = .ready := by
  simp only [Job.isEvaluated, Bool.and_eq_true, Bool.or_eq_true, decide_eq_true_eq] at h
  exact h.1.2

theorem ne_of_evaluated (hc : Closing x s) (hj : s.job? h = some j) (he : j.isEvaluated = true) : x ≠ some h := fun hx => by
  rcases isEvaluated_state he with e | e <;> rw [hc h hx j hj] at e <;> cases e

theorem Unwinds.keepOwn (hj : s.job? h = some j) {cs : List CellAddr} (hcs : ∀ b ∈ cs, b ∈ j.candidates) :
    Unwinds x s (s.keepCandidates h cs) := by
  refine .keepCandidates s h cs fun i hi => ?_
  obtain rfl := Option.some.inj (hj.symm.trans hi)
  exact hcs

theorem Unwinds.evaluate (s : State) (h : Handle) (hl : HandleLaw s) (hc : Closing x s) : Unwinds x s (s.evaluate h) := by
  unfold State.evaluate
  cases hj : s.job? h with
  | none => exact .refl s
  | some j =>
    dsimp only
    cases he : j.isEvaluated with
    | false => exact .refl s
    | true =>
      have hx := ne_of_evaluated hc hj he
      have first := Unwinds.keepOwn (x := x) hj (kept_subset s j)
      have law : HandleLaw (s.keepCandidates h (s.kept j)) := ((Changes.refl s).keepCandidates h _).handleLaw hl
      have closes : Unwinds x (s.keepCandidates h (s.kept j)) ((s.keepCandidates h (s.kept j)).closeRetrieve h .noStock id) :=
        (Unwinds.closeRetrieveStart _ .noStock id law (first.closing hc) hx).trans (.closeRetrieveEnd _ h _)
      simp only [if_true]
      exact .ite (first.trans closes) (first.trans (.evaluateKept _ j _ hx))

theorem Unwinds.evaluateServed (s : State) (q h : Handle) (hl : HandleLaw s) (hc : Closing x s) :
    Unwinds x s (s.evaluateServed q h) := by
  unfold State.evaluateServed
  cases hj : s.job? q with
  | none => exact .offerClosing s h
  | some j =>
    dsimp only
    by_cases he : j.isEvaluated = true ∧ s.kept j = []
    · have hx := ne_of_evaluated hc hj he.1
      have first := Unwinds.keepOwn (x := x) (cs := []) hj (by simp)
      have law : HandleLaw (s.keepCandidates q []) := ((Changes.refl s).keepCandidates q _).handleLaw hl
      rw [if_pos he]
      exact first.trans ((Unwinds.closeRetrieveStart _ .noStock id law (first.closing hc) hx).trans
        ((Unwinds.offerClosing _ h).trans (.closeRetrieveEnd _ q _)))
    · rw [if_neg he]
      exact (Unwinds.evaluate s q hl hc).trans (.offerClosing _ h)

theorem Unwinds.endRelocation (s : State) (h : Handle) (j : Job) (hl : HandleLaw s) (hc : Closing x s) :
    Unwinds x s (s.endRelocation h j) := by
  have first := Unwinds.clearWaits (x := x) s j
  have law : HandleLaw (s.clearWaits j) := ((Changes.refl s).clearWaits j).handleLaw hl
  unfold State.endRelocation
  dsimp only
  cases j.served with
  | none => exact first.trans (.offerClosing _ h)
  | some q => exact first.trans (.evaluateServed _ q h law (first.closing hc))

end Sys2Proof.Machine
end
section
/-! Where the notice of a job that closes goes, and what the evaluation of a retrieve that waits for no relocation comes to
(R48, R56, R58). -/

namespace Sys2Proof.Machine

variable {r s t : State} {c : CraneId} {x : Option Handle} {g h q : Handle} {j k : Job} {l m : OrderLink} {ls : List OrderLink} {n : Notice}

/-! ## The record of a job that closes -/

theorem dropPartner_own (hj : s.job? h = some k) (j : Job) : ∃ y, (s.dropPartner j).job? h = some { k with partner := y } := by
  unfold State.dropPartner
  cases j.partner with
  | none => exact ⟨k.partner, hj⟩
  | some q =>
    dsimp only
    cases hq : s.job? q with
    | none =>
      rw [State.updJob_of_none hq]
      exact ⟨k.partner, hj⟩
    | some i =>
      rw [State.updJob_job hq]
      by_cases hh : h = q
      · subst hh
        obtain rfl := Option.some.inj (hj.symm.trans hq)
        exact ⟨none, if_pos rfl⟩
      · exact ⟨k.partner, (if_neg hh).trans hj⟩

theorem closedCredit_frame (s : State) (j : Job) (f : Credit → Credit) : Frame [.credit, .events] s (s.closedCredit j f) := by
  unfold State.closedCredit
  cases j.unit with
  | none => exact .refl _ s
  | some u => exact (Frame.refl _ s).updBound u.crane j f (by simp)

theorem closedRecord_frame (s : State) (j : Job) (h : Handle) (o : JobOutcome) (moved : Bool) :
    Frame [.jobs] s (s.closedRecord j h o moved) :=
  ((Frame.refl _ s).dropPartner j (by simp)).updJob h _ (by simp)

/-- A job that enters CLOSING. -/
theorem closeStart_own (hj : s.job? h = some j) (o : JobOutcome) (moved : Bool) (f : Credit → Credit) :
    (s.closeStart h o moved f).job? h = some (j.closed o moved (s.owedLinks j)) := by
  obtain ⟨y, own⟩ := dropPartner_own hj j
  rw [closeStart_eq hj]
  have first : Frame [.cells, .events] (s.closedRecord j h o moved)
      (((s.closedRecord j h o moved).release? j.chosen h).release? j.target h) :=
    ((Frame.refl _ _).release_q _ h (by simp)).release_q _ h (by simp)
  rw [(closedCredit_frame _ j f).job? (by simp), first.job? (by simp)]
  exact (State.updJob_job own _ h).trans (if_pos rfl)

/-! ## The notice due on a job -/

/-- The notice of a job and the links it is still owed on. -/
def State.dues (s : State) (h : Handle) : Option (Option Notice × List OrderLink) := (s.job? h).map fun k => (k.notice, k.owed)

theorem dues_congr (h : t.job? g = s.job? g) : t.dues g = s.dues g := congrArg _ h

theorem updJob_dues (g : Handle) {f : Job → Job} (hf : ∀ k, (f k).notice = k.notice ∧ (f k).owed = k.owed) (s : State)
    (h : Handle) : (s.updJob g f).dues h = s.dues h := by
  cases hg : s.job? g with
  | none => rw [State.updJob_of_none hg]
  | some k =>
    unfold State.dues
    rw [State.updJob_job hg]
    by_cases hh : h = g
    · rw [if_pos hh, hh, hg]
      simp [hf k]
    · rw [if_neg hh]

theorem dropPartner_dues (s : State) (j : Job) (h : Handle) : (s.dropPartner j).dues h = s.dues h := by
  unfold State.dropPartner
  cases j.partner with
  | none => rfl
  | some q =>
    dsimp only
    refine updJob_dues q ?_ s h
    exact fun _ => ⟨rfl, rfl⟩

/-- A job that enters CLOSING leaves the notice of another. -/
theorem closeStart_dues (s : State) (hne : h ≠ q) (o : JobOutcome) (moved : Bool) (f : Credit → Credit) :
    (s.closeStart q o moved f).dues h = s.dues h := by
  cases hj : s.job? q with
  | none =>
    have stays : s.closeStart q o moved f = s := by
      unfold State.closeStart
      rw [hj]
    rw [stays]
  | some j =>
    obtain ⟨y, own⟩ := dropPartner_own hj j
    have first : Frame [.cells, .events] (s.closedRecord j q o moved)
        (((s.closedRecord j q o moved).release? j.chosen q).release? j.target q) :=
      ((Frame.refl _ _).release_q _ q (by simp)).release_q _ q (by simp)
    rw [closeStart_eq hj, dues_congr ((closedCredit_frame _ j f).job? (by simp) h), dues_congr (first.job? (by simp) h)]
    refine (dues_congr ?_).trans (dropPartner_dues s j h)
    exact (State.updJob_job own _ h).trans (if_neg hne)

theorem clearWaits_dues (s : State) (j : Job) (h : Handle) : (s.clearWaits j).dues h = s.dues h := by
  unfold State.clearWaits
  cases j.served with
  | none => rfl
  | some q =>
    refine updJob_dues q (fun k => ?_) s h
    split <;> exact ⟨rfl, rfl⟩

/-! ## The placement of a closing notice -/

theorem placeClosing_paid (hk : s.job? h = some k) (hn : k.notice = some n) (room : s.hasRoom l = true) :
    s.placeClosing h l = s.payNotice h l n := by
  simp only [State.placeClosing, hk, Option.bind_some, hn, room, if_true]

theorem placeClosing_full (hk : s.job? h = some k) (hn : k.notice = some n) (room : s.hasRoom l = false) :
    s.placeClosing h l = s.setClosingWait l (s.jpl.closingWait.get l ++ [h]) := by
  simp only [State.placeClosing, hk, Option.bind_some, hn, room, Bool.false_eq_true, if_false]

theorem payNotice_job (hk : s.job? h = some k) (l : OrderLink) (n : Notice) :
    (s.payNotice h l n).job? h = some { k with owed := k.owed.filter (· ≠ l) } := by
  have queued : (s.setQueue l (s.queue l ++ [n])).job? h = some k := hk
  exact (State.updJob_job queued _ h).trans (if_pos rfl)

theorem payNotice_queue (s : State) (h : Handle) (l m : OrderLink) (n : Notice) :
    (s.payNotice h l n).queue m = if m = l then s.queue l ++ [n] else s.queue m := by
  have last : Frame [.jobs] (s.setQueue l (s.queue l ++ [n])) (s.payNotice h l n) := (Frame.refl _ _).updJob h _ (by simp)
  refine (congrArg (fun q : PerLink (List Notice) => q.get m) (last .queue (by simp)).1).trans ?_
  exact State.setQueue_queue s l m _

theorem placeClosing_queue (hk : s.job? h = some k) (hn : k.notice = some n) (l m : OrderLink) :
    (s.placeClosing h l).queue m = if m = l ∧ s.hasRoom l = true then s.queue l ++ [n] else s.queue m := by
  cases room : s.hasRoom l with
  | true =>
    rw [placeClosing_paid hk hn room, payNotice_queue]
    simp
  | false =>
    rw [placeClosing_full hk hn room, if_neg fun h => by cases h.2]
    rfl

theorem placeClosing_notice (hk : s.job? h = some k) (hn : k.notice = some n) (l : OrderLink) :
    ∃ k', (s.placeClosing h l).job? h = some k' ∧ k'.notice = some n := by
  cases room : s.hasRoom l with
  | true =>
    rw [placeClosing_paid hk hn room]
    exact ⟨_, payNotice_job hk l n, hn⟩
  | false =>
    rw [placeClosing_full hk hn room]
    exact ⟨k, hk, hn⟩

/-- A link without a place for it is passed over; on the others the notice is placed. -/
theorem each_placeClosing_mem (hk : s.job? h = some k) (hn : k.notice = some n) (hm : m ∈ ls)
    (room : s.hasRoom m = true) : n ∈ (s.each ls fun s l => s.placeClosing h l).queue m := by
  have grows : ∀ (ls : List OrderLink) (s : State), QueuesGrow s (s.each ls fun s l => s.placeClosing h l) := fun ls =>
    QueuesGrow.each ls fun s l => by
      cases hd : (s.job? h).bind (·.notice) with
      | none => simp only [State.placeClosing, hd]; exact .refl s
      | some n =>
        obtain ⟨k, hk, hn⟩ := Option.bind_eq_some_iff.mp hd
        intro m
        rw [placeClosing_queue hk hn]
        split
        · next e => exact ⟨[n], by rw [e.1]⟩
        · exact ⟨[], (List.append_nil _).symm⟩
  induction ls generalizing s k with
  | nil => cases hm
  | cons l ls ih =>
    show n ∈ ((s.placeClosing h l).each ls fun s l => s.placeClosing h l).queue m
    obtain ⟨k', hk', hn'⟩ := placeClosing_notice hk hn l
    by_cases hml : m = l
    · obtain ⟨more, later⟩ := grows ls (s.placeClosing h l) m
      rw [later, placeClosing_queue hk hn, if_pos ⟨hml, hml ▸ room⟩]
      exact List.mem_append_left _ (List.mem_append_right _ (List.mem_singleton_self n))
    · have still : (s.placeClosing h l).hasRoom m = true := by
        rw [State.hasRoom, placeClosing_queue hk hn, if_neg fun e => hml e.1]
        exact room
      exact ih hk' hn' ((List.mem_cons.mp hm).resolve_left hml) still

/-- Where every link has a place, the job is owed nothing any longer. -/
theorem each_placeClosing_paid (hl : ls.Nodup) (hk : s.job? h = some k) (hn : k.notice = some n)
    (room : ∀ l ∈ ls, s.hasRoom l = true) :
    ∃ k', (s.each ls fun s l => s.placeClosing h l).job? h = some k' ∧ ∀ l ∈ k'.owed, l ∈ k.owed ∧ l ∉ ls := by
  induction ls generalizing s k with
  | nil => exact ⟨k, hk, fun l hl => ⟨hl, by simp⟩⟩
  | cons l ls ih =>
    obtain ⟨out, nodup⟩ := List.nodup_cons.mp hl
    have here := room l (by simp)
    have job := payNotice_job hk l n
    have later : ∀ m ∈ ls, (s.payNotice h l n).hasRoom m = true := fun m hm => by
      rw [State.hasRoom, payNotice_queue, if_neg fun (e : m = l) => out (e ▸ hm)]
      exact room m (by simp [hm])
    obtain ⟨k', hk', owed⟩ := ih nodup job hn later
    refine ⟨k', ?_, fun m hm => ?_⟩
    · show ((s.placeClosing h l).each ls fun s l => s.placeClosing h l).job? h = _
      rw [placeClosing_paid hk hn here]
      exact hk'
    · obtain ⟨mem, out'⟩ := owed m hm
      obtain ⟨mem', ne⟩ := List.mem_filter.mp mem
      refine ⟨mem', fun h => ?_⟩
      rcases List.mem_cons.mp h with e | e
      · exact of_decide_eq_true ne e
      · exact out' e

theorem leaveIfPaid_queue (s : State) (h : Handle) (m : OrderLink) : (s.leaveIfPaid h).queue m = s.queue m :=
  congrArg (fun q : PerLink (List Notice) => q.get m)
    ((Frame.refl [.jobs, .pool, .waves, .events] s).leaveIfPaid h (by simp) .queue (by simp)).1

theorem offerClosing_eq (hk : s.job? h = some k) :
    s.offerClosing h = (s.each k.owed fun s l => s.placeClosing h l).leaveIfPaid h := by
  simp only [State.offerClosing, hk]

/-- The notice joins the queue of every link owed that has a place (R58). -/
theorem offerClosing_mem (hd : s.dues h = some (some n, ls)) (hm : m ∈ ls) (room : s.hasRoom m = true) :
    n ∈ (s.offerClosing h).queue m := by
  obtain ⟨k, hk, due⟩ := Option.map_eq_some_iff.mp hd
  obtain ⟨hn, rfl⟩ := Prod.mk.injEq .. ▸ due
  rw [offerClosing_eq hk, leaveIfPaid_queue]
  exact each_placeClosing_mem hk hn hm room

/-- With a place on every link owed the job leaves the pool (R58). -/
theorem offerClosing_leaves (hd : s.dues h = some (some n, ls)) (hl : ls.Nodup) (room : ∀ l ∈ ls, s.hasRoom l = true) :
    (s.offerClosing h).job? h = none := by
  obtain ⟨k, hk, due⟩ := Option.map_eq_some_iff.mp hd
  obtain ⟨hn, rfl⟩ := Prod.mk.injEq .. ▸ due
  obtain ⟨k', hk', owed⟩ := each_placeClosing_paid hl hk hn room
  have paid : k'.owed = [] := List.eq_nil_iff_forall_not_mem.mpr fun l hm => (owed l hm).2 (owed l hm).1
  rw [offerClosing_eq hk]
  simp only [State.leaveIfPaid, hk', paid, if_true]
  rw [leavePool_job, if_pos ⟨rfl, by simp [hk']⟩]

/-- Without a place on the one link owed the job stays (R58). -/
theorem offerClosing_stays (hk : s.job? h = some k) (hn : k.notice = some n) (ho : k.owed = [l])
    (room : s.hasRoom l = false) : (s.offerClosing h).job? h = some k := by
  have placed : (s.each k.owed fun s l => s.placeClosing h l) = s.setClosingWait l (s.jpl.closingWait.get l ++ [h]) := by
    rw [ho]
    exact placeClosing_full hk hn room
  have still : (s.setClosingWait l (s.jpl.closingWait.get l ++ [h])).job? h = some k := hk
  have owed : k.owed ≠ [] := by simp [ho]
  rw [offerClosing_eq hk, placed]
  simp only [State.leaveIfPaid, still, owed, if_false]

/-! ## The evaluation of a retrieve that waits for no relocation -/

theorem cancelledWith_none (hw : j.waitsFor = none) (s : State) : s.cancelledWith j = none := by
  simp [State.cancelledWith, hw]

/-- A retrieve that closes with no relocation to cancel. -/
theorem closeRetrieve_alone (hj : s.job? h = some j) (hw : j.waitsFor = none) (o : JobOutcome) (f : Credit → Credit) :
    s.closeRetrieve h o f = (s.closeStart h o false f).offerClosing h := by
  simp only [State.closeRetrieve, State.closeRetrieveStart, State.closeRetrieveEnd, hj, Option.bind_some,
    cancelledWith_none hw]

theorem keepCandidates_own (hj : s.job? h = some j) (cs : List CellAddr) :
    (s.keepCandidates h cs).job? h = some { j with candidates := cs } :=
  (State.updJob_job hj _ h).trans (if_pos rfl)

/-- What an evaluation of such a retrieve comes to (R48). -/
theorem evaluate_alone (hj : s.job? h = some j) (hw : j.waitsFor = none) :
    (j.isEvaluated = false ∧ s.evaluate h = s)
      ∨ (j.isEvaluated = true ∧ s.kept j = []
        ∧ s.evaluate h = ((s.keepCandidates h []).closeStart h .noStock false id).offerClosing h)
      ∨ (j.isEvaluated = true ∧ s.kept j ≠ []
        ∧ s.evaluate h = (s.keepCandidates h (s.kept j)).evaluateKept h j (s.kept j)) := by
  cases he : j.isEvaluated with
  | false => exact .inl ⟨rfl, by simp [State.evaluate, hj, he]⟩
  | true =>
    refine .inr ?_
    have form : s.evaluate h = if s.kept j = [] then (s.keepCandidates h (s.kept j)).closeRetrieve h .noStock id
        else (s.keepCandidates h (s.kept j)).evaluateKept h j (s.kept j) := by
      simp only [State.evaluate, hj, he, if_true]
    by_cases hk : s.kept j = []
    · refine .inl ⟨rfl, hk, ?_⟩
      rw [form, if_pos hk, hk, closeRetrieve_alone (keepCandidates_own hj []) hw]
    · exact .inr ⟨rfl, hk, by rw [form, if_neg hk]⟩

theorem evaluate_alone_frame (hj : s.job? h = some j) (hw : j.waitsFor = none) :
    Frame [.cells, .jobs, .pool, .credit, .waves, .queue, .events] s (s.evaluate h) := by
  rcases evaluate_alone hj hw with ⟨-, e⟩ | ⟨-, -, e⟩ | ⟨-, -, e⟩ <;> rw [e]
  · exact .refl _ s
  · exact (((Frame.refl _ s).keepCandidates h [] (by simp)).closeStart h _ _ _ (by simp)).offerClosing h (by simp)
  · exact ((Frame.refl _ s).keepCandidates h _ (by simp)).evaluateKept h j _ (by simp)

/-- An evaluation that keeps a candidate leaves the job READY or PENDING. -/
theorem evaluateKept_own (hk : s.job? h = some k) (j : Job) (cs : List CellAddr) :
    ∃ k', (s.evaluateKept h j cs).job? h = some k' ∧ (k'.state = .ready ∨ k'.state = .pending) := by
  have pend : ∀ y, (s.pend h y).job? h = some { k with state := .pending, reason := some y } := fun y =>
    (State.updJob_job hk _ h).trans (if_pos rfl)
  have ready : (s.updJob h fun j => { j with state := .ready, reason := none }).job? h =
      some { k with state := .ready, reason := none } := (State.updJob_job hk _ h).trans (if_pos rfl)
  unfold State.evaluateKept
  dsimp only
  split
  · exact ⟨_, pend _, .inr rfl⟩
  · split
    · split
      · have woken := (Frame.refl [.events] (s.updJob h fun j => { j with state := .ready, reason := none })).becameReady j
          (by simp)
        exact ⟨_, (woken.job? (by simp) h).trans ready, .inl rfl⟩
      · exact ⟨_, ready, .inl rfl⟩
    · split
      · exact ⟨_, pend _, .inr rfl⟩
      · split
        · exact ⟨_, pend _, .inr rfl⟩
        · exact ⟨_, pend _, .inr rfl⟩

theorem updJob_other (hne : g ≠ h) (s : State) (f : Job → Job) : (s.updJob h f).job? g = s.job? g := by
  cases hj : s.job? h with
  | none => rw [State.updJob_of_none hj]
  | some j => rw [State.updJob_job hj, if_neg hne]

theorem evaluateKept_other (hne : g ≠ h) (s : State) (j : Job) (cs : List CellAddr) :
    (s.evaluateKept h j cs).job? g = s.job? g := by
  have ready : (s.updJob h fun j => { j with state := .ready, reason := none }).job? g = s.job? g := updJob_other hne s _
  have pend : ∀ y, (s.pend h y).job? g = s.job? g := fun y => updJob_other hne s _
  have woken := (Frame.refl [.events] (s.updJob h fun j => { j with state := .ready, reason := none })).becameReady j
    (by simp)
  unfold State.evaluateKept
  dsimp only
  split
  · exact pend _
  · split
    · split
      · exact (woken.job? (by simp) g).trans ready
      · exact ready
    · split
      · exact pend _
      · split
        · exact pend _
        · exact pend _

/-! ## The end of a relocation whose served retrieve waits for nothing else -/

/-- The offer of a relocation's notice, which what its end does to the served retrieve goes before (R56 step 5). -/
structure NoticeOffered (s t : State) (h : Handle) : Prop where
  before : ∃ p, Frame [.cells, .jobs, .credit, .events] s p ∧ p.dues h = s.dues h
    ∧ (t = p.offerClosing h ∨ ∃ q, t = (p.offerClosing h).offerClosing q)

theorem evaluateServed_alone (hk : s.job? h = some k) (hc : k.state = .closing)
    (hw : ∀ i, s.job? q = some i → i.waitsFor = none) : NoticeOffered s (s.evaluateServed q h) h := by
  unfold State.evaluateServed
  cases hj : s.job? q with
  | none => exact ⟨s, .refl _ s, rfl, .inl rfl⟩
  | some j =>
    have waits := hw j hj
    have apart : j.isEvaluated = true → h ≠ q := fun he eq => by
      rw [eq, hj] at hk
      obtain rfl := Option.some.inj hk
      rcases isEvaluated_state he with e | e <;> rw [hc] at e <;> cases e
    have keeps : ∀ cs, Frame [.jobs] s (s.keepCandidates q cs) := fun cs => (Frame.refl _ s).keepCandidates q cs (by simp)
    dsimp only
    by_cases he : j.isEvaluated = true ∧ s.kept j = []
    · rw [if_pos he]
      have ne := apart he.1
      have start : (s.keepCandidates q []).closeRetrieveStart q .noStock id =
          (s.keepCandidates q []).closeStart q .noStock false id := by
        have alone := cancelledWith_none (j := { j with candidates := [] }) waits (s.keepCandidates q [])
        simp only [State.closeRetrieveStart, keepCandidates_own hj, alone]
      refine ⟨(s.keepCandidates q []).closeStart q .noStock false id, ?_, ?_, .inr ⟨q, ?_⟩⟩
      · exact ((keeps []).mono (by simp)).trans ((Frame.refl _ _).closeStart q _ _ _ (by simp))
      · rw [closeStart_dues _ ne]
        exact dues_congr (updJob_other ne s _)
      · simp only [start, cancelledWith_none waits, State.closeRetrieveEnd]
    · rw [if_neg he]
      rcases evaluate_alone hj waits with ⟨-, e⟩ | ⟨evaluated, kept, -⟩ | ⟨evaluated, -, e⟩
      · exact ⟨s, .refl _ s, rfl, .inl (by rw [e])⟩
      · exact absurd ⟨evaluated, kept⟩ he
      · have ne := apart evaluated
        refine ⟨_, ?_, ?_, .inl rfl⟩ <;> rw [e]
        · exact ((keeps _).mono (by simp)).trans ((Frame.refl _ _).evaluateKept q j _ (by simp))
        · exact dues_congr ((evaluateKept_other ne _ j _).trans (updJob_other ne s _))

/-- The retrieve a relocation serves waits for it no longer. -/
theorem clearWaits_waits (hs : j.served = some q)
    (hw : ∀ i, s.job? q = some i → i.waitsFor = some j.handle ∨ i.waitsFor = none) :
    ∀ i, (s.clearWaits j).job? q = some i → i.waitsFor = none := by
  intro i hi
  have form : s.clearWaits j = s.updJob q fun y => if y.waitsFor = some j.handle then { y with waitsFor := none } else y := by
    simp only [State.clearWaits, hs]
  rw [form] at hi
  cases hq : s.job? q with
  | none =>
    rw [State.updJob_of_none hq, hq] at hi
    cases hi
  | some y =>
    rw [State.updJob_job hq, if_pos rfl] at hi
    obtain rfl := Option.some.inj hi
    by_cases waits : y.waitsFor = some j.handle
    · rw [if_pos waits]
    · rw [if_neg waits]
      exact (hw y hq).resolve_left waits

theorem endRelocation_alone (hk : s.job? h = some k) (hc : k.state = .closing)
    (hw : ∀ q i, j.served = some q → s.job? q = some i → i.waitsFor = some j.handle ∨ i.waitsFor = none) :
    NoticeOffered s (s.endRelocation h j) h := by
  have first : Frame [.jobs] s (s.clearWaits j) := (Frame.refl _ s).clearWaits j (by simp)
  have dues := clearWaits_dues s j h
  unfold State.endRelocation
  dsimp only
  cases hs : j.served with
  | none => exact ⟨_, first.mono (by simp), dues, .inl rfl⟩
  | some q =>
    have waits := clearWaits_waits hs fun i hi => hw q i hs hi
    obtain ⟨k', hk', closing⟩ : ∃ k', (s.clearWaits j).job? h = some k' ∧ k'.state = .closing := by
      have kept := Unwinds.clearWaits (x := some h) s j
      cases hk' : (s.clearWaits j).job? h with
      | none => 
        have gone := dues
        rw [State.dues, State.dues, hk', hk] at gone
        cases gone
      | some k' =>
        obtain ⟨i, hi, -, stays⟩ := kept.job h k' hk'
        obtain rfl := Option.some.inj (hk.symm.trans hi)
        exact ⟨k', rfl, (stays rfl hc).1⟩
    obtain ⟨p, frame, same, form⟩ := evaluateServed_alone hk' closing waits
    exact ⟨p, (first.mono (by simp)).trans frame, same.trans dues, form⟩

/-- Nothing but records, cells, credits and queues changes at the end of such a relocation. -/
theorem NoticeOffered.frame (w : NoticeOffered s t h) :
    Frame [.cells, .jobs, .pool, .credit, .waves, .queue, .events] s t := by
  obtain ⟨p, frame, -, rfl | ⟨q, rfl⟩⟩ := w
  · exact (frame.mono (by simp)).trans ((Frame.refl _ p).offerClosing h (by simp))
  · exact (frame.mono (by simp)).trans (((Frame.refl _ p).offerClosing h (by simp)).offerClosing q (by simp))

/-! ## Queues grow -/

theorem Change.queue_grows (h : Change s t) : QueuesGrow s t := by
  cases h
  case notice l n room =>
    intro m
    by_cases hm : m = l
    · exact ⟨[n], by rw [State.setQueue_queue, if_pos hm, hm]⟩
    · exact ⟨[], by rw [State.setQueue_queue, if_neg hm, List.append_nil]⟩
  case cell b y _ =>
    rw [State.putCell_eq]
    exact .refl s
  case create j _ _ =>
    refine .of_eq fun l => ?_
    cases ho : j.origin <;> simp only [State.createJob, State.countLive, ho] <;> rfl
  case vacate g j _ =>
    refine .of_eq fun l => ?_
    cases ho : j.origin <;> simp only [State.vacate, State.countLive, ho] <;> rfl
  case aged =>
    unfold State.ageStep
    split <;> exact .refl s
  all_goals exact .refl s

theorem Changes.queue_grows (h : Changes s t) : QueuesGrow s t := by
  induction h with
  | refl => exact .refl s
  | tail _ hc ih => exact ih.trans hc.queue_grows

end Sys2Proof.Machine
end
section
/-! O52: a pick cell found empty (R100 to R103). -/

namespace Sys2Proof.Machine

variable {s t m v : State} {c : CraneId} {a : AisleId} {e : End} {j k : Job} {u : WorkUnit} {x : Step} {g h : Handle}
  {d : CellAddr} {p : List Byte}

/-! ## The correction and its report -/

/-- A crane that works on the pick of a job at the cell `d`, reserved for it. -/
structure PicksAt (s : State) (c : CraneId) (a : AisleId) (e : End) (j : Job) (x : Step) (d : CellAddr) : Prop where
  mapping : (s.crane c).mapping = some (a, e)
  state : (s.crane c).state = .working
  job : s.job? j.handle = some j
  place : x.place = .cell d
  cell : ∃ k, (s.cell d).state = .outReserved j.handle k
  map : MapWf s
  handles : HandleLaw s
  notStore : j.kind ≠ .store
  configured : s.configured a = true
  unpromised : s.notPromised c j.handle

/-- The state once the empty cell is corrected and reported. -/
def State.atEmpty (s : State) (c : CraneId) (j : Job) (u : WorkUnit) (x : Step) (d : CellAddr) (p : List Byte) : State :=
  ((s.reachStep c j x u.remaining p).foundEmpty d j.handle).reportFinding c j d .empty .emptyRetrieval p

theorem foundEmpty_eq {k : Sys2Proof.Class} (hd : (s.cell d).state = .outReserved h k) : s.foundEmpty d h =
    (s.putCell d { state := .empty, conflict := true }).recheckCell d true := by
  simp only [State.foundEmpty, hd, if_true]

theorem PicksAt.reported (w : PicksAt s c a e j x d) (u : WorkUnit) (p : List Byte) :
    FindingReported s (s.atEmpty c j u x d p) c a e j u.remaining d { state := .empty, conflict := true } .empty
      .emptyRetrieval p := by
  have reach : Frame [.crane c, .rail, .events] s (s.reachStep c j x u.remaining p) :=
    (Frame.refl _ s).reachStep c j x _ p (by simp)
  have cmp : (s.reachStep c j x u.remaining p).cmp = s.cmp := reach.cmp (by simp) (by simp)
  have cell : (s.reachStep c j x u.remaining p).cell = s.cell := State.cell_of_cmp cmp
  have map := mapWf_of_cmp cmp w.map
  obtain ⟨k, hk⟩ := w.cell
  have reserved : ((s.reachStep c j x u.remaining p).cell d).state = .outReserved j.handle k := by rw [cell]; exact hk
  have existing : (s.reachStep c j x u.remaining p).existing d := State.existing_of_ne_initial fun eq => by
    rw [eq] at reserved
    cases reserved
  refine findingReported (found := fun r => r.foundEmpty d j.handle) w.mapping w.state w.place
    ((Frame.refl _ _).foundEmpty d _ (by simp)) ?_ ?_ ?_
  · rw [foundEmpty_eq reserved]
    exact put_recheck_stand _ d _ true
  · rw [foundEmpty_eq reserved]
    exact mapWf_of_cmp rfl (State.putCell_wf _ _ map)
  · rw [foundEmpty_eq reserved]
    funext b
    exact (State.cell_putCell map d b _ existing).trans (by rw [cell])

theorem cellEmpty_eq (hx : x.place = .cell d) (s : State) (c : CraneId) (j : Job) (u : WorkUnit) (p : List Byte) :
    s.cellEmpty c j u x p = (s.atEmpty c j u x d p).emptyEffects c j d := by
  have cell : x.cell? = some d := by rw [Step.cell?, hx]
  simp only [State.cellEmpty, cell]
  rfl

/-! ## What follows, whatever the jobs are -/

/-- The records when a retrieve whose pick cell was found empty leaves its unit (R102). -/
def State.emptied (s : State) (c : CraneId) (j : Job) (d : CellAddr) : State :=
  ((s.dropPartner j).updJob j.handle fun x => { x with
    state := .pending
    reason := some .noCandidate
    unit := none
    partner := none
    chosen := none
    candidates := x.candidates.filter (· ≠ d) }).updBound c j Credit.unbind

theorem emptyRetrieval_eq (s : State) (c : CraneId) (j : Job) (d : CellAddr) :
    s.emptyRetrieval c j d = (s.emptied c j d).evaluate j.handle := rfl

theorem Unwinds.emptied (s : State) (c : CraneId) (j : Job) (d : CellAddr) : Unwinds none s (s.emptied c j d) := by
  refine ((Unwinds.dropPartner s j).trans (.updJob _ j.handle _ ?_ ?_)).trans (.updBound _ c j _)
  · exact fun i _ => ⟨rfl, .inr rfl, fun _ => rfl, fun _ => rfl, fun _ => rfl, fun b hb => (List.mem_filter.mp hb).1⟩
  · exact fun _ _ h => by cases h

theorem emptied_changes (s : State) (c : CraneId) (j : Job) (d : CellAddr) : Changes s (s.emptied c j d) := by
  refine (((Changes.refl s).dropPartner j).updJob j.handle _ ?_).updBound c j _
  exact fun _ => ⟨rfl, rfl, rfl⟩

/-- A unit that ends is gone, with its deadline. -/
theorem finishUnit_none (s : State) (c : CraneId) :
    ((s.finishUnit c).crane c).unit = none ∧ ((s.finishUnit c).crane c).deadline = none := by
  let n := (s.setCrane c { s.crane c with unit := none }).stopDeadline c
  have first : n.crane c = { s.crane c with unit := none, deadline := none } :=
    (State.setCrane_crane _ c c _).trans ((if_pos rfl).trans (by rw [State.setCrane_crane, if_pos rfl]))
  have rest : Unwinds none n (s.finishUnit c) :=
    ((Unwinds.stopOfferTimer n c).trans ((Unwinds.withdrawRedirect _ c).trans (.fall _ c _))).trans (.goIdle _ c)
  exact ⟨(rest.crane c).unit (by rw [first]), (rest.crane c).deadline (by rw [first])⟩

theorem emptyEffects_retrieve (hk : j.kind = .retrieve) (m : State) (c : CraneId) (d : CellAddr) :
    m.emptyEffects c j d = ((m.emptied c j d).evaluate j.handle).finishUnit c := by
  simp only [State.emptyEffects, hk, emptyRetrieval_eq]

theorem emptyEffects_relocate (hk : j.kind = .relocate) (m : State) (c : CraneId) (d : CellAddr) :
    m.emptyEffects c j d = ((m.closeStart j.handle .done false id).finishUnit c).endRelocation j.handle j := by
  simp only [State.emptyEffects, hk]

theorem emptyEffects_changes (m : State) (c : CraneId) (j : Job) (d : CellAddr) : Changes m (m.emptyEffects c j d) := by
  cases hk : j.kind with
  | retrieve =>
    rw [emptyEffects_retrieve hk]
    exact (((Changes.refl _).trans (emptied_changes m c j d)).evaluate j.handle).finishUnit c
  | relocate =>
    rw [emptyEffects_relocate hk]
    exact (((Changes.refl m).closeStart j.handle .done false id).finishUnit c).endRelocation j.handle j
  | store =>
    simp only [State.emptyEffects, hk]
    exact (Changes.refl m).finishUnit c

/-- The unit ends, and nothing that is lost comes back. -/
theorem emptyEffects_unwinds (hl : HandleLaw m) (hk : j.kind ≠ .store) (c : CraneId) (d : CellAddr) :
    Unwinds none m (m.emptyEffects c j d)
      ∧ ((m.emptyEffects c j d).crane c).unit = none ∧ ((m.emptyEffects c j d).crane c).deadline = none := by
  cases hkind : j.kind with
  | store => exact absurd hkind hk
  | retrieve =>
    rw [emptyEffects_retrieve hkind]
    exact ⟨((Unwinds.emptied m c j d).trans (.evaluate _ _ ((emptied_changes m c j d).handleLaw hl) (.none _))).trans
      (.finishUnit _ c), finishUnit_none _ c⟩
  | relocate =>
    rw [emptyEffects_relocate hkind]
    have law := (((Changes.refl m).closeStart j.handle .done false id).finishUnit c).handleLaw hl
    have last := fun x hc => Unwinds.endRelocation (x := x) ((m.closeStart j.handle .done false id).finishUnit c) j.handle j
      law hc
    obtain ⟨unit, deadline⟩ := finishUnit_none (m.closeStart j.handle .done false id) c
    have end_ := last none (.none _)
    exact ⟨((Unwinds.closeStart m .done false id (by simp)).trans (.finishUnit _ c)).trans end_,
      (end_.crane c).unit unit, (end_.crane c).deadline deadline⟩

/-! ## The crane whose unit ends -/

theorem hull_holds (b : Nat) (bs : List Nat) : (hull b bs).holds b = true := by
  refine List.foldlRecOn (motive := fun i : Interval => i.holds b = true) bs _ ?_ fun i hi y _ => ?_
  · simp [Interval.holds, Interval.at]
  · obtain ⟨low, high⟩ := Bool.and_eq_true_iff.mp hi
    exact Bool.and_eq_true_iff.mpr ⟨decide_eq_true ((Nat.min_le_left _ _).trans (of_decide_eq_true low)),
      decide_eq_true ((of_decide_eq_true high).trans (Nat.le_max_left _ _))⟩

theorem Interval.fallen_fallen (i : Interval) (b : Nat) (bs : List Nat) : (i.fallen b bs).fallen b [] = i.fallen b [] := by
  by_cases hb : i.holds b = true
  · simp only [Interval.fallen, hb, if_true, hull_holds b bs]
  · simp only [Interval.fallen, hb, Bool.false_eq_true, if_false]

/-- What the end of its unit leaves of a crane that stands at the cell `d`. -/
structure CraneFreed (s t : State) (c : CraneId) (a : AisleId) (e : End) (d : CellAddr) : Prop where
  state : (t.crane c).state = s.afterWork c
  others : ∀ o, o ≠ c → t.crane o = s.crane o
  moves : IntervalMoves s t a e (fun i => i.fallen d.bay []) (s.parkWidened c (s.afterWork c))

/-- The parts that change before a unit ends and behind it. -/
abbrev besides : List Part := [.cells, .jobs, .pool, .credit, .waves, .queue, .events]

theorem craneFreed {n : State} {xs : List Step} {y : Cell} {f : Finding} {i : FaultKind} (w : PicksAt s c a e j x d)
    (rep : FindingReported s m c a e j xs d y f i p) (before : Frame besides m v) (stand : EventsStand m v)
    (fin : UnitFinished v n c a e) (ends : EventsStand v n) (after : Frame besides n t) (later : EventsStand n t) :
    CraneFreed s t c a e d := by
  have until_ : Frame [.crane c, .rail, .cells, .jobs, .pool, .credit, .waves, .queue, .events] s v :=
    (rep.frame.mono (by simp)).trans (before.mono (by simp))
  have own : v.crane c = (s.crane c).reached (cellPoint d) (s.configured a) := (before.crane c (by simp)).trans rep.crane
  have owed : v.parkOwed c = s.parkOwed c := congrArg (fun z : Vector Bool 12 => z[c]) (until_ .parkOwed (by simp))
  have work : v.afterWork c = s.afterWork c := by
    unfold State.afterWork
    rw [owed, own]
    rfl
  have widened : v.parkWidened c (s.afterWork c) = s.parkWidened c (s.afterWork c) := by
    funext z
    unfold State.parkWidened
    rw [own, parkEnd_congr (until_.profile? (by simp))]
    rfl
  have bay : v.craneBay c = d.bay := by
    rw [craneBay_known (by rw [own]; exact w.configured), own]
    rfl
  have same : ∀ o, (v.crane o).mapping = (s.crane o).mapping ∧ (v.crane o).state = (s.crane o).state := fun o => by
    by_cases ho : o = c
    · rw [ho, own]
      exact ⟨rfl, rfl⟩
    · rw [until_.crane o (by simp [ho])]
      exact ⟨rfl, rfl⟩
  have moves := fin.moves
  rw [bay, work, widened] at moves
  have first := rep.moves.later (before .rail (by simp)) stand
  have both := (first.comp moves (fun o => (same o).1) (fun o _ => (same o).2.trans) ends).later (after .rail (by simp)) later
  refine ⟨?_, fun o ho => ?_, ?_⟩
  · rw [after.crane c (by simp), fin.state, work]
  · rw [after.crane o (by simp), fin.frame.crane o (by simp [ho]), until_.crane o (by simp [ho])]
  · exact (funext fun z => Interval.fallen_fallen z d.bay _ : _ = fun z : Interval => z.fallen d.bay []) ▸ both

/-! ## A retrieve -/

/-- The record of a retrieve whose pick cell was found empty. -/
def Job.emptied (j : Job) (d : CellAddr) : Job :=
  { j with
    state := .pending
    reason := some .noCandidate
    unit := none
    partner := none
    chosen := none
    candidates := j.candidates.filter (· ≠ d) }

theorem emptied_frame (s : State) (c : CraneId) (j : Job) (d : CellAddr) :
    Frame [.jobs, .credit, .events] s (s.emptied c j d) :=
  (((Frame.refl _ s).dropPartner j (by simp)).updJob j.handle _ (by simp)).updBound c j _ (by simp)

theorem emptied_job (hj : s.job? j.handle = some j) (c : CraneId) (d : CellAddr) :
    (s.emptied c j d).job? j.handle = some (j.emptied d) := by
  obtain ⟨y, own⟩ := dropPartner_own hj j
  unfold State.emptied
  rw [((Frame.refl [.credit, .events] _).updBound c j Credit.unbind (by simp)).job? (by simp), State.updJob_job own, if_pos rfl]
  rfl

theorem owedLinks_congr (h : t.liu.active = s.liu.active) (j : Job) : t.owedLinks j = s.owedLinks j := by
  unfold State.owedLinks State.activeLinks
  rw [h]

theorem Frame.active {ps : List Part} (h : Frame ps s t) (hp : .rest ∉ ps) : t.liu.active = s.liu.active := by
  obtain ⟨-, -, -, liu, -⟩ := h .rest hp
  rw [liu]

theorem Frame.queue_eq {ps : List Part} (h : Frame ps s t) (hp : .queue ∉ ps) (l : OrderLink) : t.queue l = s.queue l :=
  congrArg (fun q : PerLink (List Notice) => q.get l) (h .queue hp).1

/-- The JOB_CLOSED of such a retrieve without a candidate. -/
def Job.emptiedNotice (j : Job) : Notice := .jobClosed j.handle j.reference .retrieve .noStock j.overdue none

/-- What the evaluation of such a retrieve comes to, where it waits for no relocation: it is PENDING or READY; or it closes
NO_STOCK, with its notice where its link has a place. -/
structure EmptiedEvaluated (s t : State) (j : Job) (d : CellAddr) : Prop where
  frame : Frame besides s t
  stand : EventsStand s t
  changes : Changes s t
  own : (∃ k, t.job? j.handle = some k ∧ (k.state = .ready ∨ k.state = .pending))
    ∨ (∀ k, t.job? j.handle = some k → k.state = .closing ∧ k.outcome = some .noStock)
  gone : ∀ l, j.origin = .order l → t.job? j.handle = none → j.emptiedNotice ∈ t.queue l
  keeps : ∀ k, t.job? j.handle = some k → (j.emptied d).Keeps k
  closes : j.promised = none → (∀ b ∈ j.candidates, b = d) →
    (∀ k, t.job? j.handle = some k → k.state = .closing ∧ k.outcome = some .noStock)
      ∧ ∀ l, j.origin = .order l → s.hasRoom l = true → t.job? j.handle = none

theorem emptied_evaluated (hl : HandleLaw s) (hj : s.job? j.handle = some j) (hk : j.kind = .retrieve)
    (hw : j.waitsFor = none) (c : CraneId) (d : CellAddr) :
    EmptiedEvaluated s ((s.emptied c j d).evaluate j.handle) j d := by
  have first := emptied_frame s c j d
  have job := emptied_job hj c d
  have unwinds := Unwinds.emptied s c j d
  have changes := emptied_changes s c j d
  have law := changes.handleLaw hl
  generalize s.emptied c j d = n at *
  have waits : (j.emptied d).waitsFor = none := hw
  have last := Unwinds.evaluate (x := none) n j.handle law (.none n)
  have keeps : ∀ k, (n.evaluate j.handle).job? j.handle = some k → (j.emptied d).Keeps k := fun k hk => by
    obtain ⟨i, hi, keep, -⟩ := last.job _ k hk
    obtain rfl := Option.some.inj (job.symm.trans hi)
    exact keep
  have frame : Frame besides s (n.evaluate j.handle) := (first.mono (by simp)).trans (evaluate_alone_frame job waits)
  have base := fun own gone closes => (⟨frame, unwinds.stand.trans last.stand, changes.trans ((Changes.refl n).evaluate _),
    own, gone, keeps, closes⟩ : EmptiedEvaluated s (n.evaluate j.handle) j d)
  have stocked : j.promised = none → (∀ b ∈ j.candidates, b = d) →
      (j.emptied d).isEvaluated = true ∧ n.kept (j.emptied d) = [] := fun hp hall => by
    refine ⟨by simp [Job.isEvaluated, Job.emptied, hk, hp], List.filter_eq_nil_iff.mpr fun b hb => ?_⟩
    obtain ⟨mem, ne⟩ := List.mem_filter.mp hb
    exact absurd (hall b mem) (of_decide_eq_true ne)
  rcases evaluate_alone job waits with ⟨idle, form⟩ | ⟨-, -, form⟩ | ⟨-, kept, form⟩
  · refine base (.inl ⟨_, by rw [form, job], .inr rfl⟩) (fun l _ none => ?_) fun hp hall => ?_
    · rw [form, job] at none
      cases none
    · rw [(stocked hp hall).1] at idle
      cases idle
  · have own := keepCandidates_own job []
    have closed := closeStart_own own .noStock false id
    have start : Frame [.cells, .jobs, .credit, .events] n ((n.keepCandidates j.handle []).closeStart j.handle .noStock false id) :=
      ((Frame.refl _ n).keepCandidates _ _ (by simp)).closeStart _ _ _ _ (by simp)
    have links : ∀ l, j.origin = .order l → (n.keepCandidates j.handle []).owedLinks { j.emptied d with candidates := [] } = [l] :=
      fun l hl => by simp only [State.owedLinks, Job.emptied, hl]
    have notice : ({ j.emptied d with candidates := [] } : Job).closingNotice .noStock false = j.emptiedNotice := by
      simp [Job.closingNotice, Job.emptiedNotice, Job.emptied, Job.closedCell, hk]
    rw [form] at base ⊢
    generalize (n.keepCandidates j.handle []).closeStart j.handle .noStock false id = m at *
    have stays : ∀ k, (m.offerClosing j.handle).job? j.handle = some k → k.state = .closing ∧ k.outcome = some .noStock :=
      fun k hk => by
        obtain ⟨i, hi, -, closing⟩ := (Unwinds.offerClosing (x := some j.handle) m j.handle).job _ k hk
        obtain rfl := Option.some.inj (closed.symm.trans hi)
        exact closing rfl rfl
    have dues : ∀ l, j.origin = .order l → m.dues j.handle = some (some j.emptiedNotice, [l]) := fun l hl => by
      rw [State.dues, closed, ← notice, ← links l hl]
      rfl
    have leaves : ∀ l, j.origin = .order l → m.hasRoom l = true → (m.offerClosing j.handle).job? j.handle = none :=
      fun l hl room => offerClosing_leaves (dues l hl) (by simp) (by simpa using room)
    refine base (.inr stays) (fun l hl none => ?_) fun _ _ => ⟨stays, fun l hl room => leaves l hl ?_⟩
    · by_cases room : m.hasRoom l = true
      · exact offerClosing_mem (dues l hl) (by simp) room
      · have kept := offerClosing_stays closed rfl (links l hl) (by simpa using room)
        rw [kept] at none
        cases none
    · rw [State.hasRoom, start.queue_eq (by simp), first.queue_eq (by simp)]
      exact room
  · obtain ⟨k, hk', state⟩ := evaluateKept_own (keepCandidates_own job _) (j.emptied d) (n.kept (j.emptied d))
    refine base (.inl ⟨k, by rw [form, hk'], state⟩) (fun l _ none => ?_) fun hp hall => absurd (stocked hp hall).2 kept
    rw [form, hk'] at none
    cases none

/-- The unit of such a retrieve's crane ends, and the retrieve stands as evaluated. -/
theorem emptied_finished {xs : List Step} {y : Cell} {f : Finding} {i : FaultKind} (w : PicksAt s c a e j x d)
    (rep : FindingReported s m c a e j xs d y f i p) (evaluated : EmptiedEvaluated m v j d) :
    UnitFinished v (v.finishUnit c) c a e ∧ (v.finishUnit c).job? j.handle = v.job? j.handle := by
  have own : v.crane c = (s.crane c).reached (cellPoint d) (s.configured a) :=
    (evaluated.frame.crane c (by simp)).trans rep.crane
  have fin : UnitFinished v (v.finishUnit c) c a e :=
    finishUnit_finished (by rw [own]; exact w.mapping) (by rw [own]; exact w.state)
  exact ⟨fin, fin.job j.handle fun q hq => w.unpromised q (by rw [own] at hq; exact hq)⟩

/-! ## A relocation -/

/-- The PALLET_MOVED of a relocation whose source was found empty. -/
def Job.unmovedNotice (j : Job) : Notice :=
  .palletMoved j.handle (j.served.getD j.handle) .done false (j.chosen.getD absentCell) none

/-- The relocation enters CLOSING and its target is EMPTY again (R56, R103). -/
theorem closeStart_target {b d : CellAddr} (hw : MapWf s) (hj : s.job? h = some j) (hs : j.chosen = some d)
    (hd : (s.cell d).state = .empty) (ht : j.target = some b) (hb : (s.cell b).state = .inReserved h) (o : JobOutcome)
    (moved : Bool) (f : Credit → Credit) : ((s.closeStart h o moved f).cell b).state = .empty := by
  have record := closedRecord_frame s j h o moved
  have cmp : (s.closedRecord j h o moved).cmp = s.cmp := record.cmp (by simp) (by simp)
  have cell : (s.closedRecord j h o moved).cell = s.cell := State.cell_of_cmp cmp
  have map := mapWf_of_cmp cmp hw
  rw [closeStart_eq hj, hs, ht]
  generalize s.closedRecord j h o moved = n at *
  have source : n.release? (some d) h = n := by
    rcases release_cases n d h with e | ⟨y, reserved, -⟩
    · exact e
    · rw [cell, hd] at reserved
      cases reserved
  have reserved : (n.cell b).state = .inReserved h := by rw [cell]; exact hb
  have existing : n.existing b := State.existing_of_ne_initial fun eq => by rw [eq] at reserved; cases reserved
  have target : n.release? (some b) h = (n.putState b .empty).recheckCell b true := by
    simp only [State.release?, State.release, reserved, if_true]
  have last := closedCredit_frame ((n.putState b .empty).recheckCell b true) j f
  rw [source, target, last.cell (by simp) (by simp)]
  exact congrArg Cell.state ((State.cell_putCell map b b _ existing).trans (if_pos rfl))

/-- What a CELL_EMPTY does to a relocation that serves no retrieve waiting for another (R103). -/
structure RelocationUnmoved (s m t : State) (c : CraneId) (a : AisleId) (e : End) (j : Job) (d : CellAddr) : Prop where
  freed : CraneFreed s t c a e d
  gone : (∀ l ∈ m.owedLinks j, (m.queue l).length + 3 ≤ 32) → t.job? j.handle = none
  notice : ∀ l ∈ m.owedLinks j, (m.queue l).length + 3 ≤ 32 → j.unmovedNotice ∈ t.queue l
  waits : ∀ q k, j.served = some q → t.job? q = some k → k.waitsFor = none

section Relocation

variable {xs : List Step} {y : Cell} {f : Finding} {i : FaultKind} (w : PicksAt s c a e j x d)
  (rep : FindingReported s m c a e j xs d y f i p)
include w rep

/-- The crane of a relocation that enters CLOSING ends its unit. -/
theorem closed_finished : UnitFinished (m.closeStart j.handle .done false id)
    ((m.closeStart j.handle .done false id).finishUnit c) c a e := by
  have start : Frame [.cells, .jobs, .credit, .events] m (m.closeStart j.handle .done false id) :=
    (Frame.refl _ m).closeStart _ _ _ _ (by simp)
  have own : (m.closeStart j.handle .done false id).crane c = (s.crane c).reached (cellPoint d) (s.configured a) :=
    (start.crane c (by simp)).trans rep.crane
  exact finishUnit_finished (by rw [own]; exact w.mapping) (by rw [own]; exact w.state)

/-- The record of the relocation once its crane's unit has ended. -/
theorem closed_job : ((m.closeStart j.handle .done false id).finishUnit c).job? j.handle =
    some (j.closed .done false (m.owedLinks j)) := by
  have start : Frame [.cells, .jobs, .credit, .events] m (m.closeStart j.handle .done false id) :=
    (Frame.refl _ m).closeStart _ _ _ _ (by simp)
  have live : m.job? j.handle = some j := (rep.frame.job? (by simp) _).trans w.job
  refine ((closed_finished w rep).job j.handle fun r hr => ?_).trans (closeStart_own live .done false id)
  rw [start.crane c (by simp), rep.crane] at hr
  exact w.unpromised r hr

/-- A relocation so closed stays CLOSING DONE. -/
theorem closed_stays (hl : HandleLaw m) : ∀ k,
    (((m.closeStart j.handle .done false id).finishUnit c).endRelocation j.handle j).job? j.handle = some k →
    k.state = .closing ∧ k.outcome = some .done := by
  intro k hk
  have job := closed_job w rep
  have law := (((Changes.refl m).closeStart j.handle .done false id).finishUnit c).handleLaw hl
  have closing : Closing (some j.handle) ((m.closeStart j.handle .done false id).finishUnit c) := fun g hg i hi => by
    obtain rfl := Option.some.inj hg
    obtain rfl := Option.some.inj (job.symm.trans hi)
    rfl
  obtain ⟨i, hi, -, stays⟩ := (Unwinds.endRelocation _ j.handle j law closing).job _ k hk
  obtain rfl := Option.some.inj (job.symm.trans hi)
  exact stays rfl rfl

theorem relocationUnmoved (hl : HandleLaw m) (hk : j.kind = .relocate) (ho : j.origin = .internal)
    (hw : ∀ q g, j.served = some q → s.job? q = some g → g.waitsFor = some j.handle ∨ g.waitsFor = none) :
    RelocationUnmoved s m (((m.closeStart j.handle .done false id).finishUnit c).endRelocation j.handle j) c a e j d := by
  have start : Frame [.cells, .jobs, .credit, .events] m (m.closeStart j.handle .done false id) :=
    (Frame.refl _ m).closeStart _ _ _ _ (by simp)
  have job := closed_job w rep
  have fin := closed_finished w rep
  have law := (((Changes.refl m).closeStart j.handle .done false id).finishUnit c).handleLaw hl
  have closes := Unwinds.closeStart (x := none) (h := j.handle) m .done false id (by simp)
  have finishes := Unwinds.finishUnit (x := none) (m.closeStart j.handle .done false id) c
  generalize m.closeStart j.handle .done false id = n at *
  generalize n.finishUnit c = v at *
  have waits : ∀ q i, j.served = some q → v.job? q = some i → i.waitsFor = some j.handle ∨ i.waitsFor = none :=
    fun q i hq hi => by
      obtain ⟨g, hg, keeps, -⟩ := (closes.trans finishes).job q i hi
      have old := hw q g hq ((rep.frame.job? (by simp) q).symm.trans hg)
      rcases keeps.waits with e | e
      · exact .inr e
      · exact e ▸ old
  have ends := Unwinds.endRelocation (x := none) v j.handle j law (.none v)
  have grows : ∀ q, QueuesGrow (q : State) (q.offerClosing j.handle) := fun q => ((Changes.refl q).offerClosing _).queue_grows
  have offered : NoticeOffered v (v.endRelocation j.handle j) j.handle := endRelocation_alone job rfl waits
  have after := offered.frame
  obtain ⟨p, before, dues, form⟩ := offered.before
  have room : ∀ l, (m.queue l).length + 3 ≤ 32 → p.hasRoom l = true := fun l hlen => by
    have most := fin.queues l
    rw [start.queue_eq (by simp)] at most
    rw [State.hasRoom, before.queue_eq (by simp)]
    exact decide_eq_true (by show _ < 32; omega)
  have due : p.dues j.handle = some (some j.unmovedNotice, m.owedLinks j) := by
    rw [dues, State.dues, job]
    simp [Job.closed, Job.closingNotice, Job.unmovedNotice, hk]
  have nodup : (m.owedLinks j).Nodup := by
    rw [State.owedLinks, ho]
    exact List.Nodup.filter _ (by decide)
  refine {
    freed := craneFreed w rep (start.mono (by simp)) closes.stand fin finishes.stand after ends.stand
    gone := fun hroom => ?_
    notice := fun l hm hlen => ?_
    waits := fun q k hq hk' => ?_ }
  · have none := offerClosing_leaves due nodup fun l hm => room l (hroom l hm)
    rcases form with form | ⟨q, form⟩ <;> rw [form]
    · exact none
    · cases hk' : ((p.offerClosing j.handle).offerClosing q).job? j.handle with
      | none => rfl
      | some k' =>
        obtain ⟨i, hi, -⟩ := (Unwinds.offerClosing (x := Option.none) (p.offerClosing j.handle) q).job _ k' hk'
        rw [none] at hi
        cases hi
  · have placed := offerClosing_mem due hm (room l hlen)
    rcases form with form | ⟨q, form⟩ <;> rw [form]
    · exact placed
    · obtain ⟨more, later⟩ := ((Changes.refl (p.offerClosing j.handle)).offerClosing q).queue_grows l
      rw [later]
      exact List.mem_append_left _ placed
  · have cleared := clearWaits_waits (s := v) hq fun i hi => waits q i hq hi
    have rest : Unwinds none (v.clearWaits j) (v.endRelocation j.handle j) := by
      have form : v.endRelocation j.handle j = (v.clearWaits j).evaluateServed q j.handle := by
        simp only [State.endRelocation, hq]
      rw [form]
      exact .evaluateServed _ q j.handle (((Changes.refl v).clearWaits j).handleLaw law) (.none _)
    obtain ⟨i, hi, keeps, -⟩ := rest.job q k hk'
    exact keeps.waits.elim id fun e => e.trans (cleared i hi)

end Relocation

/-! ## The statement -/

/-- The job and the unit that O52 speaks of. -/
theorem picksAt_of_laws {cls : Sys2Proof.Class} (hm : (s.crane c).mapping = some (a, e))
    (hs : (s.crane c).state = .working) (hu : (s.crane c).unit = some u) (hj : s.job? h = some j) (hmem : h ∈ u.jobs)
    (hplace : x.place = .cell d) (hcell : (s.cell d).state = .outReserved h cls) (laws : Lawful s) (work : WorkLawful s) :
    j.handle = h ∧ PicksAt s c a e j x d ∧ j.chosen = some d := by
  have handle := job?_handle laws.handle hj
  subst handle
  have live : j ∈ s.jobs := State.mem_jobs.mpr ⟨_, (State.job?_eq_some.mp hj).2⟩
  obtain ⟨-, -, -, each, -⟩ := work.steps c a e u hm hu
  obtain ⟨-, -, members⟩ := work.unit.1 c u hu
  obtain ⟨k, hk, atWork, -⟩ := members _ hmem
  obtain rfl : j = k := Option.some.inj (hj.symm.trans hk)
  have exists_ : s.hasCell d.aisle d = true := by
    obtain ⟨q, hq, has⟩ : s.existing d := State.existing_of_ne_initial fun eq => by rw [eq] at hcell; cases hcell
    simp only [State.hasCell, hq, has, decide_true, Bool.and_self]
  obtain ⟨-, picks, -⟩ := work.reservation
  obtain ⟨i, hi, -, -, source⟩ := picks d _ cls exists_ hcell
  obtain rfl : j = i := Option.some.inj (hj.symm.trans hi)
  refine ⟨rfl, {
    mapping := hm
    state := hs
    job := hj
    place := hplace
    cell := ⟨cls, hcell⟩
    map := laws.map
    handles := laws.handle
    notStore := fun hk => by simp [Job.sourceCell, hk] at source
    configured := (each _ hmem j hj).1 ▸ (work.job j live).1
    unpromised := fun r hr eq => ?_ }, ?_⟩
  · obtain ⟨-, i, hi, ready, -⟩ := work.redirect.1 c r hr
    rw [eq, hj] at hi
    obtain rfl := Option.some.inj hi
    rw [ready] at atWork
    cases atWork
  · cases hk : j.kind <;> simp only [Job.sourceCell, hk] at source
    · cases source
    · exact source
    · exact source

/-- Settles O52: the cell is corrected and reported; a retrieve loses the candidate and is evaluated, and its unit ends; a
relocation enters CLOSING, its unit ends, and the retrieve it serves waits for it no longer. -/
theorem cellEmptyEndsTheUnit : Obligations.CellEmptyEndsTheUnit := by
  intro s c a e h j u x d cls hc hm hs hu hj hmem hx hxj hpick hplace hstr hcell laws pool work
  obtain ⟨rfl, picks, chosen⟩ := picksAt_of_laws hm hs hu hj hmem hplace hcell laws work
  let r := s.take (.cellEmpty c (encodeHandle j.handle))
  let p := encodeHandle j.handle
  have fits : ReportKind.cellEmpty.matchesStep x = true := by simp [ReportKind.matchesStep, hpick, hplace]
  have w : PicksAt r c a e j x d := { picks with }
  have run := congrArg (Host.Outcome.next (φ := Fault) (ρ := Refusal)) ((stepReport_fits hc hs hu hj hmem hx hxj hstr _ _ fits
    fun s j u x => s.cellEmpty c j u x p).trans (cellEmpty_eq hplace r c j u p))
  have rep := w.reported u p
  have law : HandleLaw (r.atEmpty c j u x d p) := by
    have changes : Changes r (r.atEmpty c j u x d p) :=
      (((Changes.refl r).reachStep c j x u.remaining p).foundEmpty d j.handle).reportFinding c j d .empty .emptyRetrieval p
    exact changes.handleLaw w.handles
  generalize r.atEmpty c j u x d p = m at *
  obtain ⟨unwinds, unit, deadline⟩ := emptyEffects_unwinds law w.notStore c d
  have changes := emptyEffects_changes m c j d
  have flag : (m.emptyEffects c j d).flg = m.flg :=
    ((Frame.refl _ m).emptyEffects c j d (List.Subset.refl _)).flg (by simp)
  have corrected : m.cell d = { state := .empty, conflict := true } := by
    rw [rep.cell]
    exact if_pos rfl
  have live : m.job? j.handle = some j := (rep.frame.job? (by simp) _).trans hj
  have active : m.liu.active = s.liu.active := rep.frame.active (by simp)
  have length : ∀ l, (m.queue l).length ≤ (s.queue l).length + 1 := fun l => by
    rw [rep.queue, List.length_append]
    refine Nat.add_le_add_left ?_ _
    split <;> simp
  refine ⟨_, run, ?_, ?_, ?_, unit, deadline, ?_, unwinds.stand _ rep.fault rfl, fun l act room => ?_,
    fun hk hw => ?_, fun hk hw hp hall l ho => ?_, rep.breach.later unwinds.stand, fun hk ho hw => ?_, fun hk k hk' => ?_⟩
  · rw [(unwinds.crane c).bay, rep.crane]
    rfl
  · rw [(unwinds.crane c).level, rep.crane]
    rfl
  · rw [flag, rep.frame.flg (by simp)]
    rfl
  · rw [(unwinds.cell rep.map).2 d (by rw [corrected]; rfl), corrected]
  · obtain ⟨more, grows⟩ := changes.queue_grows l
    refine ⟨more, ?_⟩
    rw [grows, rep.queue, if_pos ⟨act, room⟩, List.append_assoc]
    rfl
  · have evaluated := emptied_evaluated law live hk hw c d
    obtain ⟨fin, job⟩ := emptied_finished w rep evaluated
    have ends := Unwinds.finishUnit (x := none) ((m.emptied c j d).evaluate j.handle) c
    have freed := craneFreed w rep evaluated.frame evaluated.stand fin ends.stand (.refl _ _) (.refl _)
    rw [emptyEffects_retrieve hk]
    refine ⟨freed.state, freed.others, freed.moves, fun l ho gone => ?_, fun k hk' => ?_⟩
    · obtain ⟨more, grows⟩ := ((Changes.refl ((m.emptied c j d).evaluate j.handle)).finishUnit c).queue_grows l
      rw [grows]
      exact List.mem_append_left _ (evaluated.gone l ho (job ▸ gone))
    · rw [job] at hk'
      have keeps := evaluated.keeps k hk'
      refine ⟨fun hd => ?_, keeps.unit rfl, keeps.partner rfl, keeps.chosen rfl, ?_⟩
      · exact absurd rfl (of_decide_eq_true (List.mem_filter.mp (keeps.candidates d hd)).2)
      · rcases evaluated.own with ⟨k', same, state⟩ | closing
        · obtain rfl := Option.some.inj (hk'.symm.trans same)
          exact state.elim .inl fun e => .inr (.inl e)
        · exact .inr (.inr (closing k hk'))
  · have evaluated := emptied_evaluated law live hk hw c d
    obtain ⟨-, job⟩ := emptied_finished w rep evaluated
    obtain ⟨stays, gone⟩ := evaluated.closes hp hall
    rw [emptyEffects_retrieve hk, job]
    refine ⟨?_, fun hlen => gone l ho ?_⟩
    · cases hk' : ((m.emptied c j d).evaluate j.handle).job? j.handle with
      | none => exact .inl rfl
      | some k => exact .inr ⟨k, rfl, stays k hk'⟩
    · have := length l
      exact decide_eq_true (by show _ < 32; omega)
  · have unmoved := relocationUnmoved w rep law hk ho hw
    have owed : ∀ l, l ∈ m.owedLinks j ↔ s.liu.active.get l = true := fun l => by
      rw [State.owedLinks, ho, State.activeLinks, active, List.mem_filter]
      cases l <;> simp
    have room : ∀ l, (s.queue l).length + 4 ≤ 32 → (m.queue l).length + 3 ≤ 32 := fun l hlen => by
      have := length l
      omega
    rw [emptyEffects_relocate hk]
    refine ⟨unmoved.freed.state, unmoved.freed.others, unmoved.freed.moves,
      fun hroom => unmoved.gone fun l hm => room l (hroom l ((owed l).mp hm)), fun l act hlen src q hsrc hq => ?_,
      fun b hb hres => ?_, fun q g k hq _ _ hk' => unmoved.waits q k hq hk'⟩
    · have notice := unmoved.notice l ((owed l).mpr act) (room l hlen)
      rw [Job.unmovedNotice, hq, hsrc] at notice
      exact notice
    · have ne : b ≠ d := fun eq => by rw [eq, hcell] at hres; cases hres
      have reserved : (m.cell b).state = .inReserved j.handle := by
        rw [rep.cell]
        exact (congrArg Cell.state (if_neg ne)).trans hres
      have empty := closeStart_target rep.map live chosen (by rw [corrected]) hb reserved .done false id
      have law' := (((Changes.refl m).closeStart j.handle .done false id).finishUnit c).handleLaw law
      have map := ((Unwinds.closeStart (x := none) (h := j.handle) m .done false id (by simp)).cell rep.map).1
      have rest := (Unwinds.finishUnit (x := none) (m.closeStart j.handle .done false id) c).trans
        (.endRelocation _ j.handle j law' (.none _))
      rw [(rest.cell map).2 b (by rw [empty]; rfl), empty]
  · rw [emptyEffects_relocate hk] at hk'
    exact closed_stays w rep law k hk'

end Sys2Proof.Machine
end

section
/-! Axis times (R25, R26): each branch of the axis time answers the least time that meets its condition, said as
`axisTime n p v a ≤ t ↔ …`; exactness, monotony and the bounds follow from these two rules. -/

namespace Sys2Proof.Machine

variable {n p v a d t : Nat}

/-! ## The two roundings -/

theorem ceilDiv_le_iff {x y : Nat} (hy : 0 < y) : ceilDiv x y ≤ t ↔ x ≤ t * y := by
  rw [ceilDiv, ← Nat.ceilDiv_eq_add_pred_div, ceilDiv_le_iff_le_mul hy, Nat.mul_comm]

/-- Squares times `a` rise with what is squared. -/
theorem square_mul_le {x y : Nat} (h : x ≤ y) (a : Nat) : x * x * a ≤ y * y * a :=
  Nat.mul_le_mul_right a (Nat.mul_le_mul h h)

/-- The search keeps `r` below the threshold and `r + 2 ^ k` at or above it, so it ends just below the least root. -/
theorem largestBelow_lt_iff {m k r : Nat} (below : r * r * a < m) (above : m ≤ (r + 2 ^ k) * (r + 2 ^ k) * a) :
    largestBelow a m k r < t ↔ m ≤ t * t * a := by
  induction k generalizing r with
  | zero =>
    refine ⟨fun h => above.trans (square_mul_le h a), fun h => ?_⟩
    by_contra le
    exact absurd (h.trans (square_mul_le (Nat.le_of_not_lt le) a)) below.not_ge
  | succ k ih =>
    rw [largestBelow]
    split
    case isTrue half => exact ih half (by rwa [Nat.add_assoc, ← Nat.two_mul, ← Nat.pow_succ'])
    case isFalse half => exact ih below (Nat.le_of_not_lt half)

/-- 32 bits hold the time of every distance below 2 to the 32. -/
theorem shortTime_le_iff (hd : 0 < d) (small : d < 2 ^ 32) (ha : 0 < a) :
    shortTime d a ≤ t ↔ 4000000 * d ≤ t * t * a := by
  refine largestBelow_lt_iff (by omega) ?_
  have fits : 4000000 * d ≤ 2 ^ 32 * 2 ^ 32 * 1 := by omega
  simpa using fits.trans (Nat.mul_le_mul_left _ ha)

/-! ## The axis time, branch by branch -/

theorem axisTime_zero (h : n * p = 0) : axisTime n p v a = 0 := if_pos h

theorem axisTime_le_iff_long (hv : 0 < v) (ha : 0 < a) (long : v * v ≤ n * p * a) :
    axisTime n p v a ≤ t ↔ 1000 * (n * p) * a + 1000 * (v * v) ≤ t * (v * a) := by
  have moves : n * p ≠ 0 := fun h => by
    rw [h, Nat.zero_mul] at long
    exact (Nat.mul_pos hv hv).not_ge long
  rw [axisTime, if_neg moves, if_pos long, ceilDiv_le_iff (Nat.mul_pos hv ha)]

theorem axisTime_le_iff_short (hv : v < 65536) (ha : 0 < a) (short : n * p * a < v * v) :
    axisTime n p v a ≤ t ↔ 4000000 * (n * p) ≤ t * t * a := by
  rcases Nat.eq_zero_or_pos (n * p) with still | moves
  · simp [axisTime_zero still, still]
  · have small : n * p < 2 ^ 32 := calc
      n * p ≤ n * p * a := Nat.le_mul_of_pos_right _ ha
      _ < v * v := short
      _ ≤ 2 ^ 32 := Nat.mul_le_mul hv.le hv.le
    rw [axisTime, if_neg moves.ne', if_neg short.not_ge, shortTime_le_iff moves small ha]

/-! ## The critical distance: both conditions compare t × A with 2000 × V -/

/-- A long move's time is at least that of the critical distance. -/
theorem critical_le_of_long (hv : 0 < v) (long : v * v ≤ d * a)
    (h : 1000 * d * a + 1000 * (v * v) ≤ t * (v * a)) : 2000 * v ≤ t * a := by
  refine Nat.le_of_mul_le_mul_left ?_ hv
  linarith

/-- What takes the critical distance's time is long enough for a shorter distance. -/
theorem short_of_critical_le (ha : 0 < a) (short : d * a ≤ v * v) (h : 2000 * v ≤ t * a) :
    4000000 * d ≤ t * t * a := by
  refine Nat.le_of_mul_le_mul_right ?_ ha
  calc 4000000 * d * a = 4000000 * (d * a) := Nat.mul_assoc ..
    _ ≤ 4000000 * (v * v) := Nat.mul_le_mul_left _ short
    _ = 2000 * v * (2000 * v) := by ring
    _ ≤ t * a * (t * a) := Nat.mul_le_mul h h
    _ = t * t * a * a := by ring

/-- At the critical distance the condition of a short move is that of the critical distance. -/
theorem short_iff_critical_le (ha : 0 < a) (critical : d * a = v * v) :
    4000000 * d ≤ t * t * a ↔ 2000 * v ≤ t * a := by
  refine ⟨fun h => Nat.mul_self_le_mul_self_iff.mp ?_, short_of_critical_le ha critical.le⟩
  calc 2000 * v * (2000 * v) = 4000000 * (v * v) := by ring
    _ = 4000000 * d * a := by rw [← critical, Nat.mul_assoc]
    _ ≤ t * t * a * a := Nat.mul_le_mul_right a h
    _ = t * a * (t * a) := by ring

theorem axisTime_le_iff_critical (hv : 0 < v) (ha : 0 < a) (critical : n * p * a = v * v) :
    axisTime n p v a ≤ t ↔ 2000 * v ≤ t * a := by
  refine (axisTime_le_iff_long hv ha critical.ge).trans ⟨critical_le_of_long hv critical.ge, fun h => ?_⟩
  calc 1000 * (n * p) * a + 1000 * (v * v) = 2000 * v * v := by rw [Nat.mul_assoc, critical]; ring
    _ ≤ t * a * v := Nat.mul_le_mul_right v h
    _ = t * (v * a) := by ring

/-! ## Monotony and bounds -/

/-- The axis time rises with the distance; from a short to a long move it passes the critical distance's time. -/
theorem axisTime_mono {m : Nat} (hv : 0 < v) (hw : v < 65536) (ha : 0 < a) (h : m ≤ n) :
    axisTime m p v a ≤ axisTime n p v a := by
  have dist : m * p ≤ n * p := Nat.mul_le_mul_right p h
  have scaled : m * p * a ≤ n * p * a := Nat.mul_le_mul_right a dist
  rcases Nat.lt_or_ge (m * p * a) (v * v) with mShort | mLong
  · rw [axisTime_le_iff_short hw ha mShort]
    rcases Nat.lt_or_ge (n * p * a) (v * v) with nShort | nLong
    · exact (Nat.mul_le_mul_left _ dist).trans ((axisTime_le_iff_short hw ha nShort).mp le_rfl)
    · exact short_of_critical_le ha mShort.le
        (critical_le_of_long hv nLong ((axisTime_le_iff_long hv ha nLong).mp le_rfl))
  · rw [axisTime_le_iff_long hv ha mLong]
    have reached := (axisTime_le_iff_long hv ha (mLong.trans scaled)).mp (le_refl (axisTime n p v a))
    linarith

/-- With the acceleration at least 100, the speed at least 100 × k and the distance at most 100 × k × l, no move lasts
longer than the long move at these limits, which takes l + k seconds. -/
theorem axisTime_le_slowest {k l : Nat} (hk : 0 < k) (ha : 100 ≤ a) (hv : 100 * k ≤ v) (fast : v ≤ 100 * l)
    (hw : v < 65536) (far : n * p ≤ 100 * k * l) : axisTime n p v a ≤ 1000 * (l + k) := by
  rcases Nat.lt_or_ge (n * p * a) (v * v) with short | long
  · rw [axisTime_le_iff_short hw (by omega) short]
    have mean : 4 * (k * l) ≤ (l + k) * (l + k) := by nlinarith [sq_nonneg ((l : ℤ) - k)]
    calc 4000000 * (n * p) ≤ 4000000 * (100 * k * l) := Nat.mul_le_mul_left _ far
      _ = 100000000 * (4 * (k * l)) := by ring
      _ ≤ 100000000 * ((l + k) * (l + k)) := Nat.mul_le_mul_left _ mean
      _ = 1000 * (l + k) * (1000 * (l + k)) * 100 := by ring
      _ ≤ 1000 * (l + k) * (1000 * (l + k)) * a := Nat.mul_le_mul_left _ ha
  · rw [axisTime_le_iff_long (by omega) (by omega) long]
    have between : 100 * k * (100 * l) + v * v ≤ 100 * k * v + v * (100 * l) := mul_add_mul_le_mul_add_mul hv fast
    refine Nat.le_of_mul_le_mul_left ?_ (Nat.succ_pos 99)
    calc 100 * (1000 * (n * p) * a + 1000 * (v * v)) = 1000 * (100 * (n * p) * a + v * v * 100) := by ring
      _ ≤ 1000 * (100 * (100 * k * l) * a + v * v * a) := by gcongr
      _ = 1000 * a * (100 * k * (100 * l) + v * v) := by ring
      _ ≤ 1000 * a * (100 * k * v + v * (100 * l)) := Nat.mul_le_mul_left _ between
      _ = 100 * (1000 * (l + k) * (v * a)) := by ring

/-! ## The statement -/

/-- What is met exactly from `x` on has `x` as its least instance. -/
theorem least_of_le_iff {x : Nat} {P : Nat → Prop} (h : ∀ t, x ≤ t ↔ P t) : P x ∧ ∀ t, P t → x ≤ t :=
  ⟨(h x).mp le_rfl, fun t => (h t).mpr⟩

/-- Settles O60: each branch gives the least time of its condition, the two conditions meet at the critical distance, and
the slowest profile of each axis takes the longest. -/
theorem axisTimesAreExactAndBounded : Obligations.AxisTimesAreExactAndBounded := by
  refine ⟨fun n p v a hv hw ha => ⟨axisTime_zero, fun _ long => ?_, fun _ short => ?_, fun _ critical => ?_,
    fun m => axisTime_mono hv hw ha⟩, fun n p v a hn _ hp hv hw ha _ => ?_, fun n p v a hn _ hp hv hw ha _ => ?_,
    by decide, by decide⟩
  · exact least_of_le_iff fun t => axisTime_le_iff_long hv ha long
  · exact least_of_le_iff fun t => axisTime_le_iff_short hw ha short
  · have atPeak := fun t => axisTime_le_iff_critical (t := t) hv ha critical
    obtain ⟨reaches, least⟩ := least_of_le_iff fun t => (atPeak t).trans (short_iff_critical_le ha critical).symm
    exact ⟨reaches, least, least_of_le_iff atPeak⟩
  · exact axisTime_le_slowest (k := 5) (l := 968) (by omega) ha hv (by omega) (by omega)
      ((Nat.mul_le_mul hn hp).trans (by omega))
  · exact axisTime_le_slowest (k := 2) (l := 600) (by omega) ha hv (by omega) (by omega)
      ((Nat.mul_le_mul hn hp).trans (by omega))

end Sys2Proof.Machine
end
section
/-! The ledger of the Job Pool: what the laws of its slots and counts read of a state, and what an entry or a leaving does
to it (R37, R38, R40, R41, R163 to R165). -/

namespace Sys2Proof.Machine

/-- What the pool's laws read of a job: its origin and the id of its wave. -/
abbrev Entry := Origin × Option Nat

/-- What the pool's laws read of a job's record. -/
@[simp] def Job.entry (j : Job) : Entry := (j.origin, j.wave.map (·.id))

/-- What the pool's laws read of a state: the entry of each slot, the free list, the live counts of the links and the wave
table. -/
structure Ledger where
  entry : Fin 256 → Option Entry
  free : List (Fin 256)
  live : PerLink Nat
  waves : List Wave

def State.ledger (s : State) : Ledger where
  entry i := (s.slot i).job.map Job.entry
  free := s.jpl.freeList
  live := s.jpl.live
  waves := s.swu.waves

/-- The entries of the live jobs, in slot order. -/
def Ledger.roll (k : Ledger) : List Entry := (List.finRange 256).filterMap k.entry

/-- The law of the wave table for given entries: one entry for each id, whose live count is true (R163 to R165). -/
def WavesTrue (ws : List Wave) (es : List Entry) : Prop :=
  (ws.map (·.id)).Nodup ∧ (∀ x ∈ ws, x.live = es.countP fun y => decide (y.2 = some x.id))
    ∧ ∀ y ∈ es, ∀ n, y.2 = some n → n ∈ ws.map (·.id)

/-- The laws of the pool, read off a ledger. -/
structure Ledger.Lawful (k : Ledger) : Prop where
  nodup : k.free.Nodup
  free : ∀ i, i ∈ k.free ↔ k.entry i = none
  live : ∀ l, k.live.get l = k.roll.countP fun y => decide (y.1 = .order l)
  reserve : (k.roll.countP fun y => decide (y.1 ≠ .internal)) ≤ 248
  waves : WavesTrue k.waves k.roll

variable {s t : State} {k m : Ledger}

theorem State.roll_eq (s : State) : s.ledger.roll = s.jobs.map Job.entry := by
  rw [State.jobs_eq, List.map_filterMap]
  rfl

/-- The laws of the pool are laws of its ledger. -/
theorem poolLawful_iff : PoolLawful s ↔ s.ledger.Lawful := by
  have entries : ∀ p : Entry → Bool, s.ledger.roll.countP p = s.jobs.countP fun j => p j.entry := fun p => by
    rw [State.roll_eq, List.countP_map]
    rfl
  have slot : ∀ i, s.ledger.entry i = none ↔ (s.slot i).job = none := fun i => Option.map_eq_none_iff
  constructor
  · rintro ⟨⟨nodup, free⟩, live, reserve, ids, counts, held⟩
    refine ⟨nodup, fun i => (free i).trans (slot i).symm, fun l => ?_, ?_, ids, fun x hx => ?_, ?_⟩
    · rw [entries]; exact live l
    · rw [entries]; exact reserve
    · rw [entries]; exact counts x hx
    · rw [State.roll_eq]
      intro y hy n hn
      obtain ⟨j, hj, rfl⟩ := List.mem_map.mp hy
      obtain ⟨w, hw, rfl⟩ := Option.map_eq_some_iff.mp hn
      exact List.mem_map.mpr (held j hj w hw)
  · rintro ⟨nodup, free, live, reserve, ids, counts, held⟩
    refine ⟨⟨nodup, fun i => (free i).trans (slot i)⟩, fun l => ?_, ?_, ids, fun x hx => ?_, fun j hj w hw => ?_⟩
    · have := live l; rwa [entries] at this
    · unfold ReserveLaw; rwa [entries] at reserve
    · have := counts x hx; rwa [entries] at this
    · refine List.mem_map.mp (held j.entry ?_ w.id (by simp [Job.entry, hw]))
      rw [State.roll_eq]
      exact List.mem_map_of_mem hj

/-- Where the ledger stands so do the laws. -/
theorem PoolLawful.of_ledger (hs : PoolLawful s) (h : t.ledger = s.ledger) : PoolLawful t := by
  rw [poolLawful_iff] at hs ⊢
  rwa [h]

/-- The roll about one slot. -/
theorem Ledger.roll_around (i : Fin 256) : ∃ before behind : (Fin 256 → Option Entry) → List Entry,
    (∀ k : Ledger, k.roll = before k.entry ++ (k.entry i).toList ++ behind k.entry)
      ∧ ∀ f g : Fin 256 → Option Entry, (∀ x, x ≠ i → f x = g x) → before f = before g ∧ behind f = behind g := by
  obtain ⟨xs, ys, h⟩ := List.append_of_mem (List.mem_finRange i)
  have nodup : (xs ++ i :: ys).Nodup := h ▸ List.nodup_finRange 256
  have hi : i ∉ xs ∧ i ∉ ys := by
    have := List.nodup_middle.mp nodup
    simpa using (List.nodup_cons.mp this).1
  refine ⟨fun f => xs.filterMap f, fun f => ys.filterMap f, fun k => ?_, fun f g hf => ⟨?_, ?_⟩⟩
  · unfold Ledger.roll
    rw [h]
    cases he : k.entry i <;> simp [he]
  · exact List.filterMap_congr fun x hx => hf x fun e => hi.1 (e ▸ hx)
  · exact List.filterMap_congr fun x hx => hf x fun e => hi.2 (e ▸ hx)

/-- A slot's entry changes: the counts of the roll lose the old entry and gain the new one. -/
theorem Ledger.countP_roll (i : Fin 256) (h : ∀ x, x ≠ i → m.entry x = k.entry x) (p : Entry → Bool) :
    m.roll.countP p + (k.entry i).toList.countP p = k.roll.countP p + (m.entry i).toList.countP p := by
  obtain ⟨before, behind, roll, same⟩ := Ledger.roll_around i
  obtain ⟨hb, ha⟩ := same m.entry k.entry h
  rw [roll m, roll k, hb, ha]
  simp only [List.countP_append]
  omega

/-- A slot becomes free: the ledger behind a job that leaves (R38). -/
theorem Ledger.Lawful.leave (h : k.Lawful) {i : Fin 256} {y : Entry} (hi : k.entry i = some y)
    (he : ∀ x, m.entry x = if x = i then none else k.entry x) (hf : m.free = k.free ++ [i])
    (hl : ∀ l, m.live.get l = k.live.get l - if y.1 = .order l then 1 else 0)
    (hw : WavesTrue m.waves m.roll) : m.Lawful := by
  have count := Ledger.countP_roll (k := k) (m := m) i (fun x hx => by rw [he, if_neg hx])
  have own : m.entry i = none := by rw [he, if_pos rfl]
  simp only [hi, own, Option.toList_some, Option.toList_none, List.countP_nil, List.countP_singleton] at count
  have busy : i ∉ k.free := by simp [h.free, hi]
  refine ⟨?_, fun x => ?_, fun l => ?_, ?_, hw⟩
  · rw [hf]
    exact List.nodup_append.mpr ⟨h.nodup, List.nodup_singleton i, by
      intro a ha b hb e
      rw [List.mem_singleton] at hb
      exact busy (hb ▸ e ▸ ha)⟩
  · rw [hf, he, List.mem_append, List.mem_singleton, h.free]
    by_cases hx : x = i <;> simp [hx]
  · have := count fun y => decide (y.1 = .order l)
    rw [hl, h.live]
    simp only [decide_eq_true_eq] at this
    omega
  · have := count fun y => decide (y.1 ≠ .internal)
    have := h.reserve
    omega

/-- A slot takes an entry: the ledger behind a job that enters (R37, R41). -/
theorem Ledger.Lawful.enter (h : k.Lawful) {i : Fin 256} {xs : List (Fin 256)} {y : Entry} (hi : k.free = i :: xs)
    (he : ∀ x, m.entry x = if x = i then some y else k.entry x) (hf : m.free = xs)
    (hl : ∀ l, m.live.get l = k.live.get l + if y.1 = .order l then 1 else 0)
    (hr : y.1 = .internal ∨ (k.roll.countP fun y => decide (y.1 ≠ .internal)) < 248)
    (hw : WavesTrue m.waves m.roll) : m.Lawful := by
  have count := Ledger.countP_roll (k := k) (m := m) i (fun x hx => by rw [he, if_neg hx])
  have own : m.entry i = some y := by rw [he, if_pos rfl]
  have idle : k.entry i = none := (h.free i).mp (by simp [hi])
  simp only [own, idle, Option.toList_some, Option.toList_none, List.countP_nil, List.countP_singleton] at count
  obtain ⟨fresh, nodup⟩ := List.nodup_cons.mp (hi ▸ h.nodup)
  refine ⟨by rwa [hf], fun x => ?_, fun l => ?_, ?_, hw⟩
  · rw [hf, he]
    by_cases hx : x = i
    · simp [hx, fresh]
    · have := h.free x
      rw [hi, List.mem_cons] at this
      simp [hx] at this ⊢
      exact this
  · have := count fun y => decide (y.1 = .order l)
    rw [hl, h.live]
    simp only [decide_eq_true_eq] at this
    omega
  · have reserve := h.reserve
    have one := count fun y => decide (y.1 ≠ .internal)
    rcases hr with hr | hr
    · have internal : decide (y.1 ≠ .internal) = false := by simp [hr]
      rw [internal] at one
      simp only [Bool.false_eq_true, if_false] at one
      omega
    · split at one <;> omega

/-- More than `n` free slots leave fewer than `256 - n` live jobs (R40). -/
theorem Ledger.Lawful.length (h : k.Lawful) : k.roll.length + k.free.length = 256 := by
  have split : (List.finRange 256).countP (fun i => (k.entry i).isSome)
      + (List.finRange 256).countP (fun i => decide (k.entry i = none)) = 256 := by
    have := List.length_eq_countP_add_countP (fun i => (k.entry i).isSome) (l := List.finRange 256)
    simpa using this.symm
  have roll : k.roll.length = (List.finRange 256).countP fun i => (k.entry i).isSome := by
    unfold Ledger.roll
    rw [List.length_filterMap_eq_countP]
  have free : k.free.length = (List.finRange 256).countP fun i => decide (k.entry i = none) := by
    rw [List.countP_eq_length_filter]
    refine (List.perm_of_nodup_nodup_toFinset_eq h.nodup ((List.nodup_finRange 256).filter _) ?_).length_eq
    ext i
    simp [h.free]
  omega

/-- Waves changed one by one, those of live count 0 freed at will (R38, R163, R164). -/
theorem WavesTrue.map_filter {ws : List Wave} {es fs : List Entry} (h : WavesTrue ws es) (f : Wave → Wave)
    (q : Wave → Bool) (hid : ∀ x, (f x).id = x.id)
    (hlive : ∀ x ∈ ws, x.live = (es.countP fun y => decide (y.2 = some x.id)) →
      (f x).live = fs.countP fun y => decide (y.2 = some x.id))
    (hq : ∀ x ∈ ws, q (f x) = false → (f x).live = 0) (hmem : ∀ y ∈ fs, ∀ n, y.2 = some n → n ∈ ws.map (·.id)) :
    WavesTrue ((ws.map f).filter q) fs := by
  obtain ⟨ids, counts, -⟩ := h
  have same : (ws.map f).map (·.id) = ws.map (·.id) := by simp [hid]
  refine ⟨?_, fun x hx => ?_, fun y hy n hn => ?_⟩
  · exact (same ▸ ids).sublist (List.filter_sublist.map _)
  · obtain ⟨w, hw, rfl⟩ := List.mem_map.mp (List.mem_filter.mp hx).1
    rw [hid]
    exact hlive w hw (counts w hw)
  · obtain ⟨w, hw, rfl⟩ := List.mem_map.mp (hmem y hy n hn)
    refine List.mem_map.mpr ⟨f w, List.mem_filter.mpr ⟨List.mem_map_of_mem hw, ?_⟩, hid w⟩
    by_contra hf
    have zero := hq w hw (by simpa using hf)
    rw [hlive w hw (counts w hw), List.countP_eq_zero] at zero
    exact zero y hy (by simpa using hn)

end Sys2Proof.Machine
end
section
/-! The operations that leave the ledger of the Job Pool: all that let no job leave and none enter. -/

namespace Sys2Proof.Machine
variable {r s t : State}
/-- A part the ledger does not read. -/
def Part.offLedger (p : Part) : Bool :=
  match p with
  | .jobs | .pool | .waves => false
  | _ => true

theorem Frame.ledger {ps : List Part} (h : Frame ps s t) (hp : ps.all Part.offLedger = true) : t.ledger = s.ledger := by
  have off : ∀ p : Part, p.offLedger = false → p ∉ ps := fun p hf hm => by
    have := List.all_eq_true.mp hp p hm
    rw [hf] at this
    cases this
  have slots : t.jpl.slots = s.jpl.slots := h.same .jobs (off _ rfl)
  obtain ⟨free, live, -, -⟩ := h.same .pool (off _ rfl)
  have waves : t.swu.waves = s.swu.waves := h.same .waves (off _ rfl)
  simp only [State.ledger, State.slot, slots, free, live, waves]

@[simp] theorem each_ledger {α : Type} (xs : List α) (f : State → α → State) (hf :
    ∀ s x, (f s x).ledger = s.ledger) (s : State) :
    (s.each xs f).ledger = s.ledger := by
  induction xs generalizing s with
  | nil => rfl
  | cons x xs ih => exact (ih (f s x)).trans (hf s x)

@[simp] theorem setCrane_ledger (s : State) (c : CraneId) (x : Crane) : (s.setCrane c x).ledger = s.ledger :=
  (Frame.setCrane (.refl _ s) c x (List.Subset.refl _)).ledger rfl

@[simp] theorem setParkOwed_ledger (s : State) (c : CraneId) (b : Bool) : (s.setParkOwed c b).ledger = s.ledger :=
  (Frame.setParkOwed (.refl _ s) c b (List.Subset.refl _)).ledger rfl

@[simp] theorem setQueue_ledger (s : State) (l : OrderLink) (q : List Notice) : (s.setQueue l q).ledger = s.ledger :=
  (Frame.setQueue (.refl _ s) l q (List.Subset.refl _)).ledger rfl

@[simp] theorem raise_ledger (s : State) (e : Instr) : (s.raise e).ledger = s.ledger :=
  (Frame.raise (.refl _ s) e (List.Subset.refl _)).ledger rfl

@[simp] theorem take_ledger (s : State) (e : Instr) : (s.take e).ledger = s.ledger :=
  (Frame.take (.refl _ s) e (List.Subset.refl _)).ledger rfl

@[simp] theorem setHoldState_ledger (s : State) (a : AisleId) (x : HoldState) :
    (s.setHoldState a x).ledger = s.ledger :=
  (Frame.setHoldState (.refl _ s) a x (List.Subset.refl _)).ledger rfl

@[simp] theorem offerNotice_ledger (s : State) (l : OrderLink) (n : Notice) : (s.offerNotice l n).ledger = s.ledger :=
  (Frame.offerNotice (.refl _ s) l n (List.Subset.refl _)).ledger rfl

@[simp] theorem select_ledger (s : State) (a : AisleId) : (s.select a).ledger = s.ledger :=
  (Frame.select (.refl _ s) a (List.Subset.refl _)).ledger rfl

@[simp] theorem raiseFault_ledger (s : State) (k : FaultKind) (src : FaultSource) (a : Option AisleId)
    (j : Option Handle) (p : List Byte) : (s.raiseFault k src a j p).ledger = s.ledger :=
  (Frame.raiseFault (.refl _ s) k src a j p (List.Subset.refl _)).ledger rfl

@[simp] theorem send_ledger (s : State) (k : Link) (m : Message) : (s.send k m).ledger = s.ledger :=
  (Frame.send (.refl _ s) k m (List.Subset.refl _)).ledger rfl

@[simp] theorem recheckCell_ledger (s : State) (c : CellAddr) (b : Bool) : (s.recheckCell c b).ledger = s.ledger :=
  (Frame.recheckCell (.refl _ s) c b (List.Subset.refl _)).ledger rfl

@[simp] theorem becameReady_ledger (s : State) (j : Job) : (s.becameReady j).ledger = s.ledger :=
  (Frame.becameReady (.refl _ s) j (List.Subset.refl _)).ledger rfl

@[simp] theorem pickMade_ledger (s : State) (c : CellAddr) (j : Handle) : (s.pickMade c j).1.ledger = s.ledger :=
  (Frame.pickMade (.refl _ s) c j (List.Subset.refl _)).ledger rfl

@[simp] theorem release_ledger (s : State) (c : CellAddr) (j : Handle) : (s.release c j).ledger = s.ledger :=
  (Frame.release (.refl _ s) c j (List.Subset.refl _)).ledger rfl

@[simp] theorem release_q_ledger (s : State) (c : Option CellAddr) (j : Handle) : (s.release? c j).ledger = s.ledger :=
  (Frame.release_q (.refl _ s) c j (List.Subset.refl _)).ledger rfl

@[simp] theorem dropMade_ledger (s : State) (c : CellAddr) (j : Handle) (k : Class) :
    (s.dropMade c j k).ledger = s.ledger :=
  (Frame.dropMade (.refl _ s) c j k (List.Subset.refl _)).ledger rfl

@[simp] theorem foundOccupied_ledger (s : State) (c : CellAddr) (j : Handle) :
    (s.foundOccupied c j).ledger = s.ledger :=
  (Frame.foundOccupied (.refl _ s) c j (List.Subset.refl _)).ledger rfl

@[simp] theorem setPosition_ledger (s : State) (c : CraneId) (x : Point) : (s.setPosition c x).ledger = s.ledger :=
  (Frame.setPosition (.refl _ s) c x (List.Subset.refl _)).ledger rfl

@[simp] theorem updOwn_ledger (s : State) (c : CraneId) (f : RailEntry → RailEntry) :
    (s.updOwn c f).ledger = s.ledger :=
  (Frame.updOwn (.refl _ s) c f (List.Subset.refl _)).ledger rfl

@[simp] theorem grant_ledger (s : State) (c : CraneId) (i : Interval) : (s.grant c i).ledger = s.ledger :=
  (Frame.grant (.refl _ s) c i (List.Subset.refl _)).ledger rfl

@[simp] theorem startOfferTimer_ledger (s : State) (c : CraneId) : (s.startOfferTimer c).ledger = s.ledger :=
  (Frame.startOfferTimer (.refl _ s) c (List.Subset.refl _)).ledger rfl

@[simp] theorem stopOfferTimer_ledger (s : State) (c : CraneId) : (s.stopOfferTimer c).ledger = s.ledger :=
  (Frame.stopOfferTimer (.refl _ s) c (List.Subset.refl _)).ledger rfl

@[simp] theorem stopParkTimer_ledger (s : State) (c : CraneId) : (s.stopParkTimer c).ledger = s.ledger :=
  (Frame.stopParkTimer (.refl _ s) c (List.Subset.refl _)).ledger rfl

@[simp] theorem startHoldBack_ledger (s : State) (c : CraneId) : (s.startHoldBack c).ledger = s.ledger :=
  (Frame.startHoldBack (.refl _ s) c (List.Subset.refl _)).ledger rfl

@[simp] theorem stopHoldBack_ledger (s : State) (c : CraneId) : (s.stopHoldBack c).ledger = s.ledger :=
  (Frame.stopHoldBack (.refl _ s) c (List.Subset.refl _)).ledger rfl

@[simp] theorem stopDeadline_ledger (s : State) (c : CraneId) : (s.stopDeadline c).ledger = s.ledger :=
  (Frame.stopDeadline (.refl _ s) c (List.Subset.refl _)).ledger rfl

@[simp] theorem startDeadline_ledger (s : State) (c : CraneId) (x : Point) : (s.startDeadline c x).ledger = s.ledger :=
  (Frame.startDeadline (.refl _ s) c x (List.Subset.refl _)).ledger rfl

@[simp] theorem testHold_ledger (s : State) (a : AisleId) : (s.testHold a).ledger = s.ledger :=
  (Frame.testHold (.refl _ s) a (List.Subset.refl _)).ledger rfl

@[simp] theorem enterState_ledger (s : State) (c : CraneId) (x : CraneState) : (s.enterState c x).ledger = s.ledger :=
  (Frame.enterState (.refl _ s) c x (List.Subset.refl _)).ledger rfl

@[simp] theorem leaveBackoff_ledger (s : State) (c : CraneId) : (s.leaveBackoff c).ledger = s.ledger :=
  (Frame.leaveBackoff (.refl _ s) c (List.Subset.refl _)).ledger rfl

@[simp] theorem sendPark_ledger (s : State) (c : CraneId) : (s.sendPark c).ledger = s.ledger :=
  (Frame.sendPark (.refl _ s) c (List.Subset.refl _)).ledger rfl

@[simp] theorem goIdle_ledger (s : State) (c : CraneId) : (s.goIdle c).ledger = s.ledger :=
  (Frame.goIdle (.refl _ s) c (List.Subset.refl _)).ledger rfl

@[simp] theorem goIdleOrPark_ledger (s : State) (c : CraneId) : (s.goIdleOrPark c).ledger = s.ledger :=
  (Frame.goIdleOrPark (.refl _ s) c (List.Subset.refl _)).ledger rfl

@[simp] theorem updBound_ledger (s : State) (c : CraneId) (j : Job) (f : Credit → Credit) :
    (s.updBound c j f).ledger = s.ledger :=
  (Frame.updBound (.refl _ s) c j f (List.Subset.refl _)).ledger rfl

@[simp] theorem fall_ledger (s : State) (c : CraneId) (bays : List Nat) : (s.fall c bays).ledger = s.ledger :=
  (Frame.fall (.refl _ s) c bays (List.Subset.refl _)).ledger rfl

@[simp] theorem withdraw_ledger (s : State) (c : CraneId) (keep : Nat) : (s.withdraw c keep).ledger = s.ledger :=
  (Frame.withdraw (.refl _ s) c keep (List.Subset.refl _)).ledger rfl

@[simp] theorem standby_ledger (s : State) (c : CraneId) : (s.standby c).ledger = s.ledger :=
  (Frame.standby (.refl _ s) c (List.Subset.refl _)).ledger rfl

@[simp] theorem advanceCounter_ledger (s : State) (c : CraneId) : (s.advanceCounter c).ledger = s.ledger :=
  (Frame.advanceCounter (.refl _ s) c (List.Subset.refl _)).ledger rfl

@[simp] theorem makeClear_ledger (s : State) (c : CraneId) (a : AisleId) (e : End) (i : Interval) (t : Nat) :
    (s.makeClear c a e i t).ledger = s.ledger :=
  (Frame.makeClear (.refl _ s) c a e i t (List.Subset.refl _)).ledger rfl

@[simp] theorem stale_ledger (s : State) (c : CraneId) (j : Option Handle) (p : List Byte) :
    (s.stale c j p).ledger = s.ledger :=
  (Frame.stale (.refl _ s) c j p (List.Subset.refl _)).ledger rfl

@[simp] theorem abandonClear_ledger (s : State) (c : CraneId) : (s.abandonClear c).ledger = s.ledger :=
  (Frame.abandonClear (.refl _ s) c (List.Subset.refl _)).ledger rfl

@[simp] theorem announceRail_ledger (s : State) (c : CraneId) (bay : Nat) (p : List Byte) :
    (s.announceRail c bay p).ledger = s.ledger :=
  (Frame.announceRail (.refl _ s) c bay p (List.Subset.refl _)).ledger rfl

@[simp] theorem restartBreach_ledger (s : State) (c : CraneId) (bay : Nat) (p : List Byte) :
    (s.restartBreach c bay p).ledger = s.ledger :=
  (Frame.restartBreach (.refl _ s) c bay p (List.Subset.refl _)).ledger rfl

@[simp] theorem raiseRestart_ledger (s : State) (c : CraneId) (p : List Byte) :
    (s.raiseRestart c p).ledger = s.ledger :=
  (Frame.raiseRestart (.refl _ s) c p (List.Subset.refl _)).ledger rfl

@[simp] theorem restartGoes_ledger (s : State) (c : CraneId) : (s.restartGoes c).ledger = s.ledger :=
  (Frame.restartGoes (.refl _ s) c (List.Subset.refl _)).ledger rfl

@[simp] theorem strikePolicy_ledger (s : State) (c : CraneId) (p : List Byte) :
    (s.strikePolicy c p).ledger = s.ledger :=
  (Frame.strikePolicy (.refl _ s) c p (List.Subset.refl _)).ledger rfl

@[simp] theorem parked_ledger (s : State) (c : CraneId) (p : List Byte) : (s.parked c p).ledger = s.ledger :=
  (Frame.parked (.refl _ s) c p (List.Subset.refl _)).ledger rfl

@[simp] theorem reachStep_ledger (s : State) (c : CraneId) (j : Job) (x : Step) (xs : List Step) (p : List Byte) :
    (s.reachStep c j x xs p).ledger = s.ledger :=
  (Frame.reachStep (.refl _ s) c j x xs p (List.Subset.refl _)).ledger rfl

@[simp] theorem advanceStep_ledger (s : State) (c : CraneId) : (s.advanceStep c).ledger = s.ledger :=
  (Frame.advanceStep (.refl _ s) c (List.Subset.refl _)).ledger rfl

@[simp] theorem takePallet_ledger (s : State) (j : Job) : (s.takePallet j).ledger = s.ledger :=
  (Frame.takePallet (.refl _ s) j (List.Subset.refl _)).ledger rfl

@[simp] theorem reportFinding_ledger (s : State) (c : CraneId) (j : Job) (d : CellAddr) (x : Finding)
    (k : FaultKind) (p : List Byte) : (s.reportFinding c j d x k p).ledger = s.ledger :=
  (Frame.reportFinding (.refl _ s) c j d x k p (List.Subset.refl _)).ledger rfl

@[simp] theorem noteRedirect_ledger (s : State) (j : Job) (x y : CellAddr) : (s.noteRedirect j x y).ledger = s.ledger :=
  (Frame.noteRedirect (.refl _ s) j x y (List.Subset.refl _)).ledger rfl

@[simp] theorem setTx_ledger (s : State) (k : Link) (ms : List Message) : (s.setTx k ms).ledger = s.ledger :=
  (Frame.setTx (.refl _ s) k ms (List.Subset.refl _)).ledger rfl

@[simp] theorem setInput_ledger (s : State) (a : AisleId) (e : End) (x : InputRecord) :
    (s.setInput a e x).ledger = s.ledger :=
  (Frame.setInput (.refl _ s) a e x (List.Subset.refl _)).ledger rfl

@[simp] theorem putCell_ledger (s : State) (c : CellAddr) (x : Cell) : (s.putCell c x).ledger = s.ledger :=
  (Frame.putCell (.refl _ s) c x (List.Subset.refl _)).ledger rfl

@[simp] theorem forget_ledger (s : State) (e : Instr) : (s.forget e).ledger = s.ledger :=
  (Frame.forget (.refl _ s) e (List.Subset.refl _)).ledger rfl

@[simp] theorem selectAll_ledger (s : State)  : (s.selectAll).ledger = s.ledger :=
  (Frame.selectAll (.refl _ s)  (List.Subset.refl _)).ledger rfl

@[simp] theorem offerActive_ledger (s : State) (n : Notice) : (s.offerActive n).ledger = s.ledger :=
  (Frame.offerActive (.refl _ s) n (List.Subset.refl _)).ledger rfl

@[simp] theorem reEvaluate_ledger (s : State) (p : Job → Bool) : (s.reEvaluate p).ledger = s.ledger :=
  (Frame.reEvaluate (.refl _ s) p (List.Subset.refl _)).ledger rfl

@[simp] theorem recheckAisle_ledger (s : State) (a : AisleId) (cs : List CellAddr) :
    (s.recheckAisle a cs).ledger = s.ledger :=
  (Frame.recheckAisle (.refl _ s) a cs (List.Subset.refl _)).ledger rfl

@[simp] theorem foundEmpty_ledger (s : State) (c : CellAddr) (j : Handle) : (s.foundEmpty c j).ledger = s.ledger :=
  (Frame.foundEmpty (.refl _ s) c j (List.Subset.refl _)).ledger rfl

@[simp] theorem declareFull_ledger (s : State) (c : CellAddr) (j : Handle) (k : Option Class) :
    (s.declareFull c j k).ledger = s.ledger :=
  (Frame.declareFull (.refl _ s) c j k (List.Subset.refl _)).ledger rfl

@[simp] theorem checkRail_ledger (s : State) (a : AisleId) : (s.checkRail a).ledger = s.ledger :=
  (Frame.checkRail (.refl _ s) a (List.Subset.refl _)).ledger rfl

@[simp] theorem testPending_ledger (s : State) (a : AisleId) : (s.testPending a).ledger = s.ledger :=
  (Frame.testPending (.refl _ s) a (List.Subset.refl _)).ledger rfl

@[simp] theorem updCredit_ledger (s : State) (a : AisleId) (e : End) (f : Credit → Credit) :
    (s.updCredit a e f).ledger = s.ledger :=
  (Frame.updCredit (.refl _ s) a e f (List.Subset.refl _)).ledger rfl

@[simp] theorem endHold_ledger (s : State) (a : AisleId) : (s.endHold a).ledger = s.ledger :=
  (Frame.endHold (.refl _ s) a (List.Subset.refl _)).ledger rfl

@[simp] theorem rebuildRail_ledger (s : State) (a : AisleId) : (s.rebuildRail a).ledger = s.ledger :=
  (Frame.rebuildRail (.refl _ s) a (List.Subset.refl _)).ledger rfl

@[simp] theorem dropRearStations_ledger (s : State) (a : AisleId) : (s.dropRearStations a).ledger = s.ledger :=
  (Frame.dropRearStations (.refl _ s) a (List.Subset.refl _)).ledger rfl

@[simp] theorem ask_ledger (s : State) (c : CraneId) (x : Point) (p : List Byte) : (s.ask c x p).ledger = s.ledger :=
  (Frame.ask (.refl _ s) c x p (List.Subset.refl _)).ledger rfl

@[simp] theorem pos_ledger (s : State) (c : CraneId) (x : Point) (p : List Byte) : (s.pos c x p).ledger = s.ledger :=
  (Frame.pos (.refl _ s) c x p (List.Subset.refl _)).ledger rfl

@[simp] theorem cleared_ledger (s : State) (c : CraneId) (x : Point) (p : List Byte) :
    (s.cleared c x p).ledger = s.ledger :=
  (Frame.cleared (.refl _ s) c x p (List.Subset.refl _)).ledger rfl

@[simp] theorem unfit_ledger (s : State) (c : CraneId) (h' : Handle) (p : List Byte) :
    (s.unfit c h' p).ledger = s.ledger :=
  (Frame.unfit (.refl _ s) c h' p (List.Subset.refl _)).ledger rfl

@[simp] theorem leaveUnit_ledger (s : State) (c : CraneId) (h' : Handle) : (s.leaveUnit c h').ledger = s.ledger :=
  (Frame.leaveUnit (.refl _ s) c h' (List.Subset.refl _)).ledger rfl

@[simp] theorem holdBackEnds_ledger (s : State) (c : CraneId) : (s.holdBackEnds c).ledger = s.ledger :=
  (Frame.holdBackEnds (.refl _ s) c (List.Subset.refl _)).ledger rfl

@[simp] theorem parkLapse_ledger (s : State) (c : CraneId) : (s.parkLapse c).ledger = s.ledger :=
  (Frame.parkLapse (.refl _ s) c (List.Subset.refl _)).ledger rfl

@[simp] theorem backoffEnds_ledger (s : State) (c : CraneId) : (s.backoffEnds c).ledger = s.ledger :=
  (Frame.backoffEnds (.refl _ s) c (List.Subset.refl _)).ledger rfl

@[simp] theorem unmatch_ledger (s : State) (j : Job) : (s.unmatch j).ledger = s.ledger :=
  (Frame.unmatch (.refl _ s) j (List.Subset.refl _)).ledger rfl

@[simp] theorem serviceIn_ledger (s : State) (c : CraneId) : (s.serviceIn c).ledger = s.ledger :=
  (Frame.serviceIn (.refl _ s) c (List.Subset.refl _)).ledger rfl

@[simp] theorem parkEntry_ledger (s : State) (m : Option (AisleId × End)) : (s.parkEntry m).ledger = s.ledger :=
  (Frame.parkEntry (.refl _ s) m (List.Subset.refl _)).ledger rfl

@[simp] theorem testMapping_ledger (s : State) (m : Option (AisleId × End)) : (s.testMapping m).ledger = s.ledger :=
  (Frame.testMapping (.refl _ s) m (List.Subset.refl _)).ledger rfl

/-- The ledger reads each slot's job through its entry alone. -/
theorem ledger_of_entry (h : ∀ i, (t.slot i).job.map Job.entry = (s.slot i).job.map Job.entry)
    (hf : t.jpl.freeList = s.jpl.freeList) (hl : t.jpl.live = s.jpl.live) (hw : t.swu.waves = s.swu.waves) :
    t.ledger = s.ledger := by
  unfold State.ledger
  rw [funext h, hf, hl, hw]

@[simp] theorem updJob_ledger (s : State) (i : Handle) (f : Job → Job) (hf :
    ∀ j, (f j).origin = j.origin ∧ (f j).wave = j.wave) :
    (s.updJob i f).ledger = s.ledger := by
  unfold State.updJob
  split
  · next j hj =>
    obtain ⟨-, job⟩ := State.job?_eq_some.mp hj
    refine ledger_of_entry (fun x => ?_) rfl rfl rfl
    rw [State.setSlot_slot]
    split
    · next hx =>
      obtain ⟨origin, wave⟩ := hf j
      rw [hx, job]
      simp [origin, wave]
    · rfl
  · rfl

theorem Job.rewrite_entry (j : Job) (x y : CellAddr) : (j.rewrite x y).entry = j.entry := by
  unfold Job.rewrite
  dsimp only
  split
  · rfl
  · split <;> rfl

@[simp] theorem rewrite_ledger (s : State) (x y : CellAddr) : (s.rewrite x y).ledger = s.ledger := by
  refine ledger_of_entry (fun i => ?_) rfl rfl rfl
  rw [State.rewrite_slot, Option.map_map]
  refine congrArg (Option.map · _) (funext fun j => ?_)
  show (s.rewriteJob x y j).entry = j.entry
  unfold State.rewriteJob
  split
  · rfl
  · exact j.rewrite_entry x y

@[simp] theorem ageStep_ledger (s : State) : s.ageStep.ledger = s.ledger := by
  unfold State.ageStep
  split
  · rfl
  · refine ledger_of_entry (fun i => ?_) rfl rfl rfl
    refine (congrArg (fun x : Slot => x.job.map Job.entry) (slot_map _ _ i)).trans ?_
    rw [Option.map_map]
    refine congrArg (Option.map · _) (funext fun j => ?_)
    show (Job.ageOnce j).entry = j.entry
    unfold Job.ageOnce
    split <;> rfl

@[simp] theorem dropPartner_ledger (s : State) (j : Job) : (s.dropPartner j).ledger = s.ledger := by
  unfold State.dropPartner
  repeat' split
  all_goals simp

@[simp] theorem returnToReady_ledger (s : State) (c : CraneId) (h' : Handle) :
    (s.returnToReady c h').ledger = s.ledger := by
  unfold State.returnToReady
  repeat' split
  all_goals simp

@[simp] theorem endRedirect_ledger (s : State) (c : CraneId) : (s.endRedirect c).ledger = s.ledger := by
  unfold State.endRedirect
  split
  · rfl
  · dsimp only
    split <;> simp

@[simp] theorem withdrawRedirect_ledger (s : State) (c : CraneId) : (s.withdrawRedirect c).ledger = s.ledger := by
  unfold State.withdrawRedirect
  repeat' split
  all_goals simp

@[simp] theorem late_ledger (s : State) (c : CraneId) : (s.late c).ledger = s.ledger := by
  unfold State.late
  simp

@[simp] theorem endUnit_ledger (s : State) (c : CraneId) : (s.endUnit c).ledger = s.ledger := by
  unfold State.endUnit
  simp

@[simp] theorem finishUnit_ledger (s : State) (c : CraneId) : (s.finishUnit c).ledger = s.ledger := by
  unfold State.finishUnit
  simp

@[simp] theorem afterWithdraw_ledger (s : State) (c : CraneId) : (s.afterWithdraw c).ledger = s.ledger := by
  unfold State.afterWithdraw
  repeat' split
  all_goals simp

@[simp] theorem giveBack_ledger (s : State) (c : CraneId) : (s.giveBack c).ledger = s.ledger := by
  unfold State.giveBack
  simp

@[simp] theorem payNotice_ledger (s : State) (h' : Handle) (l : OrderLink) (n : Notice) :
    (s.payNotice h' l n).ledger = s.ledger := by
  unfold State.payNotice
  simp

@[simp] theorem closeStart_ledger (s : State) (h' : Handle) (o : JobOutcome) (m : Bool) (f : Credit → Credit) :
    (s.closeStart h' o m f).ledger = s.ledger := by
  unfold State.closeStart
  repeat' split
  all_goals simp

@[simp] theorem clearWaits_ledger (s : State) (j : Job) : (s.clearWaits j).ledger = s.ledger := by
  unfold State.clearWaits
  split
  · refine updJob_ledger _ _ _ fun x => ?_
    split <;> exact ⟨rfl, rfl⟩
  · rfl

@[simp] theorem pend_ledger (s : State) (h' : Handle) (x : PendingReason) : (s.pend h' x).ledger = s.ledger := by
  unfold State.pend
  simp

@[simp] theorem evaluateKept_ledger (s : State) (h' : Handle) (j : Job) (cs : List CellAddr) :
    (s.evaluateKept h' j cs).ledger = s.ledger := by
  unfold State.evaluateKept
  repeat' split
  all_goals simp

@[simp] theorem keepCandidates_ledger (s : State) (h' : Handle) (cs : List CellAddr) :
    (s.keepCandidates h' cs).ledger = s.ledger := by
  unfold State.keepCandidates
  simp

@[simp] theorem rewrite_q_ledger (s : State) (x y : Option CellAddr) : (s.rewrite? x y).ledger = s.ledger := by
  unfold State.rewrite?
  repeat' split
  all_goals simp

@[simp] theorem drainLoaded_ledger (s : State) (c : CraneId) (h' : Handle) :
    (s.drainLoaded c h').ledger = s.ledger := by
  unfold State.drainLoaded
  split
  · rfl
  · dsimp only
    split <;> simp

@[simp] theorem drainCrane_ledger (s : State) (c : CraneId) : (s.drainCrane c).ledger = s.ledger := by
  unfold State.drainCrane
  repeat' split
  all_goals simp

@[simp] theorem drain_ledger (s : State) (a : AisleId) : (s.drain a).ledger = s.ledger := by
  unfold State.drain
  simp

@[simp] theorem configureHold_ledger (s : State) (a : AisleId) : (s.configureHold a).ledger = s.ledger := by
  unfold State.configureHold
  repeat' split
  all_goals simp

@[simp] theorem askSlot_ledger (s : State) (h' : Handle) : (s.askSlot h').ledger = s.ledger := by
  unfold State.askSlot
  simp

@[simp] theorem redirectStore_ledger (s : State) (j : Job) (c : CellAddr) :
    (s.redirectStore j c).ledger = s.ledger := by
  unfold State.redirectStore
  repeat' split
  all_goals simp

@[simp] theorem markOffered_ledger (s : State) (c : CraneId) (n : BitVec 8) (u : Proposal) (j : Job) :
    (s.markOffered c n u j).ledger = s.ledger := by
  unfold State.markOffered
  simp

@[simp] theorem makeOffer_ledger (s : State) (c : CraneId) (u : Proposal) : (s.makeOffer c u).ledger = s.ledger := by
  unfold State.makeOffer
  simp

@[simp] theorem offer_ledger (s : State) (c : CraneId) (u : Proposal) : (s.offer c u).ledger = s.ledger := by
  unfold State.offer
  split
  · next t ht => simpa using (Frame.reserveUnit (.refl _ s) u ht (List.Subset.refl _)).ledger rfl
  · simp

@[simp] theorem takeWinner_ledger (s : State) (c : CraneId) (p : Profile) (a : AisleId) (e : End) (u : Proposal) :
    (s.takeWinner c p a e u).ledger = s.ledger := by
  unfold State.takeWinner
  repeat' split
  all_goals simp

@[simp] theorem decideWinner_ledger (s : State) (c : CraneId) (p : Profile) (a : AisleId) (e : End) (u : Proposal) :
    (s.decideWinner c p a e u).ledger = s.ledger := by
  unfold State.decideWinner
  repeat' split
  all_goals simp

@[simp] theorem runSelection_ledger (s : State) (c : CraneId) : (s.runSelection c).ledger = s.ledger := by
  unfold State.runSelection
  repeat' split
  all_goals simp

@[simp] theorem makeRedirect_ledger (s : State) (c : CraneId) (j : Job) (u : Proposal) :
    (s.makeRedirect c j u).ledger = s.ledger := by
  unfold State.makeRedirect
  split
  · rfl
  · next t ht => simpa using (Frame.reserveUnit (.refl _ s) u ht (List.Subset.refl _)).ledger rfl

@[simp] theorem runPreemption_ledger (s : State) (h' : Handle) : (s.runPreemption h').ledger = s.ledger := by
  unfold State.runPreemption
  repeat' split
  all_goals simp

@[simp] theorem runSlotSearch_ledger (s : State) (h' : Handle) : (s.runSlotSearch h').ledger = s.ledger := by
  unfold State.runSlotSearch
  repeat' split
  any_goals simp
  next t ht => exact (Frame.reserveDrop (.refl _ s) _ _ ht (List.Subset.refl _)).ledger rfl

@[simp] theorem strand_ledger (s : State) (c : CraneId) (h' : Handle) : (s.strand c h').ledger = s.ledger := by
  unfold State.strand
  dsimp only
  rw [each_ledger]
  · simp
  · intro r q
    split <;> simp

@[simp] theorem breakWork_ledger (s : State) (c : CraneId) : (s.breakWork c).ledger = s.ledger := by
  unfold State.breakWork
  dsimp only
  split <;> simp

@[simp] theorem restartGivesUp_ledger (s : State) (c : CraneId) : (s.restartGivesUp c).ledger = s.ledger := by
  unfold State.restartGivesUp
  repeat' split
  all_goals simp

@[simp] theorem hello_ledger (s : State) (c : CraneId) (x : Point) (p : List Byte) :
    (s.hello c x p).ledger = s.ledger := by
  unfold State.hello
  repeat' split
  all_goals simp

@[simp] theorem ageCount_ledger (s : State)  : (s.ageCount).ledger = s.ledger := by
  unfold State.ageCount
  split
  · rfl
  · split
    · exact ageStep_ledger s
    · rfl

@[simp] theorem ageAccept_ledger (s : State)  : (s.ageAccept).ledger = s.ledger := by
  unfold State.ageAccept
  repeat' split
  all_goals simp

@[simp] theorem acceptOffer_ledger (s : State) (c : CraneId) : (s.acceptOffer c).ledger = s.ledger := by
  unfold State.acceptOffer
  simp

@[simp] theorem acceptRedirect_ledger (s : State) (c : CraneId) (x : Redirect) :
    (s.acceptRedirect c x).ledger = s.ledger := by
  unfold State.acceptRedirect
  simp

@[simp] theorem answerRedirect_ledger (s : State) (c : CraneId) (x : Redirect) (p : List Byte) :
    (s.answerRedirect c x p).ledger = s.ledger := by
  unfold State.answerRedirect
  repeat' split
  all_goals simp

@[simp] theorem accept_ledger (s : State) (c : CraneId) (n : BitVec 8) (p : List Byte) :
    (s.accept c n p).ledger = s.ledger := by
  unfold State.accept
  repeat' split
  all_goals simp

@[simp] theorem missOffer_ledger (s : State) (c : CraneId) (p : List Byte) : (s.missOffer c p).ledger = s.ledger := by
  unfold State.missOffer
  simp

@[simp] theorem refuseOffer_ledger (s : State) (c : CraneId) (n : BitVec 8) (x : Nat) (p : List Byte) :
    (s.refuseOffer c n x p).ledger = s.ledger := by
  unfold State.refuseOffer
  dsimp only
  repeat' split
  all_goals simp

@[simp] theorem answerLate_ledger (s : State) (c : CraneId) (n : BitVec 8) (p : List Byte) :
    (s.answerLate c n p).ledger = s.ledger := by
  unfold State.answerLate
  repeat' split
  all_goals simp

@[simp] theorem faultTreats_ledger (s : State) (c : CraneId) : (s.faultTreats c).ledger = s.ledger := by
  unfold State.faultTreats
  repeat' split
  all_goals simp

@[simp] theorem craneFault_ledger (s : State) (c : CraneId) (n : Nat) (p : List Byte) :
    (s.craneFault c n p).ledger = s.ledger := by
  unfold State.craneFault
  simp

@[simp] theorem recoverLoaded_ledger (s : State) (c : CraneId) (h' : Handle) :
    (s.recoverLoaded c h').ledger = s.ledger := by
  unfold State.recoverLoaded
  dsimp only
  repeat' split
  all_goals simp

@[simp] theorem recovered_ledger (s : State) (c : CraneId) (p : List Byte) : (s.recovered c p).ledger = s.ledger := by
  unfold State.recovered
  repeat' split
  all_goals simp

@[simp] theorem pickCarried_ledger (s : State) (j : Job) : (s.pickCarried j).ledger = s.ledger := by
  unfold State.pickCarried
  repeat' split
  all_goals simp

@[simp] theorem pickEffects_ledger (s : State) (j : Job) : (s.pickEffects j).ledger = s.ledger := by
  unfold State.pickEffects
  repeat' split
  all_goals simp

@[simp] theorem picked_ledger (s : State) (c : CraneId) (j : Job) (u : WorkUnit) (x : Step) (p : List Byte) :
    (s.picked c j u x p).ledger = s.ledger := by
  unfold State.picked
  simp

@[simp] theorem dropAt_ledger (s : State) (j : Job) (c : Option CellAddr) (k : Option Class) (b : Bool) :
    (s.dropAt j c k b).ledger = s.ledger := by
  unfold State.dropAt
  repeat' split
  all_goals simp

@[simp] theorem dropEffects_ledger (s : State) (j : Job) : (s.dropEffects j).ledger = s.ledger := by
  unfold State.dropEffects
  repeat' split
  all_goals simp

theorem Job.redrop_origin (j : Job) (c : CellAddr) :
    (j.redrop c).origin = j.origin := by unfold Job.redrop; split <;> rfl

theorem Job.redrop_wave (j : Job) (c : CellAddr) : (j.redrop c).wave = j.wave := by unfold Job.redrop; split <;> rfl

@[simp] theorem newDrop_ledger (s : State) (c : CraneId) (j : Job) (x y : CellAddr) :
    (s.newDrop c j x y).ledger = s.ledger := by
  unfold State.newDrop
  dsimp only
  split <;> simp [Job.redrop_origin, Job.redrop_wave]

@[simp] theorem strandAt_ledger (s : State) (c : CraneId) (j : Job) (u : WorkUnit) :
    (s.strandAt c j u).ledger = s.ledger := by
  unfold State.strandAt
  repeat' split
  all_goals simp

@[simp] theorem redirectDrop_ledger (s : State) (c : CraneId) (j : Job) (u : WorkUnit) (d : CellAddr) :
    (s.redirectDrop c j u d).ledger = s.ledger := by
  unfold State.redirectDrop
  split
  · simp
  · split
    · next t ht => simpa using (Frame.reserveDrop (.refl _ s) _ _ ht (List.Subset.refl _)).ledger rfl
    · simp

@[simp] theorem cellOccupied_ledger (s : State) (c : CraneId) (j : Job) (u : WorkUnit) (x : Step) (p : List Byte) :
    (s.cellOccupied c j u x p).ledger = s.ledger := by
  unfold State.cellOccupied
  repeat' split
  all_goals simp

@[simp] theorem offerLapse_ledger (s : State) (c : CraneId) : (s.offerLapse c).ledger = s.ledger := by
  unfold State.offerLapse
  repeat' split
  all_goals simp

@[simp] theorem deadlineEnds_ledger (s : State) (c : CraneId) : (s.deadlineEnds c).ledger = s.ledger := by
  unfold State.deadlineEnds
  repeat' split
  all_goals simp

@[simp] theorem ageTick_ledger (s : State)  : (s.ageTick).ledger = s.ledger := by
  unfold State.ageTick
  repeat' split
  all_goals simp

@[simp] theorem withdrawJob_ledger (s : State) (c : CraneId) (h' : Handle) :
    (s.withdrawJob c h').ledger = s.ledger := by
  unfold State.withdrawJob
  repeat' split
  all_goals simp

@[simp] theorem resolveRewrite_ledger (s : State) (j : Job) (d : Disposition) :
    (s.resolveRewrite j d).ledger = s.ledger := by
  unfold State.resolveRewrite
  repeat' split
  all_goals simp

@[simp] theorem resolveCrane_ledger (s : State) (c : CraneId) : (s.resolveCrane c).ledger = s.ledger := by
  unfold State.resolveCrane
  repeat' split
  all_goals simp

@[simp] theorem serviceOut_ledger (s : State) (c : CraneId) : (s.serviceOut c).ledger = s.ledger := by
  unfold State.serviceOut
  repeat' split
  all_goals simp
end Sys2Proof.Machine
end
section
/-! The operations that let a job leave the pool or enter it, and those on the wave table: each keeps the laws of the pool. -/

namespace Sys2Proof.Machine
variable {s t : State}

/-! ## The wave table -/

/-- The wave table behind a retrieve of a wave that enters (R45). -/
def wavesEntered (ws : List Wave) (n : Option Nat) : List Wave :=
  ws.map fun w => if some w.id = n then { w with live := w.live + 1 } else w

/-- The wave table behind a retrieve of a wave that leaves (R38 step 5, R164). -/
def wavesLeft (ws : List Wave) (n : Option Nat) : List Wave :=
  (ws.map fun w => if some w.id = n then { w with live := w.live - 1 } else w).filter
    fun w => !(decide (some w.id = n) && !w.isOpen && decide (w.live = 0))

theorem waveEntered_waves (s : State) (w : Option WaveRef) :
    (s.waveEntered w).swu.waves = wavesEntered s.swu.waves (w.map (·.id)) := by
  cases w with
  | none => simp [State.waveEntered, wavesEntered]
  | some w => simp [State.waveEntered, State.updWave, wavesEntered]

theorem waveLeft_waves (s : State) (w : Option WaveRef) :
    (s.waveLeft w).swu.waves = wavesLeft s.swu.waves (w.map (·.id)) := by
  cases w with
  | none => simp [State.waveLeft, wavesLeft]
  | some w => simp [State.waveLeft, State.updWave, State.freeWave, wavesLeft]

theorem WavesTrue.left {ws : List Wave} {es fs : List Entry} {y : Entry} (h : WavesTrue ws es)
    (hc : ∀ p : Entry → Bool, fs.countP p + [y].countP p = es.countP p) :
    WavesTrue (wavesLeft ws y.2) fs := by
  refine h.map_filter _ _ (fun x => by split <;> rfl) (fun x _ hl => ?_) (fun x _ hq => ?_) fun z hz n hn => ?_
  · have := hc fun z => decide (z.2 = some x.id)
    simp only [List.countP_singleton, decide_eq_true_eq, ← hl] at this
    split at this
    · next hy => rw [if_pos hy.symm]; simp only; omega
    · next hy => rw [if_neg (fun e => hy e.symm)]; omega
  · simp only [Bool.not_eq_false', Bool.and_eq_true, decide_eq_true_eq] at hq
    exact hq.2
  · have := hc fun z => decide (z.2 = some n)
    have pos : 0 < fs.countP fun z => decide (z.2 = some n) := List.countP_pos_iff.mpr ⟨z, hz, by simpa using hn⟩
    obtain ⟨x, hx, hxn⟩ := List.countP_pos_iff.mp (show 0 < es.countP fun z => decide (z.2 = some n) by omega)
    exact h.2.2 x hx n (of_decide_eq_true hxn)

theorem WavesTrue.entered {ws : List Wave} {es fs : List Entry} {y : Entry} (h : WavesTrue ws es)
    (hc : ∀ p : Entry → Bool, fs.countP p = es.countP p + [y].countP p)
    (hy : ∀ n, y.2 = some n → n ∈ ws.map (·.id)) : WavesTrue (wavesEntered ws y.2) fs := by
  have := h.map_filter (fs := fs) (fun w => if some w.id = y.2 then { w with live := w.live + 1 } else w) (fun _ => true)
    (fun x => by split <;> rfl) (fun x _ hl => ?_) (fun x _ hq => absurd hq (by simp)) fun z hz n hn => ?_
  · rwa [List.filter_true] at this
  · rw [hc, ← hl]
    by_cases hx : some x.id = y.2
    · simp [hx]
    · rw [List.countP_singleton, if_neg hx, if_neg (by simpa using fun e => hx e.symm), Nat.add_zero]
  · by_cases hny : y.2 = some n
    · exact hy n hny
    · have := hc fun z => decide (z.2 = some n)
      have pos : 0 < fs.countP fun z => decide (z.2 = some n) := List.countP_pos_iff.mpr ⟨z, hz, by simpa using hn⟩
      rw [List.countP_singleton, if_neg (by simpa using hny)] at this
      obtain ⟨x, hx, hxn⟩ := List.countP_pos_iff.mp (show 0 < es.countP fun z => decide (z.2 = some n) by omega)
      exact h.2.2 x hx n (of_decide_eq_true hxn)

theorem wave?_eq_some {n : Nat} {x : Wave} (h : s.wave? n = some x) : x ∈ s.swu.waves ∧ x.id = n :=
  ⟨List.mem_of_find?_eq_some h, of_decide_eq_true (List.find?_some (p := fun x : Wave => decide (x.id = n)) h)⟩

/-! ## Leaving and entering -/

theorem countLive_live (s : State) (o : Origin) (f : Nat → Nat) (l : OrderLink) :
    (s.countLive o f).jpl.live.get l = if o = .order l then f (s.jpl.live.get l) else s.jpl.live.get l := by
  cases o with
  | internal => simp [State.countLive]
  | order k =>
    simp only [State.countLive, PerLink.get_set, Origin.order.injEq]
    by_cases h : l = k
    · simp [h]
    · rw [if_neg h, if_neg (fun e => h e.symm)]

theorem waveLeft_jpl (s : State) (w : Option WaveRef) : (s.waveLeft w).jpl = s.jpl := by cases w <;> rfl

theorem waveEntered_jpl (s : State) (w : Option WaveRef) : (s.waveEntered w).jpl = s.jpl := by cases w <;> rfl

theorem PoolLawful.vacated (hs : PoolLawful s) {h : Handle} {j : Job} (hj : s.job? h = some j) :
    PoolLawful ((s.vacate h j).waveLeft j.wave) := by
  obtain ⟨-, job⟩ := State.job?_eq_some.mp hj
  rw [poolLawful_iff] at hs ⊢
  have own : s.ledger.entry h.slot = some j.entry := by simp [State.ledger, job]
  have entry : ∀ x, ((s.vacate h j).waveLeft j.wave).ledger.entry x = if x = h.slot then none else s.ledger.entry x := fun x => by
    simp only [State.ledger, State.slot, waveLeft_jpl]
    refine (congrArg (fun y : Slot => y.job.map Job.entry) (State.vacate_slot s h j x)).trans ?_
    split <;> rfl
  have free : (s.vacate h j).jpl.freeList = s.jpl.freeList ++ [h.slot] := by
    unfold State.vacate State.countLive
    dsimp only
    split <;> rfl
  refine hs.leave own entry (by rw [State.ledger, waveLeft_jpl]; exact free) (fun l => ?_) ?_
  · simp only [State.ledger, waveLeft_jpl]
    refine (countLive_live _ _ _ l).trans ?_
    show _ = s.jpl.live.get l - if j.origin = .order l then 1 else 0
    split <;> rfl
  · have waves : (s.vacate h j).swu.waves = s.swu.waves := by
      obtain ⟨p, e, -⟩ := State.vacate_others s h j
      rw [e]
    show WavesTrue ((s.vacate h j).waveLeft j.wave).swu.waves _
    rw [waveLeft_waves, waves]
    refine hs.waves.left (y := j.entry) fun p => ?_
    have count := Ledger.countP_roll (k := s.ledger) (m := ((s.vacate h j).waveLeft j.wave).ledger) h.slot
      (fun x hx => by rw [entry, if_neg hx]) p
    rw [own, entry, if_pos rfl] at count
    exact count

theorem PoolLawful.leavePool (hs : PoolLawful s) (h : Handle) : PoolLawful (s.leavePool h) := by
  unfold State.leavePool
  split
  · exact hs
  · next j hj => exact (hs.vacated hj).of_ledger (reEvaluate_ledger _ _)

/-- A job takes the slot at the head of the free list and its place in its wave (R37, R41, R45, R93). -/
theorem PoolLawful.created (hs : PoolLawful s) {j : Job} (hj : s.nextHandle = some j.handle)
    (hr : j.origin = .internal ∨ 8 < s.jpl.freeList.length) (hw : ∀ w, j.wave = some w → (s.wave? w.id).isSome = true) :
    PoolLawful ((s.createJob j).waveEntered j.wave) := by
  obtain ⟨xs, hx⟩ : ∃ xs, s.jpl.freeList = j.handle.slot :: xs := by
    obtain ⟨i, hi, hh⟩ := Option.map_eq_some_iff.mp hj
    obtain ⟨xs, hx⟩ := List.head?_eq_some_iff.mp hi
    exact ⟨xs, by rw [hx, ← hh]⟩
  rw [poolLawful_iff] at hs ⊢
  have idle : s.ledger.entry j.handle.slot = none := (hs.free _).mp (by rw [show s.ledger.free = _ from hx]; simp)
  have entry : ∀ x, ((s.createJob j).waveEntered j.wave).ledger.entry x =
      if x = j.handle.slot then some j.entry else s.ledger.entry x := fun x => by
    simp only [State.ledger, State.slot, waveEntered_jpl]
    refine (congrArg (fun y : Slot => y.job.map Job.entry) (State.createJob_slot s j x)).trans ?_
    split <;> rfl
  have free : (s.createJob j).jpl.freeList = s.jpl.freeList.drop 1 := by
    unfold State.createJob State.countLive
    dsimp only
    split <;> rfl
  have count := Ledger.countP_roll (k := s.ledger) (m := ((s.createJob j).waveEntered j.wave).ledger) j.handle.slot
    (fun x hx => by rw [entry, if_neg hx])
  rw [idle, entry, if_pos rfl] at count
  refine hs.enter (y := j.entry) (xs := xs) hx entry (by simp [State.ledger, waveEntered_jpl, free, hx]) (fun l => ?_) ?_ ?_
  · simp only [State.ledger, waveEntered_jpl]
    refine (countLive_live _ _ _ l).trans ?_
    show _ = s.jpl.live.get l + if j.origin = .order l then 1 else 0
    split <;> rfl
  · refine hr.imp id fun free => ?_
    have length := hs.length
    have := List.countP_le_length (p := fun y : Entry => decide (y.1 ≠ .internal)) (l := s.ledger.roll)
    have : s.ledger.free.length = s.jpl.freeList.length := rfl
    omega
  · have waves : (s.createJob j).swu.waves = s.swu.waves := by
      obtain ⟨p, e, -⟩ := State.createJob_others s j
      rw [e]
    show WavesTrue ((s.createJob j).waveEntered j.wave).swu.waves _
    rw [waveEntered_waves, waves]
    refine hs.waves.entered (y := j.entry) (fun p => by simpa using count p) fun n hn => ?_
    obtain ⟨w, hw', rfl⟩ := Option.map_eq_some_iff.mp hn
    obtain ⟨x, hx⟩ := Option.isSome_iff_exists.mp (hw w hw')
    obtain ⟨mem, id⟩ := wave?_eq_some hx
    exact List.mem_map.mpr ⟨x, mem, id⟩

/-! ## Operations that let a job leave or enter -/

theorem PoolLawful.leaveIfPaid (hs : PoolLawful s) (h : Handle) : PoolLawful (s.leaveIfPaid h) := by
  unfold State.leaveIfPaid
  split
  · split
    · exact hs.leavePool h
    · exact hs
  · exact hs

theorem placeClosing_ledger (s : State) (h : Handle) (l : OrderLink) : (s.placeClosing h l).ledger = s.ledger := by
  unfold State.placeClosing
  split
  · split
    · exact payNotice_ledger ..
    · rfl
  · rfl

theorem PoolLawful.offerClosing (hs : PoolLawful s) (h : Handle) : PoolLawful (s.offerClosing h) := by
  unfold State.offerClosing
  split
  · exact (hs.of_ledger (each_ledger _ _ (fun s l => placeClosing_ledger s h l) s)).leaveIfPaid h
  · exact hs

@[simp] theorem cancelRelocation_ledger (s : State) (j : Job) : (s.cancelRelocation j).ledger = s.ledger := by
  unfold State.cancelRelocation
  dsimp only
  repeat' split
  all_goals simp

@[simp] theorem closeRetrieveStart_ledger (s : State) (h : Handle) (o : JobOutcome) (f : Credit → Credit) :
    (s.closeRetrieveStart h o f).ledger = s.ledger := by
  unfold State.closeRetrieveStart
  repeat' split
  all_goals simp

theorem PoolLawful.closeRetrieveEnd (hs : PoolLawful s) (h : Handle) (x : Option Job) :
    PoolLawful (s.closeRetrieveEnd h x) := by
  unfold State.closeRetrieveEnd
  dsimp only
  split
  · exact hs.offerClosing h
  · next r =>
    have offered := (hs.offerClosing h).offerClosing r.handle
    split
    · exact offered.of_ledger (finishUnit_ledger ..)
    · exact offered

theorem PoolLawful.closeRetrieve (hs : PoolLawful s) (h : Handle) (o : JobOutcome) (f : Credit → Credit) :
    PoolLawful (s.closeRetrieve h o f) :=
  PoolLawful.closeRetrieveEnd (hs.of_ledger (closeRetrieveStart_ledger ..)) h _

theorem PoolLawful.evaluate (hs : PoolLawful s) (h : Handle) : PoolLawful (s.evaluate h) := by
  unfold State.evaluate
  split
  · exact hs
  · split
    · dsimp only
      split
      · exact (hs.of_ledger (keepCandidates_ledger ..)).closeRetrieve ..
      · exact hs.of_ledger (by simp)
    · exact hs

theorem PoolLawful.closeStore (hs : PoolLawful s) (h : Handle) (o : JobOutcome) : PoolLawful (s.closeStore h o) :=
  (hs.of_ledger (closeStart_ledger ..)).offerClosing h

theorem PoolLawful.evaluateServed (hs : PoolLawful s) (q h : Handle) : PoolLawful (s.evaluateServed q h) := by
  unfold State.evaluateServed
  split
  · exact hs.offerClosing h
  · split
    · exact PoolLawful.closeRetrieveEnd (PoolLawful.offerClosing (hs.of_ledger (by simp)) h) q _
    · exact (hs.evaluate q).offerClosing h

theorem PoolLawful.endRelocation (hs : PoolLawful s) (h : Handle) (j : Job) : PoolLawful (s.endRelocation h j) := by
  have cleared : PoolLawful (s.clearWaits j) := hs.of_ledger (clearWaits_ledger ..)
  unfold State.endRelocation
  dsimp only
  split
  · exact cleared.evaluateServed ..
  · exact cleared.offerClosing h

theorem PoolLawful.closeRelocation (hs : PoolLawful s) (h : Handle) (o : JobOutcome) (m : Bool) :
    PoolLawful (s.closeRelocation h o m) := by
  unfold State.closeRelocation
  split
  · exact hs
  · exact (hs.of_ledger (closeStart_ledger ..)).endRelocation ..

theorem PoolLawful.close (hs : PoolLawful s) (h : Handle) (o : JobOutcome) (m : Bool) (f : Credit → Credit) :
    PoolLawful (s.close h o m f) := by
  unfold State.close
  split
  · exact hs
  · split
    · exact hs.closeStore ..
    · exact hs.closeRetrieve ..
    · exact hs.closeRelocation ..

theorem PoolLawful.rejectLoad (hs : PoolLawful s) (j : Job) (a : AisleId) (e : End) (x : Pallet) (y : RejectReason)
    (k : Link) (p : List Byte) : PoolLawful (s.rejectLoad j a e x y k p) :=
  (hs.closeStore j.handle (.rejectedLoad y)).of_ledger (by simp [State.rejectLoad])

theorem PoolLawful.matchStore (hs : PoolLawful s) (j : Job) (a : AisleId) (e : End) (x : Pallet) (k : Link)
    (p : List Byte) : PoolLawful (s.matchStore j a e x k p).1 := by
  unfold State.matchStore State.loadCheck
  split
  · exact hs.of_ledger (by simp)
  · split
    · exact (hs.of_ledger (by simp)).rejectLoad ..
    · dsimp only
      repeat' split
      · exact hs.of_ledger (by simp)
      · exact hs.of_ledger (by simp)
      · exact hs.of_ledger (by simp)
      · exact (hs.of_ledger (by simp)).rejectLoad ..

theorem PoolLawful.nextStep (hs : PoolLawful s) (c : CraneId) (x : Step) : PoolLawful (s.nextStep c x) := by
  unfold State.nextStep
  split <;> exact hs.of_ledger (by simp)

theorem PoolLawful.dropped (hs : PoolLawful s) (c : CraneId) (j : Job) (u : WorkUnit) (x : Step) (p : List Byte) :
    PoolLawful (s.dropped c j u x p) := by
  unfold State.dropped State.closeDropped
  dsimp only
  have start : PoolLawful (((s.reachStep c j x (u.remaining.drop 1) p).dropEffects j).leaveUnit c j.handle) :=
    hs.of_ledger (by simp)
  split
  · exact ((start.of_ledger (closeStart_ledger ..)).nextStep c x).endRelocation ..
  · exact (start.close ..).nextStep c x

theorem PoolLawful.cellEmpty (hs : PoolLawful s) (c : CraneId) (j : Job) (u : WorkUnit) (x : Step) (p : List Byte) :
    PoolLawful (s.cellEmpty c j u x p) := by
  unfold State.cellEmpty
  split
  · exact hs
  · next d _ =>
    have start : PoolLawful (((s.reachStep c j x u.remaining p).foundEmpty d j.handle).reportFinding c j d .empty .emptyRetrieval p) :=
      hs.of_ledger (by simp)
    unfold State.emptyEffects
    dsimp only
    split
    · refine PoolLawful.of_ledger ?_ (finishUnit_ledger ..)
      exact PoolLawful.evaluate (start.of_ledger (by simp)) _
    · exact PoolLawful.endRelocation (start.of_ledger (by simp)) _ _
    · exact start.of_ledger (finishUnit_ledger ..)

theorem PoolLawful.handOver (hs : PoolLawful s) (h : Handle) (l : OrderLink) (p : List Byte) :
    PoolLawful (s.handOver h l p) := by
  unfold State.handOver
  split
  · exact hs
  · split
    · split
      · exact hs.matchStore ..
      · exact hs
    · exact hs

theorem PoolLawful.fillFrom (hs : PoolLawful s) (l : OrderLink) (xs : List Handle) : PoolLawful (s.fillFrom l xs) := by
  induction xs generalizing s with
  | nil => exact hs.of_ledger rfl
  | cons h rest ih =>
    unfold State.fillFrom
    split
    · split
      · exact ih (PoolLawful.leaveIfPaid (hs.of_ledger (payNotice_ledger ..)) h)
      · exact ih hs
    · exact hs.of_ledger rfl

theorem PoolLawful.cancelJob (hs : PoolLawful s) (j : Job) : PoolLawful (s.cancelJob j) := by
  unfold State.cancelJob
  dsimp only
  split
  · exact PoolLawful.close (hs.of_ledger (unmatch_ledger ..)) ..
  · exact PoolLawful.of_ledger (PoolLawful.close (hs.of_ledger (by simp)) ..) (afterWithdraw_ledger ..)

theorem PoolLawful.resolveJob (hs : PoolLawful s) (j : Job) (d : Disposition) (k : Option Class) :
    PoolLawful (s.resolveJob j d k).1 := by
  have declared : (s.declare j d k).1.ledger = s.ledger := by
    unfold State.declare
    split
    · exact declareFull_ledger ..
    · rfl
  have start : PoolLawful (((s.declare j d k).1.resolveRewrite j d).recheckDeclared j d (s.declare j d k).2) := by
    unfold State.recheckDeclared
    split <;> exact hs.of_ledger (by simp [declared])
  unfold State.resolveJob
  dsimp only
  split
  · exact start.close ..
  · exact PoolLawful.of_ledger (PoolLawful.close (start.of_ledger (withdraw_ledger ..)) ..) (resolveCrane_ledger ..)

theorem PoolLawful.reEvaluateJob (hs : PoolLawful s) (h : Handle) : PoolLawful (s.reEvaluateJob h) := by
  unfold State.reEvaluateJob
  split
  · exact hs
  · split
    · exact hs.evaluate h
    · split <;> exact hs.of_ledger (by simp)
    · exact hs

theorem nextHandle_congr (h : t.jpl = s.jpl) : t.nextHandle = s.nextHandle := by
  unfold State.nextHandle State.slot
  rw [h]

theorem PoolLawful.createRelocation (hs : PoolLawful s) (j : Job) {h : Handle} (hh : s.nextHandle = some h)
    (source target : CellAddr) : PoolLawful (s.createRelocation j h source target) :=
  have created := PoolLawful.created (j := { Job.new h .relocate .internal j.cls j.aisle 0 with
    served := some j.handle
    age := j.age
    chosen := some source
    target := some target
    state := .ready }) hs hh (.inl rfl) (fun _ hw => nomatch hw)
  created.of_ledger (by simp [State.createRelocation, State.waveEntered, Job.new])

theorem PoolLawful.relocate (hs : PoolLawful s) (j : Job) {h : Handle} (hh : s.nextHandle = some h) (source :
    CellAddr) :
    PoolLawful (s.relocate j h source) := by
  unfold State.relocate
  dsimp only
  split
  · exact hs.of_ledger (pend_ledger ..)
  · next target _ =>
    split
    · exact hs.evaluate _
    · next t ht =>
      have pick := Frame.reservePick (.refl _ s) source h ht (List.Subset.refl _)
      have first : PoolLawful t := hs.of_ledger (pick.ledger rfl)
      split
      · exact first.of_ledger (by simp)
      · next u hu =>
        have drop := Frame.reserveDrop (.refl _ t) target h hu (List.Subset.refl _)
        have second : PoolLawful u := first.of_ledger (drop.ledger rfl)
        refine second.createRelocation j ?_ source target
        rw [nextHandle_congr (drop.jpl (by simp) (by simp) (by simp) (by simp)), nextHandle_congr (pick.jpl (by simp) (by simp) (by simp) (by simp)), hh]

theorem PoolLawful.runRelocation (hs : PoolLawful s) (q : Handle) : PoolLawful (s.runRelocation q) := by
  unfold State.runRelocation
  split
  · exact hs
  · split
    · split
      · exact hs
      · split
        · exact hs.of_ledger (pend_ledger ..)
        · next h hh => exact hs.relocate _ hh _
    · exact hs

/-- A command of a wave changes entries without their ids or live counts, and may free entries of live count 0. -/
theorem PoolLawful.wavesChanged (hs : PoolLawful s) (f : Wave → Wave) (q : Wave → Bool) (hid : ∀ x, (f x).id = x.id)
    (hl : ∀ x, (f x).live = x.live) (hq : ∀ x, q (f x) = false → (f x).live = 0) :
    PoolLawful { s with swu := { s.swu with waves := (s.swu.waves.map f).filter q } } := by
  rw [poolLawful_iff] at hs ⊢
  obtain ⟨nodup, free, live, reserve, ids, counts, held⟩ := hs
  exact ⟨nodup, free, live, reserve, WavesTrue.map_filter ⟨ids, counts, held⟩ f q hid
    (fun x _ h => (hl x).trans h) (fun x _ h => hq x h) held⟩

theorem PoolLawful.closeWave (hs : PoolLawful s) (n : Nat) :
    PoolLawful ((s.updWave n fun x => { x with isOpen := false }).freeWave n) :=
  hs.wavesChanged _ _ (fun x => by split <;> rfl) (fun x => by split <;> rfl) fun x h => by
    simp only [Bool.not_eq_false', Bool.and_eq_true, decide_eq_true_eq] at h
    exact h.2

theorem PoolLawful.takeDock (hs : PoolLawful s) (w : Wave) (n : Nat) : PoolLawful (s.takeDock w n) := by
  have taken := hs.wavesChanged (fun x => if x.id = w.id then { x with takenThrough := n } else x) (fun _ => true)
    (fun x => by split <;> rfl) (fun x => by split <;> rfl) (fun x h => absurd h (by simp))
  rw [List.filter_true] at taken
  exact taken.of_ledger (reEvaluate_ledger ..)

/-- OPEN WAVE adds an entry for an id that none holds, with no job of it live (R163). -/
theorem PoolLawful.opened (hs : PoolLawful s) {w : Wave} (h : s.wave? w.id = none) (hl : w.live = 0) :
    PoolLawful { s with swu := { s.swu with waves := s.swu.waves ++ [w] } } := by
  rw [poolLawful_iff] at hs ⊢
  obtain ⟨nodup, free, live, reserve, ids, counts, held⟩ := hs
  have fresh : ∀ x ∈ s.swu.waves, x.id ≠ w.id := by simpa using List.find?_eq_none.mp h
  refine ⟨nodup, free, live, reserve, ?_, fun x hx => ?_, fun y hy n hn => ?_⟩
  · show (List.map _ (s.swu.waves ++ [w])).Nodup
    rw [List.map_append, List.nodup_append]
    refine ⟨ids, List.nodup_singleton _, fun a ha b hb => ?_⟩
    obtain ⟨x, hx, rfl⟩ := List.mem_map.mp ha
    rw [List.mem_singleton.mp hb]
    exact fresh x hx
  · rcases List.mem_append.mp hx with hx | hx
    · exact counts x hx
    · rw [List.mem_singleton.mp hx, hl]
      refine (List.countP_eq_zero.mpr fun y hy hn => ?_).symm
      obtain ⟨x, hx, e⟩ := List.mem_map.mp (held y hy w.id (of_decide_eq_true hn))
      exact fresh x hx e
  · show n ∈ List.map _ (s.swu.waves ++ [w])
    rw [List.map_append]
    exact List.mem_append_left _ (held y hy n hn)

end Sys2Proof.Machine
end
section
/-! Every command and every reset keeps the laws of the pool (O6). -/

namespace Sys2Proof.Machine
variable {s t : State}

/-! ## Answers and messages that leave the pool -/

@[simp] theorem insertTx_ledger (s : State) (k : Link) (n : Nat) (m : Message) : (s.insertTx k n m).ledger = s.ledger :=
  setTx_ledger ..

@[simp] theorem activate_ledger (s : State) (k : Link) : (s.activate k).ledger = s.ledger := by
  unfold State.activate
  repeat' split
  all_goals rfl

@[simp] theorem discardFrame_ledger (s : State) (k : Link) (bs : List Byte) :
    (s.discardFrame k bs).ledger = s.ledger := by
  unfold State.discardFrame
  simp only [raiseFault_ledger, forget_ledger]
  rfl

theorem hunt_ledger (s : State) (k : Link) (b : Byte) : (s.hunt k b).ledger = s.ledger := by
  unfold State.hunt
  split <;> rfl

theorem checkFrame_ledger (s : State) (k : Link) (bs : List Byte) : (s.checkFrame k bs).ledger = s.ledger := by
  unfold State.checkFrame
  dsimp only
  repeat' split
  · exact discardFrame_ledger ..
  · rfl
  · exact discardFrame_ledger ..
  · exact raise_ledger ..
  · exact discardFrame_ledger ..

theorem receive_ledger (s : State) (k : Link) (b : Byte) : (s.receive k b).ledger = s.ledger := by
  unfold State.receive
  repeat' split
  · rfl
  · exact hunt_ledger ..
  · exact (hunt_ledger ..).trans (discardFrame_ledger ..)
  · exact (checkFrame_ledger ..).trans (forget_ledger ..)

theorem frameSent_ledger (s : State) (k : Link) (more : Bool) : (s.frameSent k more).ledger = s.ledger := by
  unfold State.frameSent State.headSent
  repeat' split
  · rfl
  · rfl
  · exact setTx_ledger ..
  · rfl
  · exact setTx_ledger ..

theorem gapEnds_ledger (s : State) (k : Link) : (s.gapEnds k).ledger = s.ledger := by
  unfold State.gapEnds
  split
  · exact discardFrame_ledger ..
  · rfl

@[simp] theorem setSources_ledger (s : State) (a : AisleId) (x : HoldSources) :
    (s.setSources a x).ledger = s.ledger := by
  have h : (s.setHold a { s.hold a with sources := x }).ledger = s.ledger := rfl
  unfold State.setSources
  dsimp only
  repeat' split
  · exact (drain_ledger ..).trans h
  · exact (endHold_ledger ..).trans h
  · exact h

@[simp] theorem evaluateHalt_ledger (s : State) : s.evaluateHalt.ledger = s.ledger := by
  unfold State.evaluateHalt
  dsimp only
  split
  · exact selectAll_ledger _
  · rfl

theorem setHoldFor_ledger (s : State) (a : AisleId) (k : FaultKind) : (s.setHoldFor a k).ledger = s.ledger := by
  unfold State.setHoldFor
  dsimp only
  split
  · rfl
  · exact raise_ledger ..

theorem takeUnmasked_ledger (s : State) (r : FaultReport) : (s.takeUnmasked r).ledger = s.ledger := by
  have offered : ∀ (x : FaultLog) (n : Notice), (State.offerActive { s with flg := x } n).ledger = s.ledger :=
    fun x n => offerActive_ledger _ n
  unfold State.takeUnmasked
  dsimp only
  repeat' split
  all_goals simp [setHoldFor_ledger, offered]

theorem takeFault_ledger (s : State) (r : FaultReport) : (s.takeFault r).ledger = s.ledger := by
  unfold State.takeFault
  dsimp only
  split
  · rfl
  · exact takeUnmasked_ledger ..

theorem clearKinds_ledger (s : State) (ks : List FaultKind) : (s.clearKinds ks).ledger = s.ledger := by
  have cleared := each_ledger ks (fun s k => s.setFaultKind k { s.faultKind k with flag := false }) (fun _ _ => rfl) s
  unfold State.clearKinds
  dsimp only
  split
  · exact (evaluateHalt_ledger _).trans cleared
  · exact (evaluateHalt_ledger _).trans cleared

theorem clearHold_ledger (s : State) (a : AisleId) : (s.clearHold a).1.ledger = s.ledger := by
  unfold State.clearHold
  repeat' split
  · rfl
  · exact checkRail_ledger ..
  · exact raise_ledger ..

theorem putRun_ledger (s : State) (x : SetState) (cs : List CellAddr) : (s.putRun x cs).ledger = s.ledger :=
  each_ledger _ _ (fun s c => putCell_ledger s c _) s

theorem geometryLoad_ledger (s : State) (l : OrderLink) (a : AisleId) (q : Profile) :
    (s.geometryLoad l a q).ledger = s.ledger := by
  unfold State.geometryLoad
  simp only [configureHold_ledger, dropRearStations_ledger, each_ledger, rebuildRail_ledger, offerNotice_ledger, implies_true]
  exact each_ledger (aislesFrom a) (fun s b => s.setAisle b { s.aisle b with cells := [] }) (fun _ _ => rfl) _

theorem operatingLoad_ledger (s : State) (l : OrderLink) (a : AisleId) (o : Operating) :
    (s.operatingLoad l a o).ledger = s.ledger := testPending_ledger ..

theorem applyMapping_ledger (s : State) (c : CraneId) (m : Option (AisleId × End)) :
    (s.applyMapping c m).ledger = s.ledger := by
  simp [State.applyMapping]

theorem writeSetting_ledger (s : State) (n v : Nat) : (s.writeSetting n v).ledger = s.ledger := by
  unfold State.writeSetting
  split <;> rfl

/-! ## What every command keeps -/

theorem PoolLawful.withField {α : Type} (hs : PoolLawful s) (y : Option α) (f : α → Answer)
    (h : ∀ a, PoolLawful (f a).state) : PoolLawful (s.withField y f).state := by
  unfold State.withField
  split
  · exact h _
  · exact hs

theorem PoolLawful.refuseWith (hs : PoolLawful s) (x : Result) (k : FaultKind) (a : Option AisleId) (p : List Byte) :
    PoolLawful (s.refuseWith x k a p).state := hs.of_ledger (raiseFault_ledger ..)

theorem PoolLawful.command (hs : PoolLawful s) (i : Instr) (k : Link) (code : Byte) (p : List Byte) (act :
    State → Answer)
    (ha : ∀ r, PoolLawful r → PoolLawful (act r).state) : PoolLawful (s.command i k code p act) := by
  unfold State.command
  dsimp only
  split
  · exact hs.of_ledger (take_ledger ..)
  · split
    · exact hs.of_ledger (by simp)
    · exact (ha _ (hs.of_ledger (by simp))).of_ledger (insertTx_ledger ..)

theorem PoolLawful.craneMessage {α : Type} (hs : PoolLawful s) (e : Instr) (c : CraneId) (p : List Byte) (hello : Bool)
    (names : Option Handle) (read : State → Option α) (act : State → α → State)
    (ha : ∀ r x, PoolLawful r → PoolLawful (act r x)) : PoolLawful (s.craneMessage e c p hello names read act) := by
  have taken : PoolLawful (s.take e) := hs.of_ledger (take_ledger ..)
  unfold State.craneMessage
  dsimp only
  repeat' split
  · exact taken
  · exact taken.of_ledger (stale_ledger ..)
  · exact taken.of_ledger (stale_ledger ..)
  · exact ha _ _ taken

theorem PoolLawful.stepReport (hs : PoolLawful s) (e : Instr) (c : CraneId) (k : ReportKind) (p : List Byte)
    (act : State → Job → WorkUnit → Step → State) (ha : ∀ r j u x, PoolLawful r → PoolLawful (act r j u x)) :
    PoolLawful (s.stepReport e c k p act) := by
  unfold State.stepReport
  refine hs.craneMessage _ _ _ _ _ _ _ fun r x hr => ?_
  split
  · exact ha _ _ _ _ hr
  · exact hr.of_ledger (unfit_ledger ..)

theorem PoolLawful.expiry (hs : PoolLawful s) (e : Instr) (act : State → State)
    (ha : ∀ r, PoolLawful r → PoolLawful (act r)) : PoolLawful (s.expiry e act) := by
  have taken : PoolLawful (s.take e) := hs.of_ledger (take_ledger ..)
  unfold State.expiry
  dsimp only
  split
  · exact taken
  · exact ha _ taken

theorem firstRefusal_eq_none {xs : List (Option Result)} : firstRefusal xs = none ↔ ∀ x ∈ xs, x = none := by
  induction xs with
  | nil => simp [firstRefusal]
  | cons x xs ih => cases x <;> simp [firstRefusal, ih]

theorem poolRefusal_reserve {l : OrderLink} (h : s.poolRefusal l = none) : 8 < s.jpl.freeList.length := by
  unfold State.poolRefusal at h
  split at h
  · cases h
  · next room => exact Nat.lt_of_not_le room

theorem reserveFixed_ledger (s : State) (c : Option CellAddr) (h : Handle) :
    (s.reserveFixed c h).ledger = s.ledger := by
  unfold State.reserveFixed
  split
  · next c =>
    cases ht : s.reserveDrop c h with
    | none => rfl
    | some t => exact (Frame.reserveDrop (.refl _ s) c h ht (List.Subset.refl _)).ledger rfl
  · rfl

/-- The wave of an accepted retrieve is held (R45). -/
theorem waveRefusal_held {h : Handle} {l : OrderLink} {f : EnterRetrieveFields} {a : AisleId} {e : JobEnd}
    (hr : s.waveRefusal f = none) (w : WaveRef) (hw : (retrieveRecord h l f a e).wave = some w) :
    (s.wave? w.id).isSome = true := by
  replace hw : (if f.wave = 0 then none else some { id := f.wave, seq := f.seq }) = some w := hw
  split at hw
  · cases hw
  · next named =>
    cases hw
    unfold State.waveRefusal at hr
    rw [if_neg named] at hr
    split at hr
    · cases hr
    · next x hx => exact Option.isSome_iff_exists.mpr ⟨x, hx⟩

theorem PoolLawful.enterStore (hs : PoolLawful s) (l : OrderLink) (p : List Byte) :
    PoolLawful (s.enterStore l p).state := by
  unfold State.enterStore
  refine hs.withField _ _ fun f => ?_
  split
  · exact hs
  next a _ =>
    refine hs.withField _ _ fun e => hs.withField _ _ fun r => ?_
    split
    · exact hs
    · next hr =>
      unfold State.createStore
      split
      · exact hs
      · next h hh =>
        have pool := firstRefusal_eq_none.mp hr (s.poolRefusal l) (by simp)
        have created := PoolLawful.created (j := storeRecord h l f a e r) hs hh (.inr (poolRefusal_reserve pool))
          (fun _ hw => nomatch hw)
        exact created.of_ledger ((raise_ledger ..).trans (reserveFixed_ledger ..))

theorem PoolLawful.enterRetrieve (hs : PoolLawful s) (l : OrderLink) (p : List Byte) :
    PoolLawful (s.enterRetrieve l p).state := by
  unfold State.enterRetrieve
  split
  · split <;> exact hs
  · refine hs.withField _ _ fun f => ?_
    split
    · exact hs
    next a _ =>
      refine hs.withField _ _ fun e => ?_
      split
      · exact hs
      · next hr =>
        unfold State.createRetrieve
        split
        · exact hs
        · next h hh =>
          have none := firstRefusal_eq_none.mp hr
          have created := PoolLawful.created (j := retrieveRecord h l f a e) hs hh
            (.inr (poolRefusal_reserve (none (s.poolRefusal l) (by simp)))) (waveRefusal_held (none (s.waveRefusal f) (by simp)))
          exact created.evaluate h

theorem PoolLawful.cancel (hs : PoolLawful s) (l : OrderLink) (p : List Byte) : PoolLawful (s.cancel l p).state := by
  unfold State.cancel
  refine hs.withField _ _ fun h => ?_
  repeat' split
  any_goals exact hs
  exact hs.cancelJob _

theorem PoolLawful.resolve (hs : PoolLawful s) (p : List Byte) : PoolLawful (s.resolve p).state := by
  unfold State.resolve
  split
  · exact hs
  · refine hs.withField _ _ fun h => ?_
    split
    · exact hs
    · refine hs.withField _ _ fun d => hs.withField _ _ fun k => ?_
      split
      · exact hs.resolveJob ..
      · exact hs

theorem PoolLawful.setCell (hs : PoolLawful s) (p : List Byte) : PoolLawful (s.setCell p).state := by
  unfold State.setCell
  refine hs.withField _ _ fun f => ?_
  split
  · exact hs
  · refine hs.withField _ _ fun x => hs.withField _ _ fun k => ?_
    repeat' split
    · exact hs
    · exact hs
    · exact hs.of_ledger ((recheckAisle_ledger ..).trans (putCell_ledger ..))

theorem PoolLawful.setRun (hs : PoolLawful s) (p : List Byte) : PoolLawful (s.setRun p).state := by
  unfold State.setRun
  refine hs.withField _ _ fun f => ?_
  split
  · exact hs
  · refine hs.withField _ _ fun x => hs.withField _ _ fun side => hs.withField _ _ fun depth => ?_
    split
    · exact hs
    · dsimp only
      split
      · exact hs
      · exact hs.of_ledger ((recheckAisle_ledger ..).trans (putRun_ledger ..))

theorem PoolLawful.loadProfile (hs : PoolLawful s) (l : OrderLink) (p : List Byte) :
    PoolLawful (s.loadProfile l p).state := by
  unfold State.loadProfile
  refine hs.withField _ _ fun f => hs.withField _ _ fun a => hs.withField _ _ fun g => ?_
  unfold State.applyLoad
  repeat' split
  any_goals exact hs
  · exact hs.of_ledger (geometryLoad_ledger ..)
  · exact hs.of_ledger (operatingLoad_ledger ..)

theorem PoolLawful.mapCrane (hs : PoolLawful s) (p : List Byte) : PoolLawful (s.mapCrane p).state := by
  unfold State.mapCrane
  refine hs.withField _ _ fun x => ?_
  dsimp only
  repeat' split
  any_goals exact hs
  exact hs.of_ledger (applyMapping_ledger ..)

theorem PoolLawful.service (hs : PoolLawful s) (p : List Byte) : PoolLawful (s.service p).state := by
  unfold State.service
  split
  · exact hs
  · refine hs.withField _ _ fun c => hs.withField _ _ fun b => ?_
    split
    · exact hs
    · dsimp only [State.ok]
      split
      · exact hs.of_ledger (serviceIn_ledger ..)
      · exact hs.of_ledger (serviceOut_ledger ..)

theorem PoolLawful.holdAisle (hs : PoolLawful s) (l : OrderLink) (p : List Byte) :
    PoolLawful (s.holdAisle l p).state := by
  unfold State.holdAisle
  refine hs.withField _ _ fun a => ?_
  unfold State.setLinkHold
  dsimp only [State.ok]
  split <;> exact hs.of_ledger (by simp)

theorem PoolLawful.releaseAisle (hs : PoolLawful s) (l : OrderLink) (p : List Byte) :
    PoolLawful (s.releaseAisle l p).state := by
  unfold State.releaseAisle
  exact hs.withField _ _ fun a => hs.of_ledger (setSources_ledger ..)

theorem PoolLawful.openWave (hs : PoolLawful s) (p : List Byte) : PoolLawful (s.openWave p).state := by
  unfold State.openWave
  split
  · exact hs
  · split
    · exact hs
    · next held =>
      split
      · exact hs
      · exact hs.opened (by simpa using held) rfl

theorem PoolLawful.closeWaveCommand (hs : PoolLawful s) (p : List Byte) : PoolLawful (s.closeWave p).state := by
  unfold State.closeWave
  repeat' split
  any_goals exact hs
  exact hs.closeWave _

theorem PoolLawful.setPolicy (hs : PoolLawful s) (p : List Byte) : PoolLawful (s.setPolicy p).state := by
  unfold State.setPolicy
  refine hs.withField _ _ fun es => ?_
  split
  · exact hs.of_ledger (each_ledger es _ (fun s e => writeSetting_ledger s e.1 _) s)
  · exact hs

theorem PoolLawful.setFaultControl (hs : PoolLawful s) (p : List Byte) : PoolLawful (s.setFaultControl p).state := by
  unfold State.setFaultControl
  split
  · exact hs
  · exact hs.withField _ _ fun k => hs.withField _ _ fun m => hs.withField _ _ fun x =>
      hs.of_ledger (evaluateHalt_ledger _)

theorem PoolLawful.fetch (hs : PoolLawful s) (l : OrderLink) (p : List Byte) : PoolLawful (s.fetch l p).state := by
  unfold State.fetch
  split
  · exact hs
  · refine hs.withField _ _ fun again => ?_
    split
    · exact hs
    · unfold State.fetchNew
      dsimp only [State.ok]
      split
      · exact hs.of_ledger rfl
      · exact hs.of_ledger (raise_ledger ..)

theorem PoolLawful.restart (hs : PoolLawful s) (l : OrderLink) (p : List Byte) : PoolLawful (s.restart l p).state := by
  unfold State.restart
  split
  · exact hs
  · exact hs.withField _ _ fun x => hs.of_ledger rfl

theorem PoolLawful.arrive (hs : PoolLawful s) (p : List Byte) : PoolLawful (s.arrive p).state := by
  unfold State.arrive
  refine hs.withField _ _ fun f => hs.withField _ _ fun a => hs.withField _ _ fun e => ?_
  unfold State.arriveClear State.arrivePallet
  dsimp only
  repeat' split
  · exact hs.refuseWith ..
  · exact hs.refuseWith ..
  · exact hs.of_ledger (setInput_ledger ..)
  · exact hs.refuseWith ..
  · exact PoolLawful.matchStore (hs.of_ledger (setInput_ledger ..)) ..
  · exact hs.of_ledger (setInput_ledger ..)

theorem PoolLawful.outputFree (hs : PoolLawful s) (p : List Byte) : PoolLawful (s.outputFree p).state := by
  unfold State.outputFree
  split
  · exact hs
  · refine hs.withField _ _ fun a => hs.withField _ _ fun e => ?_
    split
    · exact hs.refuseWith ..
    · exact hs.of_ledger (updCredit_ledger ..)

theorem PoolLawful.dockTaken (hs : PoolLawful s) (p : List Byte) : PoolLawful (s.dockTaken p).state := by
  unfold State.dockTaken
  repeat' split
  · exact hs
  · exact hs.refuseWith ..
  · exact hs.refuseWith ..
  · exact hs.takeDock ..

/-! ## The resets -/

/-- With no slot held, no count and no wave, and every slot free, the laws hold. -/
theorem Ledger.Lawful.empty {k : Ledger} (hn : k.free.Nodup) (hf : ∀ i, i ∈ k.free) (he : ∀ i, k.entry i = none)
    (hl : ∀ l, k.live.get l = 0) (hw : k.waves = []) : k.Lawful := by
  have roll : k.roll = [] := List.filterMap_eq_nil_iff.mpr fun i _ => he i
  refine ⟨hn, fun i => ⟨fun _ => he i, fun _ => hf i⟩, fun l => ?_, ?_, ?_⟩
  · rw [roll, hl]; rfl
  · rw [roll]; exact Nat.zero_le _
  · rw [roll, hw]
    exact ⟨List.nodup_nil, fun x hx => (List.not_mem_nil hx).elim, fun y hy => (List.not_mem_nil hy).elim⟩

theorem initial_poolLawful (rate : LineRate) (gates : Vector Bool 8) : PoolLawful (State.initial rate gates) := by
  have free : (State.initial rate gates).ledger.free = List.finRange 256 := by
    simp only [State.ledger, State.initial, JobPool.initial]
  refine poolLawful_iff.mpr (.empty ?_ (fun i => ?_) (fun i => ?_) (fun l => ?_) rfl)
  · rw [free]; exact List.nodup_finRange 256
  · rw [free]; exact List.mem_finRange i
  · simp [State.ledger, initial_slot]
  · cases l <;> rfl

theorem PoolLawful.softReset (hs : PoolLawful s) : PoolLawful s.softReset := by
  obtain ⟨nodup, mem⟩ := hs.free
  have free : s.softReset.ledger.free =
      s.jpl.freeList ++ (List.finRange 256).filter fun i => (s.slot i).job.isSome := rfl
  refine poolLawful_iff.mpr (.empty ?_ (fun i => ?_) (fun i => ?_) (fun l => ?_) rfl)
  · rw [free, List.nodup_append]
    refine ⟨nodup, (List.nodup_finRange 256).filter _, fun i hi k hk e => ?_⟩
    have idle := (mem i).mp hi
    have held := (List.mem_filter.mp hk).2
    rw [← e, idle] at held
    cases held
  · rw [free, List.mem_append, List.mem_filter, mem]
    cases (s.slot i).job <;> simp
  · simp [State.ledger, State.softReset_job]
  · cases l <;> rfl

theorem PoolLawful.restartSoft (hs : PoolLawful s) : PoolLawful s.restartSoft := by
  rw [State.restartSoft_eq]
  exact hs.softReset.of_ledger ((evaluateHalt_ledger _).trans (each_ledger _ _ checkRail_ledger _))

/-! ## Every step -/

theorem exec_poolLawful {i : Instr} (hs : PoolLawful s) (h : exec i s = .next t) : PoolLawful t := by
  have take := fun e : Instr => hs.of_ledger (take_ledger s e)
  cases i
  case powerOn p => rw [eq_of_exec (u := s.powerOn p) rfl h]; exact PoolLawful.of_ledger (initial_poolLawful (strapRate p.rate1 p.rate0) p.gates) rfl
  case pinReset p => rw [eq_of_exec (u := s.pinReset p) rfl h]; exact PoolLawful.of_ledger (initial_poolLawful (strapRate p.rate1 p.rate0) p.gates) rfl
  case restartSoft => rw [eq_of_exec (u := s.restartSoft) rfl h]; exact hs.restartSoft
  case restartHard => rw [eq_of_exec (u := s.restartHard) rfl h]; exact (initial_poolLawful s.liu.rate s.gateLevels).of_ledger rfl
  case gateChange a b => cases h; exact (take _).of_ledger (setSources_ledger ..)
  case faultSourceSet a => cases h; exact (take _).of_ledger (setSources_ledger ..)
  case faultSourceClear a => cases h; exact (take _).of_ledger (setSources_ledger ..)
  case frameDiscarded k p =>
    cases h
    split
    · exact take _
    · exact (take _).of_ledger (discardFrame_ledger ..)
  case tgapExpiry k => cases h; exact hs.expiry _ _ fun r hr => hr.of_ledger (gapEnds_ledger r k)
  case frameSent k b => cases h; exact (take _).of_ledger (frameSent_ledger ..)
  case byteReceived k b => cases h; exact (take _).of_ledger (receive_ledger ..)
  case enterStore l p => cases h; exact hs.command _ _ _ _ _ fun r hr => hr.enterStore l p
  case enterRetrieve l p => cases h; exact hs.command _ _ _ _ _ fun r hr => hr.enterRetrieve l p
  case cancel l p => cases h; exact hs.command _ _ _ _ _ fun r hr => hr.cancel l p
  case resolve l p => cases h; exact hs.command _ _ _ _ _ fun r hr => hr.resolve p
  case setCell l p => cases h; exact hs.command _ _ _ _ _ fun r hr => hr.setCell p
  case setRun l p => cases h; exact hs.command _ _ _ _ _ fun r hr => hr.setRun p
  case loadProfile l p => cases h; exact hs.command _ _ _ _ _ fun r hr => hr.loadProfile l p
  case mapCrane l p => cases h; exact hs.command _ _ _ _ _ fun r hr => hr.mapCrane p
  case service l p => cases h; exact hs.command _ _ _ _ _ fun r hr => hr.service p
  case holdAisle l p => cases h; exact hs.command _ _ _ _ _ fun r hr => hr.holdAisle l p
  case releaseAisle l p => cases h; exact hs.command _ _ _ _ _ fun r hr => hr.releaseAisle l p
  case openWave l p => cases h; exact hs.command _ _ _ _ _ fun r hr => hr.openWave p
  case closeWave l p => cases h; exact hs.command _ _ _ _ _ fun r hr => hr.closeWaveCommand p
  case setPolicy l p => cases h; exact hs.command _ _ _ _ _ fun r hr => hr.setPolicy p
  case setFaultControl l p => cases h; exact hs.command _ _ _ _ _ fun r hr => hr.setFaultControl p
  case clearFault l p =>
    cases h
    exact hs.command _ _ _ _ _ fun r hr => hr.withField _ _ fun ns => hr.withField _ _ fun ks =>
      hr.of_ledger (clearKinds_ledger ..)
  case clearAisleFault l p =>
    cases h
    exact hs.command _ _ _ _ _ fun r hr => hr.withField _ _ fun a => hr.of_ledger (clearHold_ledger ..)
  case queryJob l p => cases h; exact hs.command _ _ _ _ _ fun r hr => by rwa [queryJob_state]
  case queryPool l p => cases h; exact hs.command _ _ _ _ _ fun r hr => by rwa [queryPool_state]
  case queryCell l p => cases h; exact hs.command _ _ _ _ _ fun r hr => by rwa [queryCell_state]
  case queryAisle l p => cases h; exact hs.command _ _ _ _ _ fun r hr => hr.withField _ _ fun _ => hr
  case queryCrane l p => cases h; exact hs.command _ _ _ _ _ fun r hr => hr.withField _ _ fun _ => hr
  case queryWave l p => cases h; exact hs.command _ _ _ _ _ fun r hr => by rwa [queryWave_state]
  case queryFaults l p => cases h; exact hs.command _ _ _ _ _ fun r hr => by rwa [queryFaults_state]
  case fetch l p => cases h; exact hs.command _ _ _ _ _ fun r hr => hr.fetch l p
  case restart l p => cases h; exact hs.command _ _ _ _ _ fun r hr => hr.restart l p
  case arrive p => cases h; exact hs.command _ _ _ _ _ fun r hr => hr.arrive p
  case outputFree p => cases h; exact hs.command _ _ _ _ _ fun r hr => hr.outputFree p
  case dockTaken p => cases h; exact hs.command _ _ _ _ _ fun r hr => hr.dockTaken p
  case hello c p => cases h; exact hs.craneMessage _ _ _ _ _ _ _ fun r x hr => hr.of_ledger (hello_ledger ..)
  case ask c p => cases h; exact hs.craneMessage _ _ _ _ _ _ _ fun r x hr => hr.of_ledger (ask_ledger ..)
  case pos c p => cases h; exact hs.craneMessage _ _ _ _ _ _ _ fun r x hr => hr.of_ledger (pos_ledger ..)
  case accept c p => cases h; exact hs.craneMessage _ _ _ _ _ _ _ fun r x hr => hr.of_ledger (accept_ledger ..)
  case refuse c p => cases h; exact hs.craneMessage _ _ _ _ _ _ _ fun r x hr => hr.of_ledger (refuseOffer_ledger ..)
  case late c p => cases h; exact hs.craneMessage _ _ _ _ _ _ _ fun r x hr => hr.of_ledger (answerLate_ledger ..)
  case cleared c p => cases h; exact hs.craneMessage _ _ _ _ _ _ _ fun r x hr => hr.of_ledger (cleared_ledger ..)
  case parked c p => cases h; exact hs.craneMessage _ _ _ _ _ _ _ fun r x hr => hr.of_ledger (parked_ledger ..)
  case fault c p => cases h; exact hs.craneMessage _ _ _ _ _ _ _ fun r x hr => hr.of_ledger (craneFault_ledger ..)
  case recovered c p => cases h; exact hs.craneMessage _ _ _ _ _ _ _ fun r x hr => hr.of_ledger (recovered_ledger ..)
  case picked c p => cases h; exact hs.stepReport _ _ _ _ _ fun r j u x hr => hr.of_ledger (picked_ledger ..)
  case dropped c p => cases h; exact hs.stepReport _ _ _ _ _ fun r j u x hr => hr.dropped ..
  case cellOccupied c p => cases h; exact hs.stepReport _ _ _ _ _ fun r j u x hr => hr.of_ledger (cellOccupied_ledger ..)
  case cellEmpty c p => cases h; exact hs.stepReport _ _ _ _ _ fun r j u x hr => hr.cellEmpty ..
  case offerTimerExpiry c => cases h; exact hs.expiry _ _ fun r hr => hr.of_ledger (offerLapse_ledger r c)
  case holdBackExpiry c => cases h; exact hs.expiry _ _ fun r hr => hr.of_ledger (holdBackEnds_ledger r c)
  case parkTimerExpiry c => cases h; exact hs.expiry _ _ fun r hr => hr.of_ledger (parkLapse_ledger r c)
  case backoffExpiry c => cases h; exact hs.expiry _ _ fun r hr => hr.of_ledger (backoffEnds_ledger r c)
  case stepDeadlineExpiry c => cases h; exact hs.expiry _ _ fun r hr => hr.of_ledger (deadlineEnds_ledger r c)
  case agingStep => cases h; exact hs.expiry _ _ fun r hr => hr.of_ledger (ageStep_ledger r)
  case agingCounterTick => cases h; exact hs.expiry _ _ fun r hr => hr.of_ledger (ageTick_ledger r)
  case selection c => cases h; exact (take _).of_ledger (runSelection_ledger ..)
  case preemptionCheck j => cases h; exact (take _).of_ledger (runPreemption_ledger ..)
  case slotSearch j => cases h; exact (take _).of_ledger (runSlotSearch_ledger ..)
  case relocationRequest j => cases h; exact (take _).runRelocation j
  case reEvaluation j => cases h; exact (take _).reEvaluateJob j
  case storeHandOver j l p => cases h; exact (take _).handOver j l p
  case closingWaitPlacement l => cases h; exact (take _).fillFrom l _
  case faultReport r => cases h; exact (take _).of_ledger (takeFault_ledger ..)

/-- Settles O6: each command leaves the ledger of the pool, or writes it by the entry or the leaving of one job after
another, or by a change of the wave table that keeps its ids and counts true; a soft reset empties it. -/
theorem stepKeepsPoolLaws : Obligations.StepKeepsPoolLaws := by
  intro s t hs h
  rcases step_cases h with ⟨i, r, hi, hr⟩ | rfl
  · refine exec_poolLawful ?_ hi
    rw [hr]
    exact hs.of_ledger rfl
  · exact hs.of_ledger rfl

end Sys2Proof.Machine
end
section
/-! A step: the next command, or the oldest event, or a millisecond with the expiries that come due (O1). -/

namespace Sys2Proof.Machine
variable {s : State}

theorem mem_dueAt {now : Nat} {x : Option Nat} {e i : Instr} : i ∈ dueAt now x e ↔ i = e ∧ x = some now := by
  unfold dueAt
  split
  · split
    · next h => simp [h]
    · next h => simp [h]
  · simp

theorem dueAt_nodup (now : Nat) (x : Option Nat) (e : Instr) : (dueAt now x e).Nodup := by
  unfold dueAt
  split
  · split
    · exact List.nodup_singleton e
    · exact List.nodup_nil
  · exact List.nodup_nil

theorem mem_dueFor {now : Nat} {c : CraneId} {i : Instr} : i ∈ s.dueFor now c ↔
    (i = .offerTimerExpiry c ∧ (s.crane c).offerTimer = some now)
      ∨ (i = .holdBackExpiry c ∧ (s.holdBack c).timer = some now)
      ∨ (i = .parkTimerExpiry c ∧ (s.crane c).parkTimer = some now)
      ∨ (i = .backoffExpiry c ∧ (s.crane c).backoffTimer = some now)
      ∨ (i = .stepDeadlineExpiry c ∧ (s.crane c).deadline.map (·.expiry) = some now) := by
  simp only [State.dueFor, List.mem_append, mem_dueAt, or_assoc]

theorem dueFor_nodup (s : State) (now : Nat) (c : CraneId) : (s.dueFor now c).Nodup := by
  simp +contextual [State.dueFor, List.nodup_append, dueAt_nodup, mem_dueAt, or_imp]

/-- The crane whose timer an expiry is of. -/
def timerCrane (i : Instr) : Option CraneId :=
  match i with
  | .offerTimerExpiry c | .holdBackExpiry c | .parkTimerExpiry c | .backoffExpiry c | .stepDeadlineExpiry c => some c
  | _ => none

theorem timerCrane_dueFor {now : Nat} {c : CraneId} {i : Instr} (h : i ∈ s.dueFor now c) : timerCrane i = some c := by
  rcases mem_dueFor.mp h with ⟨rfl, -⟩ | ⟨rfl, -⟩ | ⟨rfl, -⟩ | ⟨rfl, -⟩ | ⟨rfl, -⟩ <;> rfl

theorem mem_dueGap {now : Nat} {k : Link} {i : Instr} : i ∈ s.dueGap now k ↔
    i = .tgapExpiry k ∧ ∃ bytes t, s.rx k = .inFrame bytes t ∧ t + 5 = now := by
  unfold State.dueGap
  split
  · next bytes t h => simp [mem_dueAt, h, Config.tGap]
  · next h => simp [h]

theorem dueGap_nodup (s : State) (now : Nat) (k : Link) : (s.dueGap now k).Nodup := by
  unfold State.dueGap
  split
  · exact dueAt_nodup ..
  · exact List.nodup_nil

theorem mem_dueAging {now : Nat} {i : Instr} :
    i ∈ s.dueAging now ↔ i = .agingCounterTick ∧ s.jpl.agingMode = .time ∧ 100 ∣ now := by
  unfold State.dueAging
  rw [Nat.dvd_iff_mod_eq_zero]
  split
  · next h => obtain ⟨ht, hm⟩ := h; simp [show now % 100 = 0 from ht, hm]
  · next h => simpa [Config.agingTick] using fun _ ht hm => h ⟨hm, ht⟩

theorem mem_allLinks (k : Link) : k ∈ allLinks := by
  rcases k with (_ | _) | _ | c <;> simp [allLinks]

theorem allLinks_nodup : allLinks.Nodup := by decide

/-- What comes due while no restart waits. -/
theorem mem_due (h : s.liu.restarting = none) {now : Nat} {i : Instr} : i ∈ s.due now ↔
    (∃ c, i ∈ s.dueFor now c) ∨ (∃ k, i ∈ s.dueGap now k) ∨ i ∈ s.dueAging now := by
  simp [State.due, h, mem_allLinks]

theorem due_of_restarting (h : s.liu.restarting ≠ none) (now : Nat) : s.due now = [] :=
  if_pos (Option.isSome_iff_ne_none.mpr h)

theorem due_nodup (s : State) (now : Nat) : (s.due now).Nodup := by
  unfold State.due
  split
  · exact List.nodup_nil
  · have cranes : ((List.finRange 12).flatMap (s.dueFor now)).Nodup := by
      refine List.nodup_flatMap.mpr ⟨fun c _ => dueFor_nodup s now c,
        (List.nodup_finRange 12).imp fun hne i hi hj => hne ?_⟩
      exact Option.some.inj ((timerCrane_dueFor hi).symm.trans (timerCrane_dueFor hj))
    have gaps : (allLinks.flatMap (s.dueGap now)).Nodup := by
      refine List.nodup_flatMap.mpr ⟨fun k _ => dueGap_nodup s now k, allLinks_nodup.imp fun hne i hi hj => hne ?_⟩
      exact Instr.tgapExpiry.inj ((mem_dueGap.mp hi).1.symm.trans (mem_dueGap.mp hj).1)
    have aging : (s.dueAging now).Nodup := by
      unfold State.dueAging
      split
      · exact List.nodup_singleton _
      · exact List.nodup_nil
    refine List.nodup_append.mpr
      ⟨List.nodup_append.mpr ⟨cranes, gaps, fun i hi j hj e => ?_⟩, aging, fun i hi j hj e => ?_⟩
    · obtain ⟨c, -, hc⟩ := List.mem_flatMap.mp hi
      obtain ⟨k, -, hk⟩ := List.mem_flatMap.mp hj
      have crane := timerCrane_dueFor hc
      rw [e, (mem_dueGap.mp hk).1] at crane
      cases crane
    · obtain ⟨rfl, -⟩ := mem_dueAging.mp hj
      subst e
      rcases List.mem_append.mp hi with hi | hi
      · obtain ⟨c, -, hc⟩ := List.mem_flatMap.mp hi
        cases timerCrane_dueFor hc
      · obtain ⟨k, -, hk⟩ := List.mem_flatMap.mp hi
        cases (mem_dueGap.mp hk).1

/-- Settles O1: the order in which a step takes its work, and what a millisecond raises. -/
theorem stepRunsTheNextCommand : Obligations.StepRunsTheNextCommand := by
  refine ⟨fun s c rest h => by rw [step, h],
    fun s h => ⟨fun e es he => by rw [step, h, he], fun he => by rw [step, h, he]⟩,
    fun s => ⟨s.due (s.now + 1), rfl, due_nodup s _, fun h => due_of_restarting h _, fun h i => ?_⟩⟩
  rw [mem_due h]
  simp only [mem_dueFor, mem_dueGap, mem_dueAging]
  refine or_congr_right (or_congr_left ⟨?_, ?_⟩)
  · rintro ⟨k, hi, bytes, t, hr, ht⟩
    exact ⟨k, bytes, t, hi, hr, ht⟩
  · rintro ⟨k, bytes, t, hi, hr, ht⟩
    exact ⟨k, hi, bytes, t, hr, ht⟩

end Sys2Proof.Machine
end
section
/-! A crane that enters a state from whichever it stands in, and one that goes to PARKING or IDLE: its record, its interval
and what is left (R113, R128, R131, R144, R146, R173). -/

namespace Sys2Proof.Machine

variable {s t u : State} {c : CraneId} {a : AisleId} {e : End} {f g : Interval → Interval}

/-! ## Intervals -/

theorem IntervalIs.of_rail (hm : (t.crane c).mapping = (s.crane c).mapping) (h : ∀ b, t.rail b = s.rail b) :
    IntervalIs s t c id := by
  simp only [IntervalIs, State.entry, hm, h]
  rfl

theorem IntervalIs.of_unmapped (hs : (s.crane c).mapping = none) (ht : (t.crane c).mapping = none) : IntervalIs s t c f := by
  simp only [IntervalIs, State.entry, hs, ht, Option.map_none]

theorem IntervalIs.trans (h : IntervalIs s t c f) (k : IntervalIs t u c g) : IntervalIs s u c fun i => g (f i) := by
  unfold IntervalIs at *
  have first : (t.entry c).map (fun r => g r.granted) = ((t.entry c).map (·.granted)).map g := by simp [Function.comp_def]
  rw [k, first, h, Option.map_map]
  rfl

/-- A crane whose interval alone moves. -/
theorem IntervalMoves.interval {w : Interval → Interval} (h : IntervalMoves s t a e f w)
    (hm : (s.crane c).mapping = some (a, e)) (ht : (t.crane c).mapping = some (a, e)) :
    IntervalIs s t c fun i => w (f i) := by
  obtain ⟨own, none, -⟩ := h
  unfold IntervalIs
  rw [entry_mapped hm, entry_mapped ht]
  cases hr : s.rail a with
  | none => rw [none hr]; rfl
  | some r =>
    rw [(own r hr).1]
    simp

/-- Tables that stand move no interval. -/
theorem IntervalMoves.of_rail (h : t.crt.rail = s.crt.rail) : IntervalMoves s t a e id id :=
  have rail : ∀ b, t.rail b = s.rail b := fun b => by simp only [State.rail, h]
  ⟨fun r hr => ⟨(rail a).trans (hr.trans (congrArg some (PerEnd.set_get r e).symm)), fun hne => absurd rfl hne⟩,
    fun hr => (rail a).trans hr, fun b _ => rail b⟩

/-! ## Leaving WAITING -/

theorem endClaim_rail (s : State) (a : AisleId) (e : End) (b : AisleId) : (s.endClaim a e).rail b =
    if b = a then (s.rail a).map fun r => r.set e { r.get e with claim := none } else s.rail b := by
  unfold State.endClaim
  cases hr : s.rail a with
  | none =>
    simp only [Option.bind_none, Option.map_none]
    split
    · next h => rw [h, hr]
    · rfl
  | some r =>
    simp only [Option.bind_some, Option.map_some]
    cases hc : (r.get e).claim with
    | none =>
      have same : { r.get e with claim := none } = r.get e := by rw [← hc]
      simp only [same, PerEnd.set_get]
      split
      · next h => rw [h, hr]
      · rfl
    | some k =>
      have frame : Frame [.events] (s.updEntry a e fun r => { r with claim := none })
          ((s.updEntry a e fun r => { r with claim := none }).select a) := (Frame.refl _ _).select a (by simp)
      dsimp only
      rw [frame.rail (by simp)]
      simp only [State.updEntry, hr]
      exact State.setRail_rail ..

theorem leaveWaiting_rail (hm : (s.crane c).mapping = some (a, e)) (b : AisleId) : (s.leaveWaiting c).rail b =
    if b = a then (s.rail a).map fun r => r.set e { r.get e with claim := none } else s.rail b := by
  unfold State.leaveWaiting
  simp only [show (s.stopHoldBack c).crane c = s.crane c from rfl, hm]
  exact endClaim_rail (s.stopHoldBack c) a e b

theorem leaveWaiting_interval (s : State) (c : CraneId) : IntervalIs s (s.leaveWaiting c) c id := by
  have crane : (s.leaveWaiting c).crane c = s.crane c :=
    ((Frame.refl [.rail, .holdBack, .events] s).leaveWaiting c (by simp)).crane c (by simp)
  cases hm : (s.crane c).mapping with
  | none => exact .of_unmapped hm (crane ▸ hm)
  | some m =>
    obtain ⟨a, e⟩ := m
    unfold IntervalIs
    rw [entry_mapped hm, entry_mapped (by rw [crane, hm]), leaveWaiting_rail hm, if_pos rfl]
    cases s.rail a <;> simp

/-! ## Entering a state -/

theorem entering_parts (s : State) (c : CraneId) (target : CraneState) :
    Frame [.crane c, .rail, .holdBack, .parkOwed, .events] s (s.entering c target) := by
  have first : Frame [.crane c, .rail, .holdBack, .parkOwed, .events] s (s.setCrane c ((s.crane c).entering target)) :=
    (Frame.refl _ s).setCrane c _ (by simp)
  have second := (first.leaveWaiting c (by simp)).ite (p := (s.crane c).state = .waiting
    ∧ (s.crane c).destination target ≠ .waiting) first
  exact second.ite (second.setParkOwed c _ (by simp))

/-- What is left of a crane's entry once its record is written: its claim, its hold-back and the PARK it is owed. -/
theorem entering_own (s : State) (c : CraneId) (target : CraneState) :
    (s.entering c target).crane c = (s.crane c).entering target ∧ IntervalIs s (s.entering c target) c id := by
  let w := s.setCrane c ((s.crane c).entering target)
  let m := if (s.crane c).state = .waiting ∧ (s.crane c).destination target ≠ .waiting then w.leaveWaiting c else w
  have written : w.crane c = (s.crane c).entering target := (State.setCrane_crane s c c _).trans (if_pos rfl)
  have mapped : (w.crane c).mapping = (s.crane c).mapping := by rw [written]; rfl
  have left : m.crane c = w.crane c ∧ IntervalIs w m c id := by
    unfold m
    split
    · exact ⟨((Frame.refl [.rail, .holdBack, .events] w).leaveWaiting c (by simp)).crane c (by simp),
        leaveWaiting_interval w c⟩
    · exact ⟨rfl, .of_rail rfl fun _ => rfl⟩
  obtain ⟨crane, interval⟩ := left
  have first : IntervalIs s w c id := .of_rail mapped fun _ => rfl
  have last : (s.entering c target).crane c = m.crane c ∧ ∀ b, (s.entering c target).rail b = m.rail b := by
    have form : s.entering c target = if (s.crane c).destination target = .working
        ∨ (s.crane c).destination target = .clearing then m else m.setParkOwed c false := rfl
    rw [form]
    split <;> exact ⟨rfl, fun _ => rfl⟩
  obtain ⟨same, rails⟩ := last
  exact ⟨same.trans (crane.trans written), (first.trans interval).trans (.of_rail (by rw [same]) rails)⟩

theorem enterState_frame (s : State) (c : CraneId) (target : CraneState) :
    Frame [.crane c, .rail, .holdBack, .parkOwed, .holds, .profiles, .queue, .events] s (s.enterState c target) :=
  (Frame.refl _ s).enterState c target (by simp)

theorem enterState_stand (s : State) (c : CraneId) (target : CraneState) : EventsStand s (s.enterState c target) :=
  (Unwinds.enterState (x := none) s c target).stand

theorem settled_of_not_pending (s : State) (a : AisleId) {p : Prop} (q : Prop) [Decidable p] [Decidable q] (hp : ¬ p) :
    Frame [.holds, .queue, .events] s (s.settled a p q) := by
  unfold State.settled
  simp only [hp, if_false]
  exact (((Frame.refl [.holds, .queue, .events] s).select a (by simp)).ite (.refl _ s)).testHold a (by simp)

/-- A crane enters a state. -/
theorem enterState_own (s : State) (c : CraneId) (target : CraneState) :
    (s.enterState c target).crane c = (s.crane c).entering target ∧ IntervalIs s (s.enterState c target) c id := by
  obtain ⟨crane, interval⟩ := entering_own s c target
  cases hm : (s.crane c).mapping with
  | none =>
    rw [enterState_unmapped hm]
    exact ⟨crane, interval⟩
  | some m =>
    obtain ⟨a, e⟩ := m
    rw [enterState_mapped hm]
    have last := settled_frame (s.entering c target) a
      ((s.crane c).state.busy = true ∧ (s.crane c).destination target ≠ (s.crane c).state)
      ((s.crane c).destination target = .idle ∧ (s.crane c).state ≠ .idle)
    have same := last.crane c (by simp)
    exact ⟨same.trans crane, interval.trans (.of_rail (by rw [same]) fun b => last.rail (by simp) b)⟩

theorem enterState_crane (s : State) (c : CraneId) (target : CraneState) :
    (s.enterState c target).crane c = (s.crane c).entering target := (enterState_own s c target).1

theorem enterState_interval (s : State) (c : CraneId) (target : CraneState) :
    IntervalIs s (s.enterState c target) c id := (enterState_own s c target).2

/-- A crane that is neither OFFERED, WORKING nor CLEARING delays no pending profile (R9). -/
theorem enterState_calm (hb : (s.crane c).state.busy = false) (target : CraneState) :
    Frame [.crane c, .rail, .holdBack, .parkOwed, .holds, .queue, .events] s (s.enterState c target) := by
  have first := (entering_parts s c target).mono (qs := [.crane c, .rail, .holdBack, .parkOwed, .holds, .queue, .events])
    (by simp)
  cases hm : (s.crane c).mapping with
  | none => rw [enterState_unmapped hm]; exact first
  | some m =>
    obtain ⟨a, e⟩ := m
    rw [enterState_mapped hm]
    exact first.trans ((settled_of_not_pending _ a _ (by simp [hb])).mono (by simp))

/-- A crane that is not WAITING leaves the tables and the hold-backs. -/
theorem enterState_still (hs : (s.crane c).state ≠ .waiting) (target : CraneState) :
    Frame [.crane c, .parkOwed, .holds, .profiles, .queue, .events] s (s.enterState c target) := by
  have first := (entering_frame hs target).mono (qs := [.crane c, .parkOwed, .holds, .profiles, .queue, .events]) (by simp)
  cases hm : (s.crane c).mapping with
  | none => rw [enterState_unmapped hm]; exact first
  | some m =>
    obtain ⟨a, e⟩ := m
    rw [enterState_mapped hm]
    exact first.trans ((settled_frame _ a _ _).mono (by simp))

/-! ## Going to PARKING or to IDLE -/

/-- Where a crane goes that may not work on: to OUT_OF_SERVICE where it is to leave service, else to PARKING or IDLE. -/
def State.goesTo (s : State) (c : CraneId) (park : Bool) : CraneState :=
  if (s.crane c).leaveService then .outOfService else if park then .parking else .idle

theorem goesTo_parkOwed (s : State) (c : CraneId) : s.goesTo c (s.parkOwed c) = s.afterWork c := rfl

theorem goesTo_aisleStopped (s : State) (c : CraneId) : s.goesTo c (s.aisleStopped c) = s.afterReturn c := rfl

/-- To PARKING with PARK, or to IDLE. -/
def State.go (s : State) (c : CraneId) (park : Bool) : State := if park then s.sendPark c else s.enterState c .idle

theorem goIdle_eq (s : State) (c : CraneId) : s.goIdle c = s.go c (s.parkOwed c) := rfl

theorem goIdleOrPark_eq (s : State) (c : CraneId) : s.goIdleOrPark c = s.go c (s.aisleStopped c) := rfl

/-- What a crane's going to a state does: its record, the PARK sent and its interval, and what stands. -/
structure Gone (s t : State) (c : CraneId) (x : CraneState) : Prop where
  frame : Frame [.crane c, .rail, .holdBack, .parkOwed, .holds, .profiles, .tx (.crane c), .queue, .events] s t
  crane : ∃ p, t.crane c = { s.crane c with state := x, leaveService := false, parkTimer := p }
    ∧ (x = .parking → p = some (s.now + s.crt.tPark))
  tx : t.tx (.crane c) = s.tx (.crane c) ++ if x = .parking then [.park] else []
  stand : EventsStand s t
  interval : IntervalIs s t c (s.parkWidened c x)
  moves : (s.crane c).state ≠ .waiting → ∀ a e, (s.crane c).mapping = some (a, e) →
    IntervalMoves s t a e id (s.parkWidened c x)
  calm : (s.crane c).state.busy = false →
    Frame [.crane c, .rail, .holdBack, .parkOwed, .holds, .tx (.crane c), .queue, .events] s t
  still : (s.crane c).state ≠ .waiting →
    Frame [.crane c, .rail, .parkOwed, .holds, .profiles, .tx (.crane c), .queue, .events] s t

/-- A crane that goes without PARK. -/
theorem gone_of_entered {x target : CraneState} (hd : (s.crane c).destination target = x) (hx : x ≠ .parking)
    (hl : (s.crane c).leaveService = true → x = .outOfService) : Gone s (s.enterState c target) c x := by
  have leaves : ((s.crane c).leaveService && decide (x ≠ .outOfService)) = false := by
    cases h : (s.crane c).leaveService with
    | false => rfl
    | true => simp [hl h]
  have widen : s.parkWidened c x = id := by
    funext i
    cases x <;> first | rfl | exact absurd rfl hx
  exact {
    frame := (enterState_frame s c target).mono (by simp)
    crane := ⟨(s.crane c).parkTimer, by rw [enterState_crane, Crane.entering, hd, leaves], fun h => absurd h hx⟩
    tx := by rw [if_neg hx, List.append_nil]; exact (enterState_frame s c target).tx _ (by simp)
    stand := enterState_stand s c target
    interval := widen ▸ enterState_interval s c target
    moves := fun hs a e _ => widen.symm ▸ IntervalMoves.of_rail (enterState_still hs target .rail (by simp))
    calm := fun hb => (enterState_calm hb target).mono (by simp)
    still := fun hs => (enterState_still hs target).mono (by simp) }

theorem tellPark_moves (hm : (s.crane c).mapping = some (a, e)) :
    IntervalMoves s (s.tellPark c) a e id fun i => i.join (.at (s.parkEnd a e)) := by
  have sent := widenToPark_rail (s := s.send (.crane c) .park) hm
  refine ⟨fun r hr => ⟨(sent a).trans ((if_pos rfl).trans ?_), fun h => absurd rfl h⟩, fun hr => ?_, fun b hb => ?_⟩
  · rw [show (s.send (.crane c) .park).rail a = some r from hr]
    rfl
  · refine (sent a).trans ((if_pos rfl).trans ?_)
    rw [show (s.send (.crane c) .park).rail a = none from hr]
    rfl
  · exact (sent b).trans (if_neg hb)

theorem tellPark_frame (s : State) (c : CraneId) : Frame [.rail, .tx (.crane c)] s (s.tellPark c) :=
  (Frame.refl _ s).tellPark c (by simp)

theorem tellPark_tx (s : State) (c : CraneId) : (s.tellPark c).tx (.crane c) = s.tx (.crane c) ++ [.park] := by
  have sent : (s.send (.crane c) .park).tx (.crane c) = s.tx (.crane c) ++ [.park] := by
    simp [State.send]
  have widened : Frame [.rail] (s.send (.crane c) .park) ((s.send (.crane c) .park).widenToPark c) :=
    (Frame.refl _ _).widenToPark c (by simp)
  exact (widened.tx _ (by simp)).trans sent

/-- A crane that is sent PARK and goes to PARKING. -/
theorem gone_of_parked (hl : (s.crane c).leaveService = false) :
    Gone s (((s.tellPark c).startParkTimer c).enterState c .parking) c .parking := by
  let w := (s.tellPark c).startParkTimer c
  have told := tellPark_frame s c
  have timed : Frame [.crane c, .events] (s.tellPark c) w := (Frame.refl _ _).startParkTimer c (by simp)
  obtain ⟨timer, now⟩ := tPark_tellPark s c
  have own : w.crane c = { s.crane c with parkTimer := some (s.now + s.crt.tPark) } := by
    refine (State.setCrane_crane _ c c _).trans ((if_pos rfl).trans ?_)
    rw [told.crane c (by simp), timer, now]
  have goes : (w.crane c).destination .parking = .parking := by
    rw [own]
    exact if_neg (by simp [hl])
  have still : (s.crane c).state ≠ .waiting → (w.crane c).state ≠ .waiting := fun h => by rw [own]; exact h
  have stand : EventsStand s w := (tellPark_stand s c).trans (Unwinds.startParkTimer (x := none) _ c).stand
  have entered := enterState_frame w c .parking
  exact {
    frame := ((told.mono (by simp)).trans (timed.mono (by simp))).trans (entered.mono (by simp))
    crane := ⟨_, by rw [enterState_crane, Crane.entering, goes, own, hl]; rfl, fun _ => rfl⟩
    tx := by
      rw [entered.tx _ (by simp), timed.tx _ (by simp), tellPark_tx]
      rfl
    stand := stand.trans (enterState_stand w c .parking)
    interval := by
      have last : IntervalIs (s.tellPark c) (w.enterState c .parking) c id :=
        (IntervalIs.of_rail (by rw [own, told.crane c (by simp)]) fun b => timed.rail (by simp) b).trans
          (enterState_interval w c .parking)
      cases hm : (s.crane c).mapping with
      | none =>
        have mapped : ((w.enterState c .parking).crane c).mapping = none := by rw [enterState_crane, Crane.entering, own, hm]
        exact .of_unmapped hm mapped
      | some m =>
        obtain ⟨a, e⟩ := m
        have widen : s.parkWidened c .parking = fun i => i.join (.at (s.parkEnd a e)) := by
          funext i
          simp only [State.parkWidened, hm]
        rw [widen]
        exact ((tellPark_moves hm).interval hm (by rw [told.crane c (by simp), hm])).trans last
    moves := fun hs a e hm => by
      have widen : s.parkWidened c .parking = fun i => i.join (.at (s.parkEnd a e)) := by
        funext i
        simp only [State.parkWidened, hm]
      rw [widen]
      exact (tellPark_moves hm).later ((enterState_still (still hs) .parking .rail (by simp)).trans (timed .rail (by simp)))
        ((Unwinds.startParkTimer (x := none) _ c).stand.trans (enterState_stand w c .parking))
    calm := fun hb => ((told.mono (by simp)).trans (timed.mono (by simp))).trans
      ((enterState_calm (s := w) (by rw [own]; exact hb) .parking).mono (by simp))
    still := fun hs => ((told.mono (by simp)).trans (timed.mono (by simp))).trans
      ((enterState_still (still hs) .parking).mono (by simp)) }

/-- A crane that is not in BACKOFF goes to its state. -/
theorem go_gone (hs : (s.crane c).state ≠ .backoff) (park : Bool) : Gone s (s.go c park) c (s.goesTo c park) := by
  have stays : s.leaveBackoff c = s := if_neg hs
  unfold State.go State.goesTo State.sendPark
  simp only [stays]
  cases hl : (s.crane c).leaveService with
  | true =>
    have leaves : ∀ target : CraneState, target.leaveDiverts = true → (s.crane c).destination target = .outOfService :=
      fun target h => if_pos (by rw [hl, h]; rfl)
    simp only [if_true]
    split
    · exact gone_of_entered (leaves _ rfl) (by decide) fun _ => rfl
    · exact gone_of_entered (leaves _ rfl) (by decide) fun _ => rfl
  | false =>
    have goes : ∀ target : CraneState, (s.crane c).destination target = target := fun target => if_neg (by simp [hl])
    simp only [Bool.false_eq_true, if_false]
    split
    · exact gone_of_parked hl
    · exact gone_of_entered (goes _) (by decide) fun h => by simp [hl] at h

end Sys2Proof.Machine
end
section
/-! What the expiry of each timer does, and what an aging step and a tick do (O53). -/

namespace Sys2Proof.Machine

variable {s t : State} {c : CraneId} {a : AisleId} {e : End}

/-! ## The hold-back timer -/

theorem holdBackExpiry_exec (hr : s.liu.restarting = none) :
    exec (.holdBackExpiry c) s = .next ((s.take (.holdBackExpiry c)).holdBackEnds c) := by
  show Host.Outcome.next (s.expiry _ _) = _
  rw [State.expiry_taken hr]

theorem holdBackEnds_of_none (h : (s.holdBack c).timer = none) : s.holdBackEnds c = s := if_pos h

theorem holdBackEnds_of_running (h : (s.holdBack c).timer ≠ none) :
    s.holdBackEnds c = (s.stopHoldBack c).raise (.selection c) := if_neg h

/-! ## The park timer -/

theorem parkTimerExpiry_exec (hr : s.liu.restarting = none) :
    exec (.parkTimerExpiry c) s = .next ((s.take (.parkTimerExpiry c)).parkLapse c) := by
  show Host.Outcome.next (s.expiry _ _) = _
  rw [State.expiry_taken hr]

/-- A fault of a crane's message or timer joins the events. -/
theorem raiseFault_reported (s t : State) (k : FaultKind) (c : CraneId) (j : Option Handle) (p : List Byte) :
    (t.raiseFault k (.link (.crane c)) (s.craneAisle c) j p).events = t.events ++ [s.craneReported k c j p] := rfl

theorem craneReported_congr (h : (t.crane c).mapping = (s.crane c).mapping) (k : FaultKind) (j : Option Handle)
    (p : List Byte) : t.craneReported k c j p = s.craneReported k c j p := by
  simp only [State.craneReported, State.craneAisle, h]

/-- What a park timeout leaves of a crane whose timer has stopped. -/
structure ParkTimedOut (s t : State) (c : CraneId) : Prop where
  frame : Frame [.crane c, .rail, .holdBack, .parkOwed, .holds, .profiles, .queue, .events] s t
  crane : t.crane c = { s.crane c with state := .faulted }
  last : t.events.getLast? = some (s.craneReported .parkTimeout c none [])
  rail : (s.crane c).state ≠ .waiting → t.crt.rail = s.crt.rail

theorem parkTimeout_timedOut (s : State) (c : CraneId) : ParkTimedOut s (s.parkTimeout c) c := by
  have raised : Frame [.events] (s.enterState c .faulted) (s.parkTimeout c) :=
    (Frame.refl _ _).raiseFault _ _ _ _ _ (by simp)
  have crane : (s.enterState c .faulted).crane c = { s.crane c with state := .faulted } := by
    rw [enterState_crane, Crane.entering, Crane.destination]
    simp [CraneState.leaveDiverts]
  exact {
    frame := (enterState_frame s c .faulted).trans (raised.mono (by simp))
    crane := (raised.crane c (by simp)).trans crane
    last := by
      unfold State.parkTimeout
      rw [raiseFault_reported, List.getLast?_concat]
    rail := fun hs => (raised .rail (by simp)).trans (enterState_still hs .faulted .rail (by simp)) }

theorem stopParkTimer_crane (s : State) (c : CraneId) :
    (s.stopParkTimer c).crane c = { s.crane c with parkTimer := none } :=
  (State.setCrane_crane s c c _).trans (if_pos rfl)

theorem updOwn_rail (hm : (s.crane c).mapping = some (a, e)) (f : RailEntry → RailEntry) (b : AisleId) :
    (s.updOwn c f).rail b = if b = a then (s.rail a).map fun r => r.set e (f (r.get e)) else s.rail b := by
  cases hr : s.rail a with
  | none =>
    simp only [State.updOwn, hm, State.updEntry, hr, Option.map_none]
    split
    · next h => rw [h, hr]
    · rfl
  | some r =>
    simp only [State.updOwn, hm, State.updEntry, hr, Option.map_some]
    exact State.setRail_rail s a b _

theorem abandonClear_crane (s : State) (c : CraneId) :
    (s.abandonClear c).crane c = { s.crane c with parkTimer := none } := by
  have owned : Frame [.rail] (s.stopParkTimer c) ((s.stopParkTimer c).updOwn c fun r => { r with clear := none }) :=
    (Frame.refl _ _).updOwn c _ (by simp)
  have ended : Frame [.rail, .events] ((s.stopParkTimer c).updOwn c fun r => { r with clear := none }) (s.abandonClear c) := by
    unfold State.abandonClear
    dsimp only
    split
    · exact (Frame.refl _ _).endClaim _ _ (by simp)
    · exact .refl _ _
  rw [ended.crane c (by simp), owned.crane c (by simp), stopParkTimer_crane]

/-- A clear given up leaves the target of its crane and the claim of the other (R123). -/
theorem abandonClear_rail (hm : (s.crane c).mapping = some (a, e)) (b : AisleId) : (s.abandonClear c).rail b =
    if b = a then (s.rail a).map fun r => (r.set e { r.get e with clear := none }).set (otherEnd e)
      { r.get (otherEnd e) with claim := none }
    else s.rail b := by
  have timer : ((s.stopParkTimer c).crane c).mapping = some (a, e) := by rw [stopParkTimer_crane]; exact hm
  have owned : Frame [.rail] (s.stopParkTimer c) ((s.stopParkTimer c).updOwn c fun r => { r with clear := none }) :=
    (Frame.refl _ _).updOwn c _ (by simp)
  have mapped : (((s.stopParkTimer c).updOwn c fun r => { r with clear := none }).crane c).mapping = some (a, e) := by
    rw [owned.crane c (by simp), timer]
  unfold State.abandonClear
  simp only [mapped]
  rw [endClaim_rail]
  simp only [updOwn_rail timer]
  split
  · rw [if_true]
    show Option.map _ (Option.map _ (s.rail a)) = _
    cases s.rail a with
    | none => rfl
    | some r => cases e <;> rfl
  · rfl

/-- A park timer runs out on a crane in PARKING or CLEARING (R123, R144). -/
structure ParkLapsed (s t : State) (c : CraneId) : Prop where
  frame : Frame [.crane c, .rail, .holdBack, .parkOwed, .holds, .profiles, .queue, .events] s t
  crane : t.crane c = { s.crane c with state := .faulted, parkTimer := none }
  last : t.events.getLast? = some (s.craneReported .parkTimeout c none [])
  parking : (s.crane c).state = .parking → t.crt.rail = s.crt.rail
  clearing : ∀ a e r, (s.crane c).state = .clearing → (s.crane c).mapping = some (a, e) → s.rail a = some r →
    ∃ r', t.rail a = some r' ∧ r'.get e = { r.get e with clear := none }
      ∧ r'.get (otherEnd e) = { r.get (otherEnd e) with claim := none }

theorem parkLapse_lapsed (ht : (s.crane c).parkTimer ≠ none)
    (hs : (s.crane c).state ∈ [CraneState.parking, .clearing]) : ParkLapsed s (s.parkLapse c) c := by
  rcases List.mem_cons.mp hs with hs | hs
  · have form : s.parkLapse c = (s.stopParkTimer c).parkTimeout c := by
      unfold State.parkLapse
      rw [if_neg ht, hs]
    have first : Frame [.crane c, .events] s (s.stopParkTimer c) := (Frame.refl _ s).stopParkTimer c (by simp)
    have own := stopParkTimer_crane s c
    obtain ⟨frame, crane, last, rail⟩ := parkTimeout_timedOut (s.stopParkTimer c) c
    rw [form]
    exact {
      frame := (first.mono (by simp)).trans frame
      crane := by rw [crane, own]
      last := by rw [last, craneReported_congr (s := s) (by rw [own])]
      parking := fun _ => (rail (by rw [own]; simp [hs])).trans (first .rail (by simp))
      clearing := fun _ _ _ h => absurd (hs.symm.trans h) (by decide) }
  · rw [List.mem_singleton] at hs
    have form : s.parkLapse c = (s.abandonClear c).parkTimeout c := by
      unfold State.parkLapse
      rw [if_neg ht, hs]
    have first : Frame [.crane c, .rail, .events] s (s.abandonClear c) := (Frame.refl _ s).abandonClear c (by simp)
    have own := abandonClear_crane s c
    obtain ⟨frame, crane, last, rail⟩ := parkTimeout_timedOut (s.abandonClear c) c
    have tables := rail (by rw [own]; simp [hs])
    rw [form]
    exact {
      frame := (first.mono (by simp)).trans frame
      crane := by rw [crane, own]
      last := by rw [last, craneReported_congr (s := s) (by rw [own])]
      parking := fun h => absurd (hs.symm.trans h) (by decide)
      clearing := fun a e r _ hm hr => by
        refine ⟨(r.set e { r.get e with clear := none }).set (otherEnd e) { r.get (otherEnd e) with claim := none },
          ?_, by cases e <;> rfl, by cases e <;> rfl⟩
        have stands : ((s.abandonClear c).parkTimeout c).rail a = (s.abandonClear c).rail a := by
          simp only [State.rail, tables]
        rw [stands, abandonClear_rail hm, if_pos rfl, hr]
        rfl }

/-! ## The backoff timer -/

theorem backoffExpiry_exec (hr : s.liu.restarting = none) :
    exec (.backoffExpiry c) s = .next ((s.take (.backoffExpiry c)).backoffEnds c) := by
  show Host.Outcome.next (s.expiry _ _) = _
  rw [State.expiry_taken hr]

theorem leaveBackoff_crane (hs : (s.crane c).state = .backoff) :
    (s.leaveBackoff c).crane c = { s.crane c with backoffTimer := none, strikes := 0 } := by
  have stopped : (s.stopBackoffTimer c).crane c = { s.crane c with backoffTimer := none } :=
    (State.setCrane_crane s c c _).trans (if_pos rfl)
  unfold State.leaveBackoff
  rw [if_pos hs]
  exact (State.setCrane_crane _ c c _).trans ((if_pos rfl).trans (by rw [stopped]))

/-- A crane comes back from BACKOFF (R139). -/
structure BackedOff (s t : State) (c : CraneId) : Prop where
  frame : Frame [.crane c, .parkOwed, .holds, .tx (.crane c), .queue, .events] s t
  crane : t.crane c = { s.crane c with
    state := if (s.crane c).leaveService then .outOfService else .idle
    leaveService := false, backoffTimer := none, strikes := 0 }
  tx : t.tx (.crane c) = s.tx (.crane c) ++ if (s.crane c).leaveService then [] else [.resume]

theorem backoffEnds_backedOff (ht : (s.crane c).backoffTimer ≠ none) (hs : (s.crane c).state = .backoff) :
    BackedOff s (s.backoffEnds c) c := by
  let w := s.leaveBackoff c
  let m := if (s.crane c).leaveService then w else w.send (.crane c) .resume
  have left : w.crane c = { s.crane c with backoffTimer := none, strikes := 0 } := leaveBackoff_crane hs
  have form : s.backoffEnds c = m.enterState c .idle := by
    unfold State.backoffEnds
    rw [if_neg ht, if_pos hs]
    unfold m
    rw [show (s.crane c).leaveService = (w.crane c).leaveService by rw [left]]
  have first : Frame [.crane c, .events] s w := (Frame.refl _ s).leaveBackoff c (by simp)
  have second : Frame [.tx (.crane c)] w m := (Frame.refl _ w).ite ((Frame.refl _ w).send _ _ (by simp))
  have own : m.crane c = { s.crane c with backoffTimer := none, strikes := 0 } := (second.crane c (by simp)).trans left
  have state : (m.crane c).state = .backoff := by rw [own]; exact hs
  have calm := enterState_calm (s := m) (c := c) (by rw [state]; rfl) .idle
  have still := enterState_still (s := m) (c := c) (by rw [state]; decide) .idle
  have entered : Frame [.crane c, .parkOwed, .holds, .queue, .events] m (m.enterState c .idle) := fun p hp => by
    by_cases h : p = .profiles
    · exact calm p (by simp [h])
    · exact still p (by simpa [h] using hp)
  rw [form]
  exact {
    frame := ((first.mono (by simp)).trans (second.mono (by simp))).trans (entered.mono (by simp))
    crane := by
      rw [enterState_crane, Crane.entering, Crane.destination, own]
      cases (s.crane c).leaveService <;> simp [CraneState.leaveDiverts]
    tx := by
      rw [entered.tx _ (by simp)]
      unfold m
      split
      · rw [List.append_nil, first.tx _ (by simp)]
      · exact (State.setTx_tx w (.crane c) (.crane c) _).trans ((if_pos rfl).trans (by rw [first.tx _ (by simp)])) }

/-! ## The step deadline -/

theorem stepDeadlineExpiry_exec (hr : s.liu.restarting = none) :
    exec (.stepDeadlineExpiry c) s = .next ((s.take (.stepDeadlineExpiry c)).deadlineEnds c) := by
  show Host.Outcome.next (s.expiry _ _) = _
  rw [State.expiry_taken hr]

theorem deadlineEnds_of_none (h : (s.crane c).deadline = none) : s.deadlineEnds c = s := by
  unfold State.deadlineEnds
  rw [h]

theorem deadlineJob_eq {k : Deadline} {u : WorkUnit} {x : Step} (hk : (s.crane c).deadline = some k)
    (hu : (s.crane c).unit = some u) (hx : u.steps[k.step - 1]? = some x) : (s.crane c).deadlineJob = some x.job := by
  unfold Crane.deadlineJob
  rw [hk, hu]
  simp [hx]

/-- A step runs over its deadline (R143). -/
structure RunsOver (s t : State) (c : CraneId) (h : Handle) (j : Job) : Prop where
  frame : Frame [.crane c, .jobs, .events] s t
  crane : t.crane c = { s.crane c with deadline := none }
  job : ∀ g, t.job? g = if g = h then some { j with overdue := true } else s.job? g
  last : t.events.getLast? = some (s.craneReported .stepOverdue c (some h) [])
  liu : t.liu = s.liu

theorem deadlineEnds_runsOver {k : Deadline} {h : Handle} {j : Job} (hk : (s.crane c).deadline = some k)
    (hh : (s.crane c).deadlineJob = some h) (hj : s.job? h = some j) : RunsOver s (s.deadlineEnds c) c h j := by
  have form : s.deadlineEnds c = ((s.stopDeadline c).updJob h fun j => { j with overdue := true }).raiseFault .stepOverdue
      (.link (.crane c)) ((s.stopDeadline c).craneAisle c) (some h) [] := by
    unfold State.deadlineEnds
    rw [hk, hh]
    unfold State.updJob
    dsimp only
    split <;> rfl
  have stopped : (s.stopDeadline c).crane c = { s.crane c with deadline := none } :=
    (State.setCrane_crane s c c _).trans (if_pos rfl)
  have first : Frame [.crane c, .jobs, .events] s (s.stopDeadline c) := (Frame.refl _ s).stopDeadline c (by simp)
  have second : Frame [.jobs, .events] (s.stopDeadline c) (s.deadlineEnds c) := by
    rw [form]
    exact ((Frame.refl _ _).updJob h _ (by simp)).raiseFault _ _ _ _ _ (by simp)
  exact {
    frame := first.trans (second.mono (by simp))
    crane := (second.crane c (by simp)).trans stopped
    job := fun g => by
      rw [form]
      exact State.updJob_job (s := s.stopDeadline c) hj _ g
    last := by
      rw [form, raiseFault_reported, List.getLast?_concat, craneReported_congr (s := s) (by rw [stopped])]
    liu := by
      rw [form]
      show ((s.stopDeadline c).updJob h _).liu = s.liu
      rw [State.updJob_slots]
      rfl }

/-! ## Aging -/

theorem agingStep_exec (hr : s.liu.restarting = none) : exec .agingStep s = .next (s.take .agingStep).ageStep := by
  show Host.Outcome.next (s.expiry _ _) = _
  rw [State.expiry_taken hr]

theorem agingCounterTick_exec (hr : s.liu.restarting = none) :
    exec .agingCounterTick s = .next (s.take .agingCounterTick).ageTick := by
  show Host.Outcome.next (s.expiry _ _) = _
  rw [State.expiry_taken hr]

theorem ageStep_of_zero (h : s.jpl.startCount = 0) : s.ageStep = s := if_pos h

theorem Job.ageOnce_eq (j : Job) :
    j.ageOnce = if j.state = .pending ∨ j.state = .ready then { j with age := min 255 (j.age + 1) } else j := by
  unfold Job.ageOnce saturate
  rw [Nat.min_comm]

theorem ageStep_job (h : s.jpl.startCount ≠ 0) (g : Handle) : s.ageStep.job? g = (s.job? g).map Job.ageOnce := by
  unfold State.job?
  rw [State.ageStep_slot, if_neg h]
  split <;> rfl

/-- An aging step writes the slots and reloads the counter. -/
theorem ageStep_eq (h : s.jpl.startCount ≠ 0) :
    s.ageStep = { s with jpl := { s.jpl with slots := s.ageStep.jpl.slots, counter := s.jpl.startCount } } := by
  have form : s.ageStep = { s with jpl := { s.jpl with
      slots := s.jpl.slots.map fun x => { x with job := x.job.map Job.ageOnce }, counter := s.jpl.startCount } } := if_neg h
  rw [form]

theorem ageTick_of_events (h : s.jpl.agingMode = .events) : s.ageTick = s := if_neg (by simp [h])

theorem ageTick_of_zero (h : s.jpl.startCount = 0) : s.ageTick = s := by
  unfold State.ageTick State.ageCount
  rw [if_pos h, ite_self]

theorem ageTick_counts (ht : s.jpl.agingMode = .time) (h : s.jpl.startCount ≠ 0) (hc : 2 ≤ s.jpl.counter) :
    s.ageTick = { s with jpl := { s.jpl with counter := s.jpl.counter - 1 } } := by
  unfold State.ageTick State.ageCount
  rw [if_pos ht, if_neg h, if_neg (by omega)]

theorem ageTick_steps (ht : s.jpl.agingMode = .time) (h : s.jpl.startCount ≠ 0) (hc : s.jpl.counter ≤ 1) :
    s.ageTick = s.ageStep := by
  unfold State.ageTick State.ageCount
  rw [if_pos ht, if_neg h, if_pos hc]

theorem ageStep_jpl (h : t.jpl = s.jpl) : t.ageStep.jpl = s.ageStep.jpl := by
  unfold State.ageStep
  rw [h]
  split
  · exact h
  · rfl

/-- Settles O53: each expiry by its lemma above, the aging step by the record of each job. -/
theorem timersExpire : Obligations.TimersExpire := by
  refine ⟨fun s c hr => ⟨fun h => ?_, fun h => ?_, fun h => ?_, fun h hs => ?_, fun h => ?_, fun h hs => ?_, fun h => ?_,
    fun k u x j hk hu hx hj => ?_⟩, fun s hr => ?_⟩
  · exact (holdBackExpiry_exec hr).trans (congrArg _ (holdBackEnds_of_none h))
  · exact (holdBackExpiry_exec hr).trans (congrArg _ (holdBackEnds_of_running h))
  · exact (parkTimerExpiry_exec hr).trans (congrArg _ (if_pos h))
  · obtain ⟨frame, crane, last, parking, clearing⟩ := parkLapse_lapsed (s := s.take (.parkTimerExpiry c)) h hs
    exact ⟨_, parkTimerExpiry_exec hr, crane, last, fun d hd => frame.crane d (by simp [hd]),
      frame.jpl (by simp) (by simp) (by simp) (by simp), frame.swu (by simp) (by simp) (by simp), frame.flg (by simp), parking,
      clearing⟩
  · exact (backoffExpiry_exec hr).trans (congrArg _ (if_pos h))
  · obtain ⟨frame, crane, tx⟩ := backoffEnds_backedOff (s := s.take (.backoffExpiry c)) h hs
    exact ⟨_, backoffExpiry_exec hr, crane, frame .rail (by simp), tx, fun d hd => frame.crane d (by simp [hd]),
      frame.jpl (by simp) (by simp) (by simp) (by simp), frame.cmp (by simp) (by simp),
      frame.swu (by simp) (by simp) (by simp), frame.flg (by simp)⟩
  · exact (stepDeadlineExpiry_exec hr).trans (congrArg _ (deadlineEnds_of_none h))
  · obtain ⟨frame, crane, job, last, liu⟩ := deadlineEnds_runsOver (s := s.take (.stepDeadlineExpiry c)) hk
      (deadlineJob_eq hk hu hx) hj
    exact ⟨_, stepDeadlineExpiry_exec hr, crane, fun d hd => frame.crane d (by simp [hd]),
      (job _).trans (if_pos rfl), fun g hg => (job g).trans (if_neg hg), last, frame.cmp (by simp) (by simp),
      frame.ale (by simp) (by simp), frame.swu (by simp) (by simp) (by simp), frame.aic (by simp) (by simp),
      frame.flg (by simp), liu⟩
  · exact ⟨_, _, agingStep_exec hr, agingCounterTick_exec hr, fun h => ⟨ageStep_of_zero h, ageTick_of_zero h⟩,
      fun hm => ageTick_of_events (s := s.take .agingCounterTick) hm,
      fun h => ⟨ageStep_eq (s := s.take .agingStep) h, fun g =>
        (ageStep_job (s := s.take .agingStep) h g).trans (congrArg (Option.map · _) (funext Job.ageOnce_eq))⟩,
      fun h ht hc => ageTick_counts (s := s.take .agingCounterTick) ht h hc,
      fun h ht hc => (congrArg State.jpl (ageTick_steps (s := s.take .agingCounterTick) ht h hc)).trans (ageStep_jpl rfl)⟩

end Sys2Proof.Machine
end
section
/-! Jobs that leave a crane for READY, the redirect that ends with them, and the offer given back (R52, R88, R131, R135). -/

namespace Sys2Proof.Machine

variable {r s t : State} {c : CraneId} {a : AisleId} {e : End} {g h : Handle} {j k : Job}

/-! ## Records -/

theorem updJob_job_map (s : State) (h g : Handle) (f : Job → Job) :
    (s.updJob h f).job? g = if g = h then (s.job? h).map f else s.job? g := by
  cases hj : s.job? h with
  | none =>
    rw [State.updJob_of_none hj]
    split
    · next he => rw [he, hj]; rfl
    · rfl
  | some j => rw [State.updJob_job hj]; rfl

/-- A record without its partner (R42). -/
def Job.unpartnered (j : Job) : Job := { j with partner := none }

/-- A record without its promise (R87, R88). -/
def Job.unpromised (j : Job) : Job := { j with promised := none, chosen := j.keptCell }

theorem Job.returned_returned (j : Job) : j.returned.returned = j.returned := by
  unfold Job.returned Job.keptCell
  cases j.kind <;> rfl

theorem Job.returned_unpartnered (j : Job) : j.returned.unpartnered = j.returned := rfl

theorem Job.unpartnered_returned (j : Job) : j.unpartnered.returned = j.returned := rfl

/-- A record that stands, or loses its partner. -/
def PartnerAtMost (x y : Option Job) : Prop := y = x ∨ y = x.map Job.unpartnered

theorem PartnerAtMost.returned {x y : Option Job} (h : PartnerAtMost x y) : y.map Job.returned = x.map Job.returned := by
  rcases h with rfl | rfl
  · rfl
  · cases x <;> rfl

theorem PartnerAtMost.trans {x y z : Option Job} (h : PartnerAtMost x y) (k : PartnerAtMost y z) : PartnerAtMost x z := by
  rcases h with rfl | rfl
  · exact k
  · refine .inr ?_
    rcases k with rfl | rfl
    · rfl
    · cases x <;> rfl

theorem dropPartner_job (s : State) (k : Job) (g : Handle) : PartnerAtMost (s.job? g) ((s.dropPartner k).job? g) := by
  unfold State.dropPartner
  split
  · next q _ =>
    rw [updJob_job_map]
    split
    · next he => exact .inr (by rw [he]; rfl)
    · exact .inl rfl
  · exact .inl rfl

/-- The return of one job to READY. -/
theorem returnToReady_records (s : State) (c : CraneId) (h g : Handle) :
    (g = h → (s.returnToReady c h).job? g = (s.job? g).map Job.returned)
      ∧ (g ≠ h → PartnerAtMost (s.job? g) ((s.returnToReady c h).job? g)) := by
  cases hk : s.job? h with
  | none =>
    have form : s.returnToReady c h = s := by rw [State.returnToReady, hk]
    rw [form]
    exact ⟨fun he => by rw [he, hk]; rfl, fun _ => .inl rfl⟩
  | some k =>
    have same := (returnToReady_frame hk c).job? (show Part.jobs ∉ [.cells, .credit, .events] by simp) g
    have first := dropPartner_job s k g
    rw [same, State.returning, updJob_job_map]
    refine ⟨fun he => ?_, fun hne => by rw [if_neg hne]; exact first⟩
    subst he
    rw [if_pos rfl, hk]
    rw [hk] at first
    rcases first with own | own <;> rw [own] <;> rfl

/-- The return of jobs, one after the other. -/
theorem each_returnToReady_records (c : CraneId) (hs : List Handle) (s : State) (g : Handle) :
    (g ∈ hs → (s.each hs fun s h => s.returnToReady c h).job? g = (s.job? g).map Job.returned)
      ∧ (g ∉ hs → PartnerAtMost (s.job? g) ((s.each hs fun s h => s.returnToReady c h).job? g)) := by
  induction hs generalizing s with
  | nil => exact ⟨fun h => (List.not_mem_nil h).elim, fun _ => .inl rfl⟩
  | cons h hs ih =>
    obtain ⟨own, other⟩ := returnToReady_records s c h g
    obtain ⟨member, rest⟩ := ih (s.returnToReady c h)
    refine ⟨fun hg => ?_, fun hg => ?_⟩
    · show ((s.returnToReady c h).each hs fun s h => s.returnToReady c h).job? g = _
      by_cases hm : g ∈ hs
      · rw [member hm]
        by_cases he : g = h
        · rw [own he]
          cases s.job? g with
          | none => rfl
          | some j => exact congrArg some j.returned_returned
        · exact (other he).returned
      · have he : g = h := (List.mem_cons.mp hg).resolve_right hm
        rcases rest hm with same | same
        · exact same.trans (own he)
        · rw [same, own he]
          cases s.job? g <;> rfl
    · obtain ⟨hne, hm⟩ := not_or.mp (mt List.mem_cons.mpr hg)
      exact (other hne).trans (rest hm)

theorem each_returnToReady_frame (c : CraneId) (hs : List Handle) (s : State) :
    Frame [.cells, .jobs, .credit, .events] s (s.each hs fun s h => s.returnToReady c h) :=
  Frame.each hs (fun _ h k => k.returnToReady c h (by simp)) (.refl _ s)

theorem each_returnToReady_stand (c : CraneId) (hs : List Handle) (s : State) :
    EventsStand s (s.each hs fun s h => s.returnToReady c h) :=
  .each hs (fun s h => returnToReady_stand s c h) s

/-! ## The crane's point -/

/-- A crane's point reads its recorded position, its mapping and the geometry. -/
theorem cranePoint_congr {y : Crane} (hy : t.crane c = y) (hb : y.bay = (s.crane c).bay) (hl : y.level = (s.crane c).level)
    (hk : y.known = (s.crane c).known) (hm : y.mapping = (s.crane c).mapping) (hp : t.profile? = s.profile?) :
    t.cranePoint c = s.cranePoint c := by
  have ends : t.stationPoint = s.stationPoint := by
    funext b f
    simp only [State.stationPoint, parkEnd_congr hp]
  unfold State.cranePoint
  rw [hy, hb, hl, hk, hm, ends]

/-! ## The redirect -/

/-- The end of a redirect of a live job: its record, behind which no job's record changes. -/
theorem endRedirect_promised {q : Redirect} (hr : (s.crane c).redirect = some q)
    (hj : (s.redirectDropped c).job? q.job = some j) :
    (s.endRedirect c).job? = ((s.redirectDropped c).updJob q.job fun x =>
      { x with promised := none, chosen := j.keptCell }).job? := by
  have form : s.endRedirect c = ((((s.redirectDropped c).updJob q.job fun x =>
      { x with promised := none, chosen := j.keptCell }).release? j.pickCell q.job).updBound c j Credit.unbind).select
        j.aisle := by
    unfold State.redirectDropped at hj
    simp only [State.endRedirect, hr, hj]
    rfl
  have last : Frame [.cells, .credit, .events] ((s.redirectDropped c).updJob q.job fun x =>
      { x with promised := none, chosen := j.keptCell }) (s.endRedirect c) := by
    rw [form]
    exact (((Frame.refl _ _).release_q j.pickCell q.job (by simp)).updBound c j _ (by simp)).select j.aisle (by simp)
  exact funext fun g => last.job? (by simp) g

/-- The end of a redirect: the crane's record, and the promised job's (R87, R88). -/
theorem endRedirect_records (s : State) (c : CraneId) :
    (s.endRedirect c).crane c = { s.crane c with
        redirect := none, offerTimer := if (s.crane c).redirect = none then (s.crane c).offerTimer else none }
      ∧ ∀ g, (s.endRedirect c).job? g =
        (s.job? g).map fun x => if (s.crane c).redirect.map (·.job) = some g then x.unpromised else x := by
  cases hr : (s.crane c).redirect with
  | none =>
    rw [endRedirect_none hr]
    refine ⟨?_, fun g => ?_⟩
    · simp only [if_true]
      rw [← hr]
    · simp
  | some q =>
    obtain ⟨frame, other⟩ := endRedirect_some hr
    refine ⟨(frame.crane c (by simp)).trans (redirectDropped_crane s c), fun g => ?_⟩
    simp only [Option.map_some, Option.some.injEq]
    by_cases hg : q.job = g
    · subst hg
      have first : Frame [.crane c, .events] s (s.redirectDropped c) :=
        ((Frame.refl _ s).setCrane c _ (by simp)).stopOfferTimer c (by simp)
      have same := first.job? (by simp) q.job
      simp only [if_true]
      cases hj : (s.redirectDropped c).job? q.job with
      | none =>
        have form : s.endRedirect c = s.redirectDropped c := by
          unfold State.redirectDropped at hj
          simp only [State.endRedirect, hr, hj]
          rfl
        rw [form, hj, ← same, hj]
        rfl
      | some j =>
        rw [endRedirect_promised hr hj, State.updJob_job hj, if_pos rfl, ← same, hj]
        rfl
    · rw [other g hg]
      simp [hg]

theorem endRedirect_frame (s : State) (c : CraneId) :
    Frame [.crane c, .cells, .jobs, .credit, .events] s (s.endRedirect c) := (Frame.refl _ s).endRedirect c (by simp)

theorem endRedirect_stand (s : State) (c : CraneId) : EventsStand s (s.endRedirect c) :=
  (Unwinds.endRedirect (x := none) s c).stand

/-! ## The LOADED job -/

theorem loadedOn_congr (hu : (t.crane c).unit = (s.crane c).unit)
    (hj : ∀ g, (t.job? g).map (·.state) = (s.job? g).map (·.state)) : t.loadedOn c = s.loadedOn c := by
  unfold State.loadedOn
  rw [hu]
  split
  · unfold State.loadedJob
    refine congrArg (List.find? · _) (funext fun g => ?_)
    have same := hj g
    cases ht : t.job? g <;> cases hs : s.job? g <;> simp_all
  · rfl

theorem loadedOn_eq_some (h : s.loadedOn c = some g) :
    g ∈ (s.crane c).jobs ∧ (s.crane c).unit ≠ none ∧ ∃ j, s.job? g = some j ∧ j.state = .loaded := by
  unfold State.loadedOn at h
  unfold Crane.jobs
  split at h
  · next u hu =>
    rw [hu]
    have found := List.find?_some h
    split at found
    · next j hj => exact ⟨List.mem_of_find?_eq_some h, by simp, j, hj, of_decide_eq_true found⟩
    · cases found
  · cases h

theorem endRedirect_loadedOn (s : State) (c : CraneId) : (s.endRedirect c).loadedOn c = s.loadedOn c := by
  obtain ⟨crane, job⟩ := endRedirect_records s c
  refine loadedOn_congr (by rw [crane]) fun g => ?_
  rw [job, Option.map_map]
  refine congrArg (Option.map · _) (funext fun x => ?_)
  show Job.state (if _ then x.unpromised else x) = x.state
  split <;> rfl

/-! ## The unit given back -/

/-- A unit whose jobs have gone back to READY (R131, R135, R137, R145). -/
structure GivenBack (s t : State) (c : CraneId) : Prop where
  frame : Frame [.crane c, .cells, .jobs, .credit, .events] s t
  crane : t.crane c = { s.crane c with unit := none, deadline := none, offerTimer := none }
  job : ∀ g, (g ∈ (s.crane c).jobs → t.job? g = (s.job? g).map Job.returned)
    ∧ (g ∉ (s.crane c).jobs → PartnerAtMost (s.job? g) (t.job? g))
  stand : EventsStand s t

theorem giveBack_givenBack (s : State) (c : CraneId) : GivenBack s (s.giveBack c) c := by
  let m := ((s.setCrane c { s.crane c with unit := none }).stopDeadline c).stopOfferTimer c
  have start : Frame [.crane c, .events] s m :=
    (((Frame.refl _ s).setCrane c _ (by simp)).stopDeadline c (by simp)).stopOfferTimer c (by simp)
  have own : m.crane c = { s.crane c with unit := none, deadline := none, offerTimer := none } := by
    have first : (s.setCrane c { s.crane c with unit := none }).crane c = { s.crane c with unit := none } :=
      (State.setCrane_crane s c c _).trans (if_pos rfl)
    have second : ((s.setCrane c { s.crane c with unit := none }).stopDeadline c).crane c =
        { s.crane c with unit := none, deadline := none } :=
      (State.setCrane_crane _ c c _).trans ((if_pos rfl).trans (by rw [first]))
    exact (stopOfferTimer_crane c).trans ((if_pos rfl).trans (by rw [second]))
  have stood : EventsStand s m := (EventsStand.forget (s.setCrane c { s.crane c with unit := none }) rfl).trans (.forget _ rfl)
  have form : s.giveBack c = m.each (s.crane c).jobs fun s h => s.returnToReady c h := rfl
  have back := each_returnToReady_frame c (s.crane c).jobs m
  have same := start.job? (show Part.jobs ∉ [.crane c, .events] by simp)
  rw [form]
  exact {
    frame := (start.mono (by simp)).trans (back.mono (by simp))
    crane := (back.crane c (by simp)).trans own
    job := fun g => same g ▸ each_returnToReady_records c (s.crane c).jobs m g
    stand := stood.trans (each_returnToReady_stand c _ m) }

/-! ## Work broken off -/

/-- The other jobs of a stranded job's unit leave it (R54). -/
def State.leaveStranded (c : CraneId) (s : State) (q : Handle) : State :=
  match (s.crane c).unit with
  | some u => (s.setCrane c { s.crane c with unit := some (u.without q) }).returnToReady c q
  | none => s

structure StrandedLeft (s t : State) (c : CraneId) (qs : List Handle) : Prop where
  frame : Frame [.crane c, .cells, .jobs, .credit, .events] s t
  crane : ∃ u, t.crane c = { s.crane c with unit := u } ∧ u.isSome = (s.crane c).unit.isSome
  job : ∀ g, g ∉ qs → PartnerAtMost (s.job? g) (t.job? g)
  stand : EventsStand s t

theorem each_leaveStranded (c : CraneId) (qs : List Handle) (s : State) :
    StrandedLeft s (s.each qs (State.leaveStranded c)) c qs := by
  induction qs generalizing s with
  | nil => exact ⟨.refl _ s, ⟨(s.crane c).unit, rfl, rfl⟩, fun _ _ => .inl rfl, .refl s⟩
  | cons q qs ih =>
    have first : StrandedLeft s (State.leaveStranded c s q) c [q] := by
      unfold State.leaveStranded
      cases hu : (s.crane c).unit with
      | none =>
        dsimp only
        exact ⟨.refl _ s, ⟨none, by rw [← hu], by rw [hu]⟩, fun _ _ => .inl rfl, .refl s⟩
      | some u =>
        let w := s.setCrane c { s.crane c with unit := some (u.without q) }
        have back : Frame [.cells, .jobs, .credit, .events] w (w.returnToReady c q) :=
          (Frame.refl _ w).returnToReady c q (by simp)
        exact {
          frame := ((Frame.refl _ s).setCrane c _ (by simp)).trans (back.mono (by simp))
          crane := ⟨some (u.without q), (back.crane c (by simp)).trans
            ((State.setCrane_crane s c c _).trans (if_pos rfl)), by rw [hu]; rfl⟩
          job := fun g hg => (returnToReady_records w c q g).2 (by simpa using hg)
          stand := EventsStand.trans (t := w) (.of_eq rfl) (returnToReady_stand w c q) }
    have rest := ih (State.leaveStranded c s q)
    obtain ⟨u, own, some_⟩ := first.crane
    obtain ⟨u', own', some'⟩ := rest.crane
    exact {
      frame := first.frame.trans rest.frame
      crane := ⟨u', by
        show ((State.leaveStranded c s q).each qs (State.leaveStranded c)).crane c = _
        rw [own', own], by rw [some', own, some_]⟩
      job := fun g hg => by
        obtain ⟨hne, hm⟩ := not_or.mp (mt List.mem_cons.mpr hg)
        exact (first.job g (by simpa using hne)).trans (rest.job g hm)
      stand := first.stand.trans rest.stand }

theorem PartnerAtMost.some {y : Option Job} (h : PartnerAtMost (some j) y) :
    ∃ k, y = some k ∧ k.state = j.state ∧ k.stranded = j.stranded ∧ k.unit = j.unit := by
  rcases h with rfl | rfl
  · exact ⟨j, rfl, rfl, rfl, rfl⟩
  · exact ⟨_, rfl, rfl, rfl, rfl⟩

/-- A crane's work broken off by a FAULT or a restart (R54, R88, R131, R145). -/
structure WorkBroken (s t : State) (c : CraneId) : Prop where
  frame : Frame [.crane c, .cells, .jobs, .credit, .events] s t
  crane : ∃ u o, t.crane c = { s.crane c with unit := u, deadline := none, redirect := none, offerTimer := o }
    ∧ (s.loadedOn c ≠ none → u ≠ none) ∧ (s.loadedOn c = none → u = none ∧ o = none)
  loaded : ∀ h, s.loadedOn c = some h → ∃ k, t.job? h = some k ∧ k.state = .loaded ∧ k.stranded = true
  free : s.loadedOn c = none → ∀ h ∈ (s.crane c).jobs, ∀ j, s.job? h = some j →
    ∃ k, t.job? h = some k ∧ k.state = .ready ∧ k.unit = none
  stand : EventsStand s t

theorem breakWork_broken (s : State) (c : CraneId) : WorkBroken s (s.breakWork c) c := by
  obtain ⟨own, job⟩ := endRedirect_records s c
  have ended := endRedirect_frame s c
  have stood := endRedirect_stand s c
  have load := endRedirect_loadedOn s c
  unfold State.breakWork
  dsimp only
  generalize s.endRedirect c = m at *
  cases hl : m.loadedOn c with
  | none =>
    rw [hl] at load
    obtain ⟨frame, crane, back, stand⟩ := giveBack_givenBack m c
    dsimp only
    exact {
      frame := ended.trans frame
      crane := ⟨none, none, by rw [crane, own], fun h => absurd load.symm h, fun _ => ⟨rfl, rfl⟩⟩
      loaded := fun h hh => by rw [← load] at hh; cases hh
      free := fun _ h hm j hj => by
        have gone := (back h).1 (by rw [own]; exact hm)
        rw [job, hj] at gone
        exact ⟨_, gone, rfl, rfl⟩
      stand := stood.trans stand }
  | some h =>
    rw [hl] at load
    let w := (m.stopDeadline c).updJob h fun j => { j with stranded := true }
    have first : Frame [.crane c, .events] m (m.stopDeadline c) := (Frame.refl _ m).stopDeadline c (by simp)
    have second : Frame [.jobs] (m.stopDeadline c) w := (Frame.refl _ _).updJob h _ (by simp)
    have stopped : w.crane c = { m.crane c with deadline := none } :=
      (second.crane c (by simp)).trans ((State.setCrane_crane m c c _).trans (if_pos rfl))
    obtain ⟨frame, ⟨u, crane, unit⟩, rest, stand⟩ := each_leaveStranded c ((m.crane c).jobs.filter (· ≠ h)) w
    obtain ⟨-, busy, j, hj, loaded⟩ := loadedOn_eq_some hl
    have busy' : (s.crane c).unit ≠ none := by rw [own] at busy; exact busy
    show WorkBroken s (w.each ((m.crane c).jobs.filter (· ≠ h)) (State.leaveStranded c)) c
    exact {
      frame := ended.trans ((first.mono (by simp)).trans ((second.mono (by simp)).trans frame))
      crane := ⟨u, _, by rw [crane, stopped, own], fun _ hu => by
        rw [stopped, own] at unit
        simp [hu] at unit
        exact busy' unit, fun hn => by rw [← load] at hn; cases hn⟩
      loaded := fun g hg => by
        rw [← load] at hg
        cases hg
        have own' : w.job? h = some { j with stranded := true } := by
          show ((m.stopDeadline c).updJob h _).job? h = _
          rw [updJob_job_map, if_pos rfl, first.job? (by simp), hj]
          rfl
        have left := rest h (by simp)
        rw [own'] at left
        obtain ⟨k, hk, state, stranded, -⟩ := left.some
        exact ⟨k, hk, state.trans loaded, stranded⟩
      free := fun hn => by rw [← load] at hn; cases hn
      stand := (stood.trans (EventsStand.forget _ rfl)).trans
        ((EventsStand.of_eq (second .events (by simp))).trans stand) }

end Sys2Proof.Machine
end
section
/-! An offer refused or lapsed (O45). -/

namespace Sys2Proof.Machine

variable {s t : State} {c : CraneId} {a : AisleId} {e : End} {p : List Byte} {u : WorkUnit}

/-- What the strike policy does to a crane that is OFFERED (R138). -/
structure Struck (s t : State) (c : CraneId) (p : List Byte) : Prop where
  frame : Frame [.crane c, .rail, .parkOwed, .holds, .profiles, .tx (.crane c), .queue, .events] s t
  crane : ∃ x l b k, t.crane c = { s.crane c with state := x, leaveService := l, backoffTimer := b, parkTimer := k }
  below : (s.crane c).strikes < s.crt.strikeLimit → (t.crane c).state = s.afterWork c
  leaving : s.crt.strikeLimit ≤ (s.crane c).strikes → (s.crane c).leaveService = true → (t.crane c).state = .outOfService
  retired : s.crt.strikeLimit ≤ (s.crane c).strikes → (s.crane c).leaveService = false → s.crt.policy = .retire →
    (t.crane c).state = .outOfService ∧ s.craneReported .craneRetired c none p ∈ t.events
  backoff : s.crt.strikeLimit ≤ (s.crane c).strikes → (s.crane c).leaveService = false → s.crt.policy = .backoff →
    (t.crane c).state = .backoff ∧ (t.crane c).backoffTimer = some (s.now + s.crt.tBackoff)
  moves : ∀ a e, (s.crane c).mapping = some (a, e) → IntervalMoves s t a e id
    (if (s.crane c).strikes < s.crt.strikeLimit then s.parkWidened c (s.afterWork c) else id)
  stand : EventsStand s t

/-- A state that nothing diverts. -/
theorem enterState_undiverted {x : CraneState} (hx : x.leaveDiverts = false) (s : State) (c : CraneId) :
    (s.enterState c x).crane c =
      { s.crane c with state := x, leaveService := (s.crane c).leaveService && decide (x ≠ .outOfService) } := by
  have dest : (s.crane c).destination x = x := if_neg (by simp [hx])
  rw [enterState_crane, Crane.entering, dest]

theorem strikePolicy_struck (hs : (s.crane c).state = .offered) (p : List Byte) : Struck s (s.strikePolicy c p) c p := by
  have moving : (s.crane c).state ≠ .waiting := by rw [hs]; decide
  unfold State.strikePolicy
  by_cases hn : (s.crane c).strikes < s.crt.strikeLimit
  · have below : ¬ s.crt.strikeLimit ≤ (s.crane c).strikes := Nat.not_le.mpr hn
    obtain ⟨-, ⟨k, crane, -⟩, -, stand, -, moves, -, still⟩ :=
      go_gone (s := s) (c := c) (by rw [hs]; decide) (s.parkOwed c)
    rw [if_pos hn]
    exact {
      frame := still moving
      crane := ⟨_, false, _, k, crane⟩
      below := fun _ => by rw [goIdle_eq, crane]; rfl
      leaving := fun h => absurd h below
      retired := fun h => absurd h below
      backoff := fun h => absurd h below
      moves := fun a e hm => by rw [if_pos hn]; exact moves moving a e hm
      stand := stand }
  · have still := enterState_still moving
    rw [if_neg hn]
    split
    · next hl =>
      have own := enterState_undiverted (x := .outOfService) rfl s c
      exact {
        frame := (still _).mono (by simp)
        crane := ⟨_, _, _, _, own⟩
        below := fun h => absurd h hn
        leaving := fun _ _ => by rw [own]
        retired := fun _ h => by rw [hl] at h; cases h
        backoff := fun _ h => by rw [hl] at h; cases h
        moves := fun a e _ => by rw [if_neg hn]; exact .of_rail (still .outOfService .rail (by simp))
        stand := enterState_stand s c _ }
    · next hl =>
      split
      · next hp =>
        have own := enterState_undiverted (x := .outOfService) rfl s c
        have raised : Frame [.events] (s.enterState c .outOfService) ((s.enterState c .outOfService).raiseFault
            .craneRetired (.link (.crane c)) (s.craneAisle c) none p) := (Frame.refl _ _).raiseFault _ _ _ _ _ (by simp)
        exact {
          frame := ((still _).mono (by simp)).trans (raised.mono (by simp))
          crane := ⟨_, _, _, _, (raised.crane c (by simp)).trans own⟩
          below := fun h => absurd h hn
          leaving := fun _ h => absurd h hl
          retired := fun _ _ _ => ⟨by rw [raised.crane c (by simp), own], by
            rw [raiseFault_reported]
            simp⟩
          backoff := fun _ _ h => by rw [hp] at h; cases h
          moves := fun a e _ => by
            rw [if_neg hn]
            exact .of_rail ((raised .rail (by simp)).trans (still .outOfService .rail (by simp)))
          stand := (enterState_stand s c _).trans (.of_append rfl) }
      · next hp =>
        let w := s.startBackoffTimer c
        have timed : Frame [.crane c, .events] s w := (Frame.refl _ s).startBackoffTimer c (by simp)
        have timer : w.crane c = { s.crane c with backoffTimer := some (s.now + s.crt.tBackoff) } :=
          (State.setCrane_crane s c c _).trans (if_pos rfl)
        have own := enterState_undiverted (x := .backoff) rfl w c
        have still' := enterState_still (s := w) (c := c) (by rw [timer]; exact moving) .backoff
        exact {
          frame := (timed.mono (by simp)).trans (still'.mono (by simp))
          crane := ⟨_, _, _, _, own.trans (by rw [timer])⟩
          below := fun h => absurd h hn
          leaving := fun _ h => absurd h hl
          retired := fun _ _ h => by rw [hp] at h; cases h
          backoff := fun _ _ _ => ⟨by rw [own], by rw [own, timer]⟩
          moves := fun a e _ => by
            rw [if_neg hn]
            exact .of_rail ((still' .rail (by simp)).trans (timed .rail (by simp)))
          stand := (EventsStand.forget _ rfl).trans (enterState_stand w c .backoff) }

/-- The strikes a crane has behind a missed offer. -/
def Crane.struck (x : Crane) : Nat := min 7 (x.strikes + 1)

/-- An offer not taken up: its jobs go back and the interval falls, before the strike policy (R115, R135, R137). -/
structure OfferDropped (s t : State) (c : CraneId) : Prop where
  frame : Frame [.crane c, .rail, .cells, .jobs, .credit, .events] s t
  crane : t.crane c = { s.crane c with unit := none, deadline := none, offerTimer := none, strikes := (s.crane c).struck }
  job : ∀ g ∈ (s.crane c).jobs, t.job? g = (s.job? g).map Job.returned
  moves : ∀ a e, (s.crane c).mapping = some (a, e) →
    IntervalMoves s t a e (fun i => i.fallen (s.craneBay c) []) id
  stand : EventsStand s t

/-- The state the strike policy is applied to. -/
def State.offerDropped (s : State) (c : CraneId) : State :=
  let t := (s.giveBack c).fall c []
  t.setCrane c { t.crane c with strikes := saturate 7 ((t.crane c).strikes + 1) }

theorem missOffer_eq (s : State) (c : CraneId) (p : List Byte) :
    s.missOffer c p = (s.offerDropped c).strikePolicy c p := rfl

/-- Where one crane's record changes in neither mapping nor state, roles and WAITING cranes stand. -/
theorem cranes_stand {ps : List Part} (h : Frame ps s t) (hp : ∀ d, d ≠ c → Part.crane d ∉ ps)
    (hm : (t.crane c).mapping = (s.crane c).mapping) (hs : (t.crane c).state = (s.crane c).state) (d : CraneId) :
    (t.crane d).mapping = (s.crane d).mapping ∧ (t.crane d).state = (s.crane d).state := by
  by_cases hd : d = c
  · subst hd
    exact ⟨hm, hs⟩
  · rw [h.crane d (hp d hd)]
    exact ⟨rfl, rfl⟩

theorem offerDropped_dropped (s : State) (c : CraneId) : OfferDropped s (s.offerDropped c) c := by
  obtain ⟨frame, crane, job, stand⟩ := giveBack_givenBack s c
  have fell : Frame [.rail, .events] (s.giveBack c) ((s.giveBack c).fall c []) := (Frame.refl _ _).fall c [] (by simp)
  have own : ((s.giveBack c).fall c []).crane c = { s.crane c with unit := none, deadline := none, offerTimer := none } :=
    (fell.crane c (by simp)).trans crane
  have written : (s.offerDropped c).crane c = { s.crane c with
      unit := none, deadline := none, offerTimer := none, strikes := (s.crane c).struck } := by
    refine (State.setCrane_crane _ c c _).trans ((if_pos rfl).trans ?_)
    rw [own, Crane.struck, saturate, Nat.min_comm]
  have last : Frame [.crane c] ((s.giveBack c).fall c []) (s.offerDropped c) := (Frame.refl _ _).setCrane c _ (by simp)
  have bay : (s.giveBack c).craneBay c = s.craneBay c :=
    congrArg Point.bay (cranePoint_congr crane rfl rfl rfl rfl (frame.profile? (by simp)))
  exact {
    frame := (frame.mono (by simp)).trans ((fell.mono (by simp)).trans (last.mono (by simp)))
    crane := written
    job := fun g hg => by
      rw [last.job? (by simp), fell.job? (by simp)]
      exact (job g).1 hg
    moves := fun a e hm => by
      have same := cranes_stand (c := c) frame (fun d hd => by simp [hd]) (by rw [crane]) (by rw [crane])
      have moves := fall_moves (s := s.giveBack c) (by rw [crane]; exact hm) []
      rw [bay] at moves
      exact (moves.earlier (frame .rail (by simp)) (fun d => (same d).1) fun d => (same d).2.trans).later
        (last .rail (by simp)) (.of_eq (last .events (by simp)))
    stand := (stand.trans (fall_stand _ c [])).trans (.of_eq (last .events (by simp))) }

/-- An offer missed (R115, R135, R137, R138). -/
structure OfferMissed (s t : State) (c : CraneId) (p : List Byte) : Prop where
  frame : Frame [.crane c, .rail, .parkOwed, .holds, .profiles, .tx (.crane c), .cells, .jobs, .credit, .queue, .events] s t
  crane : ∃ x l b k, t.crane c = { s.crane c with
    unit := none, deadline := none, offerTimer := none, strikes := (s.crane c).struck
    state := x, leaveService := l, backoffTimer := b, parkTimer := k }
  below : (s.crane c).struck < s.crt.strikeLimit → (t.crane c).state = s.afterWork c
  leaving : s.crt.strikeLimit ≤ (s.crane c).struck → (s.crane c).leaveService = true → (t.crane c).state = .outOfService
  retired : s.crt.strikeLimit ≤ (s.crane c).struck → (s.crane c).leaveService = false → s.crt.policy = .retire →
    (t.crane c).state = .outOfService ∧ s.craneReported .craneRetired c none p ∈ t.events
  backoff : s.crt.strikeLimit ≤ (s.crane c).struck → (s.crane c).leaveService = false → s.crt.policy = .backoff →
    (t.crane c).state = .backoff ∧ (t.crane c).backoffTimer = some (s.now + s.crt.tBackoff)
  job : ∀ g ∈ (s.crane c).jobs, t.job? g = (s.job? g).map Job.returned
  moves : ∀ a e, (s.crane c).mapping = some (a, e) → IntervalMoves s t a e (fun i => i.fallen (s.craneBay c) [])
    (if (s.crane c).struck < s.crt.strikeLimit then s.parkWidened c (s.afterWork c) else id)
  stand : EventsStand s t

theorem parkWidened_congr (hm : (t.crane c).mapping = (s.crane c).mapping) (hp : t.profile? = s.profile?) (x : CraneState) :
    t.parkWidened c x = s.parkWidened c x := by
  funext i
  unfold State.parkWidened
  rw [hm, parkEnd_congr hp]

theorem missOffer_missed (hs : (s.crane c).state = .offered) (p : List Byte) : OfferMissed s (s.missOffer c p) c p := by
  have dropped := offerDropped_dropped s c
  have own := dropped.crane
  rw [missOffer_eq]
  generalize s.offerDropped c = m at *
  have struck := strikePolicy_struck (s := m) (c := c) (by rw [own]; exact hs) p
  obtain ⟨x, l, b, k, crane⟩ := struck.crane
  have rest := dropped.frame .rest (by simp)
  obtain ⟨-, now, -, -, -, -, crt, -⟩ := rest
  have limit : m.crt.strikeLimit = s.crt.strikeLimit := by rw [crt]
  have policy : m.crt.policy = s.crt.policy := by rw [crt]
  have timer : m.crt.tBackoff = s.crt.tBackoff := by rw [crt]
  have strikes : (m.crane c).strikes = (s.crane c).struck := by rw [own]
  have leave : (m.crane c).leaveService = (s.crane c).leaveService := by rw [own]
  have after : m.afterWork c = s.afterWork c := by
    have owed : m.parkOwed c = s.parkOwed c := by
      have same : m.aic.parkOwed = s.aic.parkOwed := dropped.frame .parkOwed (by simp)
      simp only [State.parkOwed, same]
    simp only [State.afterWork, leave, owed]
  have reported := craneReported_congr (s := s) (t := m) (c := c) (by rw [own])
  have widened := parkWidened_congr (s := s) (t := m) (c := c) (by rw [own]) (dropped.frame.profile? (by simp))
  obtain ⟨frame, -, below, leaving, retired, backoff, moves, stand⟩ := struck
  rw [strikes, limit] at below leaving retired backoff
  rw [leave] at leaving retired backoff
  rw [policy] at retired backoff
  exact {
    frame := (dropped.frame.mono (by simp)).trans (frame.mono (by simp))
    crane := ⟨x, l, b, k, by rw [crane, own]⟩
    below := fun h => (below h).trans after
    leaving := leaving
    retired := fun h hl hp => by rw [← reported]; exact retired h hl hp
    backoff := fun h hl hp => by rw [← now, ← timer]; exact backoff h hl hp
    job := fun g hg => (frame.job? (by simp) g).trans (dropped.job g hg)
    moves := fun a e hm => by
      have same := cranes_stand (c := c) dropped.frame (fun d hd => by simp [hd]) (by rw [own]) (by rw [own])
      have last := moves a e (by rw [own]; exact hm)
      rw [strikes, limit, after, widened] at last
      exact (dropped.moves a e hm).comp last (fun d => (same d).1) (fun d _ => (same d).2.trans) stand
    stand := dropped.stand.trans stand }

/-! ## REFUSE and the lapse -/

theorem Crane.isOffered_of_unit {x : Crane} (hs : x.state = .offered) (hu : x.unit = some u) :
    x.isOffered u.number = true := by
  simp [Crane.isOffered, hs, hu]

theorem refuse_exec {n r : Byte} (h : Announced s c) (hr : r.toNat < 16) : exec (.refuse c [n, r]) s =
    .next ((s.take (.refuse c [n, r])).refuseOffer c n r.toNat [n, r]) := by
  show Host.Outcome.next (s.craneMessage _ _ _ _ _ _ _) = _
  rw [State.craneMessage_read h _ _ _ _ _ _ (x := (n, r.toNat)) (by simp [readRefusal, hr])]

theorem offerTimerExpiry_exec (h : s.liu.restarting = none) :
    exec (.offerTimerExpiry c) s = .next ((s.take (.offerTimerExpiry c)).offerLapse c) := by
  show Host.Outcome.next (s.expiry _ _) = _
  rw [State.expiry_taken h]

/-- What a missed offer shows, whether it was refused or has lapsed. -/
theorem OfferMissed.shows {r : State} {x : Option Nat} (h : OfferMissed r t c p) (hu : (s.crane c).unit = some u)
    (hf : Frame [.crane c, .events] s r) (hc : r.crane c = { s.crane c with lastRefusal := x }) :
    (t.crane c).unit = none ∧ (t.crane c).offerTimer = none ∧ (t.crane c).strikes = min 7 ((s.crane c).strikes + 1)
      ∧ (t.crane c).unitCounter = (s.crane c).unitCounter ∧ (t.crane c).lastRefusal = x
      ∧ (min 7 ((s.crane c).strikes + 1) < s.crt.strikeLimit → (t.crane c).state = s.afterWork c)
      ∧ (s.crt.strikeLimit ≤ min 7 ((s.crane c).strikes + 1) → (s.crane c).leaveService = true →
          (t.crane c).state = .outOfService)
      ∧ (s.crt.strikeLimit ≤ min 7 ((s.crane c).strikes + 1) → (s.crane c).leaveService = false → s.crt.policy = .retire →
          (t.crane c).state = .outOfService ∧ s.craneReported .craneRetired c none p ∈ t.events)
      ∧ (s.crt.strikeLimit ≤ min 7 ((s.crane c).strikes + 1) → (s.crane c).leaveService = false → s.crt.policy = .backoff →
          (t.crane c).state = .backoff ∧ (t.crane c).backoffTimer = some (s.now + s.crt.tBackoff))
      ∧ (∀ h ∈ u.jobs, ∀ j, s.job? h = some j →
          ∃ k, t.job? h = some k ∧ k.state = .ready ∧ k.unit = none ∧ k.partner = none ∧ k.age = j.age)
      ∧ (∀ a e, (s.crane c).mapping = some (a, e) → IntervalMoves s t a e (fun i => i.fallen (s.craneBay c) [])
          (if min 7 ((s.crane c).strikes + 1) < s.crt.strikeLimit then s.parkWidened c (s.afterWork c) else id))
      ∧ (∀ d, d ≠ c → t.crane d = s.crane d) ∧ t.flg = s.flg ∧ t.swu.inputs = s.swu.inputs := by
  obtain ⟨frame, ⟨y, l, b, k, crane⟩, below, leaving, retired, backoff, job, moves, -⟩ := h
  obtain ⟨-, now, -, -, -, -, crt, -⟩ := hf .rest (by simp)
  have limit : r.crt.strikeLimit = s.crt.strikeLimit := by rw [crt]
  have policy : r.crt.policy = s.crt.policy := by rw [crt]
  have timer : r.crt.tBackoff = s.crt.tBackoff := by rw [crt]
  have strikes : (r.crane c).struck = min 7 ((s.crane c).strikes + 1) := by rw [hc]; rfl
  have leave : (r.crane c).leaveService = (s.crane c).leaveService := by rw [hc]
  have jobs : (r.crane c).jobs = u.jobs := by rw [hc]; simp [Crane.jobs, hu]
  have after : r.afterWork c = s.afterWork c := by
    have owed : r.parkOwed c = s.parkOwed c := by
      have same : r.aic.parkOwed = s.aic.parkOwed := hf .parkOwed (by simp)
      simp only [State.parkOwed, same]
    simp only [State.afterWork, leave, owed]
  have bay : r.craneBay c = s.craneBay c :=
    congrArg Point.bay (cranePoint_congr hc rfl rfl rfl rfl (hf.profile? (by simp)))
  rw [strikes, limit, after] at below
  rw [strikes, limit, leave] at leaving retired backoff
  rw [policy, craneReported_congr (s := s) (by rw [hc])] at retired
  rw [policy, now, timer] at backoff
  rw [jobs] at job
  refine ⟨by rw [crane], by rw [crane], by rw [crane, strikes], by rw [crane, hc], by rw [crane, hc], below, leaving, retired,
    backoff, fun g hg j hj => ⟨j.returned, ?_, rfl, rfl, rfl, rfl⟩, fun a e hm => ?_, fun d hd => ?_, ?_, ?_⟩
  · rw [job g hg, hf.job? (by simp), hj]
    rfl
  · have same := cranes_stand (c := c) hf (fun d hd => by simp [hd]) (by rw [hc]) (by rw [hc])
    have moved := moves a e (by rw [hc]; exact hm)
    rw [strikes, limit, after, bay, parkWidened_congr (s := s) (by rw [hc]) (hf.profile? (by simp))] at moved
    exact moved.earlier (hf .rail (by simp)) (fun d => (same d).1) fun d => (same d).2.trans
  · rw [frame.crane d (by simp [hd]), hf.crane d (by simp [hd])]
  · rw [frame.flg (by simp), hf.flg (by simp)]
  · rw [frame .input (by simp), hf .input (by simp)]

/-- Settles O45: both events come to a missed offer, behind a recorded refusal or the running timer. -/
theorem missedOffersAreStruck : Obligations.MissedOffersAreStruck := by
  intro s c u r i announced hs hu hr hi
  rcases hi with rfl | ⟨rfl, running⟩
  · let m := (s.take (.refuse c [u.number, r])).setCrane c { s.crane c with lastRefusal := some r.toNat }
    have own : m.crane c = { s.crane c with lastRefusal := some r.toNat } :=
      (State.setCrane_crane _ c c _).trans (if_pos rfl)
    have frame : Frame [.crane c, .events] s m := ((Frame.refl _ s).take _ (by simp)).setCrane c _ (by simp)
    have form : (s.take (.refuse c [u.number, r])).refuseOffer c u.number r.toNat [u.number, r] =
        m.missOffer c [u.number, r] := by
      have offered := Crane.isOffered_of_unit (x := m.crane c) (u := u) (by rw [own]; exact hs) (by rw [own]; exact hu)
      exact if_pos offered
    have missed := missOffer_missed (s := m) (c := c) (by rw [own]; exact hs) [u.number, r]
    obtain ⟨unit, timer, strikes, counter, reason, below, leaving, retired, backoff, rest⟩ := missed.shows hu frame own
    refine ⟨_, _, refuse_exec announced hr, rfl, ?_⟩
    rw [form]
    exact ⟨unit, timer, strikes, counter, fun _ => reason, nofun, below, leaving, by simpa using retired, backoff, rest⟩
  · let m := s.take (.offerTimerExpiry c)
    have frame : Frame [.crane c, .events] s m := (Frame.refl _ s).take _ (by simp)
    have form : m.offerLapse c = m.missOffer c [] := (if_neg running).trans (if_pos hs)
    have missed := missOffer_missed (s := m) (c := c) hs []
    obtain ⟨unit, timer, strikes, counter, reason, below, leaving, retired, backoff, rest⟩ :=
      missed.shows (s := s) (x := (s.crane c).lastRefusal) hu frame rfl
    obtain ⟨hears, -⟩ := announced
    refine ⟨_, _, offerTimerExpiry_exec hears, rfl, ?_⟩
    rw [form]
    exact ⟨unit, timer, strikes, counter, nofun, fun _ => reason, below, leaving, by simpa using retired, backoff, rest⟩

end Sys2Proof.Machine
end
section
/-! FAULT and RECOVERED (O48). -/

namespace Sys2Proof.Machine

variable {r s t : State} {c : CraneId} {a : AisleId} {e : End} {p : List Byte} {u : WorkUnit} {h : Handle}

/-! ## A clear given up -/

theorem abandonClear_stand (s : State) (c : CraneId) : EventsStand s (s.abandonClear c) := by
  have first : EventsStand s ((s.stopParkTimer c).updOwn c fun r => { r with clear := none }) :=
    (EventsStand.forget (s.setCrane c _) rfl).trans (.of_eq (updOwn_events _ c _))
  unfold State.abandonClear
  dsimp only
  split
  · exact first.trans (endClaim_stand _ _ _)
  · exact first

theorem abandonClear_interval (s : State) (c : CraneId) : IntervalIs s (s.abandonClear c) c id := by
  have own := abandonClear_crane s c
  cases hm : (s.crane c).mapping with
  | none => exact .of_unmapped hm (by rw [own]; exact hm)
  | some m =>
    obtain ⟨a, e⟩ := m
    unfold IntervalIs
    rw [entry_mapped hm, entry_mapped (s := s.abandonClear c) (by rw [own]; exact hm), abandonClear_rail hm, if_pos rfl]
    cases s.rail a with
    | none => rfl
    | some r => cases e <;> rfl

theorem abandonClear_clear (s : State) (c : CraneId) {r : RailEntry} (hr : (s.abandonClear c).entry c = some r) :
    r.clear = none := by
  have own := abandonClear_crane s c
  cases hm : (s.crane c).mapping with
  | none =>
    have none : (s.abandonClear c).entry c = none := by
      simp only [State.entry, own, hm]
    rw [none] at hr
    cases hr
  | some m =>
    obtain ⟨a, e⟩ := m
    rw [entry_mapped (s := s.abandonClear c) (by rw [own]; exact hm), abandonClear_rail hm, if_pos rfl] at hr
    cases hs : s.rail a with
    | none =>
      rw [hs] at hr
      cases hr
    | some x =>
      rw [hs] at hr
      cases hr
      cases e <;> rfl

/-! ## What a FAULT ends -/

/-- What a FAULT or a restart leaves of a crane before its state changes: its record but its work and its timers. -/
structure Treated (s t : State) (c : CraneId) : Prop where
  frame : Frame [.crane c, .rail, .cells, .jobs, .credit, .events] s t
  mapping : (t.crane c).mapping = (s.crane c).mapping
  state : (t.crane c).state = (s.crane c).state
  fault : (t.crane c).lastFault = (s.crane c).lastFault
  place : (t.crane c).bay = (s.crane c).bay ∧ (t.crane c).level = (s.crane c).level ∧ (t.crane c).known = (s.crane c).known
  interval : IntervalIs s t c id
  stand : EventsStand s t

theorem Treated.of_crane {y : Crane} (hf : Frame [.crane c, .events] s t) (hc : t.crane c = y)
    (hm : y.mapping = (s.crane c).mapping) (hs : y.state = (s.crane c).state) (hl : y.lastFault = (s.crane c).lastFault)
    (hp : y.bay = (s.crane c).bay ∧ y.level = (s.crane c).level ∧ y.known = (s.crane c).known) (he : EventsStand s t) :
    Treated s t c where
  frame := hf.mono (by simp)
  mapping := by rw [hc, hm]
  state := by rw [hc, hs]
  fault := by rw [hc, hl]
  place := by rw [hc]; exact hp
  interval := .of_rail (by rw [hc, hm]) fun b => hf.rail (by simp) b
  stand := he

theorem Treated.refl (s : State) (c : CraneId) : Treated s s c :=
  .of_crane (.refl _ s) rfl rfl rfl rfl ⟨rfl, rfl, rfl⟩ (.refl s)

theorem breakWork_treated (s : State) (c : CraneId) : Treated s (s.breakWork c) c := by
  obtain ⟨frame, ⟨u, o, crane, -⟩, -, -, stand⟩ := breakWork_broken s c
  exact {
    frame := frame.mono (by simp)
    mapping := by rw [crane]
    state := by rw [crane]
    fault := by rw [crane]
    place := by rw [crane]; exact ⟨rfl, rfl, rfl⟩
    interval := .of_rail (by rw [crane]) fun b => frame.rail (by simp) b
    stand := stand }

theorem abandonClear_treated (s : State) (c : CraneId) : Treated s (s.abandonClear c) c := by
  have own := abandonClear_crane s c
  have frame : Frame [.crane c, .rail, .events] s (s.abandonClear c) := (Frame.refl _ s).abandonClear c (by simp)
  exact {
    frame := frame.mono (by simp)
    mapping := by rw [own]
    state := by rw [own]
    fault := by rw [own]
    place := by rw [own]; exact ⟨rfl, rfl, rfl⟩
    interval := abandonClear_interval s c
    stand := abandonClear_stand s c }

theorem stopParkTimer_treated (s : State) (c : CraneId) : Treated s (s.stopParkTimer c) c :=
  .of_crane ((Frame.refl _ s).stopParkTimer c (by simp)) (stopParkTimer_crane s c) rfl rfl rfl ⟨rfl, rfl, rfl⟩
    (EventsStand.forget (s.setCrane c _) rfl)

theorem leaveBackoff_treated (hs : (s.crane c).state = .backoff) : Treated s (s.leaveBackoff c) c :=
  .of_crane ((Frame.refl _ s).leaveBackoff c (by simp)) (leaveBackoff_crane hs) rfl rfl rfl ⟨rfl, rfl, rfl⟩
    (Unwinds.leaveBackoff (x := none) s c).stand

theorem faultTreats_treated (s : State) (c : CraneId) : Treated s (s.faultTreats c) c := by
  unfold State.faultTreats
  split
  case h_1 | h_2 => exact breakWork_treated s c
  case h_3 => exact abandonClear_treated s c
  case h_4 => exact stopParkTimer_treated s c
  case h_5 h => exact leaveBackoff_treated h
  case h_6 =>
    exact .of_crane ((Frame.refl _ s).setCrane c _ (by simp)) ((State.setCrane_crane s c c _).trans (if_pos rfl)) rfl rfl
      rfl ⟨rfl, rfl, rfl⟩ (.of_eq rfl)
  all_goals exact .refl s c

theorem faultTreats_working (hs : (s.crane c).state ∈ [CraneState.offered, .working]) :
    s.faultTreats c = s.breakWork c := by
  unfold State.faultTreats
  rcases List.mem_cons.mp hs with h | h
  · rw [h]
  · rw [List.mem_singleton.mp h]

theorem faultTreats_clearing (hs : (s.crane c).state = .clearing) : s.faultTreats c = s.abandonClear c := by
  rw [State.faultTreats, hs]

theorem faultTreats_parking (hs : (s.crane c).state = .parking) : s.faultTreats c = s.stopParkTimer c := by
  rw [State.faultTreats, hs]

theorem faultTreats_backoff (hs : (s.crane c).state = .backoff) : s.faultTreats c = s.leaveBackoff c := by
  rw [State.faultTreats, hs]

theorem faultTreats_outOfService (hs : (s.crane c).state = .outOfService) :
    s.faultTreats c = s.setCrane c { s.crane c with leaveService := true } := by
  rw [State.faultTreats, hs]

/-- A crane without work keeps its unit, and the pool stands. -/
theorem faultTreats_idle (hs : (s.crane c).state ∉ [CraneState.offered, .working]) :
    (s.faultTreats c).jpl = s.jpl ∧ ((s.faultTreats c).crane c).unit = (s.crane c).unit := by
  unfold State.faultTreats
  split
  case h_1 h | h_2 h => exact absurd (by simp [h]) hs
  case h_3 =>
    have frame : Frame [.crane c, .rail, .events] s (s.abandonClear c) := (Frame.refl _ s).abandonClear c (by simp)
    exact ⟨frame.jpl (by simp) (by simp) (by simp) (by simp), by rw [abandonClear_crane]⟩
  case h_4 => exact ⟨rfl, by rw [stopParkTimer_crane]⟩
  case h_5 h =>
    have frame : Frame [.crane c, .events] s (s.leaveBackoff c) := (Frame.refl _ s).leaveBackoff c (by simp)
    exact ⟨frame.jpl (by simp) (by simp) (by simp) (by simp), by rw [leaveBackoff_crane h]⟩
  case h_6 => exact ⟨rfl, by rw [State.setCrane_crane, if_pos rfl]⟩
  all_goals exact ⟨rfl, rfl⟩

/-! ## FAULT -/

theorem fault_exec {n : Byte} (h : Announced s c) :
    exec (.fault c [n]) s = .next ((s.take (.fault c [n])).craneFault c n.toNat [n]) := by
  show Host.Outcome.next (s.craneMessage _ _ _ _ _ _ _) = _
  rw [State.craneMessage_read h _ _ _ _ _ _ (x := n) rfl]

/-- The state in which a FAULT is recorded and reported. -/
def State.faultReported (s : State) (c : CraneId) (n : Nat) (p : List Byte) : State :=
  let s := s.setCrane c { s.crane c with lastFault := some n }
  s.raiseFault .craneFault (.link (.crane c)) (s.craneAisle c) (s.loadedOn c) p

theorem craneFault_eq (s : State) (c : CraneId) (n : Nat) (p : List Byte) :
    s.craneFault c n p = ((s.faultReported c n p).faultTreats c).enterState c .faulted := rfl

structure FaultReported (s t : State) (c : CraneId) (n : Nat) (p : List Byte) : Prop where
  frame : Frame [.crane c, .events] s t
  crane : t.crane c = { s.crane c with lastFault := some n }
  report : s.craneReported .craneFault c (s.loadedOn c) p ∈ t.events
  loaded : t.loadedOn c = s.loadedOn c

theorem faultReported_reported (s : State) (i : Instr) (c : CraneId) (n : Nat) (p : List Byte) :
    FaultReported s ((s.take i).faultReported c n p) c n p := by
  let w := (s.take i).setCrane c { s.crane c with lastFault := some n }
  have own : w.crane c = { s.crane c with lastFault := some n } := (State.setCrane_crane _ c c _).trans (if_pos rfl)
  have load : w.loadedOn c = s.loadedOn c := loadedOn_congr (by rw [own]) fun _ => rfl
  have form : (s.take i).faultReported c n p =
      w.raiseFault .craneFault (.link (.crane c)) (w.craneAisle c) (w.loadedOn c) p := rfl
  have report := raiseFault_reported w w .craneFault c (w.loadedOn c) p
  have raised : Frame [.events] w ((s.take i).faultReported c n p) := by
    rw [form]
    exact (Frame.refl _ w).raiseFault _ _ _ _ _ (by simp)
  exact {
    frame := (((Frame.refl _ s).take i (by simp)).setCrane c _ (by simp)).trans (raised.mono (by simp))
    crane := (raised.crane c (by simp)).trans own
    report := by
      rw [form, report, load, craneReported_congr (s := s) (by rw [own])]
      simp
    loaded := (loadedOn_congr (by rw [raised.crane c (by simp)]) fun g => by rw [raised.job? (by simp)]).trans load }

/-- The first half of O48. -/
theorem fault_faults (s : State) (c : CraneId) (n : Byte) (announced : Announced s c) :
    ∃ t, exec (.fault c [n]) s = .next t
      ∧ (t.crane c).state = .faulted ∧ (t.crane c).lastFault = some n.toNat
      ∧ s.craneReported .craneFault c (s.loadedOn c) [n] ∈ t.events
      ∧ (∀ d, d ≠ c → t.crane d = s.crane d) ∧ t.tx (.crane c) = s.tx (.crane c) ∧ t.flg = s.flg
      ∧ ((s.crane c).state ∈ [CraneState.clearing, .parking] → (t.crane c).parkTimer = none)
      ∧ ((s.crane c).state = .clearing → ∀ r, t.entry c = some r → r.clear = none) ∧ IntervalIs s t c id
      ∧ ((s.crane c).state = .outOfService → (t.crane c).leaveService = true)
      ∧ ((s.crane c).state = .backoff → (t.crane c).backoffTimer = none ∧ (t.crane c).strikes = 0)
      ∧ ((s.crane c).state ∈ [CraneState.offered, .working] →
          (t.crane c).deadline = none ∧ (t.crane c).redirect = none
          ∧ (∀ h, s.loadedOn c = some h → ∃ k, t.job? h = some k ∧ k.state = .loaded ∧ k.stranded = true)
          ∧ (s.loadedOn c = none → (t.crane c).unit = none ∧ ∀ h ∈ (s.crane c).jobs, ∀ j, s.job? h = some j →
              ∃ k, t.job? h = some k ∧ k.state = .ready ∧ k.unit = none))
      ∧ ((s.crane c).state ∉ [CraneState.offered, .working] →
          t.jpl = s.jpl ∧ (t.crane c).unit = (s.crane c).unit) := by
  obtain ⟨first, crane, report, load⟩ := faultReported_reported s (.fault c [n]) c n.toNat [n]
  have run := fault_exec (n := n) announced
  rw [craneFault_eq] at run
  generalize (s.take (.fault c [n])).faultReported c n.toNat [n] = m at *
  have treated := faultTreats_treated m c
  have state : (m.crane c).state = (s.crane c).state := by rw [crane]
  have own := enterState_undiverted (x := .faulted) rfl (m.faultTreats c) c
  have entered := enterState_frame (m.faultTreats c) c .faulted
  have stood := enterState_stand (m.faultTreats c) c .faulted
  have still : (s.crane c).state ≠ .waiting →
      ((m.faultTreats c).enterState c .faulted).crt.rail = (m.faultTreats c).crt.rail := fun hs =>
    enterState_still (by rw [treated.state, state]; exact hs) .faulted .rail (by simp)
  have mapped : (((m.faultTreats c).enterState c .faulted).crane c).mapping = ((m.faultTreats c).crane c).mapping := by
    rw [own]
  have interval := enterState_interval (m.faultTreats c) c .faulted
  refine ⟨_, run, by rw [own], ?_, ?_, fun d hd => ?_, ?_, ?_, fun hs => ?_, fun hs r hr => ?_, ?_, fun hs => ?_, fun hs => ?_,
    fun hs => ?_, fun hs => ?_⟩
  · rw [own]
    exact treated.fault.trans (by rw [crane])
  · exact (treated.stand.trans stood) _ report rfl
  · rw [entered.crane d (by simp [hd]), treated.frame.crane d (by simp [hd]), first.crane d (by simp [hd])]
  · rw [entered.tx _ (by simp), treated.frame.tx _ (by simp), first.tx _ (by simp)]
  · rw [entered.flg (by simp), treated.frame.flg (by simp), first.flg (by simp)]
  · rw [own]
    rcases List.mem_cons.mp hs with h | h
    · rw [faultTreats_clearing (state.trans h), abandonClear_crane]
    · rw [faultTreats_parking (state.trans (List.mem_singleton.mp h)), stopParkTimer_crane]
  · have same : ((m.faultTreats c).enterState c .faulted).entry c = (m.abandonClear c).entry c := by
      have rails : ∀ b, ((m.faultTreats c).enterState c .faulted).rail b = (m.faultTreats c).rail b := fun b => by
        simp only [State.rail, still (by rw [hs]; decide)]
      rw [faultTreats_clearing (state.trans hs)] at mapped rails ⊢
      simp only [State.entry, mapped, rails]
    rw [same] at hr
    exact abandonClear_clear m c hr
  · have start : IntervalIs s m c id := .of_rail (by rw [crane]) fun b => first.rail (by simp) b
    exact (start.trans treated.interval).trans interval
  · rw [own, faultTreats_outOfService (state.trans hs), State.setCrane_crane, if_pos rfl]
    rfl
  · rw [own, faultTreats_backoff (state.trans hs), leaveBackoff_crane (state.trans hs)]
    exact ⟨rfl, rfl⟩
  · obtain ⟨-, ⟨u, o, broken, -, free⟩, loaded, back, -⟩ := breakWork_broken m c
    rw [faultTreats_working (state ▸ hs)] at own entered ⊢
    rw [own, broken]
    refine ⟨rfl, rfl, fun h hh => ?_, fun hn => ⟨(free (load.trans hn)).1, fun h hh j hj => ?_⟩⟩
    · rw [entered.job? (by simp)]
      exact loaded h (load.trans hh)
    · rw [entered.job? (by simp)]
      exact back (load.trans hn) h (by rw [crane]; exact hh) j (by rw [first.job? (by simp)]; exact hj)
  · obtain ⟨jpl, unit⟩ := faultTreats_idle (s := m) (c := c) (by rw [state]; exact hs)
    refine ⟨?_, ?_⟩
    · rw [entered.jpl (by simp) (by simp) (by simp) (by simp), jpl, first.jpl (by simp) (by simp) (by simp) (by simp)]
    · rw [own]
      exact unit.trans (by rw [crane])

/-! ## RECOVERED -/

theorem recovered_exec (h : Announced s c) :
    exec (.recovered c []) s = .next ((s.take (.recovered c [])).recovered c []) := by
  show Host.Outcome.next (s.craneMessage _ _ _ _ _ _ _) = _
  rw [State.craneMessage_read h _ _ _ _ _ _ (x := ()) rfl]

theorem stepBays_congr (h : t.profile? = s.profile?) (xs : List Step) : t.stepBays xs = s.stepBays xs := by
  simp only [State.stepBays, placePoint_congr h]

theorem hold_congr {ps : List Part} (h : Frame ps s t) (hp : Part.holds ∉ ps) (b : AisleId) : t.hold b = s.hold b := by
  have same : t.aic.holds = s.aic.holds := h .holds hp
  simp only [State.hold, same]

theorem aisleStopped_congr {ps : List Part} (h : Frame ps s t) (hp : Part.holds ∉ ps)
    (hm : (t.crane c).mapping = (s.crane c).mapping) : t.aisleStopped c = s.aisleStopped c := by
  unfold State.aisleStopped State.craneAisle
  rw [hm]
  split
  · rw [hold_congr h hp]
  · rfl

/-- A RECOVERED without a LOADED job (R119, R146). -/
structure RecoveredFree (s t : State) (c : CraneId) (a : AisleId) (e : End) : Prop where
  frame : Frame [.crane c, .rail, .holdBack, .parkOwed, .holds, .tx (.crane c), .queue, .events] s t
  state : (t.crane c).state = s.afterReturn c
  tx : t.tx (.crane c) = s.tx (.crane c) ++ if s.afterReturn c = .parking then [.park] else []
  moves : IntervalMoves s t a e (fun i => i.fallen (s.craneBay c) []) (s.parkWidened c (s.afterReturn c))

theorem recovered_free (hm : (s.crane c).mapping = some (a, e)) (hs : (s.crane c).state = .faulted) :
    RecoveredFree s ((s.fall c []).goIdleOrPark c) c a e := by
  have fell : Frame [.rail, .events] s (s.fall c []) := (Frame.refl _ s).fall c [] (by simp)
  have moved := fall_moves (s := s) hm []
  have crane : (s.fall c []).crane = s.crane := funext fun d => fell.crane d (by simp)
  have mapped : ((s.fall c []).crane c).mapping = some (a, e) := crane ▸ hm
  have stopped : (s.fall c []).aisleStopped c = s.aisleStopped c := aisleStopped_congr fell (by simp) (by rw [crane])
  have after : (s.fall c []).afterReturn c = s.afterReturn c := by
    simp only [State.afterReturn, stopped, crane]
  have widened := parkWidened_congr (s := s) (t := s.fall c []) (c := c) (by rw [crane]) (fell.profile? (by simp))
  rw [goIdleOrPark_eq]
  obtain ⟨-, ⟨p, own, -⟩, sent, stand, -, moves, calm, -⟩ :=
    go_gone (s := s.fall c []) (c := c) (by rw [crane, hs]; decide) ((s.fall c []).aisleStopped c)
  rw [goesTo_aisleStopped, after] at own sent moves
  have goes := moves (by rw [crane, hs]; decide) a e mapped
  rw [widened] at goes
  exact {
    frame := (fell.mono (by simp)).trans ((calm (by rw [crane, hs]; rfl)).mono (by simp))
    state := by rw [own]
    tx := by rw [sent, fell.tx _ (by simp)]
    moves := moved.comp goes (fun d => by rw [crane]) (fun d _ h => by rw [crane]; exact h) stand }

/-- The test of an aisle's hold leaves it stopped or not (R174). -/
theorem testHold_stopped (s : State) (a b : AisleId) :
    ((s.testHold a).hold b).state ∈ [HoldState.draining, .held] ↔ (s.hold b).state ∈ [HoldState.draining, .held] := by
  by_cases hs : (s.hold a).state = .draining ∨ (s.hold a).state = .held
  · obtain ⟨others, -, own⟩ := testHold_hold hs
    by_cases hb : b = a
    · subst hb
      rw [own]
      split <;> simpa using hs
    · rw [others b hb]
  · have stays : s.testHold a = s := by
      unfold State.testHold
      split
      · next h => exact absurd (.inl h) hs
      · next h => exact absurd (.inr h) hs
      all_goals rfl
    rw [stays]

theorem aisleStopped_iff (hm : (s.crane c).mapping = some (a, e)) :
    s.aisleStopped c = true ↔ (s.hold a).state ∈ [HoldState.draining, .held] := by
  simp [State.aisleStopped, State.craneAisle, hm]

/-- A mapped crane that enters a state stands in a stopped aisle as before. -/
theorem enterState_stopped (hm : (s.crane c).mapping = some (a, e)) (target : CraneState) :
    ((s.enterState c target).hold a).state ∈ [HoldState.draining, .held] ↔
      (s.hold a).state ∈ [HoldState.draining, .held] := by
  let m := s.entering c target
  rw [enterState_mapped hm]
  show ((m.settled a _ _).hold a).state ∈ _ ↔ _
  unfold State.settled
  have tested : ∀ (p q : Prop) [Decidable p] [Decidable q],
      Frame [.profiles, .queue, .events] m
        (if q then (if p then m.testPending a else m).select a else if p then m.testPending a else m) := fun p q _ _ =>
    have first : Frame [.profiles, .queue, .events] m (if p then m.testPending a else m) :=
      ((Frame.refl _ m).testPending a (by simp)).ite (.refl _ m)
    (first.select a (by simp)).ite first
  dsimp only
  rw [testHold_stopped, hold_congr (tested _ _) (by simp), hold_congr (entering_parts s c target) (by simp)]

/-- The state in which a RECOVERED crane has its LOADED job again, before its deadline starts. -/
def State.worksAgain (s : State) (c : CraneId) (h : Handle) : State :=
  let again := s.dropUnreserved c
  let s := s.updJob h fun j => { j with stranded := again }
  let s := s.fall c (s.stepBays (s.crane c).remaining)
  let s := s.enterState c .working
  if s.aisleStopped c then s.setParkOwed c true else s

theorem recoverLoaded_eq (s : State) (c : CraneId) (h : Handle) : s.recoverLoaded c h =
    if s.dropUnreserved c then s.worksAgain c h else (s.worksAgain c h).startDeadline c ((s.worksAgain c h).cranePoint c) :=
  rfl

/-- A crane at work again with its LOADED job (R105, R119, R146). -/
structure WorksAgain (s t : State) (c : CraneId) (a : AisleId) (e : End) (h : Handle) : Prop where
  frame : Frame [.crane c, .rail, .holdBack, .parkOwed, .holds, .jobs, .queue, .events] s t
  crane : ∃ l, t.crane c = { s.crane c with state := .working, leaveService := l }
  owed : s.aisleStopped c = true → t.parkOwed c = true
  job : t.job? h = (s.job? h).map fun j => { j with stranded := s.dropUnreserved c }
  moves : IntervalMoves s t a e (fun i => i.fallen (s.craneBay c) (s.stepBays (s.crane c).remaining)) id

/-- A FAULTED crane enters WORKING and is owed a PARK in a stopped aisle. -/
theorem works_owed (hm : (s.crane c).mapping = some (a, e)) (hs : (s.crane c).state = .faulted) :
    ∃ t, (if (s.enterState c .working).aisleStopped c then (s.enterState c .working).setParkOwed c true
        else s.enterState c .working) = t
      ∧ Frame [.crane c, .rail, .holdBack, .parkOwed, .holds, .queue, .events] s t
      ∧ (∃ l, t.crane c = { s.crane c with state := .working, leaveService := l })
      ∧ (s.aisleStopped c = true → t.parkOwed c = true) ∧ t.crt.rail = s.crt.rail ∧ EventsStand s t := by
  have entered : Frame [.crane c, .rail, .holdBack, .parkOwed, .holds, .queue, .events] s (s.enterState c .working) :=
    enterState_calm (by rw [hs]; rfl) .working
  have own := enterState_undiverted (x := .working) rfl s c
  have still : (s.enterState c .working).crt.rail = s.crt.rail := enterState_still (by rw [hs]; decide) .working .rail (by simp)
  have stood := enterState_stand s c .working
  have stopped := enterState_stopped hm .working
  generalize s.enterState c .working = n at *
  have stops : n.aisleStopped c = s.aisleStopped c := by
    rw [Bool.eq_iff_iff, aisleStopped_iff (s := n) (by rw [own]; exact hm), stopped, aisleStopped_iff hm]
  refine ⟨_, rfl, entered.trans (((Frame.refl _ n).setParkOwed c true (by simp)).ite (.refl _ n)), ?_⟩
  rw [stops]
  split
  · exact ⟨⟨_, own⟩, fun _ => by rw [State.setParkOwed_parkOwed, if_pos rfl], still, stood⟩
  · next h => exact ⟨⟨_, own⟩, fun k => absurd k h, still, stood⟩

theorem worksAgain_works (hm : (s.crane c).mapping = some (a, e)) (hs : (s.crane c).state = .faulted) (h : Handle) :
    WorksAgain s (s.worksAgain c h) c a e h := by
  unfold State.worksAgain
  dsimp only
  have marked : Frame [.jobs] s (s.updJob h fun j => { j with stranded := s.dropUnreserved c }) :=
    (Frame.refl _ s).updJob h _ (by simp)
  have job := updJob_job_map s h h fun j => { j with stranded := s.dropUnreserved c }
  rw [if_pos rfl] at job
  generalize (s.updJob h fun j => { j with stranded := s.dropUnreserved c }) = w at *
  have crane : w.crane = s.crane := funext fun d => marked.crane d (by simp)
  have profile : w.profile? = s.profile? := marked.profile? (by simp)
  have mapped : (w.crane c).mapping = some (a, e) := crane ▸ hm
  have fell : Frame [.rail, .events] w (w.fall c (w.stepBays (w.crane c).remaining)) := (Frame.refl _ w).fall c _ (by simp)
  have moved := (fall_moves mapped (w.stepBays (w.crane c).remaining)).earlier (marked .rail (by simp))
    (fun d => by rw [crane]) fun d h => by rw [crane]; exact h
  rw [show w.craneBay c = s.craneBay c from
    congrArg Point.bay (cranePoint_congr (congrFun crane c) rfl rfl rfl rfl profile), stepBays_congr profile, crane] at moved
  rw [stepBays_congr profile, crane] at fell ⊢
  generalize w.fall c (s.stepBays (s.crane c).remaining) = m at *
  have before : Frame [.rail, .jobs, .events] s m := (marked.mono (by simp)).trans (fell.mono (by simp))
  have same := before.crane c (by simp)
  obtain ⟨t, form, frame, own, owed, rail, stood⟩ := works_owed (s := m) (c := c) (a := a) (e := e) (by rw [same]; exact hm)
    (by rw [same]; exact hs)
  rw [form]
  have stopped : m.aisleStopped c = s.aisleStopped c := aisleStopped_congr before (by simp) (by rw [same])
  exact {
    frame := (before.mono (by simp)).trans (frame.mono (by simp))
    crane := same ▸ own
    owed := stopped ▸ owed
    job := by rw [frame.job? (by simp), fell.job? (by simp), job]
    moves := moved.later rail stood }

/-- A RECOVERED with a LOADED job (R105, R119, R143, R146). -/
structure RecoveredLoaded (s t : State) (c : CraneId) (a : AisleId) (e : End) (h : Handle) : Prop where
  frame : Frame [.crane c, .rail, .holdBack, .parkOwed, .holds, .jobs, .queue, .events] s t
  crane : (t.crane c).state = .working ∧ (t.crane c).unit = (s.crane c).unit
  owed : s.aisleStopped c = true → t.parkOwed c = true
  job : t.job? h = (s.job? h).map fun j => { j with stranded := s.dropUnreserved c }
  moves : IntervalMoves s t a e (fun i => i.fallen (s.craneBay c) (s.stepBays (s.crane c).remaining)) id
  deadline : ∀ q u x, s.profile? a = some q → (s.crane c).unit = some u → u.remaining.head? = some x →
    s.dropUnreserved c = false → (t.crane c).deadline = some { step := u.current, expiry :=
      s.now + (stepEstimate q (s.cranePoint c) x.place * s.crt.factor / 100 + 10000) }

theorem recoverLoaded_recovered (hm : (s.crane c).mapping = some (a, e)) (hs : (s.crane c).state = .faulted) (h : Handle) :
    RecoveredLoaded s (s.recoverLoaded c h) c a e h := by
  obtain ⟨frame, ⟨l, own⟩, owed, job, moves⟩ := worksAgain_works hm hs h
  rw [recoverLoaded_eq]
  generalize s.worksAgain c h = o at *
  cases reserved : s.dropUnreserved c with
  | true =>
    rw [if_pos rfl]
    exact ⟨frame, by rw [own]; exact ⟨rfl, rfl⟩, owed, job, moves, fun q u x _ _ _ h => by rw [reserved] at h; cases h⟩
  | false =>
    obtain ⟨dl, record⟩ := startDeadline_crane o c (o.cranePoint c)
    have last : Frame [.crane c, .events] o (o.startDeadline c (o.cranePoint c)) :=
      (Frame.refl _ o).startDeadline c _ (by simp)
    have stood := startDeadline_stand o c (o.cranePoint c)
    rw [if_neg (by decide)]
    have owed' : (o.startDeadline c (o.cranePoint c)).aic.parkOwed = o.aic.parkOwed := last .parkOwed (by simp)
    exact {
      frame := frame.trans (last.mono (by simp))
      crane := by rw [record, own]; exact ⟨rfl, rfl⟩
      owed := fun stopped => by
        have now := owed stopped
        simp only [State.parkOwed, owed'] at now ⊢
        exact now
      job := by rw [last.job? (by simp), job]
      moves := moves.later (last .rail (by simp)) stood
      deadline := fun q u x hq hu hx _ => by
        obtain ⟨-, now, -, -, -, -, crt, -⟩ := frame .rest (by simp)
        have runs := startDeadline_runs (s := o) (c := c) (a := a) (e := e) (o.cranePoint c) (u := u) (y := x) (q := q)
          (by rw [own]; exact hu) hx (by rw [own]; exact hm) (by rw [frame.profile? (by simp)]; exact hq)
        rw [now, show o.crt.factor = s.crt.factor by rw [crt],
          cranePoint_congr own rfl rfl rfl rfl (frame.profile? (by simp))] at runs
        rw [cranePoint_congr own rfl rfl rfl rfl (frame.profile? (by simp))]
        exact runs }

/-- A RECOVERED of a FAULTED crane goes by the LOADED job on board. -/
theorem recovered_eq (hs : (s.crane c).state = .faulted) (p : List Byte) : s.recovered c p =
    match s.loadedOn c with
    | some h => s.recoverLoaded c h
    | none => (s.fall c []).goIdleOrPark c := if_pos hs

/-- Settles O48: a FAULT ends what the crane was on and takes it to FAULTED; a RECOVERED goes by the LOADED job on board. -/
theorem faultAndRecovered : Obligations.FaultAndRecovered := by
  refine ⟨fault_faults, fun s c a e announced hm hs => ⟨_, recovered_exec announced, ?_⟩⟩
  have frame : Frame [.events] s (s.take (.recovered c [])) := (Frame.refl _ s).take _ (by simp)
  have load : (s.take (.recovered c [])).loadedOn c = s.loadedOn c := rfl
  have return_ : (s.take (.recovered c [])).afterReturn c = s.afterReturn c := rfl
  have widened : (s.take (.recovered c [])).parkWidened c = s.parkWidened c := rfl
  have bay : (s.take (.recovered c [])).craneBay c = s.craneBay c := rfl
  have crane : (s.take (.recovered c [])).crane = s.crane := rfl
  have rail : (s.take (.recovered c [])).crt.rail = s.crt.rail := rfl
  have unreserved : (s.take (.recovered c [])).dropUnreserved c = s.dropUnreserved c := rfl
  rw [recovered_eq (s := s.take (.recovered c [])) hs, load]
  generalize s.take (.recovered c []) = m at *
  cases hl : s.loadedOn c with
  | none =>
    obtain ⟨after, state, sent, moves⟩ := recovered_free (s := m) (crane ▸ hm) (crane ▸ hs)
    rw [return_] at state sent moves
    rw [frame.tx _ (by simp)] at sent
    rw [widened, bay] at moves
    replace moves := moves.earlier rail (fun d => by rw [crane]) fun d h => by rw [crane]; exact h
    have whole := (frame.mono (by simp)).trans after
    exact ⟨fun d hd => whole.crane d (by simp [hd]), whole.cmp (by simp) (by simp), whole.swu (by simp) (by simp) (by simp),
      whole.flg (by simp), fun _ => ⟨state, whole.jpl (by simp) (by simp) (by simp) (by simp),
        sent, moves⟩, fun _ _ h => by cases h⟩
  | some h =>
    obtain ⟨after, ⟨state, unit⟩, owed, job, moves, deadline⟩ := recoverLoaded_recovered (s := m) (crane ▸ hm) (crane ▸ hs) h
    obtain ⟨-, now, -, -, -, -, crt, -⟩ := frame .rest (by simp)
    rw [aisleStopped_congr frame (by simp) (by rw [crane])] at owed
    rw [unreserved, frame.job? (by simp)] at job
    rw [bay, stepBays_congr (frame.profile? (by simp)), crane] at moves
    rw [frame.profile? (by simp), crane, unreserved, now, show m.crt.factor = s.crt.factor by rw [crt],
      cranePoint_congr (congrFun crane c) rfl rfl rfl rfl (frame.profile? (by simp))] at deadline
    have whole := (frame.mono (by simp)).trans after
    refine ⟨fun d hd => whole.crane d (by simp [hd]), whole.cmp (by simp) (by simp), whole.swu (by simp) (by simp) (by simp),
      whole.flg (by simp), nofun, fun g j hg hj => ?_⟩
    obtain rfl : h = g := Option.some.inj hg
    rw [hj] at job
    exact ⟨state, by rw [unit, crane], owed, moves.earlier rail (fun d => by rw [crane]) fun d h => by rw [crane]; exact h,
      job, deadline⟩

end Sys2Proof.Machine
end
section
/-! ACCEPT (O44). -/

namespace Sys2Proof.Machine

variable {r s t : State} {c : CraneId} {a : AisleId} {e : End} {p : List Byte} {u : WorkUnit} {g h : Handle} {f : Job → Job}

/-! ## A change made to several jobs, and the aging of an ACCEPT -/

/-- A change that does nothing more a second time, made to several jobs. -/
theorem each_updJob_job (hf : ∀ j, f (f j) = f j) (hs : List Handle) (s : State) (g : Handle) :
    (s.each hs fun s h => s.updJob h f).job? g = if g ∈ hs then (s.job? g).map f else s.job? g := by
  induction hs generalizing s with
  | nil => rfl
  | cons h hs ih =>
    have rest := ih (s.updJob h f)
    have first := updJob_job_map s h g f
    show ((s.updJob h f).each hs fun s h => s.updJob h f).job? g = _
    rw [rest, first]
    by_cases he : g = h
    · subst he
      simp only [if_true, List.mem_cons, true_or]
      split
      · cases s.job? g with
        | none => rfl
        | some j => exact congrArg some (hf j)
      · rfl
    · simp only [he, if_false, List.mem_cons, false_or]

theorem each_updJob_frame (f : Job → Job) (hs : List Handle) (s : State) :
    Frame [.jobs] s (s.each hs fun s h => s.updJob h f) :=
  Frame.each hs (fun _ h k => k.updJob h f (by simp)) (.refl _ s)

theorem ageAccept_frame (s : State) : Frame [.jobs, .counter] s s.ageAccept := (Frame.refl _ s).ageAccept (by simp)

theorem ageAccept_of_time (hm : s.jpl.agingMode = .time) : s.ageAccept = s := if_neg (by simp [hm])

/-- A job at work does not age (R63). -/
theorem ageAccept_job {j : Job} (hj : s.job? g = some j) (hw : j.state = .enRoute) : s.ageAccept.job? g = some j := by
  have stays : j.ageOnce = j := if_neg (by simp [hw])
  have stepped : s.ageStep.job? g = some j := by
    by_cases hz : s.jpl.startCount = 0
    · rw [ageStep_of_zero hz, hj]
    · rw [ageStep_job hz, hj, Option.map_some, stays]
  unfold State.ageAccept State.ageCount
  split
  · split
    · exact hj
    · split
      · exact stepped
      · exact hj
  · exact hj

/-- The aging counter counts an ACCEPT, and reloads at 0 (R63; log entry 5). -/
theorem ageAccept_counts (hm : s.jpl.agingMode = .events) (hz : s.jpl.startCount ≠ 0) :
    s.ageAccept.jpl.counter = if s.jpl.counter ≤ 1 then s.jpl.startCount else s.jpl.counter - 1 := by
  unfold State.ageAccept State.ageCount
  rw [if_pos hm, if_neg hz]
  split
  · rw [ageStep_eq hz]
  · rfl

/-! ## The ACCEPT of an offer -/

/-- A crane that is OFFERED enters WORKING: its aisle has a busy crane as before, and no pending profile is applied (R9). -/
theorem enterState_works (hm : (s.crane c).mapping = some (a, e)) (hs : (s.crane c).state = .offered)
    (role : s.craneAt a e = some c) :
    Frame [.crane c, .holds, .queue] s (s.enterState c .working)
      ∧ (s.enterState c .working).crane c = { s.crane c with state := .working } := by
  have dest : (s.crane c).destination .working = .working := if_neg (by simp [CraneState.leaveDiverts])
  have own : (s.enterState c .working).crane c = { s.crane c with state := .working } := by
    rw [enterState_undiverted rfl]
    simp
  refine ⟨?_, own⟩
  have entering : s.entering c .working = s.setCrane c ((s.crane c).entering .working) := by
    rw [entering_moving (by rw [hs]; decide), dest, if_pos (.inl rfl)]
  have first : Frame [.crane c] s (s.entering c .working) := by
    rw [entering]
    exact (Frame.refl _ s).setCrane c _ (by simp)
  have record : (s.entering c .working).crane c = (s.crane c).entering .working := entering_crane (by rw [hs]; decide) .working
  have mapped : ((s.entering c .working).crane c).mapping = (s.crane c).mapping := by rw [record]; rfl
  have there : c ∈ (s.entering c .working).cranesOf a := by
    refine State.mem_cranesOf.mpr ⟨e, ?_⟩
    rw [State.craneAt_congr (s := s) (fun d => ?_), role]
    by_cases hd : d = c
    · rw [hd, mapped]
    · rw [first.crane d (by simp [hd])]
  have busy : ((s.entering c .working).cranesOf a).any (fun d => ((s.entering c .working).crane d).state.busy) = true :=
    List.any_eq_true.mpr ⟨c, there, by rw [record, Crane.entering, dest]; rfl⟩
  have waits : (s.entering c .working).testPending a = s.entering c .working := by
    unfold State.testPending
    split
    · rw [if_pos busy]
    · rfl
  rw [enterState_mapped hm, State.settled, waits, dest]
  simp only [ite_self, reduceCtorEq, false_and, if_false]
  exact (first.mono (by simp)).testHold a (by simp)

/-- What the ACCEPT of an offered unit does before the aging counter counts it (R134, R143). -/
structure OfferTaken (s t : State) (c : CraneId) (a : AisleId) : Prop where
  frame : Frame [.crane c, .holds, .queue, .jobs, .events] s t
  crane : t.crane c = { s.crane c with
    state := .working, offerTimer := none, strikes := 0, deadline := (t.crane c).deadline }
  deadline : ∀ u q x, (s.crane c).unit = some u → s.profile? a = some q → u.remaining.head? = some x →
    (t.crane c).deadline = some { step := u.current, expiry :=
      s.now + (stepEstimate q (s.cranePoint c) x.place * s.crt.factor / 100 + 10000) }
  job : ∀ g, t.job? g =
    if g ∈ (s.crane c).jobs then (s.job? g).map fun j => { j with state := .enRoute } else s.job? g
  lapse : .offerTimerExpiry c ∉ t.events

/-- The state in which an offered unit is taken up and not yet counted. -/
def State.offerTaken (s : State) (c : CraneId) : State :=
  let s := s.stopOfferTimer c
  let s := s.each (s.crane c).jobs fun s h => s.updJob h fun j => { j with state := .enRoute }
  let s := s.setCrane c { s.crane c with strikes := 0 }
  let s := s.enterState c .working
  s.startDeadline c (s.cranePoint c)

theorem acceptOffer_eq (s : State) (c : CraneId) : s.acceptOffer c = (s.offerTaken c).ageAccept := rfl

/-- The jobs of an accepted unit are EN_ROUTE and its strikes are gone, before the crane works. -/
theorem enRoute_parts (s : State) (c : CraneId) : ∃ t,
    ((s.stopOfferTimer c).each ((s.stopOfferTimer c).crane c).jobs fun s h => s.updJob h fun j =>
      { j with state := .enRoute }) = t
    ∧ Frame [.crane c, .jobs, .events] s (t.setCrane c { t.crane c with strikes := 0 })
    ∧ (t.setCrane c { t.crane c with strikes := 0 }).crane c = { s.crane c with offerTimer := none, strikes := 0 }
    ∧ (∀ g, (t.setCrane c { t.crane c with strikes := 0 }).job? g =
      if g ∈ (s.crane c).jobs then (s.job? g).map fun j => { j with state := .enRoute } else s.job? g)
    ∧ .offerTimerExpiry c ∉ (t.setCrane c { t.crane c with strikes := 0 }).events := by
  have stopped : Frame [.crane c, .events] s (s.stopOfferTimer c) := (Frame.refl _ s).stopOfferTimer c (by simp)
  have timer := (stopOfferTimer_crane (s := s) (c := c) c).trans (if_pos rfl)
  have lapse : .offerTimerExpiry c ∉ (s.stopOfferTimer c).events := fun h => by
    have kept := (List.mem_filter.mp h).2
    simp at kept
  have jobs : ((s.stopOfferTimer c).crane c).jobs = (s.crane c).jobs := by rw [timer]; rfl
  have sent := each_updJob_frame (fun j => { j with state := .enRoute }) (s.crane c).jobs (s.stopOfferTimer c)
  have job := each_updJob_job (f := fun j => { j with state := .enRoute }) (fun _ => rfl) (s.crane c).jobs (s.stopOfferTimer c)
  rw [jobs]
  generalize ((s.stopOfferTimer c).each (s.crane c).jobs fun s h => s.updJob h fun j => { j with state := .enRoute }) = t at *
  refine ⟨t, rfl, ((stopped.mono (by simp)).trans (sent.mono (by simp))).setCrane c _ (by simp), ?_, fun g => ?_, ?_⟩
  · rw [State.setCrane_crane, if_pos rfl, sent.crane c (by simp), timer]
  · exact (job g).trans (by rw [stopped.job? (by simp)])
  · have same : (t.setCrane c { t.crane c with strikes := 0 }).events = (s.stopOfferTimer c).events := sent .events (by simp)
    rw [same]
    exact lapse

theorem offerTaken_taken (hm : (s.crane c).mapping = some (a, e)) (hs : (s.crane c).state = .offered) (role : RoleLaw s) :
    OfferTaken s (s.offerTaken c) c a := by
  obtain ⟨m, form, frame, own, job, lapse⟩ := enRoute_parts s c
  unfold State.offerTaken
  dsimp only
  rw [form]
  generalize m.setCrane c { m.crane c with strikes := 0 } = n at *
  have mapped : (n.crane c).mapping = some (a, e) := by rw [own]; exact hm
  have role' : n.craneAt a e = some c := by
    rw [State.craneAt_congr (s := s) (fun d => ?_)]
    · exact role c a e hm
    · by_cases hd : d = c
      · rw [hd, own]
      · rw [frame.crane d (by simp [hd])]
  obtain ⟨works, record⟩ := enterState_works mapped (by rw [own]; exact hs) role'
  generalize n.enterState c .working = o at *
  rw [own] at record
  have whole : Frame [.crane c, .holds, .queue, .jobs, .events] s o := (frame.mono (by simp)).trans (works.mono (by simp))
  have last : Frame [.crane c, .events] o (o.startDeadline c (o.cranePoint c)) := (Frame.refl _ o).startDeadline c _ (by simp)
  obtain ⟨dl, final⟩ := startDeadline_crane o c (o.cranePoint c)
  have point := cranePoint_congr (s := s) record rfl rfl rfl rfl (whole.profile? (by simp))
  exact {
    frame := whole.trans (last.mono (by simp))
    crane := by rw [final, record]
    deadline := fun u q x hu hq hx => by
      obtain ⟨-, now, -, -, -, -, crt, -⟩ := whole .rest (by simp)
      have runs := startDeadline_runs (s := o) (c := c) (a := a) (e := e) (o.cranePoint c) (u := u) (y := x) (q := q)
        (by rw [record]; exact hu) hx (by rw [record]; exact hm) (by rw [whole.profile? (by simp)]; exact hq)
      rw [now, show o.crt.factor = s.crt.factor by rw [crt], point] at runs
      rw [point]
      exact runs
    job := fun g => by rw [last.job? (by simp), works.job? (by simp), job]
    lapse := fun h => by
      have same : o.events = n.events := works .events (by simp)
      exact lapse (same ▸ startDeadline_events o c _ _ h) }

theorem accept_exec {n : Byte} (h : Announced s c) :
    exec (.accept c [n]) s = .next ((s.take (.accept c [n])).accept c n [n]) := by
  show Host.Outcome.next (s.craneMessage _ _ _ _ _ _ _) = _
  rw [State.craneMessage_read h _ _ _ _ _ _ (x := n) rfl]

/-! ## The ACCEPT of a redirect -/

/-- The redirect's unit becomes the current one, the old unit's jobs are READY and the new one's is EN_ROUTE (R87). -/
structure RedirectTaken (s t : State) (c : CraneId) (a : AisleId) (e : End) (r : Redirect) : Prop where
  frame : Frame [.crane c, .rail, .cells, .jobs, .credit, .events] s t
  crane : ∃ dl, t.crane c = { s.crane c with
    unit := some { number := r.number, jobs := [r.job], steps := r.steps, current := 1 }, redirect := none,
    offerTimer := none, deadline := dl }
  moves : IntervalMoves s t a e (fun i => i.fallen (s.craneBay c) (s.stepBays r.steps)) id
  own : ∀ j, s.job? r.job = some j → ∃ k, t.job? r.job = some k ∧ k.state = .enRoute ∧ k.promised = none
    ∧ k.unit = some { crane := c, number := r.number }
  old : ∀ h ∈ (s.crane c).jobs, h ≠ r.job → t.job? h = (s.job? h).map Job.returned
  deadline : ∀ q x, s.profile? a = some q → r.steps.head? = some x →
    (t.crane c).deadline = some { step := 1, expiry :=
      s.now + (stepEstimate q (s.cranePoint c) x.place * s.crt.factor / 100 + 10000) }

/-- The state in which the new unit is the current one and the old unit's jobs are still to be returned (R87). -/
def State.redirectTaken (s : State) (c : CraneId) (r : Redirect) : State :=
  let s := s.stopOfferTimer c
  let s := s.stopDeadline c
  s.setCrane c { s.crane c with
    unit := some { number := r.number, jobs := [r.job], steps := r.steps, current := 1 }, redirect := none }

theorem redirectTaken_parts (s : State) (c : CraneId) (r : Redirect) :
    Frame [.crane c, .events] s (s.redirectTaken c r)
      ∧ (s.redirectTaken c r).crane c = { s.crane c with
        unit := some { number := r.number, jobs := [r.job], steps := r.steps, current := 1 }, redirect := none,
        offerTimer := none, deadline := none } := by
  refine ⟨(((Frame.refl _ s).stopOfferTimer c (by simp)).stopDeadline c (by simp)).setCrane c _ (by simp), ?_⟩
  have second : ((s.stopOfferTimer c).stopDeadline c).crane c = { s.crane c with offerTimer := none, deadline := none } :=
    (State.setCrane_crane _ c c _).trans ((if_pos rfl).trans (by rw [stopOfferTimer_crane, if_pos rfl]))
  exact (State.setCrane_crane _ c c _).trans ((if_pos rfl).trans (by rw [second]))

/-- A redirect's unit taken up, and the jobs recorded, before the interval falls. -/
theorem acceptRedirect_eq (s : State) (c : CraneId) (r : Redirect) : ∃ m,
    ((s.redirectTaken c r).each (s.crane c).jobs fun s h => s.returnToReady c h).updJob r.job (fun j =>
      { j with state := .enRoute, unit := some { crane := c, number := r.number }, promised := none }) = m
    ∧ s.acceptRedirect c r = (m.fall c (m.stepBays r.steps)).startDeadline c ((m.fall c (m.stepBays r.steps)).cranePoint c) :=
  ⟨_, rfl, rfl⟩

theorem acceptRedirect_taken (hm : (s.crane c).mapping = some (a, e)) (r : Redirect) :
    RedirectTaken s (s.acceptRedirect c r) c a e r := by
  obtain ⟨m, jobs, form⟩ := acceptRedirect_eq s c r
  rw [form]
  obtain ⟨start, own⟩ := redirectTaken_parts s c r
  have returned := each_returnToReady_records c (s.crane c).jobs (s.redirectTaken c r)
  have back := each_returnToReady_frame c (s.crane c).jobs (s.redirectTaken c r)
  generalize (s.redirectTaken c r).each (s.crane c).jobs (fun s h => s.returnToReady c h) = n at *
  have marked : Frame [.jobs] n m := by
    rw [← jobs]
    exact (Frame.refl _ n).updJob r.job _ (by simp)
  have record := fun g => updJob_job_map n r.job g fun j =>
    { j with state := .enRoute, unit := some { crane := c, number := r.number }, promised := none }
  rw [jobs] at record
  have whole : Frame [.crane c, .cells, .jobs, .credit, .events] s m :=
    (start.mono (by simp)).trans ((back.mono (by simp)).trans (marked.mono (by simp)))
  have crane : m.crane c = _ := (marked.crane c (by simp)).trans ((back.crane c (by simp)).trans own)
  have profile : m.profile? = s.profile? := whole.profile? (by simp)
  have point := cranePoint_congr (s := s) crane rfl rfl rfl rfl profile
  have stands := cranes_stand (c := c) whole (fun d hd => by simp [hd]) (by rw [crane]) (by rw [crane])
  have fell : Frame [.rail, .events] m (m.fall c (m.stepBays r.steps)) := (Frame.refl _ m).fall c _ (by simp)
  have moved := (fall_moves (s := m) (c := c) (by rw [crane]; exact hm) (m.stepBays r.steps)).earlier (whole .rail (by simp))
    (fun d => (stands d).1) fun d => (stands d).2.trans
  rw [show m.craneBay c = s.craneBay c from congrArg Point.bay point, stepBays_congr profile] at moved
  rw [stepBays_congr profile] at fell ⊢
  generalize m.fall c (s.stepBays r.steps) = o at *
  have record' : o.crane c = _ := (fell.crane c (by simp)).trans crane
  have point' := cranePoint_congr (s := s) record' rfl rfl rfl rfl ((fell.profile? (by simp)).trans profile)
  have last : Frame [.crane c, .events] o (o.startDeadline c (o.cranePoint c)) := (Frame.refl _ o).startDeadline c _ (by simp)
  have stood := startDeadline_stand o c (o.cranePoint c)
  obtain ⟨dl, final⟩ := startDeadline_crane o c (o.cranePoint c)
  have jobs' : ∀ g, (o.startDeadline c (o.cranePoint c)).job? g = m.job? g := fun g => by
    rw [last.job? (by simp), fell.job? (by simp)]
  exact {
    frame := (whole.mono (by simp)).trans ((fell.mono (by simp)).trans (last.mono (by simp)))
    crane := ⟨dl, by rw [final, record']⟩
    moves := moved.later (last .rail (by simp)) stood
    own := fun j hj => by
      obtain ⟨member, other⟩ := returned r.job
      rw [start.job? (by simp), hj] at member other
      rw [jobs', record, if_pos rfl]
      by_cases hr : r.job ∈ (s.crane c).jobs
      · rw [member hr]
        exact ⟨_, rfl, rfl, rfl, rfl⟩
      · obtain ⟨k, hk, -⟩ := (other hr).some
        rw [hk]
        exact ⟨_, rfl, rfl, rfl, rfl⟩
    old := fun h hh hne => by
      rw [jobs', record, if_neg hne, (returned h).1 hh, start.job? (by simp)]
    deadline := fun q x hq hx => by
      obtain ⟨-, now, -, -, -, -, crt, -⟩ := (whole.mono (qs := [.crane c, .rail, .cells, .jobs, .credit, .events])
        (by simp)).trans (fell.mono (by simp)) .rest (by simp)
      have runs := startDeadline_runs (s := o) (c := c) (a := a) (e := e) (o.cranePoint c)
        (u := { number := r.number, jobs := [r.job], steps := r.steps, current := 1 }) (y := x) (q := q)
        (by rw [record']) hx (by rw [record']; exact hm) (by rw [fell.profile? (by simp), profile]; exact hq)
      rw [now, show o.crt.factor = s.crt.factor by rw [crt], point'] at runs
      rw [point']
      exact runs }

/-- A redirect answered with WITHDRAW and STALE_MESSAGE, and taken as LATE (R87). -/
structure RedirectLate (s t : State) (c : CraneId) (a : AisleId) (e : End) (r : Redirect) (p : List Byte) : Prop where
  frame : Frame [.crane c, .rail, .cells, .jobs, .credit, .tx (.crane c), .events] s t
  crane : t.crane c = { s.crane c with redirect := none, offerTimer := none }
  tx : t.tx (.crane c) = s.tx (.crane c) ++ [.withdraw r.number 0]
  report : s.craneReported .staleMessage c none p ∈ t.events
  moves : IntervalMoves s t a e (fun i => i.fallen (s.craneBay c) (s.stepBays (s.crane c).remaining)) id
  own : ∀ j, s.job? r.job = some j → t.job? r.job = some j.unpromised

theorem lateRedirect_late (hm : (s.crane c).mapping = some (a, e)) {r : Redirect} (hr : (s.crane c).redirect = some r)
    (p : List Byte) : RedirectLate s (((s.send (.crane c) (.withdraw r.number 0)).stale c none p).late c) c a e r p := by
  have told : Frame [.tx (.crane c)] s (s.send (.crane c) (.withdraw r.number 0)) := (Frame.refl _ s).send _ _ (by simp)
  have sent : (s.send (.crane c) (.withdraw r.number 0)).tx (.crane c) = s.tx (.crane c) ++ [.withdraw r.number 0] := by
    simp [State.send]
  generalize s.send (.crane c) (.withdraw r.number 0) = l at *
  have raised : Frame [.events] l (l.stale c none p) := (Frame.refl _ l).stale c none p (by simp)
  have report := raiseFault_reported l l .staleMessage c none p
  replace report : (l.stale c none p).events = l.events ++ [l.craneReported .staleMessage c none p] := report
  generalize l.stale c none p = m at *
  unfold State.late
  dsimp only
  have first : Frame [.tx (.crane c), .events] s m := (told.mono (by simp)).trans (raised.mono (by simp))
  have same := first.crane c (by simp)
  have ended := endRedirect_frame m c
  have stood := endRedirect_stand m c
  obtain ⟨own, job⟩ := endRedirect_records m c
  rw [same, hr] at own
  rw [same, hr] at job
  generalize m.endRedirect c = n at *
  have whole : Frame [.crane c, .cells, .jobs, .credit, .tx (.crane c), .events] s n :=
    (first.mono (by simp)).trans (ended.mono (by simp))
  have record : n.crane c = { s.crane c with redirect := none, offerTimer := none } := own
  have profile : n.profile? = s.profile? := whole.profile? (by simp)
  have stands := cranes_stand (c := c) whole (fun d hd => by simp [hd]) (by rw [record]) (by rw [record])
  have moved := (fall_moves (s := n) (c := c) (by rw [record]; exact hm) (n.stepBays (n.crane c).remaining)).earlier
    (whole .rail (by simp)) (fun d => (stands d).1) fun d => (stands d).2.trans
  have fell : Frame [.rail, .events] n (n.fall c (n.stepBays (n.crane c).remaining)) := (Frame.refl _ n).fall c _ (by simp)
  have stands' := fall_stand n c (n.stepBays (n.crane c).remaining)
  rw [show n.craneBay c = s.craneBay c from congrArg Point.bay (cranePoint_congr record rfl rfl rfl rfl profile)] at moved
  rw [stepBays_congr profile, show (n.crane c).remaining = (s.crane c).remaining by rw [record]; rfl] at moved fell stands' ⊢
  exact {
    frame := (whole.mono (by simp)).trans (fell.mono (by simp))
    crane := (fell.crane c (by simp)).trans record
    tx := by rw [fell.tx _ (by simp), ended.tx _ (by simp), raised.tx _ (by simp), sent]
    report := by
      refine (stood.trans stands') _ ?_ rfl
      rw [report, craneReported_congr (s := s) (by rw [told.crane c (by simp)])]
      simp
    moves := moved
    own := fun j hj => by
      rw [fell.job? (by simp), job, first.job? (by simp), hj]
      simp }

/-! ## The obligation -/

/-- The first half of O44. -/
theorem accept_offer (announced : Announced s c) (hm : (s.crane c).mapping = some (a, e))
    (hs : (s.crane c).state = .offered) (hu : (s.crane c).unit = some u) (role : RoleLaw s) :
    ∃ t, exec (.accept c [u.number]) s = .next t
      ∧ t.crane c = { s.crane c with
          state := .working, offerTimer := none, strikes := 0, deadline := (t.crane c).deadline }
      ∧ (∀ d, d ≠ c → t.crane d = s.crane d) ∧ t.crt.rail = s.crt.rail
      ∧ (∀ q x, s.profile? a = some q → u.remaining.head? = some x →
          (t.crane c).deadline = some { step := u.current, expiry :=
            s.now + (stepEstimate q (s.cranePoint c) x.place * s.crt.factor / 100 + 10000) })
      ∧ (∀ h ∈ u.jobs, ∀ j, s.job? h = some j → t.job? h = some { j with state := .enRoute })
      ∧ (s.jpl.agingMode = .time → t.jpl.counter = s.jpl.counter ∧ ∀ h, h ∉ u.jobs → t.job? h = s.job? h)
      ∧ (s.jpl.agingMode = .events → s.jpl.startCount ≠ 0 →
          t.jpl.counter = if s.jpl.counter ≤ 1 then s.jpl.startCount else s.jpl.counter - 1)
      ∧ .offerTimerExpiry c ∉ t.events
      ∧ t.cmp = s.cmp ∧ t.ale = s.ale ∧ t.swu = s.swu ∧ t.flg = s.flg := by
  have frame : Frame [.events] s (s.take (.accept c [u.number])) := (Frame.refl _ s).take _ (by simp)
  have crane : (s.take (.accept c [u.number])).crane = s.crane := rfl
  have offered : ((s.take (.accept c [u.number])).crane c).isOffered u.number = true := Crane.isOffered_of_unit hs hu
  have run : (s.take (.accept c [u.number])).accept c u.number [u.number] =
      ((s.take (.accept c [u.number])).offerTaken c).ageAccept := if_pos offered
  refine ⟨_, accept_exec announced, ?_⟩
  rw [run]
  clear run offered
  generalize s.take (.accept c [u.number]) = m at *
  obtain ⟨taken, own, deadline, job, lapse⟩ := offerTaken_taken (s := m) (c := c) (a := a) (e := e) (by rw [crane]; exact hm)
    (by rw [crane]; exact hs) (by
      intro d b f hd
      rw [State.craneAt_congr (s := s) fun d => by rw [crane]]
      exact role d b f (by rw [← crane]; exact hd))
  have whole : Frame [.crane c, .holds, .queue, .jobs, .events] s (m.offerTaken c) := (frame.mono (by simp)).trans taken
  obtain ⟨-, now, -, -, jpl, -, crt, -⟩ := frame .rest (by simp)
  obtain ⟨-, -, -, -, jpl', -⟩ := whole .rest (by simp)
  have counter : (m.offerTaken c).jpl.counter = s.jpl.counter := whole .counter (by simp)
  have mode : (m.offerTaken c).jpl.agingMode = s.jpl.agingMode := by rw [jpl']
  have count : (m.offerTaken c).jpl.startCount = s.jpl.startCount := by rw [jpl']
  have jobs : (s.crane c).jobs = u.jobs := by rw [Crane.jobs, hu]
  rw [crane] at own
  rw [crane, now, cranePoint_congr (congrFun crane c) rfl rfl rfl rfl (frame.profile? (by simp)), frame.profile? (by simp),
    show m.crt.factor = s.crt.factor by rw [crt]] at deadline
  simp only [crane, jobs, frame.job? (show Part.jobs ∉ [Part.events] by simp)] at job
  generalize m.offerTaken c = o at *
  have aged := ageAccept_frame o
  have final : Frame [.crane c, .holds, .queue, .jobs, .counter, .events] s o.ageAccept :=
    (whole.mono (by simp)).trans (aged.mono (by simp))
  have same := aged.crane c (by simp)
  have events : o.ageAccept.events = o.events := aged .events (by simp)
  refine ⟨by rw [same]; exact own, fun d hd => final.crane d (by simp [hd]), final .rail (by simp), fun q x hq hx => ?_,
    fun h hh j hj => ?_, fun ht => ?_, fun he hz => ?_, by rw [events]; exact lapse, final.cmp (by simp) (by simp),
    final.ale (by simp) (by simp), final.swu (by simp) (by simp) (by simp), final.flg (by simp)⟩
  · rw [same]
    exact deadline u q x hu hq hx
  · exact ageAccept_job (by rw [job, if_pos hh, hj]; rfl) rfl
  · rw [ageAccept_of_time (mode.trans ht)]
    exact ⟨counter, fun h hh => by rw [job, if_neg hh]⟩
  · rw [ageAccept_counts (mode.trans he) (by rw [count]; exact hz), counter, count]

/-- The second half of O44. -/
theorem accept_redirect {r : Redirect} (announced : Announced s c) (hm : (s.crane c).mapping = some (a, e))
    (hr : (s.crane c).redirect = some r) (hn : (s.crane c).isOffered r.number = false) :
    ∃ t, exec (.accept c [r.number]) s = .next t
      ∧ (t.crane c).redirect = none ∧ (t.crane c).offerTimer = none ∧ (t.crane c).state = (s.crane c).state
      ∧ (∀ d, d ≠ c → t.crane d = s.crane d) ∧ t.flg = s.flg
      ∧ (s.loadedOn c = none →
          (t.crane c).unit = some { number := r.number, jobs := [r.job], steps := r.steps, current := 1 }
          ∧ t.tx (.crane c) = s.tx (.crane c)
          ∧ IntervalMoves s t a e (fun i => i.fallen (s.craneBay c) (s.stepBays r.steps)) id
          ∧ (∀ j, s.job? r.job = some j → ∃ k, t.job? r.job = some k ∧ k.state = .enRoute ∧ k.promised = none
              ∧ k.unit = some { crane := c, number := r.number })
          ∧ (∀ h ∈ (s.crane c).jobs, h ≠ r.job → ∀ j, s.job? h = some j →
              ∃ k, t.job? h = some k ∧ k.state = .ready ∧ k.unit = none ∧ k.partner = none)
          ∧ ∀ q x, s.profile? a = some q → r.steps.head? = some x →
              (t.crane c).deadline = some { step := 1, expiry :=
                s.now + (stepEstimate q (s.cranePoint c) x.place * s.crt.factor / 100 + 10000) })
      ∧ (s.loadedOn c ≠ none →
          (t.crane c).unit = (s.crane c).unit ∧ (t.crane c).deadline = (s.crane c).deadline
          ∧ t.tx (.crane c) = s.tx (.crane c) ++ [.withdraw r.number 0]
          ∧ s.craneReported .staleMessage c none [r.number] ∈ t.events
          ∧ IntervalMoves s t a e (fun i => i.fallen (s.craneBay c) (s.stepBays (s.crane c).remaining)) id
          ∧ ∀ j, s.job? r.job = some j → ∃ k, t.job? r.job = some k ∧ k.state = j.state ∧ k.promised = none) := by
  have frame : Frame [.events] s (s.take (.accept c [r.number])) := (Frame.refl _ s).take _ (by simp)
  have crane : (s.take (.accept c [r.number])).crane = s.crane := rfl
  have rail : (s.take (.accept c [r.number])).crt.rail = s.crt.rail := rfl
  have load : (s.take (.accept c [r.number])).loadedOn c = s.loadedOn c := rfl
  have run : (s.take (.accept c [r.number])).accept c r.number [r.number] =
      (s.take (.accept c [r.number])).answerRedirect c r [r.number] := by
    have redirected : ((s.take (.accept c [r.number])).crane c).isRedirected r.number = true := by
      rw [crane, Crane.isRedirected, hr]
      exact decide_eq_true rfl
    unfold State.accept
    rw [if_neg (by rw [crane, hn]; decide), if_pos redirected, crane, hr]
  refine ⟨_, accept_exec announced, ?_⟩
  rw [run, State.answerRedirect, load]
  clear run load
  generalize s.take (.accept c [r.number]) = m at *
  have point := cranePoint_congr (s := s) (congrFun crane c) rfl rfl rfl rfl (frame.profile? (by simp))
  have bays := stepBays_congr (s := s) (t := m) (frame.profile? (by simp))
  have bay : m.craneBay c = s.craneBay c := congrArg Point.bay point
  have job : ∀ g, m.job? g = s.job? g := fun g => frame.job? (by simp) g
  obtain ⟨-, now, -, -, -, -, crt, -⟩ := frame .rest (by simp)
  have factor : m.crt.factor = s.crt.factor := by rw [crt]
  cases hl : s.loadedOn c with
  | none =>
    dsimp only
    obtain ⟨taken, ⟨dl, record⟩, moves, own, old, deadline⟩ := acceptRedirect_taken (s := m) (c := c) (a := a) (e := e)
      (by rw [crane]; exact hm) r
    rw [crane] at record old
    rw [bay, bays] at moves
    rw [job] at own
    rw [frame.profile? (by simp), now, point, factor] at deadline
    generalize m.acceptRedirect c r = t at *
    have whole : Frame [.crane c, .rail, .cells, .jobs, .credit, .events] s t := (frame.mono (by simp)).trans taken
    refine ⟨by rw [record], by rw [record], by rw [record], fun d hd => whole.crane d (by simp [hd]), whole.flg (by simp),
      fun _ => ⟨by rw [record], whole.tx _ (by simp), moves.earlier rail (fun d => by rw [crane]) (fun d h => by
        rw [crane]; exact h), own, fun h hh hne j hj => ⟨j.returned, ?_, rfl, rfl, rfl⟩, deadline⟩, fun h => absurd rfl h⟩
    rw [old h hh hne, job, hj]
    rfl
  | some g =>
    dsimp only
    obtain ⟨late, record, tx, report, moves, own⟩ := lateRedirect_late (s := m) (c := c) (a := a) (e := e) (r := r)
      (by rw [crane]; exact hm) (by rw [crane]; exact hr) [r.number]
    rw [crane] at record
    rw [frame.tx _ (by simp)] at tx
    rw [bay, bays, crane] at moves
    rw [craneReported_congr (s := s) (by rw [crane])] at report
    generalize ((m.send (.crane c) (.withdraw r.number 0)).stale c none [r.number]).late c = t at *
    have whole : Frame [.crane c, .rail, .cells, .jobs, .credit, .tx (.crane c), .events] s t :=
      (frame.mono (by simp)).trans late
    refine ⟨by rw [record], by rw [record], by rw [record], fun d hd => whole.crane d (by simp [hd]), whole.flg (by simp),
      fun h => absurd h (by simp), fun _ => ⟨by rw [record], by rw [record], tx, report,
        moves.earlier rail (fun d => by rw [crane]) (fun d h => by rw [crane]; exact h), fun j hj =>
          ⟨j.unpromised, own j (by rw [job, hj]), rfl, rfl⟩⟩⟩

/-- Settles O44: an offered unit is taken up and counted; a redirect is taken up, or withdrawn where a job is LOADED. -/
theorem acceptTakesUpAnOffer : Obligations.AcceptTakesUpAnOffer :=
  ⟨fun _ _ _ _ _ announced hm hs hu role => accept_offer announced hm hs hu role,
    fun _ _ _ _ _ announced hm hr hn => accept_redirect announced hm hr hn⟩

end Sys2Proof.Machine
end
section
/-! HELLO (O42). -/

namespace Sys2Proof.Machine

variable {r s t : State} {c : CraneId} {a : AisleId} {e : End} {p : List Byte} {x y : Byte}

/-! ## The position reported -/

theorem readPosition_read (hm : (s.crane c).mapping = some (a, e))
    (hq : ∀ q, s.profile? a = some q → x.toNat ≤ q.geo.bays + 1 ∧ y.toNat ≤ q.geo.levels) :
    s.readPosition c [x, y] = some { bay := x.toNat, level := y.toNat } := by
  have aisle : (s.craneAisle c).bind s.profile? = s.profile? a := by simp [State.craneAisle, hm]
  unfold State.readPosition
  rw [aisle]
  refine (if_pos rfl).trans ?_
  cases hp : s.profile? a with
  | none => rfl
  | some q => exact if_pos (hq q hp)

theorem hello_exec (hr : s.liu.restarting = none) (hm : (s.crane c).mapping = some (a, e))
    (hq : ∀ q, s.profile? a = some q → x.toNat ≤ q.geo.bays + 1 ∧ y.toNat ≤ q.geo.levels) :
    exec (.hello c [x, y]) s =
      .next ((s.take (.hello c [x, y])).hello c { bay := x.toNat, level := y.toNat } [x, y]) := by
  show Host.Outcome.next (s.craneMessage _ _ _ _ _ _ _) = _
  rw [State.craneMessage_hello hr (by rw [hm]; simp) _ _ _ _ _ (x := { bay := x.toNat, level := y.toNat })
    (readPosition_read hm hq)]

theorem setPosition_crane (hm : (s.crane c).mapping = some (a, e)) (z : Point) : (s.setPosition c z).crane c =
    { s.crane c with bay := z.bay, level := z.level, known := s.configured a } := by
  refine (State.setCrane_crane s c c _).trans ((if_pos rfl).trans ?_)
  rw [hm]

theorem setPosition_frame (s : State) (c : CraneId) (z : Point) : Frame [.crane c] s (s.setPosition c z) :=
  (Frame.refl _ s).setPosition c z (by simp)

/-! ## The HELLO of an ABSENT crane -/

theorem grant_rail (hm : (s.crane c).mapping = some (a, e)) {r : PerEnd RailEntry} (hr : s.rail a = some r) (i : Interval) :
    (s.grant c i).rail a = some (r.set e { r.get e with granted := i }) := by
  obtain ⟨own, -⟩ := updOwn_moves (s := s) hm fun _ => i
  exact (own r hr).1

/-- The interval of a first HELLO (R118). -/
theorem announceRail_entry (hm : (s.crane c).mapping = some (a, e)) {r : PerEnd RailEntry} (hr : s.rail a = some r)
    (bay : Nat) (p : List Byte) : ∃ i, (s.announceRail c bay p).rail a = some (r.set e { r.get e with granted := i })
      ∧ ((bay = s.parkEnd a e ∨ keepsGap (s.gap a) e (.at bay) (r.get (otherEnd e)).effective = true) → i = .at bay)
      ∧ (bay ≠ s.parkEnd a e → keepsGap (s.gap a) e (.at bay) (r.get (otherEnd e)).effective = false →
          i = hull bay [s.parkEnd a e] ∧ s.craneReported .railBreach c none p ∈ (s.announceRail c bay p).events) := by
  have other : s.otherEntry c = some (r.get (otherEnd e)) := by simp only [State.otherEntry, hm, hr, Option.map_some]
  unfold State.announceRail
  simp only [other, hm]
  split
  · next h =>
    exact ⟨_, grant_rail hm hr _, fun _ => rfl, fun hne hk => by
      rw [h.resolve_left hne] at hk
      cases hk⟩
  · next h =>
    obtain ⟨hne, hk⟩ := not_or.mp h
    have aisle : s.craneAisle c = some a := by simp [State.craneAisle, hm]
    refine ⟨_, grant_rail hm hr (hull bay [s.parkEnd a e]), fun h' => absurd h' h, fun _ _ => ⟨rfl, ?_⟩⟩
    have report := raiseFault_reported (s.grant c (hull bay [s.parkEnd a e])) (s.grant c (hull bay [s.parkEnd a e]))
      .railBreach c none p
    have granted : Frame [.rail] s (s.grant c (hull bay [s.parkEnd a e])) := (Frame.refl _ s).grant c _ (by simp)
    have same := granted.crane c (by simp)
    rw [show (s.grant c (hull bay [s.parkEnd a e])).craneAisle c = some a by simp [State.craneAisle, same, hm],
      craneReported_congr (s := s) (by rw [same])] at report
    rw [report]
    simp

/-- What the HELLO of an ABSENT crane does (R118, R128, R131). -/
theorem hello_announces (hr : s.liu.restarting = none) (hm : (s.crane c).mapping = some (a, e))
    (hs : (s.crane c).state = .absent)
    (hq : ∀ q, s.profile? a = some q → x.toNat ≤ q.geo.bays + 1 ∧ y.toNat ≤ q.geo.levels) :
    ∃ t, exec (.hello c [x, y]) s = .next t
      ∧ (t.crane c).state = s.afterReturn c
      ∧ (t.crane c).bay = x.toNat ∧ (t.crane c).level = y.toNat ∧ (t.crane c).known = s.configured a
      ∧ (t.crane c).mapping = some (a, e) ∧ (t.crane c).strikes = (s.crane c).strikes
      ∧ (t.crane c).unitCounter = (s.crane c).unitCounter
      ∧ (s.afterReturn c = .parking → (t.crane c).parkTimer = some (s.now + s.crt.tPark))
      ∧ t.tx (.crane c) = s.tx (.crane c) ++ (if s.afterReturn c = .parking then [.park] else [])
      ∧ (∀ d, d ≠ c → t.crane d = s.crane d)
      ∧ t.jpl = s.jpl ∧ t.cmp = s.cmp ∧ t.ale = s.ale ∧ t.swu = s.swu ∧ t.flg = s.flg
      ∧ ∀ r, s.rail a = some r → s.aisleStopped c = false → ∃ r', t.rail a = some r'
        ∧ r'.get (otherEnd e) = r.get (otherEnd e)
        ∧ ((x.toNat = s.parkEnd a e ∨ keepsGap (s.gap a) e (.at x.toNat) (r.get (otherEnd e)).effective = true) →
            (r'.get e).granted = .at x.toNat)
        ∧ (x.toNat ≠ s.parkEnd a e → keepsGap (s.gap a) e (.at x.toNat) (r.get (otherEnd e)).effective = false →
            (r'.get e).granted = hull x.toNat [s.parkEnd a e]
            ∧ s.craneReported .railBreach c none [x, y] ∈ t.events) := by
  have frame : Frame [.events] s (s.take (.hello c [x, y])) := (Frame.refl _ s).take _ (by simp)
  refine ⟨_, hello_exec hr hm hq, ?_⟩
  have crane : (s.take (.hello c [x, y])).crane = s.crane := rfl
  generalize s.take (.hello c [x, y]) = m at *
  have form : m.hello c { bay := x.toNat, level := y.toNat } [x, y] =
      ((m.setPosition c { bay := x.toNat, level := y.toNat }).announceRail c x.toNat [x, y]).goIdleOrPark c :=
    if_pos (by rw [crane]; exact hs)
  rw [form, goIdleOrPark_eq]
  clear form
  have placed := setPosition_frame m c { bay := x.toNat, level := y.toNat }
  have own := setPosition_crane (s := m) (c := c) (a := a) (e := e) (by rw [crane]; exact hm)
    { bay := x.toNat, level := y.toNat }
  rw [crane] at own
  generalize m.setPosition c { bay := x.toNat, level := y.toNat } = n at *
  have first : Frame [.crane c, .events] s n := (frame.mono (by simp)).trans (placed.mono (by simp))
  have mapped : (n.crane c).mapping = some (a, e) := by rw [own]; exact hm
  have configured : m.configured a = s.configured a := by
    simp only [State.configured, frame.profile? (show Part.profiles ∉ [Part.events] by simp)]
  have announced : Frame [.rail, .events] n (n.announceRail c x.toNat [x, y]) := (Frame.refl _ n).announceRail c _ _ (by simp)
  have entry := fun r hr => announceRail_entry (s := n) mapped (r := r) hr x.toNat [x, y]
  generalize n.announceRail c x.toNat [x, y] = o at *
  have whole : Frame [.crane c, .rail, .events] s o := (first.mono (by simp)).trans (announced.mono (by simp))
  have record : o.crane c = _ := (announced.crane c (by simp)).trans own
  have profile : n.profile? = s.profile? := first.profile? (by simp)
  have stopped : o.aisleStopped c = s.aisleStopped c := aisleStopped_congr whole (by simp) (by rw [record])
  have after : o.afterReturn c = s.afterReturn c := by simp only [State.afterReturn, stopped, record]
  obtain ⟨-, now, -, -, -, -, crt, -⟩ := whole .rest (by simp)
  have state : (o.crane c).state = .absent := by rw [record]; exact hs
  obtain ⟨-, ⟨q, final, timer⟩, tx, stand, -, moves, calm, still⟩ :=
    go_gone (s := o) (c := c) (by rw [state]; decide) (o.aisleStopped c)
  rw [goesTo_aisleStopped, after] at final timer tx moves
  rw [record] at final
  rw [now, show o.crt.tPark = s.crt.tPark by rw [crt]] at timer
  rw [whole.tx _ (by simp)] at tx
  replace calm := calm (by rw [state]; rfl)
  replace still := still (by rw [state]; decide)
  replace moves := moves (by rw [state]; decide) a e (by rw [record]; exact hm)
  generalize o.go c (o.aisleStopped c) = t at *
  have calm' := (whole.mono (by simp)).trans calm
  have still' := (whole.mono (by simp)).trans still
  refine ⟨by rw [final], by rw [final], by rw [final], by rw [final]; exact configured, by rw [final]; exact hm,
    by rw [final], by rw [final], fun h => by rw [final]; exact timer h, tx, fun d hd => calm'.crane d (by simp [hd]),
    calm'.jpl (by simp) (by simp) (by simp) (by simp), calm'.cmp (by simp) (by simp), still'.ale (by simp) (by simp),
    calm'.swu (by simp) (by simp) (by simp), calm'.flg (by simp), fun r hr open_ => ?_⟩
  have rail : n.rail a = some r := (first.rail (by simp) a).trans hr
  obtain ⟨i, announce, keeps, breaks⟩ := entry r rail
  have gap : n.gap a = s.gap a := by simp only [State.gap, profile]
  rw [parkEnd_congr profile, gap] at keeps breaks
  rw [craneReported_congr (s := s) (by rw [own])] at breaks
  have goes : s.afterReturn c ≠ .parking := by
    unfold State.afterReturn
    rw [open_]
    split <;> simp
  have widen : o.parkWidened c (s.afterReturn c) = id := by
    funext i
    unfold State.parkWidened
    split
    · next h _ => exact absurd h goes
    · rfl
  obtain ⟨moved, -⟩ := moves
  have last := (moved _ announce).1
  rw [widen] at last
  refine ⟨_, last, ?_, fun h => ?_, fun hne hk => ?_⟩
  · cases e <;> rfl
  · rw [← keeps h]
    cases e <;> rfl
  · obtain ⟨wide, report⟩ := breaks hne hk
    exact ⟨by rw [← wide]; cases e <;> rfl, stand _ report rfl⟩

/-! ## A restart: the work given up -/

theorem each_leaveStranded_jobs (c : CraneId) (qs : List Handle) (s : State) :
    ((s.each qs (State.leaveStranded c)).crane c).jobs = (s.crane c).jobs.filter fun g => decide (g ∉ qs) := by
  induction qs generalizing s with
  | nil => simp [State.each]
  | cons q qs ih =>
    have first : ((State.leaveStranded c s q).crane c).jobs = (s.crane c).jobs.filter (· ≠ q) := by
      unfold State.leaveStranded
      cases hu : (s.crane c).unit with
      | none => simp [Crane.jobs, hu]
      | some u =>
        have back : Frame [.cells, .jobs, .credit, .events] (s.setCrane c { s.crane c with unit := some (u.without q) })
            ((s.setCrane c { s.crane c with unit := some (u.without q) }).returnToReady c q) :=
          (Frame.refl _ _).returnToReady c q (by simp)
        dsimp only
        rw [back.crane c (by simp), State.setCrane_crane, if_pos rfl]
        simp [Crane.jobs, hu, WorkUnit.without]
    show (((State.leaveStranded c s q).each qs (State.leaveStranded c)).crane c).jobs = _
    rw [ih, first, List.filter_filter]
    refine List.filter_congr fun g _ => ?_
    simp only [List.mem_cons, not_or, ne_eq, Bool.decide_and, Bool.and_comm]

/-- A crane's jobs are one job, and it is LOADED. -/
theorem loadedOn_alone {h : Handle} {k : Job} (hu : (s.crane c).unit ≠ none) (hm : h ∈ (s.crane c).jobs)
    (alone : ∀ g ∈ (s.crane c).jobs, g = h) (hk : s.job? h = some k) (loaded : k.state = .loaded) :
    s.loadedOn c = some h := by
  unfold State.loadedOn
  unfold Crane.jobs at hm alone
  cases hu' : (s.crane c).unit with
  | none => exact absurd hu' hu
  | some u =>
    rw [hu'] at hm alone
    cases found : s.loadedJob u with
    | none =>
      have none := List.find?_eq_none.mp found h hm
      simp [hk, loaded] at none
    | some g => exact found.trans (congrArg some (alone g (List.mem_of_find?_eq_some found)))

/-- Work broken off leaves the LOADED job on board (R131, R145). -/
theorem breakWork_loadedOn (s : State) (c : CraneId) : (s.breakWork c).loadedOn c = s.loadedOn c := by
  obtain ⟨-, ⟨u, o, crane, busy, free⟩, loaded, -, -⟩ := breakWork_broken s c
  cases hl : s.loadedOn c with
  | none =>
    unfold State.loadedOn
    rw [crane, (free hl).1]
  | some h =>
    obtain ⟨k, hk, state, -⟩ := loaded h hl
    obtain ⟨own, -⟩ := endRedirect_records s c
    have load := endRedirect_loadedOn s c
    obtain ⟨there, -⟩ := loadedOn_eq_some hl
    have jobs : ((s.breakWork c).crane c).jobs = (s.crane c).jobs.filter fun g =>
        decide (g ∉ (s.crane c).jobs.filter (· ≠ h)) := by
      unfold State.breakWork
      dsimp only
      rw [load, hl]
      dsimp only
      have same : ((s.endRedirect c).crane c).jobs = (s.crane c).jobs := by rw [own]; rfl
      have first : Frame [.crane c, .events] (s.endRedirect c) ((s.endRedirect c).stopDeadline c) :=
        (Frame.refl _ _).stopDeadline c (by simp)
      have second : Frame [.jobs] ((s.endRedirect c).stopDeadline c)
          (((s.endRedirect c).stopDeadline c).updJob h fun j => { j with stranded := true }) :=
        (Frame.refl _ _).updJob h _ (by simp)
      have stopped : ((((s.endRedirect c).stopDeadline c).updJob h fun j => { j with stranded := true }).crane c).jobs =
          ((s.endRedirect c).crane c).jobs := by
        rw [second.crane c (by simp)]
        have record : ((s.endRedirect c).stopDeadline c).crane c = { (s.endRedirect c).crane c with deadline := none } :=
          (State.setCrane_crane _ c c _).trans (if_pos rfl)
        rw [record]
        rfl
      refine (each_leaveStranded_jobs c (((s.endRedirect c).crane c).jobs.filter (· ≠ h)) _).trans ?_
      rw [stopped, same]
    refine loadedOn_alone (by rw [crane]; exact busy (by simp [hl])) ?_ (fun g hg => ?_) hk state
    · rw [jobs]
      simp [there]
    · rw [jobs] at hg
      simp only [List.mem_filter, decide_eq_true_eq, not_and, not_not] at hg
      exact hg.2 hg.1

theorem job?_congr (h : t.jpl = s.jpl) : t.job? = s.job? := by
  funext g
  unfold State.job? State.slot
  rw [h]

theorem restartGivesUp_eq (s : State) (c : CraneId) : s.restartGivesUp c =
    if (s.crane c).state ∈ [CraneState.backoff, .outOfService] then s else s.faultTreats c := by
  unfold State.restartGivesUp State.faultTreats
  cases (s.crane c).state <;> simp

theorem restartGivesUp_treated (s : State) (c : CraneId) : Treated s (s.restartGivesUp c) c := by
  rw [restartGivesUp_eq]
  split
  · exact .refl s c
  · exact faultTreats_treated s c

theorem restartGivesUp_idle (hs : (s.crane c).state ∉ [CraneState.offered, .working]) :
    (s.restartGivesUp c).jpl = s.jpl ∧ ((s.restartGivesUp c).crane c).unit = (s.crane c).unit := by
  rw [restartGivesUp_eq]
  split
  · exact ⟨rfl, rfl⟩
  · exact faultTreats_idle hs

theorem restartGivesUp_working (hs : (s.crane c).state ∈ [CraneState.offered, .working]) :
    s.restartGivesUp c = s.breakWork c := by
  rw [restartGivesUp_eq, if_neg, faultTreats_working hs]
  simp only [List.mem_cons, List.not_mem_nil, or_false] at hs ⊢
  rintro (h | h) <;> simp [h] at hs

theorem restartGivesUp_loadedOn (s : State) (c : CraneId) : (s.restartGivesUp c).loadedOn c = s.loadedOn c := by
  by_cases hs : (s.crane c).state ∈ [CraneState.offered, .working]
  · rw [restartGivesUp_working hs, breakWork_loadedOn]
  · obtain ⟨jpl, unit⟩ := restartGivesUp_idle hs
    exact loadedOn_congr unit fun g => by rw [job?_congr jpl]

theorem restartGivesUp_leave (s : State) (c : CraneId) :
    ((s.restartGivesUp c).crane c).leaveService = (s.crane c).leaveService := by
  rw [restartGivesUp_eq]
  split
  · rfl
  · next hs =>
    unfold State.faultTreats
    split
    case h_1 | h_2 =>
      obtain ⟨-, ⟨u, o, crane, -⟩, -⟩ := breakWork_broken s c
      rw [crane]
    case h_3 => rw [abandonClear_crane]
    case h_4 => rw [stopParkTimer_crane]
    case h_5 h | h_6 h => simp [h] at hs
    all_goals rfl

/-! ## A restart: the state taken -/

/-- The state a restarting crane takes, by what it has left (R131; log entry 22). -/
def State.restartState (s : State) (c : CraneId) : CraneState :=
  if (s.crane c).unit ≠ none then .faulted
  else if (s.crane c).state = .backoff ∨ (s.crane c).state = .outOfService then (s.crane c).state
  else s.afterReturn c

structure RestartGone (s t : State) (c : CraneId) : Prop where
  frame : Frame [.crane c, .rail, .holdBack, .parkOwed, .holds, .profiles, .tx (.crane c), .queue, .events] s t
  crane : ∃ l k, t.crane c = { s.crane c with state := s.restartState c, leaveService := l, parkTimer := k }
  interval : IntervalIs s t c fun i => if s.restartState c = .faulted then i else
    s.parkWidened c (s.restartState c) (i.fallen (s.craneBay c) [])
  stand : EventsStand s t

theorem fall_interval (s : State) (c : CraneId) : IntervalIs s (s.fall c []) c fun i => i.fallen (s.craneBay c) [] := by
  have fell : Frame [.rail, .events] s (s.fall c []) := (Frame.refl _ s).fall c [] (by simp)
  cases hm : (s.crane c).mapping with
  | none => exact .of_unmapped hm (by rw [fell.crane c (by simp), hm])
  | some m => exact (fall_moves (s := s) (c := c) (a := m.1) (e := m.2) hm []).interval hm (by rw [fell.crane c (by simp), hm])

theorem afterReturn_ne_faulted (s : State) (c : CraneId) : s.afterReturn c ≠ .faulted := by
  unfold State.afterReturn
  split
  · decide
  · split <;> decide

theorem parkWidened_of_ne {z : CraneState} (hz : z ≠ .parking) : s.parkWidened c z = id := by
  funext i
  unfold State.parkWidened
  split
  · next h _ => exact absurd rfl hz
  · rfl

theorem restartGoes_gone (s : State) (c : CraneId) : RestartGone s (s.restartGoes c) c := by
  unfold State.restartGoes
  cases hu : (s.crane c).unit with
  | some u =>
    have goes : s.restartState c = .faulted := if_pos (by simp [hu])
    have own := enterState_undiverted (x := .faulted) rfl s c
    have interval := enterState_interval s c .faulted
    simp only [Option.isSome_some, if_true]
    exact {
      frame := (enterState_frame s c .faulted).mono (by simp)
      crane := ⟨_, _, by rw [goes]; exact own⟩
      interval := by simp only [goes, if_true]; exact interval
      stand := enterState_stand s c .faulted }
  | none =>
    have fell : Frame [.rail, .events] s (s.fall c []) := (Frame.refl _ s).fall c [] (by simp)
    have interval := fall_interval s c
    have stood := fall_stand s c []
    simp only [Option.isSome_none, Bool.false_eq_true, if_false]
    generalize s.fall c [] = m at *
    have same := fell.crane c (by simp)
    have goes : s.restartState c = if (s.crane c).state = .backoff ∨ (s.crane c).state = .outOfService then
        (s.crane c).state else s.afterReturn c := if_neg (by simp [hu])
    have stays (h : (s.crane c).state = .backoff ∨ (s.crane c).state = .outOfService) : RestartGone s m c := by
      rw [if_pos h] at goes
      have moving : (s.crane c).state ≠ .faulted ∧ (s.crane c).state ≠ .parking := by rcases h with h | h <;> simp [h]
      exact {
        frame := fell.mono (by simp)
        crane := ⟨_, _, by rw [goes]; exact same⟩
        interval := by simp only [goes, moving.1, if_false, parkWidened_of_ne moving.2, id]; exact interval
        stand := stood }
    split
    · next h => exact stays (.inl (same ▸ h))
    · next h => exact stays (.inr (same ▸ h))
    · next hb ho =>
      rw [same] at hb ho
      rw [if_neg (not_or.mpr ⟨hb, ho⟩)] at goes
      have stopped : m.aisleStopped c = s.aisleStopped c := aisleStopped_congr fell (by simp) (by rw [same])
      have after : m.afterReturn c = s.afterReturn c := by simp only [State.afterReturn, stopped, same]
      rw [goIdleOrPark_eq]
      obtain ⟨frame, ⟨k, own, -⟩, -, stand, last, -⟩ := go_gone (s := m) (c := c) (by rw [same]; exact hb) (m.aisleStopped c)
      rw [goesTo_aisleStopped, after] at own last
      rw [parkWidened_congr (s := s) (by rw [same]) (fell.profile? (by simp))] at last
      exact {
        frame := (fell.mono (by simp)).trans frame
        crane := ⟨_, _, by rw [own, goes, same]⟩
        interval := by simp only [goes, afterReturn_ne_faulted, if_false]; exact interval.trans last
        stand := stood.trans stand }

/-! ## A restart -/

/-- The state in which a restarting crane's position is recorded and a breach raised (R119, R131). -/
def State.restartPlaced (s : State) (c : CraneId) (z : Point) (p : List Byte) : State :=
  (s.restartBreach c z.bay p).setPosition c z

theorem restartBreach_raised (s : State) (c : CraneId) (bay : Nat) (p : List Byte) :
    BreachRaised s (s.restartBreach c bay p) c bay none p := by
  intro r hr hb
  unfold State.restartBreach
  simp only [hr, hb, Bool.false_eq_true, if_false]
  rw [raiseFault_reported]
  simp

theorem restartPlaced_parts (hm : (s.crane c).mapping = some (a, e)) (z : Point) (p : List Byte) :
    Frame [.crane c, .events] s (s.restartPlaced c z p)
      ∧ (s.restartPlaced c z p).crane c = { s.crane c with bay := z.bay, level := z.level, known := s.configured a }
      ∧ BreachRaised s (s.restartPlaced c z p) c z.bay none p := by
  have breach : Frame [.events] s (s.restartBreach c z.bay p) := (Frame.refl _ s).restartBreach c _ _ (by simp)
  have raised := restartBreach_raised s c z.bay p
  unfold State.restartPlaced
  generalize s.restartBreach c z.bay p = m at *
  have same := breach.crane c (by simp)
  have placed := setPosition_frame m c z
  refine ⟨(breach.mono (by simp)).trans (placed.mono (by simp)), ?_, fun r hr hb => ?_⟩
  · rw [setPosition_crane (a := a) (e := e) (by rw [same]; exact hm), same, State.configured, State.configured,
      breach.profile? (by simp)]
  · have events : (m.setPosition c z).events = m.events := placed .events (by simp)
    rw [events]
    exact raised r hr hb

/-- The second half of O42. -/
theorem hello_restarts (announced : Announced s c) (hm : (s.crane c).mapping = some (a, e))
    (hq : ∀ q, s.profile? a = some q → x.toNat ≤ q.geo.bays + 1 ∧ y.toNat ≤ q.geo.levels) :
    ∃ t, exec (.hello c [x, y]) s = .next t
      ∧ (t.crane c).bay = x.toNat ∧ (t.crane c).level = y.toNat ∧ (t.crane c).known = s.configured a
      ∧ t.events.getLast? = some (s.craneReported .craneRestart c (s.loadedOn c) [x, y])
      ∧ (∀ d, d ≠ c → t.crane d = s.crane d) ∧ t.flg = s.flg ∧ t.swu.waves = s.swu.waves
      ∧ (RailLawful s → IntervalIs s t c (fun i => if (t.crane c).state = .faulted then i else
          s.parkWidened c (t.crane c).state (i.fallen x.toNat [])))
      ∧ BreachRaised s t c x.toNat none [x, y]
      ∧ ((s.crane c).state ∈ [CraneState.offered, .working] →
          (t.crane c).redirect = none ∧ (t.crane c).deadline = none
          ∧ (∀ h, s.loadedOn c = some h → (t.crane c).state = .faulted
              ∧ ∃ k, t.job? h = some k ∧ k.state = .loaded ∧ k.stranded = true)
          ∧ (s.loadedOn c = none → (t.crane c).state = s.afterReturn c ∧ (t.crane c).unit = none
              ∧ (t.crane c).offerTimer = none ∧ ∀ h ∈ (s.crane c).jobs, ∀ j, s.job? h = some j →
                ∃ k, t.job? h = some k ∧ k.state = .ready ∧ k.unit = none))
      ∧ ((s.crane c).state ∉ [CraneState.offered, .working] → t.jpl = s.jpl
          ∧ (t.crane c).state =
            (if (s.crane c).unit ≠ none then .faulted
             else if (s.crane c).state = .backoff ∨ (s.crane c).state = .outOfService then (s.crane c).state
             else s.afterReturn c)) := by
  have frame : Frame [.events] s (s.take (.hello c [x, y])) := (Frame.refl _ s).take _ (by simp)
  have crane : (s.take (.hello c [x, y])).crane = s.crane := rfl
  obtain ⟨hears, -, there⟩ := announced
  refine ⟨_, hello_exec hears hm hq, ?_⟩
  generalize s.take (.hello c [x, y]) = l at *
  have form : l.hello c { bay := x.toNat, level := y.toNat } [x, y] =
      (((l.restartPlaced c { bay := x.toNat, level := y.toNat } [x, y]).restartGivesUp c).restartGoes c).raiseRestart c
        [x, y] := if_neg (by rw [crane]; exact there)
  rw [form]
  clear form
  obtain ⟨placed, own, breach⟩ := restartPlaced_parts (s := l) (c := c) (a := a) (e := e) (by rw [crane]; exact hm)
    { bay := x.toNat, level := y.toNat } [x, y]
  rw [crane, show l.configured a = s.configured a by simp only [State.configured, frame.profile? (show Part.profiles ∉ [Part.events] by simp)]] at own
  generalize l.restartPlaced c { bay := x.toNat, level := y.toNat } [x, y] = m at *
  have first : Frame [.crane c, .events] s m := (frame.mono (by simp)).trans placed
  have load : m.loadedOn c = s.loadedOn c := loadedOn_congr (by rw [own]) fun g => by rw [first.job? (by simp)]
  have treated := restartGivesUp_treated m c
  have left := restartGivesUp_loadedOn m c
  have leave := restartGivesUp_leave m c
  have idle : (s.crane c).state ∉ [CraneState.offered, .working] →
      (m.restartGivesUp c).jpl = s.jpl ∧ ((m.restartGivesUp c).crane c).unit = (s.crane c).unit := fun h => by
    obtain ⟨jpl, unit⟩ := restartGivesUp_idle (s := m) (c := c) (by rw [own]; exact h)
    exact ⟨jpl.trans (first.jpl (by simp) (by simp) (by simp) (by simp)), by rw [unit, own]⟩
  have busy : (s.crane c).state ∈ [CraneState.offered, .working] → WorkBroken m (m.restartGivesUp c) c := fun h => by
    rw [restartGivesUp_working (by rw [own]; exact h)]
    exact breakWork_broken m c
  generalize m.restartGivesUp c = n at *
  obtain ⟨gives, mapped, state, -, place, kept, stood⟩ := treated
  rw [own] at mapped state place leave
  obtain ⟨bay, level, known⟩ := place
  have second : Frame [.crane c, .rail, .cells, .jobs, .credit, .events] s n := (first.mono (by simp)).trans gives
  have after : n.afterReturn c = s.afterReturn c := by
    simp only [State.afterReturn, aisleStopped_congr second (show Part.holds ∉ _ by simp) mapped, leave]
  obtain ⟨goes, ⟨lv, pk, record⟩, interval, stands⟩ := restartGoes_gone n c
  generalize n.restartGoes c = o at *
  have third : Frame [.crane c, .rail, .holdBack, .parkOwed, .holds, .profiles, .cells, .jobs, .credit, .tx (.crane c), .queue,
      .events] s o := (second.mono (by simp)).trans (goes.mono (by simp))
  have load' : o.loadedOn c = s.loadedOn c :=
    (loadedOn_congr (by rw [record]) fun g => by rw [goes.job? (by simp)]).trans (left.trans load)
  have report : (o.raiseRestart c [x, y]).events = o.events ++ [s.craneReported .craneRestart c (s.loadedOn c) [x, y]] := by
    rw [← load', ← craneReported_congr (s := s) (t := o) (by rw [record]; exact mapped)]
    exact raiseFault_reported o o .craneRestart c (o.loadedOn c) [x, y]
  have raised : Frame [.events] o (o.raiseRestart c [x, y]) := (Frame.refl _ o).raiseFault _ _ _ _ _ (by simp)
  generalize o.raiseRestart c [x, y] = t at *
  have final : t.crane c = _ := (raised.crane c (by simp)).trans record
  have whole := third.trans (raised.mono (by simp))
  have job : ∀ g, t.job? g = n.job? g := fun g => by rw [raised.job? (by simp), goes.job? (by simp)]
  have moved : IntervalIs s t c fun i => if n.restartState c = .faulted then i else
      s.parkWidened c (n.restartState c) (i.fallen (n.craneBay c) []) := by
    rw [parkWidened_congr (s := s) mapped (second.profile? (by simp))] at interval
    exact (((IntervalIs.of_rail (by rw [own]) fun b => first.rail (by simp) b).trans kept).trans interval).trans
      (.of_rail (by rw [final, record]) fun b => raised.rail (by simp) b)
  have state' : n.restartState c = (t.crane c).state := by rw [final]
  refine ⟨by rw [final]; exact bay, by rw [final]; exact level, by rw [final]; exact known, by rw [report]; simp,
    fun d hd => whole.crane d (by simp [hd]), whole.flg (by simp), whole .waves (by simp), fun lawful => ?_,
    fun r hr hb => ?_, fun hw => ?_, fun hw => ?_⟩
  · rw [← state']
    cases hr : s.rail a with
    | none =>
      have absent : s.entry c = none := by rw [entry_mapped hm, hr]; rfl
      unfold IntervalIs at moved ⊢
      rw [moved, absent]
      rfl
    | some r =>
      have tandem : s.isTandem a = true := by rw [← lawful.table a, hr]; rfl
      have configured : s.configured a = true := by
        unfold State.isTandem at tandem
        unfold State.configured
        cases hp : s.profile? a with
        | none => simp [hp] at tandem
        | some q => rfl
      have here : n.craneBay c = x.toNat := by
        unfold State.craneBay State.cranePoint
        rw [known, configured, if_pos rfl]
        exact bay
      rw [here] at moved
      exact moved
  · rw [report]
    refine List.mem_append_left _ ((stood.trans stands) _ ?_ rfl)
    rw [← craneReported_congr (s := s) (t := l) (by rw [crane])]
    refine breach r ?_ hb
    have same : l.entry c = s.entry c := by
      unfold State.entry
      rw [crane, funext fun b => frame.rail (show Part.rail ∉ [Part.events] by simp) b]
    rw [same]
    exact hr
  · obtain ⟨-, ⟨u, q, broken, some_, none_⟩, loaded, free, -⟩ := busy hw
    rw [load] at some_ none_ loaded free
    rw [own] at free
    rw [← state', final, broken]
    refine ⟨rfl, rfl, fun h hh => ⟨?_, ?_⟩, fun hn => ⟨?_, (none_ hn).1, (none_ hn).2, fun h hh j hj => ?_⟩⟩
    · exact if_pos (by rw [broken]; exact some_ (by simp [hh]))
    · rw [job]
      exact loaded h hh
    · have resting : ¬ ((s.crane c).state = .backoff ∨ (s.crane c).state = .outOfService) := by
        rintro (h | h) <;> simp [h] at hw
      have free_ : (n.crane c).unit = none := by rw [broken, (none_ hn).1]
      rw [State.restartState, free_, state, after, if_neg (by simp), if_neg resting]
    · rw [job]
      exact free hn h hh j (by rw [first.job? (by simp)]; exact hj)
  · obtain ⟨jpl, unit⟩ := idle hw
    refine ⟨?_, ?_⟩
    · rw [raised.jpl (by simp) (by simp) (by simp) (by simp), goes.jpl (by simp) (by simp) (by simp) (by simp), jpl]
    · rw [← state', State.restartState, unit, state, after]

/-- Settles O42: an ABSENT crane announces itself, and any other restarts. -/
theorem helloAnnouncesOrRestarts : Obligations.HelloAnnouncesOrRestarts :=
  ⟨fun _ _ _ _ _ _ hr hm hs hq => hello_announces hr hm hs hq, fun _ _ _ _ _ _ announced hm hq =>
    hello_restarts announced hm hq⟩

end Sys2Proof.Machine
end
section
/-! The winner of a selection: its offer, or the clear it needs (O55). -/

namespace Sys2Proof.Machine

variable {r s t : State} {c d o : CraneId} {a : AisleId} {e : End} {p : Profile} {u : Proposal} {j x y : Job} {n : BitVec 8}

/-! ## The jobs of a winner -/

/-- The jobs of a unit as formed: one live job, or a live store and a live retrieve. -/
def State.formed (s : State) (js : List Job) : Prop :=
  (∃ j, js = [j] ∧ s.job? j.handle = some j)
    ∨ ∃ x y, js = [x, y] ∧ x.kind = .store ∧ y.kind = .retrieve ∧ s.job? x.handle = some x ∧ s.job? y.handle = some y

theorem job?_of_mem (hl : HandleLaw s) (hj : j ∈ s.jobs) : s.job? j.handle = some j := by
  obtain ⟨i, hi⟩ := State.mem_jobs.mp hj
  have handle := hl i j hi
  refine State.job?_eq_some.mpr ?_
  rw [handle]
  exact ⟨rfl, hi⟩

theorem mem_of_window (hj : j ∈ s.window a e) : j ∈ s.jobs :=
  (List.mem_filter.mp ((sortBy_perm Job.ageKey _).mem_iff.mp (List.mem_of_mem_take hj))).1

theorem minBy_mem {α : Type} {key : α → List Nat} {xs : List α} {z : α} (h : minBy key xs = some z) : z ∈ xs := by
  obtain ⟨before, behind, rfl, -⟩ := minBy_eq_some key h
  simp

theorem withCandidate_jobs {q : Point} {before : List Job} {first : List Step}
    (h : s.withCandidate p q a e before first j = some u) : u.jobs = before ++ [j] := by
  obtain ⟨_, _, rfl⟩ := List.mem_map.mp (minBy_mem h)
  rfl

theorem single_jobs {q : Point} (h : s.single p q a e j = some u) : u.jobs = [j] := by
  unfold State.single at h
  split at h
  · cases h; rfl
  · cases h; rfl
  · exact withCandidate_jobs h

theorem pairs_jobs {q : Point} {w : List Job} (h : u ∈ s.pairs p q a e w) :
    ∃ x y, u.jobs = [x, y] ∧ x ∈ w ∧ y ∈ w ∧ x.kind = .store ∧ y.kind = .retrieve := by
  unfold State.pairs at h
  split at h
  · obtain ⟨x, hx, h⟩ := List.mem_flatMap.mp h
    obtain ⟨y, hy, h⟩ := List.mem_filterMap.mp h
    obtain ⟨hx, store⟩ := List.mem_filter.mp (List.mem_of_mem_take hx)
    obtain ⟨hy, retrieve⟩ := List.mem_filter.mp hy
    exact ⟨x, y, withCandidate_jobs h, hx, hy, of_decide_eq_true store, of_decide_eq_true retrieve⟩
  · cases h

theorem winner_formed (hl : HandleLaw s) (h : s.winner c p a e = some u) : s.formed u.jobs := by
  have proposed := (List.mem_filter.mp (minBy_mem h)).1
  rcases List.mem_append.mp proposed with h | h
  · obtain ⟨j, hj, single⟩ := List.mem_filterMap.mp h
    exact .inl ⟨j, single_jobs single, job?_of_mem hl (mem_of_window hj)⟩
  · obtain ⟨x, y, jobs, hx, hy, store, retrieve⟩ := pairs_jobs h
    exact .inr ⟨x, y, jobs, store, retrieve, job?_of_mem hl (mem_of_window hx), job?_of_mem hl (mem_of_window hy)⟩

/-! ## The jobs marked OFFERED -/

/-- The other job of a pair, as an offer writes it down (R42). -/
def otherJob (js : List Job) (j : Job) : Option Handle := (js.find? fun q => decide (q.handle ≠ j.handle)).map (·.handle)

/-- A retrieve's station has one more retrieve bound for it (R161). -/
theorem updBound_bind (hm : (s.crane c).mapping = some (a, e)) (j : Job) (b : AisleId) (f : End) :
    (s.updBound c j Credit.bind).credit b f =
      if (b, f) = (a, e) ∧ j.kind = .retrieve then (s.credit b f).bind else s.credit b f := by
  unfold State.updBound
  cases hk : j.kind with
  | store | relocate => simp
  | retrieve =>
    have raised : ∀ t : State, (t.select a).credit b f = t.credit b f := fun t => rfl
    rw [hm]
    simp only [State.updCredit]
    split
    all_goals
      simp only [raised, State.setCredit_credit, Prod.mk.injEq, and_true]
      split
      · next h => rw [h.1, h.2]
      · rfl

/-- One job marked OFFERED (R50, R161). -/
theorem markOffered_marks (hm : (s.crane c).mapping = some (a, e)) (n : BitVec 8) (u : Proposal) (j : Job) :
    (∀ g, (s.markOffered c n u j).job? g = if g = j.handle then (s.job? g).map fun k => { k with
        state := .offered, unit := some { crane := c, number := n }, partner := otherJob u.jobs j,
        chosen := if k.kind = .retrieve then u.pick else k.chosen } else s.job? g)
      ∧ ∀ b f, (s.markOffered c n u j).credit b f =
        if (b, f) = (a, e) ∧ j.kind = .retrieve then (s.credit b f).bind else s.credit b f := by
  unfold State.markOffered
  dsimp only
  have record := fun g => updJob_job_map s j.handle g fun k => { k with
    state := .offered, unit := some { crane := c, number := n }, partner := otherJob u.jobs j,
    chosen := if k.kind = .retrieve then u.pick else k.chosen }
  have frame : Frame [.jobs] s (s.updJob j.handle fun k => { k with
      state := .offered, unit := some { crane := c, number := n }, partner := otherJob u.jobs j,
      chosen := if k.kind = .retrieve then u.pick else k.chosen }) := (Frame.refl _ s).updJob _ _ (by simp)
  unfold otherJob at record frame ⊢
  generalize (s.updJob j.handle _) = m at *
  have bound : Frame [.credit, .events] m (m.updBound c j Credit.bind) := (Frame.refl _ m).updBound c j _ (by simp)
  have credits : m.swu.credits = s.swu.credits := frame .credit (by simp)
  refine ⟨fun g => ?_, fun b f => ?_⟩
  · rw [bound.job? (by simp), record]
    split
    · next h => rw [h]
    · rfl
  · rw [updBound_bind (by rw [frame.crane c (by simp)]; exact hm)]
    simp only [State.credit, credits]

/-- The jobs of a unit marked OFFERED. -/
structure UnitMarked (s t : State) (c : CraneId) (a : AisleId) (e : End) (n : BitVec 8) (u : Proposal) : Prop where
  frame : Frame [.jobs, .credit, .events] s t
  job : ∀ j ∈ u.jobs, ∃ k, t.job? j.handle = some k ∧ k.state = .offered ∧ k.unit = some { crane := c, number := n }
    ∧ k.partner = otherJob u.jobs j
  credit : ∀ b f, t.credit b f = if (b, f) = (a, e) ∧ ∃ j ∈ u.jobs, j.kind = .retrieve then
    { reportedFree := (s.credit b f).reportedFree, inFlight := (s.credit b f).inFlight + 1 } else s.credit b f

theorem each_markOffered_marked (hm : (s.crane c).mapping = some (a, e)) (hf : s.formed u.jobs) (n : BitVec 8) :
    UnitMarked s (s.each u.jobs fun s j => s.markOffered c n u j) c a e n u := by
  have frame : Frame [.jobs, .credit, .events] s (s.each u.jobs fun s j => s.markOffered c n u j) :=
    Frame.each u.jobs (fun _ j k => k.markOffered c n u j (by simp)) (.refl _ s)
  rcases hf with ⟨j, hu, hj⟩ | ⟨x, y, hu, store, retrieve, hx, hy⟩
  · have form : (s.each u.jobs fun s j => s.markOffered c n u j) = s.markOffered c n u j := by rw [hu]; rfl
    obtain ⟨job, credit⟩ := markOffered_marks hm n u j
    rw [form] at frame ⊢
    refine ⟨frame, fun k hk => ?_, fun b f => ?_⟩
    · obtain rfl : k = j := by simpa [hu] using hk
      exact ⟨_, by rw [job, if_pos rfl, hj]; rfl, rfl, rfl, rfl⟩
    · rw [credit, hu]
      simp only [List.mem_singleton, exists_eq_left, Credit.bind]
  · have hne : x.handle ≠ y.handle := fun h => by
      rw [h, hy] at hx
      cases hx
      rw [store] at retrieve
      cases retrieve
    have form : (s.each u.jobs fun s j => s.markOffered c n u j) = (s.markOffered c n u x).markOffered c n u y := by
      rw [hu]; rfl
    obtain ⟨job, credit⟩ := markOffered_marks hm n u x
    have first : Frame [.jobs, .credit, .events] s (s.markOffered c n u x) := (Frame.refl _ s).markOffered c n u x (by simp)
    obtain ⟨job', credit'⟩ := markOffered_marks (s := s.markOffered c n u x) (c := c) (a := a) (e := e)
      (by rw [first.crane c (by simp)]; exact hm) n u y
    rw [form] at frame ⊢
    refine ⟨frame, fun k hk => ?_, fun b f => ?_⟩
    · rcases (by simpa [hu] using hk : k = x ∨ k = y) with rfl | rfl
      · exact ⟨_, by rw [job', if_neg hne, job, if_pos rfl, hx]; rfl, rfl, rfl, rfl⟩
      · exact ⟨_, by rw [job', if_pos rfl, job, if_neg (Ne.symm hne), hy]; rfl, rfl, rfl, rfl⟩
    · rw [credit', credit, hu]
      simp [store, retrieve, Credit.bind]

/-! ## The reservation of a unit's candidate -/

/-- A unit is reserved for, where the candidate is FULL and the pair rule allows it (R14, R79). -/
theorem reserveUnit_reserved (hw : MapWf s)
    (hp : ∀ x j, u.pick = some x → u.jobs.getLast? = some j → ∃ k, (s.cell x).state = .full k ∧ s.pairAllows x = true) :
    ∃ t, s.reserveUnit u = some t ∧ Frame [.cells, .events] s t
      ∧ ∀ x j k, u.pick = some x → u.jobs.getLast? = some j → (s.cell x).state = .full k →
        t.cell x = { s.cell x with state := .outReserved j.handle k } := by
  unfold State.reserveUnit
  cases hx : u.pick with
  | none => exact ⟨s, rfl, .refl _ s, fun _ _ _ h => by cases h⟩
  | some x =>
    cases hj : u.jobs.getLast? with
    | none => exact ⟨s, rfl, .refl _ s, fun _ _ _ _ h => by cases h⟩
    | some j =>
      obtain ⟨k, full, allows⟩ := hp x j hx hj
      have form : s.reservePick x j.handle = some ((s.putState x (.outReserved j.handle k)).recheckCell x false) := by
        simp only [State.reservePick, full, allows, if_true]
      refine ⟨_, form, (Frame.refl _ s).reservePick x j.handle form (by simp), fun x' j' k' h h' hk => ?_⟩
      cases h
      cases h'
      rw [full] at hk
      cases hk
      have there : s.existing x := State.existing_of_ne_initial fun h => by
        rw [h] at full
        cases full
      rw [recheckCell_eq]
      show (s.putCell x _).cell x = _
      rw [State.cell_putCell hw x x _ there, if_pos rfl]

/-! ## A crane that leaves WAITING -/

theorem leaveWaiting_holdBack (s : State) (c d : CraneId) :
    (s.leaveWaiting c).holdBack d = if d = c then { s.holdBack c with timer := none } else s.holdBack d := by
  have first : (s.stopHoldBack c).holdBack d = if d = c then { s.holdBack c with timer := none } else s.holdBack d :=
    State.setHoldBack_holdBack s c d _
  unfold State.leaveWaiting
  dsimp only
  split
  · next b f _ =>
    have ended : Frame [.rail, .events] (s.stopHoldBack c) ((s.stopHoldBack c).endClaim b f) :=
      (Frame.refl _ _).endClaim b f (by simp)
    have same : ((s.stopHoldBack c).endClaim b f).ale.holdBack = (s.stopHoldBack c).ale.holdBack := ended .holdBack (by simp)
    simp only [State.holdBack, same]
    exact first
  · exact first

/-- What is left of a WAITING crane's claim and hold-back when it enters another state (R80, R122, R128). -/
theorem enterState_leaves (hm : (s.crane c).mapping = some (a, e)) (hs : (s.crane c).state = .waiting) {z : CraneState}
    (hz : z.leaveDiverts = false) :
    (∀ b, (s.enterState c z).rail b =
        if b = a then (s.rail a).map fun r => r.set e { r.get e with claim := none } else s.rail b)
      ∧ ∀ d, (s.enterState c z).holdBack d = if d = c then { s.holdBack c with timer := none } else s.holdBack d := by
  have dest : (s.crane c).destination z = z := if_neg (by simp [hz])
  have moves : z ≠ .waiting := fun h => by rw [h] at hz; cases hz
  let m := s.setCrane c ((s.crane c).entering z)
  have mapped : (m.crane c).mapping = some (a, e) := by
    have own : m.crane c = (s.crane c).entering z := (State.setCrane_crane s c c _).trans (if_pos rfl)
    rw [own]
    exact hm
  have form : s.entering c z = if z = .working ∨ z = .clearing then m.leaveWaiting c
      else (m.leaveWaiting c).setParkOwed c false := by
    have leaves : (s.crane c).state = .waiting ∧ z ≠ .waiting := ⟨hs, moves⟩
    simp only [State.entering, dest, leaves, ne_eq, not_false_eq_true, and_self, if_true]
    rfl
  rw [enterState_mapped hm]
  have last := settled_frame (s.entering c z) a ((s.crane c).state.busy = true ∧ (s.crane c).destination z ≠ (s.crane c).state)
    ((s.crane c).destination z = .idle ∧ (s.crane c).state ≠ .idle)
  have owed : Frame [.parkOwed] (m.leaveWaiting c) (s.entering c z) := by
    rw [form]
    exact (Frame.refl _ _).ite ((Frame.refl _ _).setParkOwed c false (by simp))
  have whole : Frame [.parkOwed, .holds, .profiles, .queue, .events] (m.leaveWaiting c) _ :=
    (owed.mono (by simp)).trans (last.mono (by simp))
  refine ⟨fun b => ?_, fun d => ?_⟩
  · exact (whole.rail (by simp) b).trans (leaveWaiting_rail mapped b)
  · have same := whole .holdBack (by simp)
    replace same : _ = (m.leaveWaiting c).ale.holdBack := same
    simp only [State.holdBack, same]
    exact leaveWaiting_holdBack m c d

/-! ## The offer -/

/-- An offer whose reservation stands, behind the marking of its jobs (R79). -/
structure Offered (s t : State) (c : CraneId) (n : BitVec 8) (h : Interval) (u : Proposal) : Prop where
  frame : Frame [.crane c, .rail, .holdBack, .parkOwed, .holds, .tx (.crane c), .queue, .events] s t
  state : (t.crane c).state = .offered
  unit : (t.crane c).unit = some { number := n, jobs := u.jobs.map (·.handle), steps := u.steps, current := 1 }
  counter : (t.crane c).unitCounter = (s.crane c).unitCounter + 1
  timer : (t.crane c).offerTimer = some (s.now + s.crt.tOffer)
  tx : t.tx (.crane c) = s.tx (.crane c) ++ [.offer n u.steps]
  holdBack : (t.holdBack c).timer = none
  entry : ∀ r, t.entry c = some r → r.granted = h ∧ r.claim = none

/-- The state in which an offer has been sent and its timer runs, before the crane is OFFERED. -/
def State.offerSent (s : State) (c : CraneId) (n : BitVec 8) (h : Interval) (u : Proposal) : State :=
  let s := s.grant c h
  let s := s.stopHoldBack c
  let s := s.advanceCounter c
  let s := s.setCrane c { s.crane c with
    unit := some { number := n, jobs := u.jobs.map (·.handle), steps := u.steps, current := 1 } }
  let s := s.send (.crane c) (.offer n u.steps)
  s.startOfferTimer c

theorem makeOffer_eq (s : State) (c : CraneId) (u : Proposal) : s.makeOffer c u =
    ((s.each u.jobs fun t j => t.markOffered c (s.crane c).unitCounter u j).offerSent c (s.crane c).unitCounter
      (s.unitHull c u.steps) u).enterState c .offered := rfl

/-- What stands of an offer when it has been sent. -/
theorem offerSent_parts (s : State) (c : CraneId) (n : BitVec 8) (h : Interval) (u : Proposal) :
    Frame [.crane c, .rail, .holdBack, .tx (.crane c), .events] s (s.offerSent c n h u)
      ∧ (s.offerSent c n h u).crane c = { s.crane c with
          unit := some { number := n, jobs := u.jobs.map (·.handle), steps := u.steps, current := 1 }
          unitCounter := (s.crane c).unitCounter + 1, offerTimer := some (s.now + s.crt.tOffer) }
      ∧ (s.offerSent c n h u).tx (.crane c) = s.tx (.crane c) ++ [.offer n u.steps]
      ∧ (s.offerSent c n h u).crt.rail = (s.grant c h).crt.rail := by
  have granted : Frame [.rail] s (s.grant c h) := (Frame.refl _ s).grant c h (by simp)
  unfold State.offerSent
  dsimp only
  generalize s.grant c h = g at *
  have same := granted.crane c (by simp)
  have stopped : Frame [.holdBack, .events] g (g.stopHoldBack c) := (Frame.refl _ g).stopHoldBack c (by simp)
  generalize g.stopHoldBack c = k at *
  have counted : (k.advanceCounter c).crane c = { s.crane c with unitCounter := (s.crane c).unitCounter + 1 } := by
    refine (State.setCrane_crane k c c _).trans ((if_pos rfl).trans ?_)
    rw [stopped.crane c (by simp), same]
  have advanced : Frame [.crane c] k (k.advanceCounter c) := (Frame.refl _ k).setCrane c _ (by simp)
  generalize k.advanceCounter c = l at *
  let m := l.setCrane c { l.crane c with
    unit := some { number := n, jobs := u.jobs.map (·.handle), steps := u.steps, current := 1 } }
  have written : Frame [.crane c] l m := (Frame.refl _ l).setCrane c _ (by simp)
  have own : m.crane c = { s.crane c with
      unit := some { number := n, jobs := u.jobs.map (·.handle), steps := u.steps, current := 1 }
      unitCounter := (s.crane c).unitCounter + 1 } := by
    refine (State.setCrane_crane l c c _).trans ((if_pos rfl).trans ?_)
    rw [counted]
  show Frame _ s ((m.send (.crane c) (.offer n u.steps)).startOfferTimer c) ∧ _
  have told : Frame [.tx (.crane c)] m (m.send (.crane c) (.offer n u.steps)) := (Frame.refl _ m).send _ _ (by simp)
  have timed : Frame [.crane c, .events] (m.send (.crane c) (.offer n u.steps))
      ((m.send (.crane c) (.offer n u.steps)).startOfferTimer c) := (Frame.refl _ _).startOfferTimer c (by simp)
  have before : Frame [.crane c, .rail, .holdBack, .events] s m := (granted.mono (by simp)).trans ((stopped.mono (by simp)).trans
    ((advanced.mono (by simp)).trans (written.mono (by simp))))
  obtain ⟨-, now, -, -, -, -, crt, -⟩ := before .rest (by simp)
  have expiry : (m.send (.crane c) (.offer n u.steps)).now + (m.send (.crane c) (.offer n u.steps)).crt.tOffer =
      s.now + s.crt.tOffer := by
    show m.now + m.crt.tOffer = _
    rw [now, crt]
  refine ⟨(before.mono (by simp)).trans ((told.mono (by simp)).trans (timed.mono (by simp))), ?_, ?_, ?_⟩
  · refine (State.setCrane_crane _ c c _).trans ((if_pos rfl).trans ?_)
    rw [expiry, told.crane c (by simp), own]
  · rw [show (((m.send (.crane c) (.offer n u.steps)).startOfferTimer c).tx (.crane c)) =
      (m.send (.crane c) (.offer n u.steps)).tx (.crane c) from timed.tx _ (by simp), ← before.tx (.crane c) (by simp)]
    simp [State.send]
  · exact (timed .rail (by simp)).trans ((told .rail (by simp)).trans ((written .rail (by simp)).trans
      ((advanced .rail (by simp)).trans (stopped .rail (by simp)))))

theorem offerSent_offered (hm : (s.crane c).mapping = some (a, e)) (hs : (s.crane c).state = .waiting) (n : BitVec 8)
    (h : Interval) (u : Proposal) : Offered s ((s.offerSent c n h u).enterState c .offered) c n h u := by
  obtain ⟨frame, own, tx, rail⟩ := offerSent_parts s c n h u
  obtain ⟨granted, none_, -⟩ := updOwn_moves (s := s) hm fun _ => h
  generalize s.offerSent c n h u = m at *
  have mapped : (m.crane c).mapping = some (a, e) := by rw [own]; exact hm
  have waits : (m.crane c).state = .waiting := by rw [own]; exact hs
  obtain ⟨leaves, holdBack⟩ := enterState_leaves mapped waits (z := .offered) rfl
  have record := enterState_undiverted (x := .offered) rfl m c
  have entered := enterState_calm (s := m) (c := c) (by rw [waits]; rfl) .offered
  generalize m.enterState c .offered = t at *
  exact {
    frame := (frame.mono (by simp)).trans (entered.mono (by simp))
    state := by rw [record]
    unit := by rw [record, own]
    counter := by rw [record, own]
    timer := by rw [record, own]
    tx := by rw [entered.tx _ (by simp), tx]
    holdBack := by rw [holdBack, if_pos rfl]
    entry := fun r hr => by
      have table : m.rail a = (s.grant c h).rail a := by simp only [State.rail, rail]
      rw [entry_mapped (a := a) (e := e) (by rw [record]; exact mapped), leaves, if_pos rfl, table] at hr
      cases hx : s.rail a with
      | none =>
        have gone : (s.grant c h).rail a = none := none_ hx
        rw [gone] at hr
        cases hr
      | some x =>
        have wide : (s.grant c h).rail a = _ := (granted x hx).1
        rw [wide] at hr
        cases hr
        cases e <;> exact ⟨rfl, rfl⟩ }

/-! ## The clear -/

/-- A clear sent to the other crane, for the crane that waits on with a claim (R81, R120). -/
structure ClearMade (s t : State) (c o : CraneId) (a : AisleId) (e : End) (h : Interval) (x : Nat) : Prop where
  frame : Frame [.crane o, .rail, .holdBack, .parkOwed, .holds, .tx (.crane o), .queue, .events] s t
  holdBack : (t.holdBack c).timer = none
  state : (t.crane o).state = .clearing
  timer : (t.crane o).parkTimer = some (s.now + s.crt.tPark)
  tx : t.tx (.crane o) = s.tx (.crane o) ++ [.clear x]
  rail : ∀ r, s.rail a = some r → ∃ r', t.rail a = some r'
    ∧ (r'.get e).claim = some h ∧ (r'.get e).granted = (r.get e).granted
    ∧ (r'.get (otherEnd e)).granted = hull (s.craneBay o) [x]
    ∧ (r'.get (otherEnd e)).clear = some { target := x, toWaiting := decide ((s.crane o).state = .waiting) }

/-- The state in which the other crane's entry holds its target. -/
def State.clearGranted (s : State) (c o : CraneId) (x : Nat) : State :=
  (s.stopHoldBack c).updOwn o fun r => { r with
    clear := some { target := x, toWaiting := decide ((s.crane o).state = .waiting) }, granted := hull (s.craneBay o) [x] }

theorem makeClear_eq (ho : s.craneAt a (otherEnd e) = some o) (h : Interval) (x : Nat) : s.makeClear c a e h x =
    (((((s.clearGranted c o x).enterState o .clearing).send (.crane o) (.clear x)).startParkTimer o).updEntry a e
      fun r => { r with claim := some h }) := by
  unfold State.makeClear
  rw [ho]
  rfl

/-- A crane that is IDLE or WAITING enters CLEARING: the claims of its aisle but its own stand. -/
theorem enterState_clears (hm : (s.crane o).mapping = some (a, otherEnd e))
    (hs : (s.crane o).state = .idle ∨ (s.crane o).state = .waiting) (hc : c ≠ o) :
    (∃ k : PerEnd RailEntry → Option Interval, ((s.enterState o .clearing).rail a) = (s.rail a).map fun r =>
        r.set (otherEnd e) { r.get (otherEnd e) with claim := k r })
      ∧ (s.enterState o .clearing).holdBack c = s.holdBack c := by
  rcases hs with hs | hs
  · have still := enterState_still (s := s) (c := o) (by rw [hs]; decide) .clearing
    refine ⟨⟨fun r => (r.get (otherEnd e)).claim, ?_⟩, ?_⟩
    · rw [still.rail (by simp)]
      cases s.rail a with
      | none => rfl
      | some r => exact congrArg some (PerEnd.set_get r (otherEnd e)).symm
    · have same : (s.enterState o .clearing).ale.holdBack = s.ale.holdBack := still .holdBack (by simp)
      simp only [State.holdBack, same]
  · obtain ⟨leaves, holdBack⟩ := enterState_leaves hm hs (z := .clearing) rfl
    exact ⟨⟨fun _ => none, by rw [leaves, if_pos rfl]⟩, by rw [holdBack, if_neg hc]⟩

theorem makeClear_made (hm : (s.crane c).mapping = some (a, e)) (ho : s.craneAt a (otherEnd e) = some o)
    (hs : (s.crane o).state = .idle ∨ (s.crane o).state = .waiting) (h : Interval) (x : Nat) :
    c ≠ o ∧ ClearMade s (s.makeClear c a e h x) c o a e h x := by
  have other := State.craneAt_mapping ho
  have hne : c ≠ o := fun h => by
    rw [h, other] at hm
    cases e <;> cases hm
  refine ⟨hne, ?_⟩
  rw [makeClear_eq ho]
  have stopped : Frame [.holdBack, .events] s (s.stopHoldBack c) := (Frame.refl _ s).stopHoldBack c (by simp)
  have held : ((s.stopHoldBack c).holdBack c).timer = none := by
    rw [show (s.stopHoldBack c).holdBack c = _ from State.setHoldBack_holdBack s c c _, if_pos rfl]
  have granted : Frame [.rail] (s.stopHoldBack c) (s.clearGranted c o x) := (Frame.refl _ _).updOwn o _ (by simp)
  have table := updOwn_rail (s := s.stopHoldBack c) (c := o) (a := a) (e := otherEnd e) other (fun r => { r with
    clear := some { target := x, toWaiting := decide ((s.crane o).state = .waiting) }, granted := hull (s.craneBay o) [x] }) a
  replace table : (s.clearGranted c o x).rail a = _ := table.trans (if_pos rfl)
  generalize s.clearGranted c o x = m at *
  have first : Frame [.rail, .holdBack, .events] s m := (stopped.mono (by simp)).trans (granted.mono (by simp))
  have same := first.crane o (by simp)
  have holds : m.ale.holdBack = (s.stopHoldBack c).ale.holdBack := granted .holdBack (by simp)
  obtain ⟨⟨k, claims⟩, keeps⟩ := enterState_clears (s := m) (c := c) (o := o) (a := a) (e := e) (by rw [same]; exact other)
    (by rw [same]; exact hs) hne
  have record := enterState_undiverted (x := .clearing) rfl m o
  have entered := enterState_calm (s := m) (c := o) (by rw [same]; rcases hs with h | h <;> rw [h] <;> rfl) .clearing
  generalize m.enterState o .clearing = n at *
  have told : Frame [.tx (.crane o)] n (n.send (.crane o) (.clear x)) := (Frame.refl _ n).send _ _ (by simp)
  have sent : (n.send (.crane o) (.clear x)).tx (.crane o) = n.tx (.crane o) ++ [.clear x] := by simp [State.send]
  generalize n.send (.crane o) (.clear x) = q at *
  have whole : Frame [.crane o, .rail, .holdBack, .parkOwed, .holds, .tx (.crane o), .queue, .events] s q :=
    (first.mono (by simp)).trans ((entered.mono (by simp)).trans (told.mono (by simp)))
  have timed : Frame [.crane o, .events] q (q.startParkTimer o) := (Frame.refl _ q).startParkTimer o (by simp)
  have own : (q.startParkTimer o).crane o = { q.crane o with parkTimer := some (q.now + q.crt.tPark) } :=
    (State.setCrane_crane q o o _).trans (if_pos rfl)
  generalize q.startParkTimer o = w at *
  have claimed : Frame [.rail] w (w.updEntry a e fun r => { r with claim := some h }) := (Frame.refl _ w).updEntry a e _ (by simp)
  obtain ⟨-, now, -, -, -, -, crt, -⟩ := whole .rest (by simp)
  have final : ((w.updEntry a e fun r => { r with claim := some h }).crane o) = _ := (claimed.crane o (by simp)).trans own
  have bay : (w.updEntry a e fun r => { r with claim := some h }).ale.holdBack = n.ale.holdBack :=
    (claimed .holdBack (by simp)).trans ((timed .holdBack (by simp)).trans (told .holdBack (by simp)))
  exact {
    frame := whole.trans ((timed.mono (by simp)).trans (claimed.mono (by simp)))
    holdBack := by
      have back : ((w.updEntry a e fun r => { r with claim := some h }).holdBack c) = (s.stopHoldBack c).holdBack c := by
        simp only [State.holdBack, bay]
        exact keeps.trans (by simp only [State.holdBack, holds])
      rw [back, held]
    state := by rw [final, told.crane o (by simp), record]
    timer := by rw [final, now, crt]
    tx := by rw [claimed.tx _ (by simp), timed.tx _ (by simp), sent, entered.tx _ (by simp), first.tx _ (by simp)]
    rail := fun r hr => by
      have rails : w.rail a = n.rail a := by rw [timed.rail (by simp), told.rail (by simp)]
      have start : (s.stopHoldBack c).rail a = some r := (stopped.rail (by simp) a).trans hr
      rw [claims, table, start] at rails
      refine ⟨_, by
        unfold State.updEntry
        rw [rails]
        exact (State.setRail_rail w a a _).trans (if_pos rfl), ?_⟩
      cases e <;> exact ⟨rfl, rfl, rfl, rfl⟩ }

/-! ## The obligation -/

/-- A winner that is not held back is taken up (R79 to R81). -/
theorem runSelection_takes (hs : (s.crane c).state = .waiting) (hm : (s.crane c).mapping = some (a, e))
    (hp : s.profile? a = some p) (ha : s.aisleEligible a = true) (hw : s.winner c p a e = some u)
    (hb : u.isLoneLow = false ∨ ((s.holdBack c).timer = none ∧ ((s.holdBack c).heldBack = true ∨ s.ale.tPair = 0))) :
    s.runSelection c = s.takeWinner c p a e u := by
  unfold State.runSelection
  simp only [hs, hm, hp, ha, hw, if_true]
  unfold State.decideWinner
  cases lone : u.isLoneLow with
  | false => rfl
  | true =>
    rw [lone] at hb
    obtain ⟨timer, rest⟩ := hb.resolve_left (by decide)
    simp only [timer, if_true]
    cases held : (s.holdBack c).heldBack with
    | true => rfl
    | false =>
      rw [held] at rest
      exact if_pos (rest.resolve_left (by decide))

/-- A clear is asked only of a crane that is IDLE or WAITING (R112). -/
theorem railVerdict_movable {h : Interval} {z : Nat} (hv : s.railVerdict p a e h = .needs z)
    (ho : s.craneAt a (otherEnd e) = some o) : (s.crane o).state = .idle ∨ (s.crane o).state = .waiting := by
  unfold State.railVerdict at hv
  split at hv
  · cases hv
  · dsimp only at hv
    split at hv
    · cases hv
    · split at hv
      · cases hv
      · split at hv
        · cases hv
        · next movable =>
          simp only [State.otherMovable, ho] at movable
          simpa [or_iff_not_imp_left] using movable

/-- An offer of a winner whose candidate is FULL (R50, R79, R161). -/
theorem offer_offered (hm : (s.crane c).mapping = some (a, e)) (hs : (s.crane c).state = .waiting)
    (formed : s.formed u.jobs) (hw : MapWf s)
    (hp : ∀ x j, u.pick = some x → u.jobs.getLast? = some j → ∃ k, (s.cell x).state = .full k ∧ s.pairAllows x = true) :
    ∃ m n, Frame [.cells, .events] s m
      ∧ (∀ x j k, u.pick = some x → u.jobs.getLast? = some j → (s.cell x).state = .full k →
        m.cell x = { s.cell x with state := .outReserved j.handle k })
      ∧ UnitMarked m n c a e (s.crane c).unitCounter u
      ∧ Offered n (s.offer c u) c (s.crane c).unitCounter (s.unitHull c u.steps) u := by
  obtain ⟨m, reserved, frame, cell⟩ := reserveUnit_reserved hw hp
  have form : s.offer c u = m.makeOffer c u := by rw [State.offer, reserved]
  have same := frame.crane c (by simp)
  have profile : m.profile? = s.profile? := frame.profile? (by simp)
  have hull_ : m.unitHull c u.steps = s.unitHull c u.steps := by
    unfold State.unitHull
    rw [stepBays_congr profile, show m.craneBay c = s.craneBay c from
      congrArg Point.bay (cranePoint_congr same rfl rfl rfl rfl profile)]
  have jobs : m.formed u.jobs := by
    simpa only [State.formed, frame.job? (show Part.jobs ∉ [Part.cells, .events] by simp)] using formed
  have marked := each_markOffered_marked (s := m) (c := c) (a := a) (e := e) (by rw [same]; exact hm) jobs
    (s.crane c).unitCounter
  rw [form, makeOffer_eq, same, hull_]
  have still := marked.frame.crane c (by simp)
  refine ⟨m, _, frame, cell, marked, offerSent_offered (a := a) (e := e) (by rw [still, same]; exact hm)
    (by rw [still, same]; exact hs) _ _ _⟩

/-- The urgency of jobs does not read the events (R77). -/
theorem unitUrgency_take (s : State) (i : Instr) (js : List Job) : (s.take i).unitUrgency js = s.unitUrgency js := by
  induction js with
  | nil => rfl
  | cons j js ih =>
    cases js with
    | nil => rfl
    | cons k ks =>
      show min ((s.take i).urgency j) ((s.take i).unitUrgency (k :: ks)) = _
      rw [ih]
      rfl

theorem winner_take (s : State) (i : Instr) (c : CraneId) (p : Profile) (a : AisleId) (e : End) :
    (s.take i).winner c p a e = s.winner c p a e := by
  have score : (s.take i).score = s.score := by
    funext u
    unfold State.score
    rw [unitUrgency_take]
  have rank : (s.take i).unitRank = s.unitRank := by
    funext u
    unfold State.unitRank
    rw [score]
  have proposals : (s.take i).proposals c p a e = s.proposals c p a e := rfl
  have verdict : ∀ h, (s.take i).railVerdict p a e h = s.railVerdict p a e h := fun _ => rfl
  have hulls : (s.take i).unitHull c = s.unitHull c := rfl
  unfold State.winner
  rw [rank, proposals]
  simp only [verdict, hulls]

/-- Settles O55: the winner is offered where its hull is clear, and the other crane is sent CLEAR where it must move. -/
theorem winnersAreOfferedOrClearedFor : Obligations.WinnersAreOfferedOrClearedFor := by
  intro s c a e p u hs hm hp ha role handles hw hb
  have formed := winner_formed handles hw
  have frame : Frame [.events] s (s.take (.selection c)) := (Frame.refl _ s).take _ (by simp)
  have run : exec (.selection c) s = .next ((s.take (.selection c)).takeWinner c p a e u) :=
    congrArg Host.Outcome.next (runSelection_takes (s := s.take (.selection c)) hs hm hp ha
      ((winner_take s _ c p a e).trans hw) hb)
  have crane : (s.take (.selection c)).crane = s.crane := rfl
  have cell : (s.take (.selection c)).cell = s.cell := rfl
  have bay : (s.take (.selection c)).craneBay = s.craneBay := rfl
  have verdict : (s.take (.selection c)).railVerdict p a e ((s.take (.selection c)).unitHull c u.steps) =
      s.railVerdict p a e (s.unitHull c u.steps) := rfl
  have hull_ : (s.take (.selection c)).unitHull c u.steps = s.unitHull c u.steps := rfl
  obtain ⟨-, now, -, -, -, -, crt, -⟩ := frame .rest (by simp)
  refine ⟨fun clear candidate wf => ⟨_, run, ?_⟩, fun x o needs ho => ⟨_, run, ?_⟩⟩
  · have form : (s.take (.selection c)).takeWinner c p a e u = (s.take (.selection c)).offer c u := by
      unfold State.takeWinner
      rw [verdict, clear]
    rw [form]
    obtain ⟨m, n, reserved, picked, ⟨marks, job, credit⟩, ⟨offers, state, unit, counter, timer, tx, back, entry⟩⟩ :=
      offer_offered (s := s.take (.selection c)) (c := c) (a := a) (e := e) (u := u) hm hs formed wf candidate
    clear form run candidate wf
    generalize (s.take (.selection c)).offer c u = t at *
    generalize s.take (.selection c) = l at *
    have start : Frame [.cells, .events] s m := (frame.mono (by simp)).trans reserved
    have until_ : Frame [.cells, .jobs, .credit, .events] s n := (start.mono (by simp)).trans (marks.mono (by simp))
    have whole := (until_.mono (by simp)).trans (offers.mono (ps := _) (qs := [.crane c, .rail, .holdBack, .parkOwed, .holds,
      .tx (.crane c), .queue, .cells, .jobs, .credit, .events]) (by simp))
    obtain ⟨-, now', -, -, -, -, crt', -⟩ := until_ .rest (by simp)
    rw [crane] at unit job tx
    rw [hull_] at entry
    rw [cell] at picked
    rw [until_.crane c (by simp)] at counter
    rw [now', show n.crt.tOffer = s.crt.tOffer by rw [crt']] at timer
    rw [until_.tx _ (by simp)] at tx
    have record : ∀ g, t.job? g = n.job? g := fun g => offers.job? (by simp) g
    have credits : t.swu.credits = n.swu.credits := offers .credit (by simp)
    have credits' : m.swu.credits = s.swu.credits := start .credit (by simp)
    refine ⟨state, unit, counter, timer, tx, back, fun j hj => ?_, fun x hx => ?_, fun x y hu => ?_, fun b f => ?_,
      fun x j k hx hj hk => ?_, entry, fun d hd => whole.crane d (by simp [hd]), whole.flg (by simp)⟩
    · obtain ⟨k, hk, offered, unit_, -⟩ := job j hj
      exact ⟨k, by rw [record, hk], offered, unit_⟩
    · obtain ⟨k, hk, -, -, partner⟩ := job x (by simp [hx])
      rw [record, hk]
      simp [partner, otherJob, hx]
    · obtain ⟨k, hk, -, -, partner⟩ := job x (by simp [hu])
      obtain ⟨k', hk', -, -, partner'⟩ := job y (by simp [hu])
      have hne : x.handle ≠ y.handle := by
        rcases formed with ⟨j, hj, -⟩ | ⟨x', y', hj, store, retrieve, hx, hy⟩
        · rw [hu] at hj
          cases hj
        · rw [hu] at hj
          cases hj
          intro h
          rw [h, hy] at hx
          cases hx
          rw [store] at retrieve
          cases retrieve
      rw [record, record, hk, hk']
      simp [partner, partner', otherJob, hu, hne, Ne.symm hne]
    · have same : t.credit b f = n.credit b f := by simp only [State.credit, credits]
      have before : m.credit b f = s.credit b f := by simp only [State.credit, credits']
      rw [same, credit, before]
    · have later : Frame [.crane c, .rail, .holdBack, .parkOwed, .holds, .tx (.crane c), .queue, .jobs, .credit, .events] m t :=
        (marks.mono (by simp)).trans (offers.mono (by simp))
      rw [later.cell (by simp) (by simp)]
      exact picked x j k hx hj hk
  · have form : (s.take (.selection c)).takeWinner c p a e u =
        (s.take (.selection c)).makeClear c a e (s.unitHull c u.steps) x := by
      unfold State.takeWinner
      rw [verdict, needs]
      rfl
    rw [form]
    have movable := railVerdict_movable needs ho
    obtain ⟨hne, made, back, state, timer, tx, rail⟩ := makeClear_made (s := s.take (.selection c)) (c := c) (o := o) (a := a)
      (e := e) hm ho movable (s.unitHull c u.steps) x
    clear form run
    generalize (s.take (.selection c)).makeClear c a e (s.unitHull c u.steps) x = t at *
    generalize s.take (.selection c) = l at *
    have whole : Frame [.crane o, .rail, .holdBack, .parkOwed, .holds, .tx (.crane o), .queue, .events] s t :=
      (frame.mono (by simp)).trans made
    rw [now, show l.crt.tPark = s.crt.tPark by rw [crt]] at timer
    rw [frame.tx _ (by simp)] at tx
    refine ⟨whole.crane c (by simp [hne]), back, state, timer, tx, whole.tx _ (by simp [hne]), fun r hr => ?_,
      whole.jpl (by simp) (by simp) (by simp) (by simp), whole.cmp (by simp) (by simp),
      whole.swu (by simp) (by simp) (by simp), whole.flg (by simp)⟩
    rw [bay, crane] at rail
    exact rail r ((frame.rail (by simp) a).trans hr)

end Sys2Proof.Machine
end
section
/-! RESTART, FETCH, and the waiting closing notices that fill a queue's free places (O14). -/

namespace Sys2Proof.Machine

variable {s t : State} {l m : OrderLink} {g h : Handle} {j k : Job} {n : Notice} {w : List Handle} {p : List Byte}

/-! ## RESTART and FETCH -/

theorem restart_refuses (h : Hears s (.order l)) (hp : p.length ≠ 1 ∨ 1 < byteAt p 0) :
    exec (.restart l p) s = .next (s.refused (.restart l p) (.order l) 0x1A .badField) := by
  refine exec_refuse rfl h ?_
  unfold State.restart
  split
  · rfl
  · next h1 =>
    have unread : restartKindOf (byteAt p 0) = none := by
      have big := hp.resolve_left h1
      unfold restartKindOf
      split
      · omega
      · omega
      · rfl
    rw [unread]
    exact State.withField_none ..

theorem fetch_refuses (h : Hears s (.order l)) (hp : p.length ≠ 1 ∨ 1 < byteAt p 0) :
    exec (.fetch l p) s = .next (s.refused (.fetch l p) (.order l) 0x19 .badField) := by
  refine exec_refuse rfl h ?_
  unfold State.fetch
  split
  · rfl
  · next h1 =>
    have unread : flagOf (byteAt p 0) = none := by
      have big := hp.resolve_left h1
      unfold flagOf
      split
      · omega
      · omega
      · rfl
    rw [unread]
    exact State.withField_none ..

theorem restart_waits (h : Hears s (.order l)) {b : Byte} {x : RestartKind} (hx : restartKindOf b.toNat = some x) :
    exec (.restart l [b]) s = .next { s.answered (.restart l [b]) (.order l) 0x1A false (.restart x) with
      liu := { (s.answered (.restart l [b]) (.order l) 0x1A false (.restart x)).liu with
        restarting := some { link := l, kind := x } } } := by
  have act : (s.heard (.restart l [b]) (.order l)).restart l [b] =
      { s.heard (.restart l [b]) (.order l) with
        liu := { (s.heard (.restart l [b]) (.order l)).liu with restarting := some { link := l, kind := x } } }.ok
          (.restart x) := by
    refine (if_neg (by simp)).trans ?_
    rw [show restartKindOf (byteAt [b] 0) = some x from hx]
    exact State.withField_some ..
  show Host.Outcome.next (s.command _ _ _ _ _) = _
  rw [State.command_replied h]
  · rw [act]
    rfl
  · rw [act]
    rfl

theorem fetch_again (h : Hears s (.order l)) : exec (.fetch l [1]) s = .next (s.answered (.fetch l [1]) (.order l) 0x19 false
    (.fetched (s.liu.lastFetched.get l).length (s.queue l).length (s.liu.lastFetched.get l))) :=
  exec_ok rfl h rfl

/-- The state in which a FETCH has taken its notices (R200). -/
def State.fetchTaken (s : State) (l : OrderLink) : State :=
  { s.setQueue l ((s.queue l).drop 4) with liu := { (s.setQueue l ((s.queue l).drop 4)).liu with
    lastFetched := s.liu.lastFetched.set l ((s.queue l).take 4) } }

theorem fetch_new (h : Hears s (.order l)) (a : State) (ha : a = s.answered (.fetch l [0]) (.order l) 0x19 false
      (.fetched ((s.queue l).take 4).length ((s.queue l).drop 4).length ((s.queue l).take 4))) :
    exec (.fetch l [0]) s = .next { a with
      liu := { a.liu with
        queue := s.liu.queue.set l ((s.queue l).drop 4)
        attn := s.liu.attn.set l (decide ((s.queue l).drop 4 ≠ []))
        lastFetched := s.liu.lastFetched.set l ((s.queue l).take 4) }
      events := s.events.erase (.fetch l [0]) ++ (if s.queue l = [] then [] else [.closingWaitPlacement l]) } := by
  have attn : decide ((s.queue l).drop 4 ≠ []) = !((s.queue l).drop 4).isEmpty := by
    cases (s.queue l).drop 4 <;> rfl
  subst ha
  show Host.Outcome.next (s.command _ _ _ _ _) = _
  by_cases empty : s.queue l = []
  · have got : ((s.heard (.fetch l [0]) (.order l)).queue l).take Config.fetchLimit = [] := by
      show (s.queue l).take 4 = []
      rw [empty]
      rfl
    have act : (s.heard (.fetch l [0]) (.order l)).fetch l [0] = ((s.heard (.fetch l [0]) (.order l)).fetchTaken l).ok
        (.fetched ((s.queue l).take 4).length ((s.queue l).drop 4).length ((s.queue l).take 4)) := by
      show (s.heard (.fetch l [0]) (.order l)).fetchNew l = _
      unfold State.fetchNew
      dsimp only
      rw [if_pos got]
      rfl
    rw [State.command_replied h _ _ _ _ (by rw [act]; rfl), act, attn, if_pos empty, List.append_nil]
    rfl
  · have got : ((s.heard (.fetch l [0]) (.order l)).queue l).take Config.fetchLimit ≠ [] := by
      show (s.queue l).take 4 ≠ []
      cases hq : s.queue l with
      | nil => exact absurd hq empty
      | cons x xs => exact List.cons_ne_nil _ _
    have act : (s.heard (.fetch l [0]) (.order l)).fetch l [0] =
        (((s.heard (.fetch l [0]) (.order l)).fetchTaken l).raise (.closingWaitPlacement l)).ok
          (.fetched ((s.queue l).take 4).length ((s.queue l).drop 4).length ((s.queue l).take 4)) := by
      show (s.heard (.fetch l [0]) (.order l)).fetchNew l = _
      unfold State.fetchNew
      dsimp only
      rw [if_neg got]
      rfl
    rw [State.command_replied h _ _ _ _ (by rw [act]; rfl), act, attn, if_neg empty]
    rfl

/-! ## One closing notice placed -/

/-- A job's notice joins a queue, and the job leaves the pool where it owed no other (R58). -/
def State.noticePlaced (s : State) (h : Handle) (l : OrderLink) (n : Notice) : State := (s.payNotice h l n).leaveIfPaid h

theorem noticePlaced_frame (s : State) (h : Handle) (l : OrderLink) (n : Notice) :
    Frame [.jobs, .pool, .waves, .queue, .events] s (s.noticePlaced h l n) :=
  (((Frame.refl _ s).setQueue l _ (by simp)).updJob h _ (by simp)).leaveIfPaid h (by simp)

theorem leavePool_closingWait (s : State) (h : Handle) : (s.leavePool h).jpl.closingWait = s.jpl.closingWait := by
  unfold State.leavePool
  cases s.job? h with
  | none => rfl
  | some k =>
    have vacated : (s.vacate h k).jpl.closingWait = s.jpl.closingWait := by
      unfold State.vacate
      cases k.origin <;> rfl
    have last : Frame [.waves, .events] (s.vacate h k) (((s.vacate h k).waveLeft k.wave).reEvaluate fun x =>
        decide (x.kind = .retrieve) && decide (x.state = .pending) && decide (x.reason = some .noRelocSpace)) :=
      ((Frame.refl _ _).waveLeft _ (by simp)).reEvaluate _ (by simp)
    obtain ⟨-, -, -, wait⟩ := last .pool (by simp)
    exact wait.trans vacated

/-- A notice joins the tail of its queue, and no wait list changes. -/
theorem noticePlaced_queues (s : State) (h : Handle) (l : OrderLink) (n : Notice) (m : OrderLink) :
    (s.noticePlaced h l n).queue m = (if m = l then s.queue l ++ [n] else s.queue m)
      ∧ (s.noticePlaced h l n).jpl.closingWait = s.jpl.closingWait := by
  unfold State.noticePlaced
  refine ⟨by rw [leaveIfPaid_queue, payNotice_queue], ?_⟩
  have paid : (s.payNotice h l n).jpl.closingWait = s.jpl.closingWait := by
    have last : Frame [.jobs] (s.setQueue l (s.queue l ++ [n])) (s.payNotice h l n) := (Frame.refl _ _).updJob h _ (by simp)
    obtain ⟨-, -, -, wait⟩ := last .pool (by simp)
    exact wait
  unfold State.leaveIfPaid
  split
  · split
    · rw [leavePool_closingWait, paid]
    · exact paid
  · exact paid

/-- A record behind the placement of its notice in a queue. -/
def Job.paidOn (l : OrderLink) (j : Job) : Job := { j with owed := j.owed.filter (· ≠ l) }

/-- A job that leaves the pool: its slot, and the events that follow (R38, R94). -/
theorem leavePool_slots (hk : s.job? h = some k) :
    (∀ i, (s.leavePool h).slot i = if i = h.slot then { gen := h.gen + 1, job := none } else s.slot i)
      ∧ (s.leavePool h).jpl.freeList = s.jpl.freeList ++ [h.slot]
      ∧ (∀ m, (s.leavePool h).jpl.live.get m = s.jpl.live.get m - if k.origin = .order m then 1 else 0)
      ∧ ∀ x ∈ (s.leavePool h).jobs, x.kind = .retrieve → x.state = .pending → x.reason = some .noRelocSpace →
          .reEvaluation x.handle ∈ (s.leavePool h).events := by
  let v := (s.vacate h k).waveLeft k.wave
  have form : s.leavePool h = v.raiseAll (v.reEvaluations fun x =>
      decide (x.kind = .retrieve) && decide (x.state = .pending) && decide (x.reason = some .noRelocSpace)) := by
    unfold State.leavePool
    rw [hk]
    rfl
  have waves : Frame [.waves] (s.vacate h k) v := (Frame.refl _ _).waveLeft _ (by simp)
  have jpl : v.jpl = (s.vacate h k).jpl := waves.jpl (by simp) (by simp) (by simp) (by simp)
  rw [form]
  refine ⟨fun i => ?_, ?_, fun m => ?_, fun x hx kind state reason => ?_⟩
  · show v.slot i = _
    have slots : v.slot i = (s.vacate h k).slot i := by simp only [State.slot, jpl]
    rw [slots]
    unfold State.vacate
    rw [State.countLive_slot]
    exact State.setSlot_slot s h.slot i _
  · show v.jpl.freeList = _
    rw [jpl]
    unfold State.vacate
    cases k.origin <;> rfl
  · show v.jpl.live.get m = _
    rw [jpl]
    unfold State.vacate
    cases ho : k.origin with
    | internal => simp [State.countLive]
    | order l =>
      simp only [State.countLive, PerLink.get_set, Origin.order.injEq]
      by_cases hm : m = l
      · subst hm
        simp
      · rw [if_neg hm, if_neg (Ne.symm hm)]
        rfl
  · exact List.mem_append_right _ (State.mem_reEvaluations.mpr ⟨x, hx, rfl, by simp [kind, state, reason]⟩)

/-- What the placement of a live job's notice does (R38, R58, R94). -/
structure NoticePlaced (s t : State) (l : OrderLink) (h : Handle) (k : Job) : Prop where
  job : ∀ g, t.job? g = if g = h then (if (k.paidOn l).owed = [] then none else some (k.paidOn l)) else s.job? g
  stays : (k.paidOn l).owed ≠ [] → t.jpl.freeList = s.jpl.freeList ∧ t.jpl.live = s.jpl.live ∧ t.events = s.events
  leaves : (k.paidOn l).owed = [] → t.slot h.slot = { gen := h.gen + 1, job := none }
    ∧ t.jpl.freeList = s.jpl.freeList ++ [h.slot]
    ∧ (∀ m, t.jpl.live.get m = s.jpl.live.get m - if k.origin = .order m then 1 else 0)
    ∧ ∀ x ∈ t.jobs, x.kind = .retrieve → x.state = .pending → x.reason = some .noRelocSpace →
        .reEvaluation x.handle ∈ t.events
  slot : ∀ i, i ≠ h.slot → t.slot i = s.slot i
  events : ∃ es, t.events = s.events ++ es

theorem noticePlaced_placed (hk : s.job? h = some k) (l : OrderLink) (n : Notice) :
    NoticePlaced s (s.noticePlaced h l n) l h k := by
  have queued : Frame [.queue] s (s.setQueue l (s.queue l ++ [n])) := (Frame.refl _ s).setQueue l _ (by simp)
  have there : (s.setQueue l (s.queue l ++ [n])).job? h = some k := hk
  have form : s.payNotice h l n = (s.setQueue l (s.queue l ++ [n])).setSlot h.slot { gen := h.gen, job := some (k.paidOn l) } := by
    unfold State.payNotice State.updJob
    rw [there]
    rfl
  have paid : Frame [.jobs, .queue] s (s.payNotice h l n) :=
    (queued.mono (by simp)).updJob h _ (by simp)
  have record : ∀ g, (s.payNotice h l n).job? g = if g = h then some (k.paidOn l) else s.job? g := fun g => by
    refine (updJob_job_map (s.setQueue l (s.queue l ++ [n])) h g _).trans ?_
    rw [there]
    rfl
  have slots : ∀ i, i ≠ h.slot → (s.payNotice h l n).slot i = s.slot i := fun i hi => by
    rw [form]
    exact (State.setSlot_slot _ h.slot i _).trans (if_neg hi)
  obtain ⟨list, live, -, -⟩ := paid .pool (by simp)
  have events : (s.payNotice h l n).events = s.events := paid .events (by simp)
  have own := record h
  rw [if_pos rfl] at own
  unfold State.noticePlaced State.leaveIfPaid
  rw [own]
  dsimp only
  by_cases owed : (k.paidOn l).owed = []
  · rw [if_pos owed]
    obtain ⟨slot, free, counts, draws⟩ := leavePool_slots own
    refine ⟨fun g => ?_, fun h => absurd owed h, fun _ => ⟨by rw [slot, if_pos rfl], by rw [free, list], fun m => by
      rw [counts, live]; rfl, draws⟩, fun i hi => by rw [slot, if_neg hi, slots i hi], ?_⟩
    · rw [leavePool_job, own, record, if_pos owed]
      by_cases hg : g = h
      · simp [hg]
      · rw [if_neg hg, if_neg hg]
        split
        · next same =>
          obtain ⟨live_, -⟩ := State.job?_eq_some.mp hk
          cases hj : s.job? g with
          | none => rfl
          | some j =>
            obtain ⟨live', -⟩ := State.job?_eq_some.mp hj
            rw [same.1, live_] at live'
            exact absurd (by cases g; cases h; simp_all) hg
        · rfl
    · unfold State.leavePool
      rw [own]
      refine ⟨_, congrArg (· ++ _) (?_ : State.events _ = _)⟩
      have waves : Frame [.waves] ((s.payNotice h l n).vacate h (k.paidOn l))
          (((s.payNotice h l n).vacate h (k.paidOn l)).waveLeft (k.paidOn l).wave) := (Frame.refl _ _).waveLeft _ (by simp)
      refine (waves .events (by simp) : _ = _).trans ?_
      rw [← events]
      unfold State.vacate
      cases (k.paidOn l).origin <;> rfl
  · rw [if_neg owed]
    exact ⟨fun g => by rw [record, if_neg owed], fun _ => ⟨list, live, events⟩, fun h => absurd h owed, slots,
      ⟨[], by rw [events, List.append_nil]⟩⟩

/-! ## The free places filled -/

/-- The waiting jobs whose last notice a link takes. -/
def State.paidOff (s : State) (l : OrderLink) (w : List Handle) : List Handle :=
  w.filter fun h => decide ((s.job? h).map (fun j => j.owed.filter (· ≠ l)) = some [])

/-- What the filling of a queue does whatever the jobs are (R58). -/
structure Fills (s t : State) (l : OrderLink) (w : List Handle) (n : Nat) (more : List Notice) : Prop where
  wait : t.jpl.closingWait.get l = w.drop n
  queue : t.queue l = s.queue l ++ more
  few : more.length ≤ n
  full : w.drop n ≠ [] → 32 ≤ (t.queue l).length
  bound : (s.queue l).length ≤ 32 → (t.queue l).length ≤ 32
  others : ∀ m, m ≠ l → t.queue m = s.queue m ∧ t.jpl.closingWait.get m = s.jpl.closingWait.get m

/-- The waiting jobs are distinct and each carries its notice; each live job carries its handle. -/
structure WaitsRightly (s : State) (w : List Handle) : Prop where
  nodup : w.Nodup
  notice : ∀ h ∈ w, ∃ j x, s.job? h = some j ∧ j.notice = some x
  handle : ∀ g k, s.job? g = some k → k.handle = g

/-- What the filling of a queue does to the jobs and the slots (R38, R58, R94). -/
structure Filled (s t : State) (l : OrderLink) (w : List Handle) (n : Nat) (more : List Notice) : Prop where
  count : n = min (32 - (s.queue l).length) w.length
  notices : more = (w.take n).filterMap fun h => (s.job? h).bind (·.notice)
  paid : ∀ h ∈ w.take n, ∀ j, s.job? h = some j →
    t.job? h = if (j.paidOn l).owed = [] then none else some (j.paidOn l)
  other : ∀ h, h ∉ w.take n → t.job? h = s.job? h
  free : t.jpl.freeList = s.jpl.freeList ++ (s.paidOff l (w.take n)).map (·.slot)
  slot : ∀ i, (∀ g ∈ w.take n, g.slot ≠ i) → t.slot i = s.slot i
  vacated : ∀ h ∈ s.paidOff l (w.take n), t.slot h.slot = { gen := h.gen + 1, job := none }
  live : ∀ m, t.jpl.live.get m = s.jpl.live.get m -
    (s.paidOff l (w.take n)).countP fun h => decide ((s.job? h).map (·.origin) = some (.order m))
  draws : s.paidOff l (w.take n) ≠ [] → ∀ g k, t.job? g = some k → k.kind = .retrieve → k.state = .pending →
    k.reason = some .noRelocSpace → .reEvaluation g ∈ t.events
  events : ∃ es, t.events = s.events ++ es

/-- A list that waits on, or is empty. -/
theorem fills_waiting (s : State) (l : OrderLink) (w : List Handle) (full : w ≠ [] → s.hasRoom l = false) :
    Fills s (s.setClosingWait l w) l w 0 [] ∧ Filled s (s.setClosingWait l w) l w 0 [] := by
  have long : w ≠ [] → 32 ≤ (s.queue l).length := fun h => by
    have room := full h
    simp only [State.hasRoom, decide_eq_false_iff_not, Nat.not_lt] at room
    exact room
  have wait : ∀ m, (s.setClosingWait l w).jpl.closingWait.get m = if m = l then w else s.jpl.closingWait.get m := fun m =>
    PerLink.get_set ..
  refine ⟨⟨by rw [wait, if_pos rfl]; rfl, (List.append_nil _).symm, Nat.le_refl _, long, fun h => h, fun m hm =>
    ⟨rfl, by rw [wait, if_neg hm]⟩⟩, ⟨?_, rfl, nofun, fun _ _ => rfl, (List.append_nil _).symm, fun _ _ => rfl,
      nofun, fun _ => rfl, fun h => absurd rfl h, [], (List.append_nil _).symm⟩⟩
  by_cases hw : w = []
  · simp [hw]
  · have := long hw
    omega

/-- A live job stands in its slot. -/
theorem mem_jobs_of_job? (hk : s.job? g = some k) : k ∈ s.jobs :=
  State.mem_jobs.mpr ⟨g.slot, (State.job?_eq_some.mp hk).2⟩

/-- The laws of the wait list behind the placement of its first job's notice. -/
theorem WaitsRightly.placed (laws : WaitsRightly s (h :: w)) (done : NoticePlaced s t l h k) (hk : s.job? h = some k) :
    WaitsRightly t w := by
  obtain ⟨nodup, notice, handle⟩ := laws
  obtain ⟨out, nodup⟩ := List.nodup_cons.mp nodup
  refine ⟨nodup, fun g hg => ?_, fun g j hj => ?_⟩
  · rw [done.job, if_neg (show ¬ g = h from fun e => out (e ▸ hg))]
    exact notice g (List.mem_cons_of_mem _ hg)
  · rw [done.job] at hj
    split at hj
    · next e =>
      split at hj
      · cases hj
      · cases hj
        rw [e]
        exact handle h k hk
    · exact handle g j hj

/-- The jobs paid off, the first of them by its own record. -/
theorem paidOff_cons (laws : WaitsRightly s (h :: w)) (done : NoticePlaced s t l h k) (hk : s.job? h = some k) (n : Nat) :
    s.paidOff l (h :: w.take n) =
      if (k.paidOn l).owed = [] then h :: t.paidOff l (w.take n) else t.paidOff l (w.take n) := by
  obtain ⟨out, -⟩ := List.nodup_cons.mp laws.nodup
  have rest : t.paidOff l (w.take n) = s.paidOff l (w.take n) := List.filter_congr fun g hg => by
    rw [done.job, if_neg (show ¬ g = h from fun e => out (e ▸ List.mem_of_mem_take hg))]
  rw [rest]
  unfold State.paidOff
  rw [List.filter_cons, hk]
  simp [Job.paidOn]

/-- A notice placed before the rest of the list is. -/
theorem Filled.cons {r : State} {n : Nat} {more : List Notice} {x : Notice} (laws : WaitsRightly s (h :: w))
    (hk : s.job? h = some k) (hx : k.notice = some x) (done : NoticePlaced s t l h k)
    (room : (s.queue l).length < 32) (queue : t.queue l = s.queue l ++ [x]) (rest : Filled t r l w n more) :
    Filled s r l (h :: w) (n + 1) (x :: more) := by
  obtain ⟨count, notices, paid, other, free, slot, vacated, live, draws, events⟩ := rest
  obtain ⟨out, -⟩ := List.nodup_cons.mp laws.nodup
  have still : ∀ g ∈ w.take n, t.job? g = s.job? g := fun g hg => by
    rw [done.job, if_neg (show ¬ g = h from fun e => out (e ▸ List.mem_of_mem_take hg))]
  have outside : h ∉ w.take n := fun hm => out (List.mem_of_mem_take hm)
  have apart : ∀ g ∈ w, g.slot ≠ h.slot := fun g hg same => by
    obtain ⟨j, -, hj, -⟩ := laws.notice g (List.mem_cons_of_mem _ hg)
    obtain ⟨gen, -⟩ := State.job?_eq_some.mp hj
    obtain ⟨gen', -⟩ := State.job?_eq_some.mp hk
    rw [same, gen'] at gen
    exact out (by cases g; cases h; simp_all)
  have counts : ∀ m, ((t.paidOff l (w.take n)).countP fun g => decide ((t.job? g).map (·.origin) = some (.order m))) =
      (t.paidOff l (w.take n)).countP fun g => decide ((s.job? g).map (·.origin) = some (.order m)) := fun m =>
    List.countP_congr fun g hg => by rw [still g (List.mem_filter.mp hg).1]
  have gone := paidOff_cons laws done hk n
  obtain ⟨es, later⟩ := events
  obtain ⟨es', first⟩ := done.events
  refine ⟨?_, ?_, fun g hg j hj => ?_, fun g hg => ?_, ?_, fun i hi => ?_, fun g hg => ?_, fun m => ?_, fun hne g j hj kind
    state reason => ?_, ⟨es' ++ es, by rw [later, first, List.append_assoc]⟩⟩
  · rw [queue, List.length_append, List.length_singleton] at count
    rw [List.length_cons]
    omega
  · rw [List.take_succ_cons, List.filterMap_cons, hk, notices]
    simp only [Option.bind_some, hx]
    exact congrArg _ (List.filterMap_congr fun g hg => by rw [still g hg])
  · rw [List.take_succ_cons] at hg
    rcases List.mem_cons.mp hg with rfl | hg
    · rw [hk] at hj
      cases hj
      rw [other g outside, done.job, if_pos rfl]
    · exact paid g hg j (by rw [still g hg, hj])
  · rw [List.take_succ_cons] at hg
    obtain ⟨hne, hg⟩ := not_or.mp (mt List.mem_cons.mpr hg)
    rw [other g hg, done.job, if_neg hne]
  · rw [List.take_succ_cons, gone, free]
    split
    · next owed => rw [(done.leaves owed).2.1, List.map_cons, List.append_assoc, List.singleton_append]
    · next owed => rw [(done.stays owed).1]
  · rw [List.take_succ_cons] at hi
    rw [slot i fun g hg => hi g (List.mem_cons_of_mem _ hg), done.slot i (Ne.symm (hi h (List.mem_cons_self ..)))]
  · rw [List.take_succ_cons, gone] at hg
    split at hg
    · next owed =>
      rcases List.mem_cons.mp hg with rfl | hg
      · rw [slot g.slot fun g' hg' => apart g' (List.mem_of_mem_take hg')]
        exact (done.leaves owed).1
      · exact vacated g hg
    · exact vacated g hg
  · rw [List.take_succ_cons, gone, live, counts]
    split
    · next owed =>
      rw [(done.leaves owed).2.2.1, List.countP_cons, hk]
      simp only [Option.map_some, Option.some.injEq, decide_eq_true_eq]
      omega
    · next owed => rw [(done.stays owed).2.1]
  · rw [List.take_succ_cons, gone] at hne
    split at hne
    · next owed =>
      obtain ⟨j', hj', kind', state', reason'⟩ : ∃ j', t.job? g = some j' ∧ j'.kind = j.kind ∧ j'.state = j.state
          ∧ j'.reason = j.reason := by
        by_cases hg : g ∈ w.take n
        · obtain ⟨j', -, hj', -⟩ := laws.notice g (List.mem_cons_of_mem _ (List.mem_of_mem_take hg))
          have now := paid g hg j' (by rw [still g hg, hj'])
          rw [hj] at now
          split at now
          · cases now
          · cases now
            exact ⟨j', by rw [still g hg, hj'], rfl, rfl, rfl⟩
        · exact ⟨j, by rw [← other g hg, hj], rfl, rfl, rfl⟩
      have named := (laws.placed done hk).handle g j' hj'
      have drawn := (done.leaves owed).2.2.2 j' (mem_jobs_of_job? hj') (kind'.trans kind) (state'.trans state)
        (reason'.trans reason)
      rw [later, ← named]
      exact List.mem_append_left _ drawn
    · exact draws hne g j hj kind state reason

/-- A queue's free places filled from a wait list. -/
theorem fillFrom_fills (l : OrderLink) (w : List Handle) (s : State) : ∃ n more,
    Fills s (s.fillFrom l w) l w n more ∧ (WaitsRightly s w → Filled s (s.fillFrom l w) l w n more) := by
  induction w generalizing s with
  | nil =>
    obtain ⟨fills, filled⟩ := fills_waiting s l [] (fun h => absurd rfl h)
    exact ⟨0, [], fills, fun _ => filled⟩
  | cons h w ih =>
    unfold State.fillFrom
    cases room : s.hasRoom l with
    | false =>
      obtain ⟨fills, filled⟩ := fills_waiting s l (h :: w) fun _ => room
      exact ⟨0, [], fills, fun _ => filled⟩
    | true =>
      have short : (s.queue l).length < 32 := of_decide_eq_true room
      simp only [if_true]
      cases hn : (s.job? h).bind (·.notice) with
      | none =>
        obtain ⟨n, more, ⟨wait, queue, few, full, bound, others⟩, -⟩ := ih s
        refine ⟨n + 1, more, ⟨wait, queue, by omega, full, bound, others⟩, fun laws => ?_⟩
        obtain ⟨j, x, hj, hx⟩ := laws.notice h (List.mem_cons_self ..)
        rw [hj, Option.bind_some, hx] at hn
        cases hn
      | some x =>
        obtain ⟨k, hk, hx⟩ := Option.bind_eq_some_iff.mp hn
        have queues := noticePlaced_queues s h l x
        have done := noticePlaced_placed hk l x
        show ∃ n more, Fills s ((s.noticePlaced h l x).fillFrom l w) l (h :: w) n more
          ∧ (_ → Filled s ((s.noticePlaced h l x).fillFrom l w) l (h :: w) n more)
        generalize s.noticePlaced h l x = t at *
        have own := (queues l).1
        rw [if_pos rfl] at own
        obtain ⟨n, more, ⟨wait, queue, few, full, bound, others⟩, filled⟩ := ih t
        refine ⟨n + 1, x :: more, ⟨wait, ?_, Nat.succ_le_succ few, full, fun _ => bound ?_, fun m hm => ?_⟩, fun laws =>
          (filled (laws.placed done hk)).cons laws hk hx done short own⟩
        · rw [queue, own, List.append_assoc, List.singleton_append]
        · rw [own, List.length_append, List.length_singleton]
          exact short
        · obtain ⟨queue', wait'⟩ := others m hm
          exact ⟨by rw [queue', (queues m).1, if_neg hm], by rw [wait', (queues m).2]⟩

/-- Settles O14: the replies of RESTART and FETCH, and the filling of the free places behind a FETCH. -/
theorem linkCommandsActOnTheirLink : Obligations.LinkCommandsActOnTheirLink := by
  refine ⟨fun s l p h => ⟨restart_refuses h, fun b x hp hx => hp ▸ restart_waits h hx⟩,
    fun s l h => ⟨fun p hp => fetch_refuses h hp, fun a ha => fetch_new h a ha, fetch_again h⟩, fun s l => ?_⟩
  have frame : Frame [.events] s (s.take (.closingWaitPlacement l)) := (Frame.refl _ s).take _ (by simp)
  have jpl : (s.take (.closingWaitPlacement l)).jpl = s.jpl := rfl
  have run : exec (.closingWaitPlacement l) s = .next ((s.take (.closingWaitPlacement l)).fillFrom l (s.jpl.closingWait.get l)) :=
    rfl
  have stays : s.jpl.closingWait.get l = [] →
      (s.take (.closingWaitPlacement l)).fillFrom l (s.jpl.closingWait.get l) = s.take (.closingWaitPlacement l) := fun empty => by
    have same : s.jpl.closingWait.set l [] = s.jpl.closingWait := by
      rw [← empty]
      cases l <;> rfl
    rw [empty]
    show (s.take (.closingWaitPlacement l)).setClosingWait l [] = _
    unfold State.setClosingWait
    rw [jpl, same]
    rfl
  have queues : ∀ m, (s.take (.closingWaitPlacement l)).queue m = s.queue m := fun _ => rfl
  generalize s.take (.closingWaitPlacement l) = r at *
  obtain ⟨n, more, ⟨wait, queue, few, full, bound, others⟩, filled⟩ := fillFrom_fills l (s.jpl.closingWait.get l) r
  have fills : Frame [.jobs, .pool, .waves, .queue, .events] r (r.fillFrom l (s.jpl.closingWait.get l)) :=
    (Frame.refl _ r).fillFrom l (by simp)
  have whole := (frame.mono (by simp)).trans fills
  have job : r.job? = s.job? := job?_congr jpl
  rw [queues] at queue bound
  simp only [queues, jpl] at others
  refine ⟨_, n, more, run, wait, queue, few, fun h => full (wait ▸ h), bound, others, stays, fun nodup notice handles => ?_,
    whole.cmp (by simp) (by simp), whole.crt (by simp) (by simp) (by simp), whole.ale (by simp) (by simp),
    whole.aic (by simp) (by simp), whole.flg (by simp)⟩
  obtain ⟨count, notices, paid, other, free, -, vacated, live, draws, -⟩ := filled
    ⟨nodup, fun h hh => job ▸ notice h hh, fun g k hk => job?_handle handles (job ▸ hk)⟩
  have off : r.paidOff l = s.paidOff l := by
    funext w
    simp only [State.paidOff, job]
  simp only [job, jpl, queues, off] at count notices paid other free vacated live draws
  refine ⟨count, notices, paid, fun h hh j hj => (other h hh).trans hj, fun gone hg => ?_⟩
  obtain rfl : gone = s.paidOff l ((s.jpl.closingWait.get l).take n) := hg
  exact ⟨free, vacated, live, draws⟩

end Sys2Proof.Machine
end
section
/-! A job that closes with a notice owed to its own order link, and the load check of a matched pallet (R56 to R58, R156 to
R158). -/

namespace Sys2Proof.Machine

variable {r s t : State} {l m : OrderLink} {g h : Handle} {j k : Job} {n : Notice} {b d : CellAddr} {a : AisleId} {e : End}
  {p : List Byte} {q : Profile} {x : Pallet} {o : JobOutcome}

/-! ## The cells a closing job gives up -/

theorem Changes.mapWf (h : Changes s t) (hs : MapWf s) : MapWf t := h.keep (fun _ _ => Change.mapWf) hs

theorem Cell.releasedBy_twice (y : Cell) (h : Handle) : (y.releasedBy h).releasedBy h = y.releasedBy h := by
  obtain ⟨state, conflict⟩ := y
  cases state with
  | inReserved i | outReserved i c =>
    by_cases hi : i = h <;> simp [Cell.releasedBy, hi]
  | unknown | empty | full | blocked => rfl

/-- What a release leaves of the cells (R15). -/
theorem release_cells (hw : MapWf s) (d b : CellAddr) (h : Handle) :
    (s.release d h).cell b = if b = d then (s.cell b).releasedBy h else s.cell b := by
  have stays : (s.cell d).releasedBy h = s.cell d → s.cell b = if b = d then (s.cell b).releasedBy h else s.cell b := by
    intro same
    split
    · next hb => rw [hb, same]
    · rfl
  have written (z : CellState) (hz : (s.cell d).releasedBy h = { s.cell d with state := z })
      (reserved : (s.cell d).state.isReserved = true) :
      ((s.putState d z).recheckCell d true).cell b = if b = d then (s.cell b).releasedBy h else s.cell b := by
    have there : s.existing d := State.existing_of_ne_initial fun eq => by rw [eq] at reserved; cases reserved
    rw [recheckCell_eq]
    refine (State.cell_putCell hw d b _ there).trans ?_
    split
    · next hb => rw [hb, hz]
    · rfl
  unfold State.release
  cases hd : (s.cell d).state with
  | inReserved i =>
    dsimp only
    split
    · next hi => exact written .empty (by simp only [Cell.releasedBy, hd, hi, if_true]) (by rw [hd]; rfl)
    · next hi => exact stays (by simp only [Cell.releasedBy, hd, hi, if_false])
  | outReserved i c =>
    dsimp only
    split
    · next hi => exact written (.full c) (by simp only [Cell.releasedBy, hd, hi, if_true]) (by rw [hd]; rfl)
    · next hi => exact stays (by simp only [Cell.releasedBy, hd, hi, if_false])
  | unknown | empty | full | blocked => exact stays (by simp only [Cell.releasedBy, hd])

/-- The chosen cell of a job that closes (R56). -/
theorem closeStart_chosen (hw : MapWf s) (hj : s.job? h = some j) (hd : j.chosen = some d) (o : JobOutcome) (moved : Bool)
    (f : Credit → Credit) : (s.closeStart h o moved f).cell d = (s.cell d).releasedBy h := by
  have recorded : Frame [.jobs] s (s.closedRecord j h o moved) := closedRecord_frame s j h o moved
  have wf : MapWf (s.closedRecord j h o moved) := mapWf_of_cmp (recorded.cmp (by simp) (by simp)) hw
  have credited := closedCredit_frame (((s.closedRecord j h o moved).release? j.chosen h).release? j.target h) j f
  rw [closeStart_eq hj, credited.cell (by simp) (by simp), hd]
  have first : ((s.closedRecord j h o moved).release d h).cell d = (s.cell d).releasedBy h := by
    rw [release_cells wf, if_pos rfl, recorded.cell (by simp) (by simp)]
  cases ht : j.target with
  | none => exact first
  | some b =>
    have wf' : MapWf ((s.closedRecord j h o moved).release d h) := ((Changes.refl _).release d h).mapWf wf
    refine (release_cells wf' b d h).trans ?_
    show (if d = b then (((s.closedRecord j h o moved).release d h).cell d).releasedBy h
      else ((s.closedRecord j h o moved).release d h).cell d) = _
    rw [first]
    split
    · exact Cell.releasedBy_twice _ h
    · rfl

/-! ## The closing notice -/

/-- A notice owed to one link is placed in its queue, where the job then leaves the pool, or waits for a place (R58). -/
theorem offerClosing_one (hk : s.job? h = some k) (hn : k.notice = some n) (ho : k.owed = [l]) :
    (s.hasRoom l = true → (s.offerClosing h).job? h = none ∧ (s.offerClosing h).queue l = s.queue l ++ [n])
      ∧ (s.hasRoom l = false → (s.offerClosing h).job? h = some k ∧ (s.offerClosing h).queue l = s.queue l
        ∧ (s.offerClosing h).jpl.closingWait.get l = s.jpl.closingWait.get l ++ [h]) := by
  have form : s.offerClosing h = (s.placeClosing h l).leaveIfPaid h := by
    rw [offerClosing_eq hk, ho]
    rfl
  refine ⟨fun room => ⟨?_, ?_⟩, fun room => ⟨offerClosing_stays hk hn ho room, ?_, ?_⟩⟩
  · refine offerClosing_leaves (n := n) (ls := [l]) (by rw [State.dues, hk, Option.map_some, hn, ho]) (by simp) fun m hm => ?_
    rw [List.mem_singleton.mp hm]
    exact room
  · rw [form, leaveIfPaid_queue, placeClosing_queue hk hn, if_pos ⟨rfl, room⟩]
  · rw [form, leaveIfPaid_queue, placeClosing_queue hk hn, if_neg (by simp [room])]
  · have still : (s.setClosingWait l (s.jpl.closingWait.get l ++ [h])).job? h = some k := hk
    rw [form, placeClosing_full hk hn room, State.leaveIfPaid, still]
    dsimp only
    rw [if_neg (by simp [ho])]
    exact (PerLink.get_set ..).trans (if_pos rfl)

/-- A job of an order link that is no relocation enters CLOSING and has its notice offered (R56, R58). -/
theorem closed_of_offered {moved : Bool} {f : Credit → Credit} (hj : s.job? j.handle = some k) (hl : k.origin = .order l)
    (hk : k.closingNotice o moved = .jobClosed j.handle j.reference j.kind o j.overdue (k.closedCell o)) :
    Closed s ((s.closeStart j.handle o moved f).offerClosing j.handle) l j o (k.closedCell o) := by
  have own := closeStart_own hj o moved f
  have frame : Frame [.cells, .jobs, .credit, .events] s (s.closeStart j.handle o moved f) :=
    (Frame.refl _ s).closeStart j.handle o moved f (by simp)
  have queue : ∀ m, (s.closeStart j.handle o moved f).queue m = s.queue m := fun m =>
    congrArg (fun q : PerLink (List Notice) => q.get m) (frame .queue (by simp)).1
  obtain ⟨-, -, -, wait⟩ := frame .pool (by simp)
  have room : (s.closeStart j.handle o moved f).hasRoom l = s.hasRoom l := by simp only [State.hasRoom, queue]
  obtain ⟨leaves, waits⟩ := offerClosing_one (n := k.closingNotice o moved) (l := l) own rfl (by
    simp [Job.closed, State.owedLinks, hl])
  rw [room, queue] at leaves
  rw [room, queue, wait] at waits
  unfold Closed
  cases hr : s.hasRoom l with
  | true =>
    obtain ⟨gone, placed⟩ := leaves hr
    rw [hk] at placed
    exact ⟨gone, placed⟩
  | false =>
    obtain ⟨stays, unplaced, waiting⟩ := waits hr
    exact ⟨⟨_, stays, rfl, rfl⟩, unplaced, waiting⟩

/-- Closings read the job, the queue and the wait list of their link. -/
theorem Closed.congr {s' t' : State} {c : Option CellAddr} (h : Closed s t l j o c) (hq : s'.queue l = s.queue l)
    (hw : s'.jpl.closingWait.get l = s.jpl.closingWait.get l) (hj : t'.job? j.handle = t.job? j.handle)
    (tq : t'.queue l = t.queue l) (tw : t'.jpl.closingWait.get l = t.jpl.closingWait.get l) : Closed s' t' l j o c := by
  have room : s'.hasRoom l = s.hasRoom l := by simp only [State.hasRoom, hq]
  unfold Closed at h ⊢
  rw [room, hj, tq, tw, hq, hw]
  exact h

theorem queue_congr {ps : List Part} (h : Frame ps s t) (hp : Part.queue ∉ ps) (m : OrderLink) : t.queue m = s.queue m :=
  congrArg (fun q : PerLink (List Notice) => q.get m) (h .queue hp).1

theorem closingWait_congr {ps : List Part} (h : Frame ps s t) (hp : Part.pool ∉ ps) : t.jpl.closingWait = s.jpl.closingWait := by
  obtain ⟨-, -, -, wait⟩ := h .pool hp
  exact wait

theorem input_congr {ps : List Part} (h : Frame ps s t) (hp : Part.input ∉ ps) (b : AisleId) (f : End) :
    t.input b f = s.input b f := by
  have same : t.swu.inputs = s.swu.inputs := h .input hp
  simp only [State.input, same]

/-! ## The verdict -/

/-- The frames a verdict sends on link S (R157). -/
def Verdict.sent (v : Verdict) (a : AisleId) (e : End) (tag : Word) : List Message :=
  match v with
  | .rejected r => [.reject a e tag r]
  | .passed => []

/-- The parts of the state that a load check touches. -/
abbrev judgedParts : List Part :=
  [.cells, .jobs, .pool, .input, .credit, .waves, .tx .station, .queue, .events]

/-- A matched pallet, judged: the verdict, what it shows, and the stations left alone. -/
structure JudgedAs (s t : State) (j : Job) (q : Profile) (a : AisleId) (e : End) (x : Pallet) (k : Link) (p : List Byte)
    (v : Verdict) : Prop where
  frame : Frame judgedParts s t
  tx : t.tx .station = s.tx .station ++ v.sent a e x.tag
  judged : Judged s t j q a e x k p v
  others : ∀ b f, (b, f) ≠ (a, e) → t.input b f = s.input b f

/-- A store with its load recorded (R157). -/
def Job.loaded (j : Job) (x : Pallet) (c : Option Sys2Proof.Class) : Job :=
  { j with load := some { height := x.height, weight := x.weight, cls := c } }

/-- The state in which a pallet is matched and its load is recorded. -/
def State.matched (s : State) (j : Job) (a : AisleId) (e : End) (x : Pallet) (c : Option Sys2Proof.Class) : State :=
  (s.setInput a e (.matched x j.handle)).updJob j.handle fun y =>
    { y with load := some { height := x.height, weight := x.weight, cls := c } }

theorem matched_parts (hj : s.job? j.handle = some j) (a : AisleId) (e : End) (x : Pallet) (c : Option Sys2Proof.Class) :
    Frame [.input, .jobs] s (s.matched j a e x c) ∧ (s.matched j a e x c).job? j.handle = some (j.loaded x c)
      ∧ ∀ b f, (s.matched j a e x c).input b f = if (b, f) = (a, e) then .matched x j.handle else s.input b f := by
  have put : Frame [.input] s (s.setInput a e (.matched x j.handle)) := (Frame.refl _ s).setInput a e _ (by simp)
  have recorded : Frame [.jobs] (s.setInput a e (.matched x j.handle)) (s.matched j a e x c) :=
    (Frame.refl _ _).updJob j.handle _ (by simp)
  have there : (s.setInput a e (.matched x j.handle)).job? j.handle = some j := hj
  refine ⟨(put.mono (by simp)).trans (recorded.mono (by simp)), ?_, fun b f => ?_⟩
  · exact (State.updJob_job there _ j.handle).trans (if_pos rfl)
  · rw [input_congr recorded (by simp), State.setInput_input]
    simp

/-- A load rejected: the store closes, the station is emptied, REJECT sent and LOAD_REJECTED raised (R157). -/
theorem rejectLoad_judged (hj : s.job? j.handle = some j) (hs : j.kind = .store) (c : Option Sys2Proof.Class)
    {y : RejectReason} (k : Link) (p : List Byte)
    (why : loadTest q.op x.height x.weight = .error y ∨ ∃ z d, loadTest q.op x.height x.weight = .ok z
      ∧ j.destination = some d ∧ (s.fit d).val < z.val ∧ j.redirectAllowed = false ∧ y = .noFit) :
    JudgedAs s ((s.matched j a e x c).rejectLoad j a e x y k p) j q a e x k p (.rejected y) := by
  obtain ⟨first, own, inputs⟩ := matched_parts hj a e x c
  unfold State.rejectLoad State.closeStore
  dsimp only
  generalize s.matched j a e x c = w at *
  have closed : ∀ l, j.origin = .order l → Closed w ((w.closeStart j.handle (.rejectedLoad y) false id).offerClosing j.handle) l
      j (.rejectedLoad y) none := fun l hl => by
    have cell : (j.loaded x c).closedCell (.rejectedLoad y) = none := by simp [Job.closedCell, Job.loaded, hs]
    have closed := closed_of_offered (o := .rejectedLoad y) (moved := false) (f := id) own (l := l) hl (by
      simp [Job.closingNotice, Job.loaded, hs])
    rw [cell] at closed
    exact closed
  have starts : Frame [.cells, .jobs, .credit, .events] w (w.closeStart j.handle (.rejectedLoad y) false id) :=
    (Frame.refl _ w).closeStart _ _ _ _ (by simp)
  have chosen : ∀ d, j.chosen = some d → MapWf w →
      (w.closeStart j.handle (.rejectedLoad y) false id).cell d = (w.cell d).releasedBy j.handle := fun d hd hw =>
    closeStart_chosen hw own hd _ _ _
  generalize w.closeStart j.handle (.rejectedLoad y) false id = u at *
  have offers : Frame [.jobs, .pool, .waves, .queue, .events] u (u.offerClosing j.handle) :=
    (Frame.refl _ u).offerClosing j.handle (by simp)
  generalize u.offerClosing j.handle = v at *
  have emptied : Frame [.input] v (v.setInput a e .empty) := (Frame.refl _ v).setInput a e _ (by simp)
  have stations : ∀ b f, (v.setInput a e .empty).input b f = if (b, f) = (a, e) then .empty else v.input b f := fun b f => by
    rw [State.setInput_input]
    simp
  generalize v.setInput a e .empty = z at *
  have told : Frame [.tx .station] z (z.send .station (.reject a e x.tag y)) := (Frame.refl _ z).send _ _ (by simp)
  have sent : (z.send .station (.reject a e x.tag y)).tx .station = z.tx .station ++ [.reject a e x.tag y] := by
    simp [State.send]
  generalize z.send .station (.reject a e x.tag y) = i at *
  have raised : Frame [.events] i (i.raiseFault .loadRejected (.link k) (some a) (some j.handle) p) :=
    (Frame.refl _ i).raiseFault _ _ _ _ _ (by simp)
  have report : Instr.faultReport { kind := .loadRejected, source := .link k, aisle := some a, job := some j.handle,
                                    payload := p.take 16 } ∈ (i.raiseFault .loadRejected (.link k) (some a) (some j.handle) p).events :=
    List.mem_append_right _ (List.mem_singleton_self _)
  generalize i.raiseFault .loadRejected (.link k) (some a) (some j.handle) p = t at *
  have late : Frame [.input, .tx .station, .events] v t :=
    (emptied.mono (by simp)).trans ((told.mono (by simp)).trans (raised.mono (by simp)))
  have whole : Frame judgedParts s t := (first.mono (by simp [judgedParts])).trans ((starts.mono (by simp [judgedParts])).trans
    ((offers.mono (by simp [judgedParts])).trans (late.mono (by simp [judgedParts]))))
  have input : ∀ b f, t.input b f = if (b, f) = (a, e) then .empty else v.input b f := fun b f => by
    rw [input_congr raised (by simp), input_congr told (by simp), stations]
  exact {
    frame := whole
    tx := by
      rw [raised.tx _ (by simp), sent, emptied.tx _ (by simp), offers.tx _ (by simp), starts.tx _ (by simp),
        first.tx _ (by simp)]
      rfl
    judged := by
      refine ⟨by rw [input, if_pos rfl], report, why, fun l hl => ?_, fun d hd hw => ?_⟩
      · exact (closed l hl).congr (queue_congr first (by simp) l).symm
          (congrArg (PerLink.get · l) (closingWait_congr first (by simp)).symm) (late.job? (by simp) _)
          (queue_congr late (by simp) l) (congrArg (PerLink.get · l) (closingWait_congr late (by simp)))
      · rw [late.cell (by simp) (by simp), offers.cell (by simp) (by simp),
          chosen d hd (mapWf_of_cmp (first.cmp (by simp) (by simp)) hw), first.cell (by simp) (by simp)]
    others := fun b f hne => by
      rw [input, if_neg hne, input_congr offers (by simp), input_congr starts (by simp), inputs, if_neg hne] }

/-- A passed load whose store goes on at its station, whatever follows. -/
theorem JudgedAs.of_passed {ps : List Part} (first : Frame [.input, .jobs] s r)
    (inputs : ∀ b f, r.input b f = if (b, f) = (a, e) then .matched x j.handle else s.input b f)
    (rest : Frame ps r t) (hi : Part.input ∉ ps) (ht : Part.tx .station ∉ ps) (hp : ps ⊆ judgedParts) {k : Link}
    (judged : t.input a e = .matched x j.handle → Judged s t j q a e x k p .passed) :
    JudgedAs s t j q a e x k p .passed where
  frame := (first.mono (by simp [judgedParts])).trans (rest.mono hp)
  tx := by rw [rest.tx _ ht, first.tx _ (by simp)]; exact (List.append_nil _).symm
  judged := judged (by rw [input_congr rest hi, inputs, if_pos rfl])
  others := fun b f hne => by rw [input_congr rest hi, inputs, if_neg hne]

theorem askSlot_parts {w : State} {y : Job} (own : w.job? h = some y) :
    Frame [.jobs, .events] w (w.askSlot h) ∧ .slotSearch h ∈ (w.askSlot h).events
      ∧ (w.askSlot h).job? h = some { y with reason := none } :=
  ⟨(Frame.refl _ w).askSlot h (by simp), List.mem_append_right _ (List.mem_singleton_self _),
    (State.updJob_job own _ h).trans (if_pos rfl)⟩

/-- STORE_REDIRECTED, to the issuing link (R47). -/
def State.redirectNoted (s : State) (j : Job) (d : CellAddr) : State :=
  match j.origin with
  | .order l => s.offerNotice l (.storeRedirected j.handle j.reference d none)
  | .internal => s

theorem redirectStore_eq (s : State) (j : Job) (d : CellAddr) : s.redirectStore j d =
    (((s.release d j.handle).updJob j.handle fun x => { x with destination := none, chosen := none }).redirectNoted j
      d).askSlot j.handle := rfl

theorem redirectNoted_parts (s : State) (j : Job) (d : CellAddr) : Frame [.queue] s (s.redirectNoted j d)
    ∧ ∀ l, j.origin = .order l → (s.redirectNoted j d).queue l = s.queue l ++
        (if (s.queue l).length < 32 then [.storeRedirected j.handle j.reference d none] else []) := by
  unfold State.redirectNoted
  cases j.origin with
  | internal => exact ⟨.refl _ s, fun l hl => by cases hl⟩
  | order l =>
    refine ⟨(Frame.refl _ s).offerNotice l _ (by simp), fun m hm => ?_⟩
    cases hm
    dsimp only
    rw [State.offerNotice_queue]
    by_cases hr : (s.queue l).length < 32 <;> simp [hr]

/-- A fixed cell given up for a slot search (R47). -/
theorem redirectStore_parts {w : State} {y : Job} (own : w.job? j.handle = some y) (d : CellAddr) :
    Frame [.cells, .jobs, .queue, .events] w (w.redirectStore j d) ∧ .slotSearch j.handle ∈ (w.redirectStore j d).events
      ∧ (w.redirectStore j d).job? j.handle = some { y with destination := none, chosen := none, reason := none }
      ∧ (MapWf w → ∀ b, (w.redirectStore j d).cell b = if b = d then (w.cell b).releasedBy j.handle else w.cell b)
      ∧ ∀ l, j.origin = .order l → (w.redirectStore j d).queue l = w.queue l ++
          (if (w.queue l).length < 32 then [.storeRedirected j.handle j.reference d none] else []) := by
  refine ⟨(Frame.refl _ w).redirectStore j d (by simp), ?_⟩
  rw [redirectStore_eq]
  have freed : Frame [.cells, .events] w (w.release d j.handle) := (Frame.refl _ w).release d j.handle (by simp)
  have cells : MapWf w → ∀ b, (w.release d j.handle).cell b = if b = d then (w.cell b).releasedBy j.handle else w.cell b :=
    fun hw b => release_cells hw d b j.handle
  generalize w.release d j.handle = u at *
  have own' : u.job? j.handle = some y := (freed.job? (by simp) _).trans own
  have written : Frame [.jobs] u (u.updJob j.handle fun x => { x with destination := none, chosen := none }) :=
    (Frame.refl _ u).updJob _ _ (by simp)
  have record : (u.updJob j.handle fun x => { x with destination := none, chosen := none }).job? j.handle =
      some { y with destination := none, chosen := none } := (State.updJob_job own' _ j.handle).trans (if_pos rfl)
  generalize (u.updJob j.handle fun x => { x with destination := none, chosen := none }) = v at *
  obtain ⟨notified, queues⟩ := redirectNoted_parts v j d
  generalize v.redirectNoted j d = z at *
  have own'' : z.job? j.handle = _ := (notified.job? (by simp) _).trans record
  obtain ⟨asked, search, final⟩ := askSlot_parts own''
  have before : Frame [.cells, .jobs, .events] w v := (freed.mono (by simp)).trans (written.mono (by simp))
  refine ⟨search, final, fun hw b => ?_, fun l hl => ?_⟩
  · rw [asked.cell (by simp) (by simp), notified.cell (by simp) (by simp), written.cell (by simp) (by simp), cells hw]
  · rw [queue_congr asked (by simp), queues l hl, queue_congr before (by simp)]

/-- The load check of a matched pallet, by its verdict (R47, R157, R158). -/
theorem matchStore_judged (hj : s.job? j.handle = some j) (hs : j.kind = .store) (hq : s.profile? a = some q) (e : End)
    (x : Pallet) (k : Link) (p : List Byte) :
    ∃ t v, s.matchStore j a e x k p = (t, v) ∧ JudgedAs s t j q a e x k p v := by
  have found : (s.setInput a e (.matched x j.handle)).profile? a = some q := hq
  unfold State.matchStore State.loadCheck
  rw [found]
  dsimp only
  cases test : loadTest q.op x.height x.weight with
  | error y => exact ⟨_, _, rfl, rejectLoad_judged hj hs _ k p (.inl test)⟩
  | ok y =>
    obtain ⟨first, own, inputs⟩ := matched_parts hj a e x (some y)
    dsimp only
    cases hd : j.destination with
    | none =>
      obtain ⟨asked, search, record⟩ := askSlot_parts own
      refine ⟨_, _, rfl, JudgedAs.of_passed first inputs asked (by simp) (by simp) (by simp [judgedParts]) fun station =>
        ⟨station, y, test, fun c hc => (by rw [hd] at hc; cases hc), fun _ => ⟨search, fun h => absurd hd h, ?_⟩,
          fun c hc => (by rw [hd] at hc; cases hc), fun _ => ?_⟩⟩
      · refine record.trans ?_
        simp [Job.loaded, hd]
      · have whole : Frame [.input, .jobs, .events] s ((s.matched j a e x (some y)).askSlot j.handle) :=
          (first.mono (by simp)).trans (asked.mono (by simp))
        exact ⟨whole.cmp (by simp) (by simp), (whole .queue (by simp)).1⟩
    | some c =>
      have fits : ((s.setInput a e (.matched x j.handle)).updJob j.handle fun y_ =>
          { y_ with load := some { height := x.height, weight := x.weight, cls := some y } }).fit c = s.fit c :=
        congrFun (fit_congr (first.profile? (by simp))) c
      dsimp only
      rw [fits]
      by_cases small : y.val ≤ (s.fit c).val
      · rw [if_pos small]
        have ready : Frame [.jobs] (s.matched j a e x (some y)) ((s.matched j a e x (some y)).updJob j.handle fun x =>
            { x with state := .ready, reason := none }) := (Frame.refl _ _).updJob _ _ (by simp)
        have record : ((s.matched j a e x (some y)).updJob j.handle fun x =>
            { x with state := .ready, reason := none }).job? j.handle = _ := (State.updJob_job own _ j.handle).trans (if_pos rfl)
        have last : Frame [.jobs, .events] (s.matched j a e x (some y)) (((s.matched j a e x (some y)).updJob j.handle fun x =>
            { x with state := .ready, reason := none }).becameReady j) :=
          (ready.mono (by simp)).trans ((Frame.refl _ _).becameReady j (by simp))
        refine ⟨_, _, rfl, JudgedAs.of_passed first inputs last (by simp) (by simp) (by simp [judgedParts]) fun station =>
          ⟨station, y, test, fun d _ _ => ?_, fun h => ?_, fun d hd' hb => ?_, fun h => ?_⟩⟩
        · rw [becameReady_eq]
          exact record
        · rcases h with h | ⟨d, hd', hb⟩
          · rw [hd] at h; cases h
          · rw [hd] at hd'
            cases hd'
            exact absurd small (Nat.not_le.mpr hb)
        · rw [hd] at hd'
          cases hd'
          exact absurd small (Nat.not_le.mpr hb)
        · rw [hd] at h; cases h
      · rw [if_neg small]
        cases allowed : j.redirectAllowed with
        | false => exact ⟨_, _, rfl, rejectLoad_judged hj hs _ k p (.inr ⟨y, c, test, hd, Nat.not_le.mp small, allowed, rfl⟩)⟩
        | true =>
          obtain ⟨last, search, record, cells, queues⟩ := redirectStore_parts own c
          refine ⟨_, _, rfl, JudgedAs.of_passed first inputs last (by simp) (by simp) (by simp [judgedParts]) fun station =>
            ⟨station, y, test, fun d hd' hb => ?_, fun _ => ⟨search, fun _ => allowed, ?_⟩, fun d hd' _ => ?_, fun h => ?_⟩⟩
          · rw [hd] at hd'
            cases hd'
            exact absurd hb small
          · refine record.trans ?_
            simp [Job.loaded, hd]
          · rw [hd] at hd'
            cases hd'
            refine ⟨fun hw b => ?_, fun l hl => ?_⟩
            · refine (cells (mapWf_of_cmp (first.cmp (by simp) (by simp)) hw) b).trans ?_
              rw [first.cell (by simp) (by simp)]
            · refine (queues l hl).trans ?_
              rw [queue_congr first (by simp)]
          · rw [hd] at h; cases h

end Sys2Proof.Machine
end
section
/-! ARRIVE and the hand-over of a store (O38, O39). -/

namespace Sys2Proof.Machine

variable {s t : State} {j : Job} {a : AisleId} {e : End} {p : List Byte} {q : Profile} {x : Pallet} {v : Verdict} {k : Link}

/-! ## A judgement seen from other states -/

/-- A judgement between states that differ in the station's record and in the frames of link S. -/
theorem Judged.congr {r t' : State} (h : Judged r t j q a e x k p v) (before : Frame [.input, .events] s r)
    (after : Frame [.tx .station] t t') : Judged s t' j q a e x k p v := by
  have queue : ∀ l, r.queue l = s.queue l := fun l => queue_congr before (by simp) l
  have queue' : ∀ l, t'.queue l = t.queue l := fun l => queue_congr after (by simp) l
  have wait := closingWait_congr before (by simp)
  have wait' := closingWait_congr after (by simp)
  have cell : ∀ c, r.cell c = s.cell c := fun c => before.cell (by simp) (by simp) c
  have cell' : ∀ c, t'.cell c = t.cell c := fun c => after.cell (by simp) (by simp) c
  have fit : r.fit = s.fit := fit_congr (before.profile? (by simp))
  have wf : MapWf s → MapWf r := mapWf_of_cmp (before.cmp (by simp) (by simp))
  have job : ∀ g, t'.job? g = t.job? g := fun g => after.job? (by simp) g
  have events : t'.events = t.events := after .events (by simp)
  have input := input_congr after (by simp) a e
  cases v with
  | rejected y =>
    obtain ⟨station, report, why, closed, chosen⟩ := h
    refine ⟨input.trans station, events ▸ report, by rw [← fit]; exact why, fun l hl => ?_, fun c hc hw => ?_⟩
    · exact (closed l hl).congr (queue l).symm (congrArg (PerLink.get · l) wait.symm) (job _) (queue' l)
        (congrArg (PerLink.get · l) wait')
    · rw [cell', chosen c hc (wf hw), cell]
  | passed =>
    obtain ⟨station, y, test, fixed, search, freed, any⟩ := h
    rw [fit] at fixed search freed
    refine ⟨input.trans station, y, test, fun c hc hb => (job _).trans (fixed c hc hb), fun hn => ?_, fun c hc hb => ?_,
      fun hn => ?_⟩
    · obtain ⟨asked, allowed, record⟩ := search hn
      exact ⟨events ▸ asked, allowed, (job _).trans record⟩
    · obtain ⟨cells, notes⟩ := freed c hc hb
      refine ⟨fun hw b => ?_, fun l hl => ?_⟩
      · rw [cell', cells (wf hw), cell]
      · rw [queue', notes l hl, queue]
    · obtain ⟨cmp, queues⟩ := any hn
      exact ⟨(after.cmp (by simp) (by simp)).trans (cmp.trans (before.cmp (by simp) (by simp))),
        (after .queue (by simp)).1.trans (queues.trans (before .queue (by simp)).1)⟩

/-! ## The hand-over -/

theorem qualifies_store {b : AisleId} {f : End} {tag : Word} (h : j.qualifies b f tag = true) : j.kind = .store := by
  unfold Job.qualifies at h
  simp only [Bool.and_eq_true, decide_eq_true_eq] at h
  exact h.1.1.1.1.1

theorem handOver_stays {h : Handle} {l : OrderLink} (hn : ∀ j, s.job? h = some j → ∀ x, s.input j.aisle j.storeEnd =
    .unclaimed x → j.qualifies j.aisle j.storeEnd x.tag = false) : s.handOver h l p = s := by
  unfold State.handOver
  cases hj : s.job? h with
  | none => rfl
  | some j =>
    dsimp only
    split
    · next x hx => rw [if_neg (by rw [hn j hj x hx]; decide)]
    · rfl

theorem handOver_matches {h : Handle} {l : OrderLink} (hj : s.job? h = some j) (hx : s.input j.aisle j.storeEnd = .unclaimed x)
    (hq : j.qualifies j.aisle j.storeEnd x.tag = true) :
    s.handOver h l p = (s.matchStore j j.aisle j.storeEnd x (.order l) p).1 := by
  unfold State.handOver
  rw [hj]
  dsimp only
  rw [hx]
  exact if_pos hq

/-- Settles O39: a store handed over is judged where it qualifies, and left alone elsewhere. -/
theorem storeHandOverMatches : Obligations.StoreHandOverMatches := by
  intro s h l p
  have frame : Frame [.events] s (s.take (.storeHandOver h l p)) := (Frame.refl _ s).take _ (by simp)
  refine ⟨fun hn => congrArg Host.Outcome.next (handOver_stays (s := s.take (.storeHandOver h l p)) hn), ?_⟩
  intro j q x hj hq hx qualifies laws
  have handle := job?_handle laws hj
  have run : exec (.storeHandOver h l p) s = .next
      ((s.take (.storeHandOver h l p)).matchStore j j.aisle j.storeEnd x (.order l) p).1 :=
    congrArg Host.Outcome.next (handOver_matches (s := s.take (.storeHandOver h l p)) hj hx qualifies)
  obtain ⟨t, v, form, after, tx, judged, -⟩ := matchStore_judged (s := s.take (.storeHandOver h l p)) (j := j)
    (by rw [handle]; exact hj) (qualifies_store qualifies) hq j.storeEnd x (.order l) p
  rw [form] at run
  have whole : Frame judgedParts s t := (frame.mono (by simp [judgedParts])).trans after
  refine ⟨t, v, run, tx.trans ?_, judged.congr (frame.mono (by simp)) (.refl _ t),
    whole.crt (by simp [judgedParts]) (by simp [judgedParts]) (by simp [judgedParts]),
    whole.aic (by simp [judgedParts]) (by simp [judgedParts]), whole.ale (by simp [judgedParts]) (by simp [judgedParts]),
    whole.flg (by simp [judgedParts])⟩
  rw [frame.tx _ (by simp)]
  cases v <;> rfl

/-! ## The load test -/

theorem increasing_pairwise : ∀ {ls : List Nat}, increasing ls = true → ls.Pairwise (· < ·)
  | [], _ => .nil
  | [_], _ => List.pairwise_singleton ..
  | x :: y :: ls, h => by
    obtain ⟨first, rest⟩ := (Bool.and_eq_true ..).mp h
    have later := increasing_pairwise rest
    refine List.pairwise_cons.mpr ⟨fun z hz => ?_, later⟩
    rcases List.mem_cons.mp hz with rfl | hz
    · exact of_decide_eq_true first
    · exact (of_decide_eq_true first).trans (List.rel_of_pairwise_cons later hz)

/-- The smallest class whose limit is at least a height (R157). -/
theorem heightClass_eq_some {ls : List Nat} {n : Nat} {c : Sys2Proof.Class} : heightClass ls n = some c ↔
    (c.val < ls.length ∧ n ≤ ls.getD c.val 0) ∧ ∀ i, i < c.val → ¬ (i < ls.length ∧ n ≤ ls.getD i 0) := by
  have classes : ([0, 1, 2, 3] : List Sys2Proof.Class) = List.finRange 4 := by decide
  unfold heightClass
  rw [List.head?_filter, classes, List.find?_eq_some_iff_getElem]
  simp only [List.getElem_finRange, List.length_finRange, Bool.and_eq_true, decide_eq_true_eq, Bool.not_eq_true',
    Bool.and_eq_false_imp, decide_eq_false_iff_not]
  refine and_congr_right fun _ => ⟨?_, fun h => ⟨c.val, c.isLt, rfl, fun i hi hl => fun hn => h i hi ⟨hl, hn⟩⟩⟩
  rintro ⟨i, hi, rfl, h⟩ k hk ⟨hl, hn⟩
  exact h k hk hl hn

theorem heightClass_eq_none {ls : List Nat} {n : Nat} (hl : ls.length ≤ 4) : heightClass ls n = none ↔
    ∀ i, i < ls.length → ls.getD i 0 < n := by
  have classes : ([0, 1, 2, 3] : List Sys2Proof.Class) = List.finRange 4 := by decide
  unfold heightClass
  rw [List.head?_filter, classes, List.find?_eq_none]
  simp only [List.mem_finRange, Bool.and_eq_true, decide_eq_true_eq, not_and, Nat.not_le, forall_const]
  exact ⟨fun h i hi => h ⟨i, by omega⟩ hi, fun h c hc => h c.val hc⟩

/-- The limits in use, against the four limits of the profile. -/
theorem limits_getD {o : Operating} (hn : o.classCount ≤ 4) {i : Nat} (hi : i < o.classCount) :
    o.limits.length = o.classCount
      ∧ o.limits.getD i 0 = [o.limit0, o.limit1, o.limit2, o.limit3].getD i 0 := by
  unfold Operating.limits
  refine ⟨by simp [hn], ?_⟩
  rw [List.getD_eq_getElem?_getD, List.getElem?_take_of_lt hi, List.getD_eq_getElem?_getD]

/-- No class is high enough exactly where the top limit is not (R157). -/
theorem heightClass_none_iff {o : Operating} (h1 : 1 ≤ o.classCount) (h4 : o.classCount ≤ 4) (hc : o.consistent = true)
    (n : Nat) : heightClass o.limits n = none ↔
      [o.limit0, o.limit1, o.limit2, o.limit3].getD (o.classCount - 1) 0 < n := by
  obtain ⟨rising, -⟩ := (Bool.and_eq_true ..).mp hc
  obtain ⟨len, top⟩ := limits_getD h4 (i := o.classCount - 1) (by omega)
  rw [heightClass_eq_none (by omega), ← top, len]
  refine ⟨fun h => h _ (by omega), fun h i hi => ?_⟩
  by_cases last : i = o.classCount - 1
  · rw [last]
    exact h
  · have below := List.pairwise_iff_getElem.mp (increasing_pairwise rising) i (o.classCount - 1) (by omega) (by omega)
      (by omega)
    rw [List.getD_eq_getElem _ _ (by omega)] at h ⊢
    exact below.trans h

theorem loadTest_cases (o : Operating) (n w : Nat) :
    (heightClass o.limits n = none ∧ loadTest o n w = .error .height)
      ∨ ∃ k, heightClass o.limits n = some k ∧ loadTest o n w =
        if o.weightMax < w then .error .weightHigh else if w < o.weightMin then .error .weightLow else .ok k := by
  unfold loadTest
  cases heightClass o.limits n with
  | none => exact .inl ⟨rfl, rfl⟩
  | some k => exact .inr ⟨k, rfl, rfl⟩

/-- The first half of O38. -/
theorem loadTest_tests {o : Operating} {ls : List Nat} (n w : Nat) (hl : ls = [o.limit0, o.limit1, o.limit2, o.limit3])
    (h1 : 1 ≤ o.classCount) (h4 : o.classCount ≤ 4) (hc : o.consistent = true) :
    (loadTest o n w = .error .height ↔ ls.getD (o.classCount - 1) 0 < n)
      ∧ (loadTest o n w = .error .weightHigh ↔ n ≤ ls.getD (o.classCount - 1) 0 ∧ o.weightMax < w)
      ∧ (loadTest o n w = .error .weightLow ↔ n ≤ ls.getD (o.classCount - 1) 0 ∧ w < o.weightMin)
      ∧ loadTest o n w ≠ .error .noFit
      ∧ ∀ k, loadTest o n w = .ok k ↔ o.weightMin ≤ w ∧ w ≤ o.weightMax
          ∧ k.val < o.classCount ∧ n ≤ ls.getD k.val 0 ∧ ∀ i, i < k.val → ls.getD i 0 < n := by
  have none_ := heightClass_none_iff h1 h4 hc n
  have range : o.weightMin ≤ o.weightMax := of_decide_eq_true ((Bool.and_eq_true ..).mp hc).2
  subst hl
  have named : ∀ k : Sys2Proof.Class, heightClass o.limits n = some k ↔ k.val < o.classCount
      ∧ n ≤ [o.limit0, o.limit1, o.limit2, o.limit3].getD k.val 0
      ∧ ∀ i, i < k.val → [o.limit0, o.limit1, o.limit2, o.limit3].getD i 0 < n := fun k => by
    obtain ⟨len, -⟩ := limits_getD h4 (i := 0) (by omega)
    rw [heightClass_eq_some, len]
    constructor
    · rintro ⟨⟨hk, hn⟩, below⟩
      refine ⟨hk, (limits_getD h4 hk).2 ▸ hn, fun i hi => ?_⟩
      have := below i hi
      rw [(limits_getD h4 (show i < o.classCount by omega)).2] at this
      omega
    · rintro ⟨hk, hn, below⟩
      refine ⟨⟨hk, (limits_getD h4 hk).2 ▸ hn⟩, fun i hi => ?_⟩
      rintro ⟨hi', hn'⟩
      rw [(limits_getD h4 hi').2] at hn'
      have := below i hi
      omega
  generalize [o.limit0, o.limit1, o.limit2, o.limit3].getD (o.classCount - 1) 0 = top at *
  rcases loadTest_cases o n w with ⟨hn, test⟩ | ⟨k, hk, test⟩
  · have high := none_.mp hn
    refine ⟨by simp [test, high], by simp [test]; omega, by simp [test]; omega, by simp [test], fun k => ?_⟩
    rw [test, ← named k, hn]
    simp
  · have low : n ≤ top := by
      rw [← Nat.not_lt, ← none_, hk]
      simp
    have not_high := Nat.not_lt.mpr low
    rw [test]
    by_cases heavy : o.weightMax < w
    · rw [if_pos heavy]
      exact ⟨by simp [not_high], by simp [low, heavy], by simp; omega, by simp, fun c => by simp; omega⟩
    · rw [if_neg heavy]
      by_cases light : w < o.weightMin
      · rw [if_pos light]
        exact ⟨by simp [not_high], by simp [heavy], by simp [low, light], by simp, fun c => by simp; omega⟩
      · rw [if_neg light]
        refine ⟨by simp [not_high], by simp [heavy], by simp [light], by simp, fun c => ?_⟩
        rw [← named c, hk]
        simp only [Except.ok.injEq, Option.some.injEq, Nat.not_lt.mp heavy, Nat.not_lt.mp light, true_and]

/-! ## ARRIVE -/

theorem aisleOf_val (a : AisleId) : aisleOf a.val = some a := dif_pos a.isLt

theorem endOf_code (e : End) : endOf e.code = some e := by
  cases e <;> rfl

/-- A command of link S that is refused with a fault. -/
theorem arrive_refusedWith (h : Hears s .station) {r : Result}
    (ha : (s.heard (.arrive p) .station).arrive p =
      (s.heard (.arrive p) .station).refuseWith r .stationProtocol (some a) p) :
    exec (.arrive p) s = .next { s.refused (.arrive p) .station 0x30 r with
      events := s.events.erase (.arrive p) ++
        [.faultReport { kind := .stationProtocol, source := .link .station, aisle := some a, job := none,
                        payload := p.take 16 }] } := by
  show Host.Outcome.next (s.command _ _ _ _ _) = _
  rw [State.command_replied h _ _ _ _ (by rw [ha]; rfl), ha]
  rfl

/-- A command of link S that is refused. -/
theorem arrive_refused (h : Hears s .station) {r : Result}
    (ha : (s.heard (.arrive p) .station).arrive p = (s.heard (.arrive p) .station).refuse r) :
    exec (.arrive p) s = .next (s.refused (.arrive p) .station 0x30 r) := by
  show Host.Outcome.next (s.command _ _ _ _ _) = _
  rw [State.command_refuse h _ _ _ _ r ha]
  rfl

/-- ARRIVE with its aisle and its end read. -/
theorem arrive_read {f : ArriveFields} (hf : decodeArrive p = some f) (ha : f.aisle = a.val) (he : f.end_ = e.code) :
    s.arrive p = if s.stationExists a e = false then s.refuseWith .noStation .stationProtocol (some a) p
      else if f.tag = 0 then s.arriveClear a e p
      else if s.input a e ≠ .empty then s.refuseWith .stationBusy .stationProtocol (some a) p
      else s.arrivePallet a e { tag := f.tag, height := f.height, weight := f.weight } p := by
  unfold State.arrive
  rw [hf, State.withField_some, ha, aisleOf_val, State.withField_some, he, endOf_code, State.withField_some]

theorem arrive_unread {f : ArriveFields} (hf : decodeArrive p = some f) (hb : 7 < f.aisle ∨ 1 < f.end_) :
    s.arrive p = s.refuse .badField := by
  unfold State.arrive
  rw [hf, State.withField_some]
  cases ha : aisleOf f.aisle with
  | none => rfl
  | some a =>
    rw [State.withField_some]
    have small : f.aisle < 8 := by
      unfold aisleOf at ha
      split at ha
      · assumption
      · cases ha
    have unread : endOf f.end_ = none := by
      have big := hb.resolve_left (by omega)
      unfold endOf
      split
      · omega
      · omega
      · rfl
    rw [unread]
    rfl

/-- A pallet for which no store waits stands UNCLAIMED (R156). -/
theorem arrivePallet_unclaimed (h : Hears s .station) (hn : s.qualifying a e x.tag = none)
    (ha : (s.heard (.arrive p) .station).arrive p = (s.heard (.arrive p) .station).arrivePallet a e x p) :
    exec (.arrive p) s = .next ((s.answered (.arrive p) .station 0x30 false (.arrived (.unclaimed x) none)).setInput a e
      (.unclaimed x)) := by
  have act : (s.heard (.arrive p) .station).arrivePallet a e x p =
      ((s.heard (.arrive p) .station).setInput a e (.unclaimed x)).ok (.arrived (.unclaimed x) none) := by
    have none_ : ((s.heard (.arrive p) .station).setInput a e (.unclaimed x)).qualifying a e x.tag = none := hn
    unfold State.arrivePallet
    dsimp only
    rw [none_]
  show Host.Outcome.next (s.command _ _ _ _ _) = _
  rw [State.command_replied h _ _ _ _ (by rw [ha, act]; rfl), ha, act]
  rfl

/-- A pallet matched to the store that waits for it: the reply carries the verdict, ahead of a REJECT (R156, R157). -/
theorem arrivePallet_judged (h : Hears s .station) (laws : HandleLaw s) (hj : s.qualifying a e x.tag = some j)
    (hq : s.profile? a = some q)
    (ha : (s.heard (.arrive p) .station).arrive p = (s.heard (.arrive p) .station).arrivePallet a e x p) :
    ∃ t v more, exec (.arrive p) s = .next t
      ∧ t.tx .station = s.tx .station ++ .reply (okReply 0x30 false
          (.arrived (.matched x j.handle) (some (j.handle, v)))) :: more
      ∧ more = (match v with | .rejected r => [.reject a e x.tag r] | .passed => [])
      ∧ Judged s t j q a e x .station p v
      ∧ t.crt = s.crt ∧ t.aic = s.aic ∧ t.ale = s.ale ∧ t.flg = s.flg
      ∧ ∀ b y, (b, y) ≠ (a, e) → t.input b y = s.input b y := by
  have heard : Frame [.events] s (s.heard (.arrive p) .station) := (Frame.refl _ s).take _ (by simp)
  have found : ((s.heard (.arrive p) .station).setInput a e (.unclaimed x)).qualifying a e x.tag = some j := hj
  have qualifies : j.qualifies a e x.tag = true := List.find?_some (p := fun j : Job => j.qualifies a e x.tag) hj
  have live := job?_of_mem laws (List.mem_of_find?_eq_some hj)
  have put : Frame [.input] (s.heard (.arrive p) .station) ((s.heard (.arrive p) .station).setInput a e (.unclaimed x)) :=
    (Frame.refl _ _).setInput a e _ (by simp)
  have before : Frame [.input, .events] s ((s.heard (.arrive p) .station).setInput a e (.unclaimed x)) :=
    (heard.mono (by simp)).trans (put.mono (by simp))
  obtain ⟨t, v, form, after, tx, judged, others⟩ := matchStore_judged
    (s := (s.heard (.arrive p) .station).setInput a e (.unclaimed x)) (j := j) live (qualifies_store qualifies) hq e x
    .station p
  have act : (s.heard (.arrive p) .station).arrivePallet a e x p =
      t.ok (.arrived (.matched x j.handle) (some (j.handle, v))) := by
    unfold State.arrivePallet
    dsimp only
    rw [found]
    dsimp only
    rw [form]
  have run : exec (.arrive p) s = .next (t.insertTx .station (s.tx .station).length
      (.reply (okReply 0x30 false (.arrived (.matched x j.handle) (some (j.handle, v)))))) := by
    show Host.Outcome.next (s.command _ _ _ _ _) = _
    rw [State.command_heard h, ha, act]
    rfl
  have sent : Frame [.tx .station] t (t.insertTx .station (s.tx .station).length
      (.reply (okReply 0x30 false (.arrived (.matched x j.handle) (some (j.handle, v)))))) :=
    (Frame.refl _ t).setTx .station _ (by simp)
  rw [before.tx _ (by simp)] at tx
  have whole : Frame judgedParts s _ := (before.mono (by simp [judgedParts])).trans (after.trans (sent.mono (by
    simp [judgedParts])))
  refine ⟨_, v, v.sent a e x.tag, run, ?_, by cases v <;> rfl, judged.congr before sent,
    whole.crt (by simp [judgedParts]) (by simp [judgedParts]) (by simp [judgedParts]),
    whole.aic (by simp [judgedParts]) (by simp [judgedParts]), whole.ale (by simp [judgedParts]) (by simp [judgedParts]),
    whole.flg (by simp [judgedParts]), fun b f hne => ?_⟩
  · unfold State.insertTx
    rw [State.setTx_tx, if_pos rfl, tx]
    simp
  · rw [input_congr sent (by simp), others b f hne, State.setInput_input, if_neg (by simpa using hne)]
    exact input_congr heard (by simp) b f

/-- Settles O38: the load test by the limits in use, and ARRIVE by its station's record and the store that waits. -/
theorem arriveRecordsAndMatches : Obligations.ArriveRecordsAndMatches := by
  refine ⟨fun o ls n w hl h1 h4 hc => loadTest_tests n w hl h1 h4 hc, fun s p h => ⟨fun hn => ?_, fun f hf => ⟨fun hb => ?_,
    fun a e ha he => ?_⟩⟩⟩
  · exact arrive_refused h (by rw [State.arrive, hn]; rfl)
  · exact arrive_refused h (arrive_unread hf hb)
  have read := arrive_read (s := s.heard (.arrive p) .station) hf ha he
  have exists_ : (s.heard (.arrive p) .station).stationExists a e = s.stationExists a e := rfl
  have input : (s.heard (.arrive p) .station).input a e = s.input a e := rfl
  refine ⟨fun r hr => ?_, fun there zero free => ?_, fun there tag empty => ?_⟩
  · rcases hr with ⟨rfl, absent⟩ | ⟨rfl, there, busy⟩
    · exact arrive_refusedWith h (read.trans (if_pos absent))
    · rw [if_neg (by rw [exists_, there]; decide)] at read
      rcases busy with ⟨tag, full⟩ | ⟨zero, y, g, matched⟩
      · exact arrive_refusedWith h (read.trans ((if_neg tag).trans (if_pos full)))
      · refine arrive_refusedWith h (read.trans ((if_pos zero).trans ?_))
        unfold State.arriveClear
        rw [input, matched]
  · rw [if_neg (by rw [exists_, there]; decide), if_pos zero] at read
    have act : (s.heard (.arrive p) .station).arriveClear a e p =
        ((s.heard (.arrive p) .station).setInput a e .empty).ok (.arrived .empty none) := by
      unfold State.arriveClear
      rw [input]
      split
      · next y g hy => exact absurd hy (free y g)
      · rfl
    show Host.Outcome.next (s.command _ _ _ _ _) = _
    rw [State.command_replied h _ _ _ _ (by rw [read, act]; rfl), read, act]
    rfl
  · rw [if_neg (by rw [exists_, there]; decide), if_neg tag, if_neg (not_not.mpr (input.trans empty))] at read
    refine ⟨fun none_ => ?_, fun j q hj hq laws => arrivePallet_judged h laws hj hq read⟩
    exact arrivePallet_unclaimed h (List.find?_eq_none.mpr fun j hj => by rw [none_ j hj]; decide) read

end Sys2Proof.Machine
end
section
/-! The closing of a job and of the relocation cancelled with it, part by part: the cells and the records of others, the
withdrawal of a redirect and of a unit, and the end of the unit behind it (R56 to R58, R99, R129, R130). -/

namespace Sys2Proof.Machine

variable {r s t u : State} {a : AisleId} {c d : CraneId} {e : End} {g h q : Handle} {j k : Job} {l m : OrderLink} {n : Notice}
  {o : JobOutcome}

/-! ## A job enters CLOSING -/

theorem releaseOpt_cells (hw : MapWf s) (d : Option CellAddr) (b : CellAddr) (h : Handle) :
    (s.release? d h).cell b = if d = some b then (s.cell b).releasedBy h else s.cell b := by
  cases d with
  | none => rfl
  | some d =>
    refine (release_cells hw d b h).trans ?_
    simp only [Option.some.injEq, eq_comm]

/-- The cells a closing job gives up (R56). -/
theorem closeStart_cells (hw : MapWf s) (hj : s.job? h = some j) (o : JobOutcome) (moved : Bool) (f : Credit → Credit)
    (b : CellAddr) : (s.closeStart h o moved f).cell b =
      if j.chosen = some b ∨ j.target = some b then (s.cell b).releasedBy h else s.cell b := by
  have recorded : Frame [.jobs] s (s.closedRecord j h o moved) := closedRecord_frame s j h o moved
  have wf : MapWf (s.closedRecord j h o moved) := mapWf_of_cmp (recorded.cmp (by simp) (by simp)) hw
  have wf' : MapWf ((s.closedRecord j h o moved).release? j.chosen h) := ((Changes.refl _).release_q j.chosen h).mapWf wf
  have credited := closedCredit_frame (((s.closedRecord j h o moved).release? j.chosen h).release? j.target h) j f
  rw [closeStart_eq hj, credited.cell (by simp) (by simp), releaseOpt_cells wf', releaseOpt_cells wf,
    recorded.cell (by simp) (by simp)]
  by_cases hc : j.chosen = some b <;> by_cases ht : j.target = some b <;> simp [hc, ht, Cell.releasedBy_twice]

/-- The records of the jobs that a closing job is no partner of. -/
theorem closeStart_others (s : State) (o : JobOutcome) (moved : Bool) (f : Credit → Credit) (hg : g ≠ h)
    (hp : ∀ j, s.job? h = some j → j.partner ≠ some g) : (s.closeStart h o moved f).job? g = s.job? g := by
  cases hj : s.job? h with
  | none =>
    unfold State.closeStart
    rw [hj]
  | some j =>
    have last : Frame [.cells, .events] (s.closedRecord j h o moved)
        (((s.closedRecord j h o moved).release? j.chosen h).release? j.target h) :=
      ((Frame.refl _ _).release_q _ h (by simp)).release_q _ h (by simp)
    rw [closeStart_eq hj, (closedCredit_frame _ j f).job? (by simp), last.job? (by simp)]
    refine (updJob_other hg _ _).trans ?_
    unfold State.dropPartner
    cases hq : j.partner with
    | none => rfl
    | some q => exact updJob_other (fun e => hp j hj (by rw [hq, e])) s _

/-- A job on no crane that holds no cell closes with its record alone. -/
theorem closeStart_unplaced (hj : s.job? h = some j) (hc : j.chosen = none) (ht : j.target = none) (hu : j.unit = none)
    (o : JobOutcome) (moved : Bool) (f : Credit → Credit) : Frame [.jobs] s (s.closeStart h o moved f) := by
  rw [closeStart_eq hj, hc, ht]
  unfold State.closedCredit
  rw [hu]
  exact closedRecord_frame s j h o moved

/-! ## The notice of a closing job -/

/-- Another handle of a live job's slot names no job. -/
theorem job?_none_of_slot (hk : s.job? h = some k) (hs : g.slot = h.slot) (hg : g ≠ h) : s.job? g = none := by
  obtain ⟨live, -⟩ := State.job?_eq_some.mp hk
  cases hj : s.job? g with
  | none => rfl
  | some j =>
    obtain ⟨live', -⟩ := State.job?_eq_some.mp hj
    rw [hs, live] at live'
    exact absurd (by cases g; cases h; simp_all) hg

theorem leavePool_others (s : State) (hg : g ≠ h) : (s.leavePool h).job? g = s.job? g := by
  rw [leavePool_job]
  split
  · next same =>
    obtain ⟨k, hk⟩ := Option.ne_none_iff_exists'.mp same.2
    exact (job?_none_of_slot hk same.1 hg).symm
  · rfl

theorem placeClosing_others (s : State) (hg : g ≠ h) (l : OrderLink) : (s.placeClosing h l).job? g = s.job? g := by
  unfold State.placeClosing
  split
  · split
    · exact updJob_other hg _ _
    · rfl
  · rfl

theorem leaveIfPaid_others (s : State) (hg : g ≠ h) : (s.leaveIfPaid h).job? g = s.job? g := by
  unfold State.leaveIfPaid
  split
  · split
    · exact leavePool_others _ hg
    · rfl
  · rfl

/-- The placement of a job's notice leaves the record of every other job. -/
theorem offerClosing_others (s : State) (hg : g ≠ h) : (s.offerClosing h).job? g = s.job? g := by
  have each : ∀ (ls : List OrderLink) (s : State), (s.each ls fun s l => s.placeClosing h l).job? g = s.job? g := by
    intro ls
    induction ls with
    | nil => exact fun _ => rfl
    | cons l ls ih => exact fun s => (ih (s.placeClosing h l)).trans (placeClosing_others s hg l)
  unfold State.offerClosing
  cases s.job? h with
  | none => rfl
  | some j => exact (leaveIfPaid_others _ hg).trans (each j.owed s)

/-- Closing wait lists that grow at their tails. -/
def WaitsGrow (s t : State) : Prop := ∀ l, ∃ more, t.jpl.closingWait.get l = s.jpl.closingWait.get l ++ more

theorem WaitsGrow.of_eq (h : t.jpl.closingWait = s.jpl.closingWait) : WaitsGrow s t :=
  fun _ => ⟨[], by rw [h, List.append_nil]⟩

theorem WaitsGrow.trans (h : WaitsGrow s t) (k : WaitsGrow t u) : WaitsGrow s u := fun l => by
  obtain ⟨x, hx⟩ := h l
  obtain ⟨y, hy⟩ := k l
  exact ⟨x ++ y, by rw [hy, hx, List.append_assoc]⟩

theorem placeClosing_waits (s : State) (h : Handle) (l : OrderLink) : WaitsGrow s (s.placeClosing h l) := by
  unfold State.placeClosing
  split
  · split
    · exact .of_eq (closingWait_congr (ps := [.jobs, .queue])
        (((Frame.refl _ s).setQueue l _ (by simp)).updJob h _ (by simp)) (by simp))
    · intro m
      by_cases hm : m = l
      · subst hm
        exact ⟨[h], (PerLink.get_set ..).trans (if_pos rfl)⟩
      · exact ⟨[], (PerLink.get_set ..).trans ((if_neg hm).trans (List.append_nil _).symm)⟩
  · exact .of_eq rfl

theorem leaveIfPaid_waits (s : State) (h : Handle) : (s.leaveIfPaid h).jpl.closingWait = s.jpl.closingWait := by
  unfold State.leaveIfPaid
  split
  · split
    · exact leavePool_closingWait _ h
    · rfl
  · rfl

theorem offerClosing_waits (s : State) (h : Handle) : WaitsGrow s (s.offerClosing h) := by
  have each : ∀ (ls : List OrderLink) (s : State), WaitsGrow s (s.each ls fun s l => s.placeClosing h l) := by
    intro ls
    induction ls with
    | nil => exact fun _ => .of_eq rfl
    | cons l ls ih => exact fun s => (placeClosing_waits s h l).trans (ih (s.placeClosing h l))
  unfold State.offerClosing
  cases s.job? h with
  | none => exact .of_eq rfl
  | some j => exact (each j.owed s).trans (.of_eq (leaveIfPaid_waits _ h))

/-! ## The withdrawal of a redirect and of a unit -/

theorem send_tx (s : State) (c : CraneId) (x : Message) : (s.send (.crane c) x).tx (.crane c) = s.tx (.crane c) ++ [x] := by
  rw [State.send, State.setTx_tx, if_pos rfl]

theorem withdrawRedirect_none (hr : (s.crane c).redirect = none) : s.withdrawRedirect c = s := by
  unfold State.withdrawRedirect
  rw [hr]

/-- An outstanding redirect is withdrawn (R88, R130; log entry 27). -/
structure RedirectWithdrawn (s t : State) (c : CraneId) (x : Redirect) : Prop where
  frame : Frame [.crane c, .cells, .jobs, .credit, .tx (.crane c), .events] s t
  crane : t.crane c = { s.crane c with redirect := none, offerTimer := none }
  tx : t.tx (.crane c) = s.tx (.crane c) ++ [.withdraw x.number 0]
  job : ∀ g, t.job? g = (s.job? g).map fun y => if x.job = g then y.unpromised else y
  cell : ∀ k, s.job? x.job = some k → k.kind ≠ .retrieve → t.cell = s.cell

theorem endRedirect_cells {x : Redirect} (hr : (s.crane c).redirect = some x) (hj : s.job? x.job = some k)
    (hk : k.kind ≠ .retrieve) : (s.endRedirect c).cell = s.cell := by
  have dropped : Frame [.crane c, .events] s (s.redirectDropped c) :=
    ((Frame.refl _ s).setCrane c _ (by simp)).stopOfferTimer c (by simp)
  have live : (s.redirectDropped c).job? x.job = some k := (dropped.job? (by simp) _).trans hj
  have unpicked : k.pickCell = none := by
    unfold Job.pickCell
    split
    · next h => exact absurd h hk
    · rfl
  have form : s.endRedirect c = ((((s.redirectDropped c).updJob x.job fun y =>
      { y with promised := none, chosen := k.keptCell }).release? k.pickCell x.job).updBound c k Credit.unbind).select
        k.aisle := by
    unfold State.redirectDropped at live
    simp only [State.endRedirect, hr, live]
    rfl
  rw [form, unpicked]
  have last : Frame [.crane c, .jobs, .credit, .events] s (((((s.redirectDropped c).updJob x.job fun y =>
      { y with promised := none, chosen := k.keptCell }).release? none x.job).updBound c k Credit.unbind).select k.aisle) :=
    (((dropped.mono (by simp)).updJob _ _ (by simp)).updBound c k _ (by simp)).select k.aisle (by simp)
  exact funext fun b => last.cell (by simp) (by simp) b

theorem withdrawRedirect_withdrawn {x : Redirect} (hr : (s.crane c).redirect = some x) :
    RedirectWithdrawn s (s.withdrawRedirect c) c x := by
  have form : s.withdrawRedirect c = (s.send (.crane c) (.withdraw x.number 0)).endRedirect c := by
    unfold State.withdrawRedirect
    rw [hr]
  have sent : Frame [.tx (.crane c)] s (s.send (.crane c) (.withdraw x.number 0)) := (Frame.refl _ s).send (.crane c) _ (by simp)
  have tx := send_tx s c (.withdraw x.number 0)
  rw [form]
  generalize s.send (.crane c) (.withdraw x.number 0) = m at *
  have crane := sent.crane c (by simp)
  have hr' : (m.crane c).redirect = some x := by rw [crane, hr]
  obtain ⟨record, job⟩ := endRedirect_records m c
  have ended := endRedirect_frame m c
  refine ⟨(sent.mono (by simp)).trans (ended.mono (by simp)), ?_, (ended.tx _ (by simp)).trans tx, fun g => ?_,
    fun k hj hk => ?_⟩
  · rw [record, hr', crane]
    simp
  · rw [job, sent.job? (by simp), hr']
    simp
  · rw [endRedirect_cells hr' ((sent.job? (by simp) _).trans hj) hk]
    exact funext fun b => sent.cell (by simp) (by simp) b

/-- What stays of a unit behind a WITHDRAW with a keep count (R130). -/
def WorkUnit.keeping (w : WorkUnit) (keep : Nat) : WorkUnit :=
  { w with steps := w.steps.take keep, jobs := w.jobs.filter fun h => (w.steps.take keep).any fun x => decide (x.job = h) }

/-- A crane's unit is withdrawn with a keep count (R130). -/
structure Withdrawn (s t : State) (c : CraneId) (w : WorkUnit) (keep : Nat) : Prop where
  frame : Frame [.crane c, .tx (.crane c), .events] s t
  crane : t.crane c = { s.crane c with
    unit := some (w.keeping keep), deadline := if keep < w.current then none else (s.crane c).deadline }
  tx : t.tx (.crane c) = s.tx (.crane c) ++ [.withdraw w.number keep]

theorem withdraw_withdrawn {w : WorkUnit} (hu : (s.crane c).unit = some w) (keep : Nat) :
    Withdrawn s (s.withdraw c keep) c w keep := by
  have form : s.withdraw c keep =
      if keep < w.current then ((s.send (.crane c) (.withdraw w.number keep)).setCrane c { s.crane c with
          unit := some (w.keeping keep) }).stopDeadline c
      else (s.send (.crane c) (.withdraw w.number keep)).setCrane c { s.crane c with unit := some (w.keeping keep) } := by
    unfold State.withdraw
    rw [hu]
    rfl
  have sent : Frame [.tx (.crane c)] s (s.send (.crane c) (.withdraw w.number keep)) :=
    (Frame.refl _ s).send (.crane c) _ (by simp)
  have tx := send_tx s c (.withdraw w.number keep)
  rw [form]
  generalize s.send (.crane c) (.withdraw w.number keep) = m at *
  have written : Frame [.crane c] m (m.setCrane c { s.crane c with unit := some (w.keeping keep) }) :=
    (Frame.refl _ m).setCrane c _ (by simp)
  have record : (m.setCrane c { s.crane c with unit := some (w.keeping keep) }).crane c =
      { s.crane c with unit := some (w.keeping keep) } := (State.setCrane_crane m c c _).trans (if_pos rfl)
  generalize m.setCrane c { s.crane c with unit := some (w.keeping keep) } = r at *
  have until_ : Frame [.crane c, .tx (.crane c)] s r := (sent.mono (by simp)).trans (written.mono (by simp))
  have txr : r.tx (.crane c) = s.tx (.crane c) ++ [.withdraw w.number keep] := (written.tx _ (by simp)).trans tx
  split
  · next early =>
    have stopped : Frame [.crane c, .events] r (r.stopDeadline c) := (Frame.refl _ r).stopDeadline c (by simp)
    refine ⟨(until_.mono (by simp)).trans (stopped.mono (by simp)), ?_, (stopped.tx _ (by simp)).trans txr⟩
    refine (State.setCrane_crane r c c _).trans ((if_pos rfl).trans ?_)
    rw [record, if_pos early]
  · next late => exact ⟨until_.mono (by simp), by rw [record, if_neg late], txr⟩

/-! ## The end of a unit -/

/-- A unit that ends (R129): the record of its crane, what is sent, and the tables. -/
structure UnitEnded (s t : State) (c : CraneId) : Prop where
  frame : Frame [.crane c, .rail, .cells, .jobs, .credit, .tx (.crane c), .events] s t
  crane : t.crane c = { (s.crane c).unitless with offerTimer := none }
  tx : ∃ more, t.tx (.crane c) = s.tx (.crane c) ++ more
  lone : (s.crane c).redirect = none → Frame [.crane c, .rail, .tx (.crane c), .events] s t

/-- A crane's record without its unit and the timers of the unit. -/
def State.unitDropped (s : State) (c : CraneId) : State :=
  ((s.setCrane c { s.crane c with unit := none }).stopDeadline c).stopOfferTimer c

theorem unitDropped_frame (s : State) (c : CraneId) : Frame [.crane c, .events] s (s.unitDropped c) :=
  (((Frame.refl _ s).setCrane c _ (by simp)).stopDeadline c (by simp)).stopOfferTimer c (by simp)

theorem unitDropped_crane (s : State) (c : CraneId) :
    (s.unitDropped c).crane c = { s.crane c with unit := none, deadline := none, offerTimer := none } := by
  have first : (s.setCrane c { s.crane c with unit := none }).crane c = { s.crane c with unit := none } :=
    (State.setCrane_crane s c c _).trans (if_pos rfl)
  have second : ((s.setCrane c { s.crane c with unit := none }).stopDeadline c).crane c =
      { s.crane c with unit := none, deadline := none } :=
    (State.setCrane_crane _ c c _).trans ((if_pos rfl).trans (by rw [first]))
  exact (stopOfferTimer_crane c).trans ((if_pos rfl).trans (by rw [second]))

theorem endUnit_eq (s : State) (c : CraneId) : s.endUnit c = ((s.unitDropped c).withdrawRedirect c).fall c [] := rfl

theorem endUnit_ended (s : State) (c : CraneId) : UnitEnded s (s.endUnit c) c := by
  have start := unitDropped_frame s c
  have own := unitDropped_crane s c
  rw [endUnit_eq]
  generalize s.unitDropped c = m at *
  have fell : ∀ n : State, Frame [.rail, .events] n (n.fall c []) := fun n => (Frame.refl _ n).fall c [] (by simp)
  have redirect : (m.crane c).redirect = (s.crane c).redirect := by rw [own]
  have alone : (s.crane c).redirect = none → m.withdrawRedirect c = m := fun h => withdrawRedirect_none (redirect.trans h)
  have later := fell (m.withdrawRedirect c)
  have ended : Frame [.crane c, .cells, .jobs, .credit, .tx (.crane c), .events] m (m.withdrawRedirect c) :=
    (Frame.refl _ m).withdrawRedirect c (by simp)
  refine ⟨(start.mono (by simp)).trans ((ended.mono (by simp)).trans (later.mono (by simp))), ?_, ?_, fun h => ?_⟩
  · rw [later.crane c (by simp)]
    cases hr : (s.crane c).redirect with
    | none =>
      rw [alone hr, own]
      show _ = ({ s.crane c with unit := none, deadline := none, redirect := none, offerTimer := none } : Crane)
      rw [← hr]
    | some x =>
      rw [(withdrawRedirect_withdrawn (redirect.trans hr)).crane, own]
      rfl
  · rw [later.tx _ (by simp), ← start.tx _ (by simp)]
    cases hr : (s.crane c).redirect with
    | none => exact ⟨[], by rw [alone hr, List.append_nil]⟩
    | some x => exact ⟨_, (withdrawRedirect_withdrawn (redirect.trans hr)).tx⟩
  · rw [alone h]
    exact (start.mono (by simp)).trans ((fell m).mono (by simp))

/-- The records at the end of a unit: a redirect still outstanding takes its promise with it (R88, R129). -/
theorem finishUnit_job (s : State) (c : CraneId) (g : Handle) : (s.finishUnit c).job? g =
    (s.job? g).map fun y => if (s.crane c).redirect.map (·.job) = some g then y.unpromised else y := by
  have start := unitDropped_frame s c
  have redirect : ((s.unitDropped c).crane c).redirect = (s.crane c).redirect := by rw [unitDropped_crane]
  have last : Frame [.crane c, .rail, .holdBack, .parkOwed, .holds, .profiles, .tx (.crane c), .queue, .events]
      ((s.unitDropped c).withdrawRedirect c) (s.finishUnit c) :=
    (((Frame.refl _ _).fall c [] (by simp)).goIdle c (by simp) :
      Frame _ _ ((((s.unitDropped c).withdrawRedirect c).fall c []).goIdle c))
  rw [last.job? (by simp), ← redirect]
  cases hr : ((s.unitDropped c).crane c).redirect with
  | none =>
    rw [withdrawRedirect_none hr, start.job? (by simp)]
    simp
  | some x =>
    rw [(withdrawRedirect_withdrawn hr).job, start.job? (by simp)]
    simp

/-- The end of the unit of a crane that goes on without a strike (R128, R129, R173). -/
structure UnitOver (s t : State) (c : CraneId) (a : AisleId) (e : End) : Prop where
  frame : Frame [.crane c, .rail, .parkOwed, .holds, .profiles, .cells, .jobs, .credit, .tx (.crane c), .queue, .events] s t
  crane : (t.crane c).mapping = (s.crane c).mapping ∧ (t.crane c).unit = none ∧ (t.crane c).offerTimer = none
    ∧ (t.crane c).redirect = none ∧ (t.crane c).state = s.afterWork c ∧ (t.crane c).strikes = (s.crane c).strikes
  tx : ∃ more, t.tx (.crane c) = s.tx (.crane c) ++ more
  job : ∀ g, s.notPromised c g → t.job? g = s.job? g
  lone : (s.crane c).redirect = none →
    Frame [.crane c, .rail, .parkOwed, .holds, .profiles, .tx (.crane c), .queue, .events] s t
  moves : IntervalMoves s t a e (fun i => i.fallen (s.craneBay c) []) (s.parkWidened c (s.afterWork c))

theorem finishUnit_over (hm : (s.crane c).mapping = some (a, e)) (hs : (s.crane c).state ∈ [CraneState.offered, .working]) :
    UnitOver s (s.finishUnit c) c a e := by
  have still : (s.crane c).state ≠ .backoff ∧ (s.crane c).state ≠ .waiting := by
    constructor <;> intro h <;> rw [h] at hs <;> simp at hs
  have form : s.finishUnit c = (s.endUnit c).go c ((s.endUnit c).parkOwed c) := goIdle_eq _ c
  obtain ⟨frame, crane, ⟨more, tx⟩, lone⟩ := endUnit_ended s c
  have ended := endUnit_gone hm
  rw [form]
  generalize s.endUnit c = m at *
  have state : (m.crane c).state = (s.crane c).state := by rw [crane]; rfl
  have mapped : (m.crane c).mapping = some (a, e) := by rw [crane]; exact hm
  have owed : m.parkOwed c = s.parkOwed c := congrArg (fun v : Vector Bool 12 => v[c]) (frame .parkOwed (by simp))
  have after : m.afterWork c = s.afterWork c := by
    unfold State.afterWork
    rw [owed, crane]
    rfl
  have gone := go_gone (s := m) (c := c) (by rw [state]; exact still.1) (m.parkOwed c)
  rw [goesTo_parkOwed, after] at gone
  generalize m.go c (m.parkOwed c) = t at *
  have quiet := gone.still (by rw [state]; exact still.2)
  obtain ⟨park, record, -⟩ := gone.crane
  refine ⟨(frame.mono (by simp)).trans (quiet.mono (by simp)), ?_, ⟨more ++ _, by rw [gone.tx, tx, List.append_assoc]⟩,
    fun g hg => (quiet.job? (by simp) g).trans (ended.job g hg),
    fun hr => ((lone hr).mono (by simp)).trans (quiet.mono (by simp)), ?_⟩
  · rw [record, crane]
    exact ⟨rfl, rfl, rfl, rfl, rfl, rfl⟩
  · have moves := gone.moves (by rw [state]; exact still.2) a e mapped
    rw [parkWidened_congr (by rw [crane]; rfl) (frame.profile? (by simp))] at moves
    exact ended.moves.comp moves
      (fun d => (cranes_stand frame (by simp) (by rw [crane]; rfl) state d).1)
      (fun d _ h => (cranes_stand frame (by simp) (by rw [crane]; rfl) state d).2.trans h) gone.stand

end Sys2Proof.Machine
end
section
/-! A retrieve that closes, and the relocation cancelled with it (R56 to R58, R99; log entries 27 and 48). -/

namespace Sys2Proof.Machine

variable {s t p : State} {a : AisleId} {c d : CraneId} {e : End} {g h : Handle} {j k r x : Job} {l m : OrderLink} {n : Notice}
  {o : JobOutcome} {f : Credit → Credit}

/-! ## What a closing may touch -/

/-- The parts of the crane a unit is on. -/
def craneParts (u : Option UnitRef) : List Part :=
  match u with
  | some w => [.crane w.crane, .tx (.crane w.crane)]
  | none => []

@[simp] theorem mem_craneParts (u : Option UnitRef) (y : Part) :
    y ∈ craneParts u ↔ ∃ w, u = some w ∧ (y = .crane w.crane ∨ y = .tx (.crane w.crane)) := by
  cases u <;> simp [craneParts]

theorem promiseWithdrawn_frame (s : State) (x : Job) :
    Frame (craneParts x.promised ++ [.cells, .jobs, .credit, .events]) s (s.promiseWithdrawn x) := by
  unfold State.promiseWithdrawn
  cases hp : x.promised with
  | none => exact .refl _ s
  | some u => exact (Frame.refl _ s).withdrawRedirect u.crane (by simp [craneParts])

theorem unitWithdrawn_frame (s : State) (x : Job) : Frame (craneParts x.unit ++ [.events]) s (s.unitWithdrawn x) := by
  unfold State.unitWithdrawn
  cases hp : x.unit with
  | none => exact .refl _ s
  | some u => exact (Frame.refl _ s).withdraw u.crane 0 (by simp [craneParts])

theorem cancelRelocation_frame (s : State) (x : Job) :
    Frame (craneParts x.promised ++ craneParts x.unit ++ [.cells, .jobs, .credit, .events]) s (s.cancelRelocation x) := by
  rw [cancelRelocation_eq]
  have closed : ∀ q : State, Frame [.cells, .jobs, .credit, .events] q
      ((q.closeStart x.handle .cancelled false Credit.unbind).clearWaits x) := fun q =>
    ((Frame.refl _ q).closeStart _ _ _ _ (by simp)).clearWaits x (by simp)
  refine ((promiseWithdrawn_frame s x).mono ?_).trans (((unitWithdrawn_frame _ x).mono ?_).trans ((closed _).mono ?_)) <;>
    intro y hy <;> simp only [List.mem_append, List.mem_cons, List.not_mem_nil, or_false] at hy ⊢ <;> tauto

/-- Records that agree in what the offer of a closing notice reads. -/
structure Job.ClosesAs (i k : Job) : Prop where
  state : i.state = k.state
  outcome : i.outcome = k.outcome
  notice : i.notice = k.notice
  owed : i.owed = k.owed

theorem promiseWithdrawn_own (own : s.job? h = some k) (x : Job) :
    ∃ i, (s.promiseWithdrawn x).job? h = some i ∧ i.ClosesAs k ∧ i.partner = k.partner := by
  unfold State.promiseWithdrawn
  cases x.promised with
  | none => exact ⟨k, own, ⟨rfl, rfl, rfl, rfl⟩, rfl⟩
  | some u =>
    dsimp only
    cases hr : (s.crane u.crane).redirect with
    | none =>
      rw [withdrawRedirect_none hr]
      exact ⟨k, own, ⟨rfl, rfl, rfl, rfl⟩, rfl⟩
    | some y =>
      refine ⟨_, by rw [(withdrawRedirect_withdrawn hr).job, own]; rfl, ?_, ?_⟩
      · constructor <;> split <;> rfl
      · split <;> rfl

theorem clearWaits_own (own : s.job? h = some k) (x : Job) :
    ∃ w, (s.clearWaits x).job? h = some { k with waitsFor := w } := by
  unfold State.clearWaits
  cases x.served with
  | none => exact ⟨k.waitsFor, own⟩
  | some q =>
    by_cases hq : h = q
    · subst hq
      refine ⟨if k.waitsFor = some x.handle then none else k.waitsFor, ?_⟩
      refine (State.updJob_job own _ h).trans ((if_pos rfl).trans ?_)
      split <;> rfl
    · exact ⟨k.waitsFor, (updJob_other hq s _).trans own⟩

/-- A relocation that is cancelled leaves the notice of another closing job. -/
theorem cancelRelocation_own (own : s.job? h = some k) (hx : h ≠ x.handle) :
    ∃ i, (s.cancelRelocation x).job? h = some i ∧ i.ClosesAs k := by
  obtain ⟨i, hi, ⟨state, outcome, notice, owed⟩, -⟩ := promiseWithdrawn_own own x
  have live : ((s.promiseWithdrawn x).unitWithdrawn x).job? h = some i :=
    ((unitWithdrawn_frame _ x).job? (by simp) h).trans hi
  rw [cancelRelocation_eq]
  generalize (s.promiseWithdrawn x).unitWithdrawn x = q at *
  have closed : ∃ y, (q.closeStart x.handle .cancelled false Credit.unbind).job? h = some { i with partner := y } := by
    cases hj : q.job? x.handle with
    | none =>
      unfold State.closeStart
      rw [hj]
      exact ⟨i.partner, live⟩
    | some j =>
      obtain ⟨y, partner⟩ := dropPartner_own live j
      have last : Frame [.cells, .events] (q.closedRecord j x.handle .cancelled false)
          (((q.closedRecord j x.handle .cancelled false).release? j.chosen x.handle).release? j.target x.handle) :=
        ((Frame.refl _ _).release_q _ _ (by simp)).release_q _ _ (by simp)
      refine ⟨y, ?_⟩
      rw [closeStart_eq hj, (closedCredit_frame _ j _).job? (by simp), last.job? (by simp)]
      exact (updJob_other hx _ _).trans partner
  obtain ⟨y, hy⟩ := closed
  obtain ⟨w, hw⟩ := clearWaits_own hy x
  exact ⟨_, hw, state, outcome, notice, owed⟩

/-! ## A retrieve that closes -/

/-- A retrieve that closes with no relocation cancelled with it. -/
theorem closeRetrieve_lone (hj : s.job? h = some k) (hc : s.cancelledWith k = none) (o : JobOutcome) (f : Credit → Credit) :
    s.closeRetrieve h o f = (s.closeStart h o false f).offerClosing h := by
  simp only [State.closeRetrieve, State.closeRetrieveStart, State.closeRetrieveEnd, hj, Option.bind_some, hc]

/-- A retrieve that closes, and the job cancelled with it. -/
theorem closeRetrieve_with (hj : s.job? h = some k) (hc : s.cancelledWith k = some x) (o : JobOutcome)
    (f : Credit → Credit) :
    s.closeRetrieve h o f = ((s.closeStart h o false f).cancelRelocation x).closeRetrieveEnd h (some x) := by
  simp only [State.closeRetrieve, State.closeRetrieveStart, hj, Option.bind_some, hc]

/-- A job's closing notice stands first behind its link's old queue, where the job is gone; and where the queue is full it
stands first behind those that wait for a place (R56, R58; log entry 48). -/
structure ClosedFirst (s t : State) (h : Handle) (l : OrderLink) (n : Notice) (o : JobOutcome) : Prop where
  placed : s.hasRoom l = true → t.job? h = none ∧ ∃ more, t.queue l = s.queue l ++ n :: more
  waits : s.hasRoom l = false → (∃ k, t.job? h = some k ∧ k.state = .closing ∧ k.outcome = some o)
    ∧ ∃ more, t.jpl.closingWait.get l = s.jpl.closingWait.get l ++ h :: more

theorem closeRetrieveEnd_later (s : State) (h : Handle) (y : Option Job) :
    Unwinds (some h) (s.offerClosing h) (s.closeRetrieveEnd h y) ∧ QueuesGrow (s.offerClosing h) (s.closeRetrieveEnd h y)
      ∧ WaitsGrow (s.offerClosing h) (s.closeRetrieveEnd h y) := by
  unfold State.closeRetrieveEnd
  generalize s.offerClosing h = q
  cases y with
  | none => exact ⟨.refl q, .refl q, .of_eq rfl⟩
  | some x =>
    have first := offerClosing_waits q x.handle
    dsimp only
    cases x.unit with
    | none => exact ⟨.offerClosing q _, ((Changes.refl q).offerClosing _).queue_grows, first⟩
    | some u =>
      have last : Frame [.crane u.crane, .rail, .holdBack, .parkOwed, .holds, .profiles, .cells, .jobs, .credit,
          .tx (.crane u.crane), .queue, .events] (q.offerClosing x.handle) ((q.offerClosing x.handle).finishUnit u.crane) :=
        (Frame.refl _ _).finishUnit u.crane (by simp)
      exact ⟨(Unwinds.offerClosing q _).trans (.finishUnit _ u.crane),
        (((Changes.refl q).offerClosing _).finishUnit u.crane).queue_grows,
        first.trans (.of_eq (closingWait_congr last (by simp)))⟩

theorem QueuesGrow.first {q : State} (h : QueuesGrow q t) {xs : List Notice} {n : Notice} (hq : q.queue l = xs ++ [n]) :
    ∃ more, t.queue l = xs ++ n :: more := by
  obtain ⟨more, e⟩ := h l
  exact ⟨more, by rw [e, hq, List.append_assoc]; rfl⟩

/-- A closing record that waits for a place stays one. -/
theorem closeRetrieveEnd_stays (own : p.job? h = some k) (hn : k.notice = some n) (hl : k.owed = [l])
    (room : p.hasRoom l = false) (y : Option Job) : ∃ i, (p.closeRetrieveEnd h y).job? h = some i := by
  obtain ⟨-, unplaced⟩ := offerClosing_one own hn hl
  obtain ⟨stays, queue, -⟩ := unplaced room
  have room' : (p.offerClosing h).hasRoom l = false := by simpa only [State.hasRoom, queue] using room
  unfold State.closeRetrieveEnd
  generalize p.offerClosing h = q at *
  cases y with
  | none => exact ⟨k, stays⟩
  | some x =>
    have still : (q.offerClosing x.handle).job? h = some k := by
      by_cases hx : h = x.handle
      · subst hx
        exact offerClosing_stays stays hn hl room'
      · rw [offerClosing_others q hx, stays]
    dsimp only
    cases x.unit with
    | none => exact ⟨k, still⟩
    | some u => exact ⟨_, by rw [finishUnit_job, still]; rfl⟩

/-- A closing retrieve whose notice is offered, before that of the job cancelled with it. -/
theorem closedFirst_of_offered (hq : p.queue l = s.queue l) (hw : p.jpl.closingWait = s.jpl.closingWait)
    (own : p.job? h = some k) (hs : k.state = .closing) (ho : k.outcome = some o) (hn : k.notice = some n)
    (hl : k.owed = [l]) (y : Option Job) : ClosedFirst s (p.closeRetrieveEnd h y) h l n o := by
  obtain ⟨later, queues, waits⟩ := closeRetrieveEnd_later p h y
  obtain ⟨placed, unplaced⟩ := offerClosing_one own hn hl
  have room : p.hasRoom l = s.hasRoom l := by simp only [State.hasRoom, hq]
  rw [room, hq] at placed unplaced
  refine ⟨fun hr => ⟨?_, queues.first (placed hr).2⟩, fun hr => ?_⟩
  · cases hk : (p.closeRetrieveEnd h y).job? h with
    | none => rfl
    | some i =>
      obtain ⟨i', hi, -⟩ := later.job h i hk
      rw [(placed hr).1] at hi
      cases hi
  · obtain ⟨stays, -, waiting⟩ := unplaced hr
    obtain ⟨more, grown⟩ := waits l
    obtain ⟨i, hi⟩ := closeRetrieveEnd_stays own hn hl (room.trans hr) y
    obtain ⟨i', hi', -, closing⟩ := later.job h i hi
    obtain rfl := Option.some.inj (stays.symm.trans hi')
    obtain ⟨state, outcome⟩ := closing rfl hs
    exact ⟨⟨i, hi, state, outcome.trans ho⟩, more, by rw [grown, waiting, hw, List.append_assoc]; rfl⟩

/-- A retrieve that closes: its own notice goes first (R56, R58). A retrieve may be found to wait for itself, and is then
closed twice with one notice. -/
theorem closeRetrieve_first (hl : HandleLaw s) (hj : s.job? h = some k) (hk : k.kind = .retrieve) (ho : k.origin = .order l)
    (hx : ∀ x, s.cancelledWith k = some x → x.handle = h → k.promised = none ∧ o = .cancelled) (f : Credit → Credit) :
    ClosedFirst s (s.closeRetrieve h o f) h l (k.closingNotice o false) o := by
  have own := closeStart_own hj o false f
  have owed : s.owedLinks k = [l] := by simp only [State.owedLinks, ho]
  rw [owed] at own
  have closed : Frame [.cells, .jobs, .credit, .events] s (s.closeStart h o false f) :=
    (Frame.refl _ s).closeStart h o false f (by simp)
  cases hc : s.cancelledWith k with
  | none =>
    rw [closeRetrieve_lone hj hc]
    exact closedFirst_of_offered (queue_congr closed (by simp) l) (closingWait_congr closed (by simp)) own rfl rfl rfl rfl
      none
  | some x =>
    rw [closeRetrieve_with hj hc]
    have start := closed.mono (qs := craneParts x.promised ++ craneParts x.unit ++ [.cells, .jobs, .credit, .events]) (by simp)
    have cancelled := cancelRelocation_frame (s.closeStart h o false f) x
    have whole := start.trans cancelled
    have queue := queue_congr whole (by simp) l
    have wait := closingWait_congr whole (by simp)
    by_cases same : x.handle = h
    · obtain ⟨unpromised, rfl⟩ := hx x hc same
      obtain ⟨found, -⟩ := Option.filter_eq_some_iff.mp hc
      obtain ⟨w, -, hw⟩ := Option.bind_eq_some_iff.mp found
      obtain rfl : x.handle = w := job?_handle hl hw
      rw [same] at hw
      obtain rfl := Option.some.inj (hj.symm.trans hw)
      have held : ((s.closeStart h .cancelled false f).promiseWithdrawn k).unitWithdrawn k =
          (s.closeStart h .cancelled false f).unitWithdrawn k := by
        simp only [State.promiseWithdrawn, unpromised]
      have live := ((unitWithdrawn_frame (s.closeStart h .cancelled false f) k).job? (by simp) h).trans own
      rw [cancelRelocation_eq, held] at queue wait ⊢
      have twice := closeStart_own live .cancelled false Credit.unbind
      have links : ((s.closeStart h .cancelled false f).unitWithdrawn k).owedLinks (k.closed .cancelled false [l]) = [l] := by
        simp only [State.owedLinks, Job.closed, ho]
      rw [links] at twice
      rw [same] at queue wait ⊢
      obtain ⟨w, again⟩ := clearWaits_own twice k
      refine closedFirst_of_offered queue wait again rfl rfl ?_ rfl (some k)
      simp [Job.closed, Job.closingNotice, Job.closedCell, hk]
    · obtain ⟨i, hi, state, outcome, notice, owed⟩ := cancelRelocation_own own (Ne.symm same)
      exact closedFirst_of_offered queue wait hi state outcome notice owed (some x)

/-! ## The relocation cancelled with it -/

/-- A relocation that serves a retrieve and may be cancelled with it, on no crane, on one at work, or promised to one. -/
structure Serves (s : State) (r : Job) (h : Handle) : Prop where
  job : s.job? r.handle = some r
  kind : r.kind = .relocate
  served : r.served = some h
  origin : r.origin = .internal
  apart : r.handle ≠ h
  partner : r.partner = none
  promised : ∀ u, r.promised = some u → r.unit = none ∧ ∃ y, (s.crane u.crane).redirect = some y ∧ y.job = r.handle
  unit : ∀ u, r.unit = some u → r.promised = none ∧ (s.crane u.crane).state ∈ [CraneState.offered, .working]
    ∧ ∃ w a e, (s.crane u.crane).unit = some w ∧ (s.crane u.crane).mapping = some (a, e)

/-- What the withdrawal of such a relocation from its crane leaves (R130; log entry 27). -/
structure Recalled (s t : State) (r : Job) : Prop where
  frame : Frame (craneParts r.promised ++ craneParts r.unit ++ [.cells, .jobs, .credit, .events]) s t
  cell : t.cell = s.cell
  own : ∃ y, t.job? r.handle = some { r with promised := y }
  job : ∀ g, g ≠ r.handle → t.job? g = s.job? g
  promise : ∀ u y, r.promised = some u → (s.crane u.crane).redirect = some y →
    t.tx (.crane u.crane) = s.tx (.crane u.crane) ++ [.withdraw y.number 0] ∧ (t.crane u.crane).redirect = none
  unit : ∀ u w, r.unit = some u → (s.crane u.crane).unit = some w →
    Withdrawn s t u.crane w 0

theorem Serves.recalled (hr : Serves s r h) : Recalled s ((s.promiseWithdrawn r).unitWithdrawn r) r := by
  have frame : Frame (craneParts r.promised ++ craneParts r.unit ++ [.cells, .jobs, .credit, .events]) s
      ((s.promiseWithdrawn r).unitWithdrawn r) := by
    refine ((promiseWithdrawn_frame s r).mono ?_).trans ((unitWithdrawn_frame _ r).mono ?_) <;>
      intro y hy <;> simp only [List.mem_append, List.mem_cons, List.not_mem_nil, or_false] at hy ⊢ <;> tauto
  cases hp : r.promised with
  | some u =>
    obtain ⟨idle, y, hy, job⟩ := hr.promised u hp
    have form : (s.promiseWithdrawn r).unitWithdrawn r = s.withdrawRedirect u.crane := by
      simp only [State.promiseWithdrawn, State.unitWithdrawn, hp, idle]
    have gone := withdrawRedirect_withdrawn hy
    rw [form] at frame ⊢
    rw [hp] at frame
    refine ⟨hp ▸ frame, gone.cell r (job ▸ hr.job) (by simp [hr.kind]), ⟨none, ?_⟩, fun g hg => ?_, fun v z hv hz => ?_,
      fun v _ hv => by rw [idle] at hv; cases hv⟩
    · rw [gone.job, hr.job, job]
      simp only [Option.map_some, if_true, Job.unpromised, Job.keptCell, hr.kind]
    · rw [gone.job, job]
      simp [Ne.symm hg]
    · obtain rfl := Option.some.inj (hp.symm.trans hv)
      obtain rfl := Option.some.inj (hy.symm.trans hz)
      exact ⟨gone.tx, by rw [gone.crane]⟩
  | none =>
    have form : (s.promiseWithdrawn r).unitWithdrawn r = s.unitWithdrawn r := by
      simp only [State.promiseWithdrawn, hp]
    have only := unitWithdrawn_frame s r
    rw [form] at frame ⊢
    rw [hp] at frame
    refine ⟨hp ▸ frame, funext fun b => only.cell (by simp) (by simp) b, ⟨none, ?_⟩, fun g _ => only.job? (by simp) g,
      fun v _ hv => (by rw [hp] at hv; cases hv), fun v w hv hw => ?_⟩
    · rw [only.job? (by simp), hr.job, ← hp]
    · simp only [State.unitWithdrawn, hv]
      exact withdraw_withdrawn hw 0

/-- The notice of a relocation cancelled with a retrieve. -/
def Job.cancelledNotice (r : Job) (h : Handle) : Notice :=
  .palletMoved r.handle h .cancelled false (r.chosen.getD absentCell) none

/-- The relocation has entered CLOSING with the retrieve, and both notices have been offered (R56, R58, R99). -/
structure NoticesOffered (s t : State) (r : Job) (h : Handle) : Prop where
  frame : Frame (craneParts r.promised ++ craneParts r.unit ++ [.cells, .jobs, .pool, .credit, .waves, .queue, .events]) s t
  gone : (∀ l, (s.queue l).length + 2 < Config.queueCapacity) → t.job? r.handle = none
    ∧ ∀ l, s.liu.active.get l = true → r.cancelledNotice h ∈ t.queue l
  closing : ∀ k, t.job? r.handle = some k → k.state = .closing ∧ k.outcome = some .cancelled
  wf : MapWf t
  cell : ∀ b, t.cell b = if r.chosen = some b ∨ r.target = some b then (s.cell b).releasedBy r.handle else s.cell b
  job : ∀ g, g ≠ h → g ≠ r.handle → t.job? g = s.job? g
  promise : ∀ u y, r.promised = some u → (s.crane u.crane).redirect = some y →
    t.tx (.crane u.crane) = s.tx (.crane u.crane) ++ [.withdraw y.number 0] ∧ (t.crane u.crane).redirect = none
  unit : ∀ u w, r.unit = some u → (s.crane u.crane).unit = some w →
    t.tx (.crane u.crane) = s.tx (.crane u.crane) ++ [.withdraw w.number 0]
      ∧ ∃ z x, t.crane u.crane = { s.crane u.crane with unit := z, deadline := x }

theorem offerClosing_queues (hk : s.job? h = some k) (hn : k.notice = some n) (ho : k.owed = [l]) (m : OrderLink) :
    ((s.offerClosing h).queue m).length ≤ (s.queue m).length + 1 := by
  have form : s.offerClosing h = (s.placeClosing h l).leaveIfPaid h := by
    rw [offerClosing_eq hk, ho]
    rfl
  rw [form, leaveIfPaid_queue, placeClosing_queue hk hn]
  split
  · next same =>
    rw [same.1]
    simp
  · exact Nat.le_succ _

theorem Serves.offered (hr : Serves s r h) (own : s.job? h = some k) (hn : k.notice = some n) (ho : k.owed = [l])
    (wf : MapWf s) : NoticesOffered s (((s.cancelRelocation r).offerClosing h).offerClosing r.handle) r h := by
  obtain ⟨i, hi, -, -, notice, owed⟩ := cancelRelocation_own own (Ne.symm hr.apart)
  have before := cancelRelocation_frame s r
  obtain ⟨frame, cell, ⟨y, rec⟩, job, promise, unit⟩ := hr.recalled
  have wf' := ((Unwinds.promiseWithdrawn (x := none) s r).trans (.unitWithdrawn _ r)).cell wf
  have links := owedLinks_congr (frame.active (by simp)) { r with promised := y }
  rw [cancelRelocation_eq] at hi before ⊢
  generalize (s.promiseWithdrawn r).unitWithdrawn r = w at *
  -- the record enters CLOSING, and the served retrieve waits no longer
  have closed := closeStart_own rec .cancelled false Credit.unbind
  have cells := closeStart_cells wf'.1 rec .cancelled false Credit.unbind
  have others := fun g hg => closeStart_others (g := g) w .cancelled false Credit.unbind hg fun z hz => by
    obtain rfl := Option.some.inj (rec.symm.trans hz)
    simp [hr.partner]
  have closes : Frame [.cells, .jobs, .credit, .events] w (w.closeStart r.handle .cancelled false Credit.unbind) :=
    (Frame.refl _ w).closeStart _ _ _ _ (by simp)
  have wf4 := (Changes.closeStart (.refl w) r.handle .cancelled false Credit.unbind).mapWf wf'.1
  generalize w.closeStart r.handle .cancelled false Credit.unbind = q at *
  have cleared : q.clearWaits r = q.updJob h fun x => if x.waitsFor = some r.handle then { x with waitsFor := none } else x := by
    simp only [State.clearWaits, hr.served]
  have clears : Frame [.jobs] q (q.clearWaits r) := (Frame.refl _ q).clearWaits r (by simp)
  have cleared' : ∀ g, g ≠ h → (q.clearWaits r).job? g = q.job? g := fun g hg => by
    rw [cleared]
    exact updJob_other hg q _
  generalize q.clearWaits r = v at *
  -- the notices are offered
  have room := offerClosing_queues hi (notice.trans hn) (owed.trans ho)
  have first : Frame [.jobs, .pool, .waves, .queue, .events] v (v.offerClosing h) := (Frame.refl _ v).offerClosing h (by simp)
  have kept : ∀ g, g ≠ h → (v.offerClosing h).job? g = v.job? g := fun g hg => offerClosing_others v hg
  have record : (v.offerClosing h).job? r.handle = some (({ r with promised := y } : Job).closed .cancelled false (s.owedLinks r)) := by
    rw [kept _ hr.apart, cleared' _ hr.apart, closed, links]
    rfl
  generalize v.offerClosing h = z at *
  have last : Frame [.jobs, .pool, .waves, .queue, .events] z (z.offerClosing r.handle) :=
    (Frame.refl _ z).offerClosing r.handle (by simp)
  have toV : Frame (craneParts r.promised ++ craneParts r.unit ++ [.cells, .jobs, .credit, .events]) s v := before
  have fromV : Frame [.jobs, .pool, .waves, .queue, .events] v (z.offerClosing r.handle) := first.trans last
  have fromQ : Frame [.jobs, .pool, .waves, .queue, .events] q (z.offerClosing r.handle) := (clears.mono (by simp)).trans fromV
  have fromW : Frame [.cells, .jobs, .pool, .credit, .waves, .queue, .events] w (z.offerClosing r.handle) :=
    (closes.mono (by simp)).trans (fromQ.mono (by simp))
  have due : z.dues r.handle = some (some (r.cancelledNotice h), s.owedLinks r) := by
    rw [State.dues, record]
    simp only [Option.map_some, Job.closed, Job.closingNotice, hr.kind, hr.served, Option.getD_some, Job.cancelledNotice,
      Bool.false_eq_true, if_false]
  have nodup : (s.owedLinks r).Nodup := by
    rw [State.owedLinks, hr.origin]
    exact List.Nodup.filter _ (by decide)
  have placed : (∀ l, (s.queue l).length + 2 < Config.queueCapacity) → ∀ m, z.hasRoom m = true := fun short m => by
    have grown := room m
    have old := queue_congr toV (by simp) m
    rw [old] at grown
    exact decide_eq_true (Nat.lt_of_le_of_lt grown (by have := short m; omega))
  refine {
    frame := (toV.mono ?_).trans (fromV.mono ?_)
    gone := fun short => ⟨offerClosing_leaves due nodup fun m _ => placed short m, fun m hm => ?_⟩
    closing := fun x hx => ?_
    wf := mapWf_of_cmp (fromQ.cmp (by simp) (by simp)) wf4
    cell := fun b => ?_
    job := fun g hg hg' => ?_
    promise := fun u x hu hx => ?_
    unit := fun u x hu hx => ?_ }
  · intro x hx
    simp only [List.mem_append, List.mem_cons, List.not_mem_nil, or_false] at hx ⊢
    tauto
  · intro x hx
    simp only [List.mem_append, List.mem_cons, List.not_mem_nil, or_false] at hx ⊢
    tauto
  · refine offerClosing_mem due ?_ (placed short m)
    rw [State.owedLinks, hr.origin]
    exact List.mem_filter.mpr ⟨by cases m <;> simp, hm⟩
  · obtain ⟨x', hx', -, stays⟩ := (Unwinds.offerClosing (x := some r.handle) z r.handle).job _ x hx
    obtain rfl := Option.some.inj (record.symm.trans hx')
    exact stays rfl rfl
  · rw [fromQ.cell (by simp) (by simp), cells, cell]
  · rw [offerClosing_others z hg', kept g hg, cleared' g hg, others g hg', job g hg']
  · obtain ⟨tx, redirect⟩ := promise u x hu hx
    rw [fromW.tx _ (by simp), fromW.crane _ (by simp)]
    exact ⟨tx, redirect⟩
  · obtain ⟨-, crane, tx⟩ := unit u x hu hx
    rw [fromW.tx _ (by simp), fromW.crane _ (by simp)]
    exact ⟨tx, _, _, crane⟩

/-- The crane of a cancelled relocation goes on without a strike (R57). -/
def State.unitFinished (s : State) (r : Job) : State :=
  match r.unit with
  | some u => s.finishUnit u.crane
  | none => s

theorem closeRetrieveEnd_with (s : State) (h : Handle) (r : Job) :
    s.closeRetrieveEnd h (some r) = ((s.offerClosing h).offerClosing r.handle).unitFinished r := rfl

theorem IntervalMoves.other {b : AisleId} {e' : End} {f w : Interval → Interval} (h : IntervalMoves s t a e f w)
    (hm : (s.crane d).mapping = some (b, e')) (ht : (t.crane d).mapping = some (b, e')) (hne : (b, e') ≠ (a, e)) :
    IntervalIs s t d id := by
  obtain ⟨own, none, others⟩ := h
  unfold IntervalIs
  rw [entry_mapped hm, entry_mapped ht]
  by_cases hb : b = a
  · subst hb
    cases hr : s.rail b with
    | none =>
      rw [none hr]
      rfl
    | some r =>
      rw [(own r hr).1]
      have apart : e' ≠ e := fun h => hne (by rw [h])
      simp [PerEnd.get_set, apart]
  · rw [others b hb]
    rfl

/-- What a retrieve's closing does to the relocation cancelled with it, and what it leaves. -/
structure RelocationEnded (s t : State) (r : Job) (h : Handle) : Prop where
  frame : Frame (craneParts r.promised ++ craneParts r.unit ++ [.rail, .parkOwed, .holds, .profiles, .cells, .jobs, .pool,
    .credit, .waves, .queue, .events]) s t
  cancelled : ∀ q : Job, q.handle = h → RelocationCancelled s t q r
  cell : (∀ u, r.unit = some u → (s.crane u.crane).redirect = none) → ∀ b, r.chosen ≠ some b → r.target ≠ some b →
    t.cell b = s.cell b
  job : ∀ g, g ≠ h → g ≠ r.handle → (∀ u, r.unit = some u → s.notPromised u.crane g) → t.job? g = s.job? g
  crt : r.unit = none → r.promised = none → t.crt = s.crt
  interval : ∀ d b e, (s.crane d).mapping = some (b, e) → (∀ u, r.promised = some u → u.crane ≠ d) →
    (∀ u, r.unit = some u → (s.crane u.crane).mapping ≠ some (b, e)) → IntervalIs s t d id

/-- What the crane of a cancelled relocation owes nothing to. -/
theorem NoticesOffered.cancelled {v : State} (offered : NoticesOffered s v r h) (later : Unwinds (some r.handle) v t)
    (queues : QueuesGrow v t)
    (unit : ∀ u w, r.unit = some u → (s.crane u.crane).unit = some w →
      .withdraw w.number 0 ∈ (t.tx (.crane u.crane)).drop (s.tx (.crane u.crane)).length
        ∧ (t.crane u.crane).unit = none ∧ (t.crane u.crane).state = s.afterWork u.crane
        ∧ (t.crane u.crane).strikes = (s.crane u.crane).strikes)
    (promise : ∀ u x, r.promised = some u → (s.crane u.crane).redirect = some x →
      .withdraw x.number 0 ∈ (t.tx (.crane u.crane)).drop (s.tx (.crane u.crane)).length
        ∧ (t.crane u.crane).redirect = none) (q : Job) (hq : q.handle = h) : RelocationCancelled s t q r := by
  subst hq
  refine ⟨fun short => ?_, fun k hk => ?_, fun c k hc hs => ?_, fun c hc hs => ?_, unit, promise⟩
  · obtain ⟨gone, placed⟩ := offered.gone short
    refine ⟨?_, fun l hl => ?_⟩
    · cases hk : t.job? r.handle with
      | none => rfl
      | some k =>
        obtain ⟨i, hi, -⟩ := later.job _ k hk
        rw [gone] at hi
        cases hi
    · obtain ⟨more, grown⟩ := queues l
      rw [grown]
      exact List.mem_append_left _ (placed l hl)
  · obtain ⟨i, hi, -, stays⟩ := later.job _ k hk
    obtain ⟨state, outcome⟩ := offered.closing i hi
    obtain ⟨state', outcome'⟩ := stays rfl state
    exact ⟨state', outcome'.trans outcome⟩
  · have freed : (v.cell c).state = .full k := by
      rw [offered.cell, if_pos (.inl hc)]
      simp [Cell.releasedBy, hs]
    rw [(later.cell offered.wf).2 c (by rw [freed]; rfl), freed]
  · have freed : (v.cell c).state = .empty := by
      rw [offered.cell, if_pos (.inr hc)]
      simp [Cell.releasedBy, hs]
    rw [(later.cell offered.wf).2 c (by rw [freed]; rfl), freed]

theorem Serves.ended (hr : Serves s r h) (own : s.job? h = some k) (hn : k.notice = some n) (ho : k.owed = [l])
    (wf : MapWf s) : RelocationEnded s ((s.cancelRelocation r).closeRetrieveEnd h (some r)) r h := by
  have offered := hr.offered own hn ho wf
  rw [closeRetrieveEnd_with]
  generalize ((s.cancelRelocation r).offerClosing h).offerClosing r.handle = v at *
  have frame := offered.frame
  cases hu : r.unit with
  | none =>
    have form : v.unitFinished r = v := by
      unfold State.unitFinished
      rw [hu]
    rw [form]
    rw [hu] at frame
    refine {
      frame := frame.mono (by intro x hx; simp only [craneParts, hu, List.mem_append, List.mem_cons, List.not_mem_nil, or_false] at hx ⊢; tauto)
      cancelled := fun q hq => offered.cancelled (.refl v) (.refl v) (fun u _ h => by rw [hu] at h; cases h)
        (fun u x hp hx => ?_) q hq
      cell := fun _ b hc ht => by rw [offered.cell, if_neg (by simp [hc, ht])]
      job := fun g hg hg' _ => offered.job g hg hg'
      crt := fun _ hp => frame.crt (by simp [hp, craneParts]) (by simp [hp, craneParts]) (by simp [hp, craneParts])
      interval := fun d b e hm hp _ => ?_ }
    · obtain ⟨tx, redirect⟩ := offered.promise u x hp hx
      exact ⟨by rw [tx]; simp, redirect⟩
    · refine .of_rail ?_ fun b => ?_
      · rw [frame.crane d]
        simp only [List.mem_append, mem_craneParts, not_or]
        exact ⟨⟨fun ⟨u, hu', e⟩ => hp u hu' (by simp at e; exact e.symm), by simp⟩, by simp⟩
      · exact congrArg (·[b]) (frame .rail (by simp))
  | some u =>
    obtain ⟨unpromised, state, w, a, e, hw, hm⟩ := hr.unit u hu
    have form : v.unitFinished r = v.finishUnit u.crane := by
      unfold State.unitFinished
      rw [hu]
    rw [form]
    obtain ⟨tx, z, y, crane⟩ := offered.unit u w hu hw
    have goes := finishUnit_over (s := v) (c := u.crane) (a := a) (e := e) (by rw [crane]; exact hm) (by rw [crane]; exact state)
    have later := Unwinds.finishUnit (x := some r.handle) v u.crane
    have queues := ((Changes.refl v).finishUnit u.crane).queue_grows
    rw [hu, unpromised] at frame
    have redirect : (v.crane u.crane).redirect = (s.crane u.crane).redirect := by rw [crane]
    have after : v.afterWork u.crane = s.afterWork u.crane := by
      have owed : v.parkOwed u.crane = s.parkOwed u.crane :=
        congrArg (fun p : Vector Bool 12 => p[u.crane]) (frame .parkOwed (by simp))
      unfold State.afterWork
      rw [owed, crane]
    generalize v.finishUnit u.crane = t at *
    obtain ⟨-, unit, -, -, goesTo, strikes⟩ := goes.crane
    refine {
      frame := (frame.mono ?_).trans (goes.frame.mono ?_)
      cancelled := fun q hq => offered.cancelled later queues (fun u' w' hu' hw' => ?_)
        (fun u' _ hp => by rw [unpromised] at hp; cases hp) q hq
      cell := fun hr b hc ht => ?_
      job := fun g hg hg' hp => ?_
      crt := fun h => by rw [hu] at h; cases h
      interval := fun d b e' hd _ hne => ?_ }
    · intro x hx
      simp only [unpromised, hu, craneParts, List.mem_append, List.mem_cons, List.not_mem_nil, or_false] at hx ⊢
      tauto
    · intro x hx
      simp only [unpromised, hu, craneParts, List.mem_append, List.mem_cons, List.not_mem_nil, or_false] at hx ⊢
      tauto
    · obtain rfl := Option.some.inj (hu.symm.trans hu')
      obtain rfl := Option.some.inj (hw.symm.trans hw')
      obtain ⟨more, sent⟩ := goes.tx
      refine ⟨by rw [sent, tx]; simp, unit, goesTo.trans after, strikes.trans (by rw [crane])⟩
    · rw [(goes.lone (redirect.trans (hr u hu))).cell (by simp) (by simp), offered.cell, if_neg (by simp [hc, ht])]
    · rw [goes.job g fun x hx => hp u hu x (redirect.symm.trans hx), offered.job g hg hg']
    · have apart : d ≠ u.crane := fun h => hne u hu (h ▸ hd)
      have same : v.crane d = s.crane d := frame.crane d (by simp [craneParts, apart])
      have rail : ∀ b, v.rail b = s.rail b := fun b => congrArg (·[b]) (frame .rail (by simp [craneParts]))
      have first : IntervalIs s v d id := .of_rail (by rw [same]) rail
      have ends : t.crane d = v.crane d := goes.frame.crane d (by simp [apart])
      refine first.trans (g := id) (goes.moves.other (b := b) (e' := e') (by rw [same]; exact hd) (by rw [ends, same]; exact hd) ?_)
      exact fun h => hne u hu (hm.trans (congrArg some h.symm))

/-! ## The relocation as the laws give it -/

/-- A relocation not yet LOADED is a unit of its own at a crane at work, or is promised to a redirect, or neither. -/
theorem serves_of_laws (work : WorkLawful s) (hr : s.job? r.handle = some r) (hk : r.kind = .relocate)
    (hs : r.served = some h) (ho : r.origin = .internal) (ha : r.handle ≠ h) (hl : r.state ≠ .loaded) : Serves s r h := by
  have live := mem_jobs_of_job? hr
  obtain ⟨atWork, inUnit⟩ := work.unit.2 r live
  have unpromised : r.promised ≠ none → r.state = .ready ∧ ∀ u, r.promised = some u →
      ∃ y, (s.crane u.crane).redirect = some y ∧ y.job = r.handle := fun hp => by
    have each : ∀ u, r.promised = some u → ∃ y, (s.crane u.crane).redirect = some y ∧ y.job = r.handle := fun u hu => by
      obtain ⟨y, hy, -, job⟩ := work.redirect.2 r live u hu
      exact ⟨y, hy, job⟩
    obtain ⟨u, hu⟩ := Option.ne_none_iff_exists'.mp hp
    obtain ⟨y, hy, job⟩ := each u hu
    obtain ⟨-, i, hi, ready, -⟩ := work.redirect.1 u.crane y hy
    rw [job] at hi
    obtain rfl := Option.some.inj (hr.symm.trans hi)
    exact ⟨ready, each⟩
  have placed : ∀ u, r.unit = some u → (s.crane u.crane).state ∈ [CraneState.offered, .working] ∧ r.partner = none
      ∧ ∃ w a e, (s.crane u.crane).unit = some w ∧ (s.crane u.crane).mapping = some (a, e) := fun u hu => by
    obtain ⟨w, hw, -, mem⟩ := inUnit u hu
    obtain ⟨unmapped, states⟩ := work.crane u.crane
    have state : (s.crane u.crane).state ∈ [CraneState.offered, .working] := by
      cases hc : (s.crane u.crane).state with
      | offered | working => simp
      | faulted =>
        rw [hc] at states
        obtain ⟨g, i, jobs, hi, loaded, -⟩ := states w hw
        rw [jobs, List.mem_singleton] at mem
        rw [← mem] at hi
        obtain rfl := Option.some.inj (hr.symm.trans hi)
        exact absurd loaded hl
      | absent | idle | waiting | parking | parked | clearing | backoff | outOfService =>
        rw [hc] at states
        exact absurd (hw.symm.trans states) (by simp)
    cases hm : (s.crane u.crane).mapping with
    | none =>
      rw [unmapped hm] at state
      simp at state
    | some m =>
      obtain ⟨-, -, -, -, single, pair⟩ := work.steps u.crane m.1 m.2 w hm hw
      refine ⟨state, ?_, w, m.1, m.2, hw, rfl⟩
      match hj : w.jobs with
      | [] => simp [hj] at mem
      | [g] =>
        rw [hj, List.mem_singleton] at mem
        subst mem
        exact single _ hj r hr
      | g :: i :: more =>
        obtain ⟨rfl, ⟨y, hy, store, -⟩, z, hz, retrieve, -⟩ := pair g i more hj
        rw [hj, List.mem_cons, List.mem_singleton] at mem
        rcases mem with rfl | rfl
        · obtain rfl := Option.some.inj (hr.symm.trans hy)
          rw [hk] at store
          cases store
        · obtain rfl := Option.some.inj (hr.symm.trans hz)
          rw [hk] at retrieve
          cases retrieve
  obtain ⟨-, -, -, -, -, -, -, -, partnered, -⟩ := work.job r live
  refine ⟨hr, hk, hs, ho, ha, ?_, fun u hu => ?_, fun u hu => ?_⟩
  · cases hu : r.unit with
    | none =>
      by_contra hp
      exact atWork.mp (partnered hp) hu
    | some u => exact (placed u hu).2.1
  · obtain ⟨ready, each⟩ := unpromised (by simp [hu])
    refine ⟨?_, each u hu⟩
    by_contra h
    have busy := atWork.mpr h
    rw [ready] at busy
    cases busy
  · obtain ⟨state, -, whole⟩ := placed u hu
    refine ⟨?_, state, whole⟩
    by_contra h
    have busy := atWork.mpr (by simp [hu])
    rw [(unpromised h).1] at busy
    cases busy

theorem Serves.congr {ps : List Part} (hr : Serves s r h) (frame : Frame ps s t) (hc : ∀ d, Part.crane d ∉ ps)
    (hj : t.job? r.handle = s.job? r.handle) : Serves t r h := by
  obtain ⟨job, kind, served, origin, apart, partner, promised, unit⟩ := hr
  have crane : ∀ d, t.crane d = s.crane d := fun d => frame.crane d (hc d)
  refine ⟨hj.trans job, kind, served, origin, apart, partner, fun u hu => ?_, fun u hu => ?_⟩
  · rw [crane]
    exact promised u hu
  · rw [crane]
    exact unit u hu

/-- What has been done to a relocation is read alike behind what left its cells and its crane. -/
theorem RelocationCancelled.earlier {m : State} {q : Job} (h : RelocationCancelled m t q r)
    (queue : ∀ l, m.queue l = s.queue l) (active : m.liu.active = s.liu.active)
    (cell : ∀ b, (s.cell b).state = .inReserved r.handle ∨ (∃ k, (s.cell b).state = .outReserved r.handle k) →
      m.cell b = s.cell b)
    (crane : ∀ u, r.unit = some u ∨ r.promised = some u → m.crane u.crane = s.crane u.crane
      ∧ m.tx (.crane u.crane) = s.tx (.crane u.crane) ∧ m.parkOwed u.crane = s.parkOwed u.crane) :
    RelocationCancelled s t q r := by
  obtain ⟨gone, closing, source, target, unit, promise⟩ := h
  simp only [queue, active] at gone
  refine ⟨gone, closing, fun c k hc hs => source c k hc (by rw [cell c (.inr ⟨k, hs⟩)]; exact hs),
    fun c hc hs => target c hc (by rw [cell c (.inl hs)]; exact hs), fun u w hu hw => ?_, fun u x hu hx => ?_⟩
  · obtain ⟨own, tx, owed⟩ := crane u (.inl hu)
    have after : m.afterWork u.crane = s.afterWork u.crane := by
      unfold State.afterWork
      rw [own, owed]
    have done := unit u w hu (own ▸ hw)
    rw [own, tx, after] at done
    exact done
  · obtain ⟨own, tx, -⟩ := crane u (.inr hu)
    have done := promise u x hu (own ▸ hx)
    rw [tx] at done
    exact done

end Sys2Proof.Machine
end
section
/-! The re-evaluation of a waiting job (O59). -/

namespace Sys2Proof.Machine

variable {s t : State} {a : AisleId} {g h : Handle} {j k r : Job} {l : OrderLink} {cs : List CellAddr}

/-! ## What an evaluation reads -/

/-- Pallets in transit are those of relocations. -/
theorem inTransit_of_slot {i : Fin 256} (others : ∀ n, n ≠ i → t.slot n = s.slot n)
    (old : ∀ k, (s.slot i).job = some k → k.kind ≠ .relocate) (new : ∀ k, (t.slot i).job = some k → k.kind ≠ .relocate)
    (c : CellAddr) : t.inTransit c = s.inTransit c := by
  have carried : ∀ x : State, x.inTransit c = true ↔
      ∃ n k, (x.slot n).job = some k ∧ k.kind = .relocate ∧ k.state = .loaded ∧ k.chosen = some c := fun x => by
    simp only [State.inTransit, List.any_eq_true, State.mem_jobs, Bool.and_eq_true, decide_eq_true_eq, and_assoc]
    exact ⟨fun ⟨k, ⟨n, hk⟩, rest⟩ => ⟨n, k, hk, rest⟩, fun ⟨n, k, hk, rest⟩ => ⟨k, ⟨n, hk⟩, rest⟩⟩
  refine Bool.eq_iff_iff.mpr ((carried t).trans (Iff.trans ?_ (carried s).symm))
  refine exists_congr fun n => exists_congr fun k => ?_
  by_cases hn : n = i
  · subst hn
    exact ⟨fun ⟨hk, kind, _⟩ => absurd kind (new k hk), fun ⟨hk, kind, _⟩ => absurd kind (old k hk)⟩
  · rw [others n hn]

theorem evaluated_congr (hw : t.inWindow j = s.inWindow j) (hs : ∀ c, t.jobStatus c = s.jobStatus c)
    (hk : t.wakes j.aisle = s.wakes j.aisle) (cs : List CellAddr) : t.evaluated j cs = s.evaluated j cs := by
  simp only [State.evaluated, hw, hs, hk]

theorem kept_congr (hs : ∀ c, t.jobStatus c = s.jobStatus c) (j : Job) : t.kept j = s.kept j := by
  simp only [State.kept, hs]

theorem jobStatus_congr (ht : ∀ c, t.inTransit c = s.inTransit c) (hc : t.cmp = s.cmp) (c : CellAddr) :
    t.jobStatus c = s.jobStatus c := by
  simp only [State.jobStatus, ht, State.status, State.cell_of_cmp hc]

/-- The record an evaluation writes. -/
def Job.evaluatedTo (j : Job) (x : JobState × Option PendingReason × List Instr) : Job :=
  { j with state := x.1, reason := x.2.1 }

/-- An evaluation that keeps a candidate: the record and the events (R48). -/
theorem evaluateKept_eq (hs : j.state = .pending ∨ j.state = .ready) (hh : j.handle = h) (s : State) (cs : List CellAddr) :
    s.evaluateKept h j cs =
      (s.updJob h fun x => x.evaluatedTo (s.evaluated j cs)).raiseAll (s.evaluated j cs).2.2 := by
  have quiet : ∀ x : State, x.raiseAll [] = x := fun x => by simp [State.raiseAll]
  have available : (cs.any fun c => decide (s.jobStatus c = .available)) = true ↔ ∃ c ∈ cs, s.jobStatus c = .available := by
    simp
  have blocked : (cs.any fun c => decide (s.jobStatus c = .blocked)) = true ↔ ∃ c ∈ cs, s.jobStatus c = .blocked := by
    simp
  have wakes : ∀ f : Job → Job, (s.updJob h f).wakes j.aisle = s.wakes j.aisle := fun f => by
    rw [State.updJob_slots]
    rfl
  unfold State.evaluateKept State.evaluated
  by_cases hw : s.inWindow j = false
  · simp only [hw, if_true]
    exact (quiet _).symm
  · rw [if_neg hw, if_neg hw]
    simp only [available, blocked]
    by_cases ha : ∃ c ∈ cs, s.jobStatus c = .available
    · simp only [ha, if_true]
      rcases hs with hs | hs
      · simp only [hs, if_true, becameReady_eq, wakes, hh]
        rfl
      · simp only [hs, reduceCtorEq, if_false, if_true]
        exact (quiet _).symm
    · simp only [ha, if_false]
      by_cases hr : j.waitsFor = none
      · simp only [hr, Option.isSome_none, Bool.false_eq_true, if_false, ne_eq, not_true_eq_false]
        by_cases hb : ∃ c ∈ cs, s.jobStatus c = .blocked
        · simp only [hb, if_true, hh]
          rfl
        · simp only [hb, if_false]
          exact (quiet _).symm
      · simp only [Option.isSome_iff_ne_none.mpr hr, if_true, ne_eq, hr, not_false_eq_true]
        exact (quiet _).symm

/-- What an evaluation does to a retrieve with a candidate left (R48). -/
structure CandidateKept (s t : State) (h : Handle) (j : Job) : Prop where
  whole : t = { s with
    jpl := { s.jpl with slots := t.jpl.slots }, events := s.events ++ (s.evaluated j (s.kept j)).2.2 }
  own : t.job? h = some { j with
    state := (s.evaluated j (s.kept j)).1, reason := (s.evaluated j (s.kept j)).2.1, candidates := s.kept j }
  others : ∀ g, g ≠ h → t.job? g = s.job? g

theorem isEvaluated_iff : j.isEvaluated = true ↔
    j.kind = .retrieve ∧ (j.state = .pending ∨ j.state = .ready) ∧ j.promised = none := by
  simp [Job.isEvaluated, and_assoc]

theorem evaluate_kept (hj : s.job? h = some j) (hh : j.handle = h) (he : j.isEvaluated = true) (hk : s.kept j ≠ []) :
    CandidateKept s (s.evaluate h) h j := by
  obtain ⟨kind, state, -⟩ := isEvaluated_iff.mp he
  have form : s.evaluate h = (s.keepCandidates h (s.kept j)).evaluateKept h j (s.kept j) := by
    simp only [State.evaluate, hj, he, if_true, hk, if_false]
  have own := keepCandidates_own hj (s.kept j)
  have slots : s.keepCandidates h (s.kept j) =
      { s with jpl := { s.jpl with slots := (s.keepCandidates h (s.kept j)).jpl.slots } } := State.updJob_slots s h _
  have others : ∀ g, g ≠ h → (s.keepCandidates h (s.kept j)).job? g = s.job? g := fun g hg => updJob_other hg s _
  have transit : ∀ c, (s.keepCandidates h (s.kept j)).inTransit c = s.inTransit c := by
    obtain ⟨-, live⟩ := State.job?_eq_some.mp hj
    have written : s.keepCandidates h (s.kept j) = s.setSlot h.slot { gen := h.gen, job := some { j with candidates := s.kept j } } :=
      State.updJob_eq hj _
    refine inTransit_of_slot (i := h.slot) (fun n hn => ?_) (fun k hk => ?_) fun k hk => ?_
    · rw [written, State.setSlot_slot, if_neg hn]
    · obtain rfl := Option.some.inj (live.symm.trans hk)
      simp [kind]
    · rw [written, State.setSlot_slot, if_pos rfl] at hk
      obtain rfl := Option.some.inj hk
      simp [kind]
  rw [form]
  generalize s.keepCandidates h (s.kept j) = q at *
  have cmp : q.cmp = s.cmp := by rw [slots]
  have same : q.evaluated j (s.kept j) = s.evaluated j (s.kept j) :=
    evaluated_congr (by rw [slots]; rfl) (jobStatus_congr transit cmp) (by rw [slots]; rfl) _
  rw [evaluateKept_eq state hh, same]
  have updated := State.updJob_slots q h fun x => x.evaluatedTo (s.evaluated j (s.kept j))
  refine ⟨?_, (State.updJob_job own _ h).trans (if_pos rfl), fun g hg => (updJob_other hg q _).trans (others g hg)⟩
  generalize (q.updJob h fun x => x.evaluatedTo (s.evaluated j (s.kept j))) = v at *
  rw [updated, slots]
  rfl

/-! ## A retrieve without a candidate left -/

/-- A retrieve on no crane, with no partner and no cell. -/
structure Job.Unplaced (j : Job) : Prop where
  unit : j.unit = none
  partner : j.partner = none
  chosen : j.chosen = none
  target : j.target = none

/-- A PENDING or READY retrieve that is not promised is so placed (R42, R50, R52). -/
theorem unplaced_of_laws (work : WorkLawful s) (hj : s.job? h = some j) (he : j.isEvaluated = true) : j.Unplaced := by
  obtain ⟨kind, state, unpromised⟩ := isEvaluated_iff.mp he
  have live := mem_jobs_of_job? hj
  have idle : j.state.atWork = false := by rcases state with h | h <;> rw [h] <;> rfl
  have notClosing : j.state ≠ .closing := by rcases state with h | h <;> rw [h] <;> simp
  obtain ⟨-, chosen, target, -, -, -, -, -, partner, -⟩ := work.job j live
  refine ⟨?_, ?_, ?_, target kind⟩
  · by_contra h
    have busy := (work.unit.2 j live).1.mpr h
    rw [idle] at busy
    cases busy
  · by_contra h
    have busy := partner h
    rw [idle] at busy
    cases busy
  · by_contra h
    rcases chosen kind h with busy | promised | closing
    · rw [idle] at busy
      cases busy
    · exact promised unpromised
    · exact notClosing closing

/-- The record of a retrieve that has lost its last candidate, entering CLOSING NO_STOCK. -/
def State.stockless (s : State) (h : Handle) : State := (s.keepCandidates h []).closeStart h .noStock false id

structure Stockless (s t : State) (h : Handle) (j : Job) (l : OrderLink) : Prop where
  frame : Frame [.jobs] s t
  own : t.job? h = some (({ j with candidates := [] } : Job).closed .noStock false [l])
  notice : ({ j with candidates := [] } : Job).closingNotice .noStock false =
    .jobClosed h j.reference .retrieve .noStock j.overdue none
  others : ∀ g, g ≠ h → t.job? g = s.job? g

theorem stockless_closes (hj : s.job? h = some j) (hh : j.handle = h) (hk : j.kind = .retrieve) (hp : j.Unplaced)
    (ho : j.origin = .order l) : Stockless s (s.stockless h) h j l := by
  have own := keepCandidates_own hj []
  have keeps : Frame [.jobs] s (s.keepCandidates h []) := (Frame.refl _ s).keepCandidates h [] (by simp)
  have others : ∀ g, g ≠ h → (s.keepCandidates h []).job? g = s.job? g := fun g hg => updJob_other hg s _
  unfold State.stockless
  generalize s.keepCandidates h [] = q at *
  refine ⟨keeps.trans (closeStart_unplaced own hp.chosen hp.target hp.unit .noStock false id), ?_, ?_, fun g hg => ?_⟩
  · rw [closeStart_own own]
    simp only [State.owedLinks, ho]
  · simp [Job.closingNotice, Job.closedCell, hk, hp.chosen, hh]
  · refine (closeStart_others q .noStock false id hg fun i hi => ?_).trans (others g hg)
    obtain rfl := Option.some.inj (own.symm.trans hi)
    simp [hp.partner]

theorem evaluate_stockless (hj : s.job? h = some j) (he : j.isEvaluated = true) (hk : s.kept j = []) :
    s.evaluate h = (s.keepCandidates h []).closeRetrieve h .noStock id := by
  simp only [State.evaluate, hj, he, if_true, hk]

/-- A notice owed to one link with a place for it: the job leaves the pool (R38, R58). -/
theorem offerClosing_noticePlaced {n : Notice} (hk : s.job? h = some k) (hn : k.notice = some n) (ho : k.owed = [l])
    (room : s.hasRoom l = true) : s.offerClosing h = s.noticePlaced h l n := by
  rw [offerClosing_eq hk, ho]
  show (s.placeClosing h l).leaveIfPaid h = _
  rw [placeClosing_paid hk hn room]
  rfl

/-- A retrieve without a candidate that no relocation closes with (R48, R56, R58). -/
structure StockedOut (s t : State) (h : Handle) (j : Job) (l : OrderLink) : Prop where
  closed : Closed s t l j .noStock none
  frame : Frame [.jobs, .pool, .waves, .queue, .events] s t
  others : ∀ g, g ≠ h → t.job? g = s.job? g
  leaves : s.hasRoom l = true → t.slot h.slot = { gen := h.gen + 1, job := none }
    ∧ t.jpl.freeList = s.jpl.freeList ++ [h.slot]
    ∧ t.jpl.live = s.jpl.live.set l (s.jpl.live.get l - 1)
    ∧ ∀ x ∈ t.jobs, x.kind = .retrieve → x.state = .pending → x.reason = some .noRelocSpace →
        .reEvaluation x.handle ∈ t.events

theorem evaluate_stockedOut (hj : s.job? h = some j) (hh : j.handle = h) (he : j.isEvaluated = true) (hk : s.kept j = [])
    (hp : j.Unplaced) (ho : j.origin = .order l)
    (lone : (s.keepCandidates h []).cancelledWith { j with candidates := [] } = none) :
    StockedOut s (s.evaluate h) h j l := by
  obtain ⟨kind, -, -⟩ := isEvaluated_iff.mp he
  have own := keepCandidates_own hj []
  have form : s.evaluate h = (s.stockless h).offerClosing h := by
    rw [evaluate_stockless hj he hk, closeRetrieve_lone own lone]
    rfl
  obtain ⟨frame, record, notice, others⟩ := stockless_closes hj hh kind hp ho
  rw [form]
  generalize s.stockless h = m at *
  have last : Frame [.jobs, .pool, .waves, .queue, .events] m (m.offerClosing h) := (Frame.refl _ m).offerClosing h (by simp)
  have noted : (({ j with candidates := [] } : Job).closed .noStock false [l]).notice =
      some (.jobClosed h j.reference .retrieve .noStock j.overdue none) := congrArg some notice
  obtain ⟨placed, waits⟩ := offerClosing_one record noted rfl
  have queue := queue_congr frame (by simp) l
  have room : m.hasRoom l = s.hasRoom l := by simp only [State.hasRoom, queue]
  rw [room, queue] at placed waits
  refine ⟨?_, (frame.mono (by simp)).trans last, fun g hg => (offerClosing_others m hg).trans (others g hg), fun hr => ?_⟩
  · unfold Closed
    rw [hh, kind]
    split
    · next hr => exact placed hr
    · next hr =>
      obtain ⟨stays, queued, waiting⟩ := waits (by simpa using hr)
      exact ⟨⟨_, stays, rfl, rfl⟩, queued, by rw [waiting, closingWait_congr frame (by simp)]⟩
  · obtain ⟨list, live, -, -⟩ := frame .pool (by simp)
    rw [offerClosing_noticePlaced record noted rfl (room.trans hr)]
    obtain ⟨slot, free, counts, draws⟩ := (noticePlaced_placed record l _).leaves (by simp [Job.paidOn, Job.closed])
    refine ⟨slot, by rw [free, list], ?_, draws⟩
    have each : ∀ x y : PerLink Nat, (∀ m, x.get m = y.get m) → x = y := fun x y h => by
      obtain ⟨x0, x1⟩ := x
      obtain ⟨y0, y1⟩ := y
      exact congrArg₂ PerLink.mk (h .o0) (h .o1)
    refine each _ _ fun i => ?_
    rw [counts, live, PerLink.get_set]
    simp only [Job.closed, ho, Origin.order.injEq]
    by_cases hi : i = l
    · simp [hi]
    · simp [hi, Ne.symm hi]

/-- A retrieve without a candidate that waits for a relocation (R48, R56 to R58, R99). -/
structure StockedOutWaiting (s t : State) (h : Handle) (j r : Job) (l : OrderLink) : Prop where
  first : ClosedFirst s t h l (.jobClosed h j.reference .retrieve .noStock j.overdue none) .noStock
  cancelled : r.state ∈ [JobState.ready, .offered, .enRoute] → RelocationCancelled s t j r
  runsOn : r.state ∉ [JobState.ready, .offered, .enRoute] → t.job? r.handle = some r ∧ Closed s t l j .noStock none
    ∧ t.crt = s.crt ∧ t.cmp = s.cmp
  crt : r.unit = none → r.promised = none → t.crt = s.crt
  job : (∀ u, r.unit = some u → (s.crane u.crane).redirect = none) → ∀ g, g ≠ h → g ≠ r.handle → t.job? g = s.job? g
  cell : (∀ u, r.unit = some u → (s.crane u.crane).redirect = none) → ∀ c, r.chosen ≠ some c → r.target ≠ some c →
    t.cell c = s.cell c

theorem Closed.first {t : State} {o : JobOutcome} {c : Option CellAddr} (hc : Closed s t l j o c) (hh : j.handle = h) :
    ClosedFirst s t h l (.jobClosed h j.reference j.kind o j.overdue c) o := by
  unfold Closed at hc
  rw [hh] at hc
  refine ⟨fun hr => ?_, fun hr => ?_⟩
  · rw [if_pos hr] at hc
    exact ⟨hc.1, [], hc.2⟩
  · rw [if_neg (by simp [hr])] at hc
    obtain ⟨closing, -, wait⟩ := hc
    exact ⟨closing, [], wait⟩

theorem evaluate_stockedOutWaiting (hl : HandleLaw s) (wf : MapWf s) (work : WorkLawful s) (hj : s.job? h = some j)
    (he : j.isEvaluated = true) (hk : s.kept j = []) (ho : j.origin = .order l) (hw : j.waitsFor = some r.handle)
    (hr : s.job? r.handle = some r) (kind : r.kind = .relocate) (served : r.served = some h) (origin : r.origin = .internal) :
    StockedOutWaiting s (s.evaluate h) h j r l := by
  have hh := job?_handle hl hj
  obtain ⟨retrieve, -, unpromised⟩ := isEvaluated_iff.mp he
  have unplaced := unplaced_of_laws work hj he
  have apart : r.handle ≠ h := fun e => by
    rw [e] at hr
    obtain rfl := Option.some.inj (hj.symm.trans hr)
    rw [kind] at retrieve
    cases retrieve
  have own := keepCandidates_own hj []
  have keeps : Frame [.jobs] s (s.keepCandidates h []) := (Frame.refl _ s).keepCandidates h [] (by simp)
  have there : (s.keepCandidates h []).job? r.handle = some r := (updJob_other apart s _).trans hr
  have found : (s.keepCandidates h []).cancelledWith { j with candidates := [] } =
      if r.state ∈ [JobState.ready, .offered, .enRoute] then some r else none := by
    simp only [State.cancelledWith, hw, Option.bind_some, there, Option.filter, List.mem_cons, List.not_mem_nil, or_false,
      decide_eq_true_eq]
  by_cases early : r.state ∈ [JobState.ready, .offered, .enRoute]
  · rw [if_pos early] at found
    have form : s.evaluate h = ((s.stockless h).cancelRelocation r).closeRetrieveEnd h (some r) := by
      rw [evaluate_stockless hj he hk, closeRetrieve_with own found]
      rfl
    have first := closeRetrieve_first (o := .noStock) (((Changes.refl s).keepCandidates h []).handleLaw hl) own retrieve ho
      (fun x hx hxh => by
        obtain rfl := Option.some.inj (found.symm.trans hx)
        exact absurd hxh apart) id
    rw [← evaluate_stockless hj he hk] at first
    obtain ⟨frame, record, notice, others⟩ := stockless_closes hj hh retrieve unplaced ho
    rw [notice] at first
    have serves : Serves s r h := serves_of_laws work hr kind served origin apart (by rintro e; rw [e] at early; simp at early)
    have ended := (serves.congr frame (by simp) (others _ apart)).ended record rfl rfl
      (mapWf_of_cmp (frame.cmp (by simp) (by simp)) wf)
    rw [← form] at ended
    generalize s.stockless h = m at *
    generalize s.evaluate h = t at *
    have crane : ∀ d, m.crane d = s.crane d := fun d => frame.crane d (by simp)
    have crt : m.crt = s.crt := frame.crt (by simp) (by simp) (by simp)
    refine ⟨⟨fun room => ?_, fun room => ?_⟩, fun _ => ?_, fun late => absurd early late, fun hu hp => ?_, fun free g hg hg' => ?_,
      fun free c hc ht => ?_⟩
    · have queue := queue_congr keeps (by simp) l
      have placed := first.placed (by simpa only [State.hasRoom, queue] using room)
      rwa [queue] at placed
    · have queue := queue_congr keeps (by simp) l
      have waits := first.waits (by simpa only [State.hasRoom, queue] using room)
      rwa [closingWait_congr keeps (by simp)] at waits
    · refine (ended.cancelled j hh).earlier (fun l => queue_congr frame (by simp) l) (frame.active (by simp))
        (fun b _ => frame.cell (by simp) (by simp) b) fun u _ => ⟨crane _, frame.tx _ (by simp), ?_⟩
      exact congrArg (fun v : Vector Bool 12 => v[u.crane]) (frame .parkOwed (by simp))
    · exact (ended.crt hu hp).trans crt
    · refine (ended.job g hg hg' fun u hu y hy => ?_).trans (others g hg)
      rw [crane, free u hu] at hy
      cases hy
    · refine (ended.cell (fun u hu => ?_) c hc ht).trans (frame.cell (by simp) (by simp) c)
      rw [crane]
      exact free u hu
  · rw [if_neg early] at found
    obtain ⟨closed, frame, others, -⟩ := evaluate_stockedOut hj hh he hk unplaced ho found
    have crt := frame.crt (by simp) (by simp) (by simp)
    have first := closed.first hh
    rw [retrieve] at first
    exact ⟨first, fun h => absurd h early,
      fun _ => ⟨(others _ apart).trans hr, closed, crt, frame.cmp (by simp) (by simp)⟩, fun _ _ => crt,
      fun _ g hg _ => others g hg, fun _ c _ _ => frame.cell (by simp) (by simp) c⟩

/-! ## The statement -/

theorem reEvaluation_exec (h : Handle) : exec (.reEvaluation h) s = .next ((s.take (.reEvaluation h)).reEvaluateJob h) := rfl

theorem reEvaluateJob_retrieve (hj : s.job? h = some j) (hk : j.kind = .retrieve) : s.reEvaluateJob h = s.evaluate h := by
  simp only [State.reEvaluateJob, hj, hk]

/-- Settles O59: what is no waiting job stands, a waiting store is searched for again, and a retrieve is evaluated. -/
theorem reEvaluationFollowsTheCandidates : Obligations.ReEvaluationFollowsTheCandidates := by
  intro s h
  rw [reEvaluation_exec]
  have job : ∀ g, (s.take (.reEvaluation h)).job? g = s.job? g := fun _ => rfl
  refine ⟨fun idle => ?_, fun j hj hk hs hr => ?_, fun j hj hk hs hp law => ?_⟩
  · refine congrArg _ ?_
    unfold State.reEvaluateJob
    rw [job]
    cases hj : s.job? h with
    | none => rfl
    | some j =>
      dsimp only
      rcases idle j hj with hk | ⟨hk, waits⟩ | ⟨hk, waits⟩ <;> rw [hk]
      · exact if_neg (by tauto)
      · have : j.isEvaluated = false := by
          rw [Bool.eq_false_iff, Ne, isEvaluated_iff]
          tauto
        simp [State.evaluate, job, hj, this]
  · refine congrArg _ ?_
    have there := (job h).trans hj
    simp only [State.reEvaluateJob, there, hk, hs, hr, and_self, if_true]
    rfl
  · have he : j.isEvaluated = true := isEvaluated_iff.mpr ⟨hk, hs, hp⟩
    have hh := job?_handle law hj
    have there : (s.take (.reEvaluation h)).job? h = some j := hj
    rw [reEvaluateJob_retrieve there hk]
    refine ⟨fun kept => ?_, fun kept waits unit partner chosen target l ho => ?_,
      fun kept r l waits hr kind served origin ho laws _ work => ?_⟩
    · obtain ⟨whole, own, others⟩ := evaluate_kept there hh he kept
      exact ⟨_, rfl, whole, own, others⟩
    · obtain ⟨closed, frame, others, leaves⟩ := evaluate_stockedOut there hh he kept ⟨unit, partner, chosen, target⟩ ho
        (cancelledWith_none (j := { j with candidates := [] }) waits _)
      have law' : HandleLaw ((s.take (.reEvaluation h)).evaluate h) :=
        (((Changes.refl s).take (.reEvaluation h)).evaluate h).handleLaw law
      refine ⟨_, rfl, closed, frame.crt (by simp) (by simp) (by simp), frame.cmp (by simp) (by simp),
        frame.ale (by simp) (by simp), frame.aic (by simp) (by simp), frame.flg (by simp),
        fun g hg => others g fun e => hg (e ▸ rfl), fun room => ?_⟩
      obtain ⟨slot, free, live, draws⟩ := leaves room
      refine ⟨slot, fun g k hk kind state reason => ?_, free, live⟩
      have handle := job?_handle law' hk
      subst handle
      exact draws k (mem_jobs_of_job? hk) kind state reason
    · have work' : WorkLawful (s.take (.reEvaluation h)) :=
        ⟨work.reservation, work.unit, work.crane, work.steps, work.redirect, work.job, work.credit, work.window⟩
      obtain ⟨first, cancelled, runsOn, crt, others, cell⟩ := evaluate_stockedOutWaiting (s := s.take (.reEvaluation h))
        laws.handle laws.map work' there he kept ho waits hr kind served origin
      exact ⟨_, rfl, first.placed, first.waits, cancelled, runsOn, crt, fun free => ⟨others free, cell free⟩⟩

end Sys2Proof.Machine
end
section
/-! ENTER RETRIEVE (O34): its checks, its list of candidates, and the one evaluation of the retrieve it creates. -/

namespace Sys2Proof.Machine

variable {s t : State} {a : AisleId} {g h : Handle} {j k : Job} {l : OrderLink} {p : List Byte} {f : EnterRetrieveFields}

/-! ## The first occurrences of a list -/

theorem firstsOnly_sublist : ∀ seen cs, (firstsOnly seen cs).Sublist cs
  | _, [] => .slnil
  | seen, c :: cs => by
    unfold firstsOnly
    split
    · exact (firstsOnly_sublist seen cs).cons c
    · exact (firstsOnly_sublist (c :: seen) cs).cons_cons c

theorem mem_firstsOnly {d : CellAddr} : ∀ seen cs, d ∈ firstsOnly seen cs ↔ d ∈ cs ∧ d ∉ seen
  | _, [] => by simp [firstsOnly]
  | seen, c :: cs => by
    unfold firstsOnly
    split
    · next old =>
      rw [mem_firstsOnly seen cs, List.mem_cons]
      have old' : c ∈ seen := by simpa using old
      constructor
      · exact fun ⟨hd, new⟩ => ⟨.inr hd, new⟩
      · rintro ⟨rfl | hd, new⟩
        · exact absurd old' new
        · exact ⟨hd, new⟩
    · next new =>
      have new' : c ∉ seen := by simpa using new
      rw [List.mem_cons, mem_firstsOnly (c :: seen) cs, List.mem_cons, List.mem_cons]
      by_cases hd : d = c
      · subst hd
        simp [new']
      · simp [hd]

theorem firstsOnly_nodup : ∀ seen cs, (firstsOnly seen cs).Nodup
  | _, [] => .nil
  | seen, c :: cs => by
    unfold firstsOnly
    split
    · exact firstsOnly_nodup seen cs
    · refine List.nodup_cons.mpr ⟨fun again => ?_, firstsOnly_nodup (c :: seen) cs⟩
      exact ((mem_firstsOnly _ cs).mp again).2 List.mem_cons_self

/-- The cells stand in the order of their first occurrences (R46). -/
theorem firstsOnly_ordered : ∀ seen cs, (firstsOnly seen cs).Pairwise fun c d => cs.idxOf c < cs.idxOf d
  | _, [] => .nil
  | seen, c :: cs => by
    have later : ∀ seen', (∀ d ∈ firstsOnly seen' cs, d ≠ c) →
        (firstsOnly seen' cs).Pairwise fun x y => (c :: cs).idxOf x < (c :: cs).idxOf y := fun seen' apart =>
      (firstsOnly_ordered seen' cs).imp_of_mem fun {x y} hx hy less => by
        rw [List.idxOf_cons_ne _ (apart x hx).symm, List.idxOf_cons_ne _ (apart y hy).symm]
        omega
    unfold firstsOnly
    split
    · next old =>
      refine later seen fun d hd e => ((mem_firstsOnly seen cs).mp hd).2 ?_
      subst e
      simpa using old
    · have apart : ∀ d ∈ firstsOnly (c :: seen) cs, d ≠ c := fun d hd e =>
        ((mem_firstsOnly _ cs).mp hd).2 (e ▸ List.mem_cons_self)
      refine List.pairwise_cons.mpr ⟨fun d hd => ?_, later _ apart⟩
      rw [List.idxOf_cons_self, List.idxOf_cons_ne _ (apart d hd).symm]
      omega

/-! ## The checks -/

/-- An end a retrieve may not name (R45 check 2). -/
theorem retrieveEndOf_eq_none {n : Nat} (h : 2 < n ∨ (n = 1 ∧ s.isTandem a = false)) : s.retrieveEndOf a n = none := by
  rcases h with h | ⟨rfl, h⟩
  · match n, h with
    | n + 3, _ => rfl
  · exact if_neg (by simp [h])

/-- The end that a code names. -/
def retrieveEnd (n : Nat) : JobEnd := if n = 0 then .front else if n = 1 then .rear else .either

theorem retrieveEndOf_eq_some {n : Nat} (h : n = 0 ∨ n = 2 ∨ (n = 1 ∧ s.isTandem a = true)) :
    s.retrieveEndOf a n = some (retrieveEnd n) := by
  rcases h with rfl | rfl | ⟨rfl, h⟩
  · rfl
  · rfl
  · exact if_pos h

theorem badCandidateCount_iff : badCandidateCount p = true ↔ 8 ≤ p.length ∧ (byteAt p 7 = 0 ∨ 4 < byteAt p 7) := by
  simp [badCandidateCount]

section Checks

variable (r : State)

theorem enterRetrieve_miscounted (h : badCandidateCount p = true) : r.enterRetrieve l p =
    r.refuse ((r.configuredAisle (byteAt p 5)).elim .noAisle fun _ => .badField) := by
  rw [State.enterRetrieve, if_pos h]
  cases r.configuredAisle (byteAt p 5) <;> rfl

theorem enterRetrieve_unread (h : p.length < 8 ∨ (1 ≤ byteAt p 7 ∧ byteAt p 7 ≤ 4 ∧ p.length ≠ 11 + 3 * byteAt p 7)) :
    r.enterRetrieve l p = r.refuse .badField := by
  have counted : ¬ badCandidateCount p = true := by
    rw [badCandidateCount_iff]
    omega
  have unread : decodeEnterRetrieve p = none := if_neg (by omega)
  rw [State.enterRetrieve, if_neg counted, unread, State.withField_none]

variable (hf : decodeEnterRetrieve p = some f)
include hf

/-- A payload that is read counts its candidates rightly. -/
theorem enterRetrieve_counted : ¬ badCandidateCount p = true := by
  unfold decodeEnterRetrieve at hf
  dsimp only at hf
  split at hf
  · next h =>
    rw [badCandidateCount_iff]
    omega
  · cases hf

theorem enterRetrieve_noAisle (h : ∀ a : AisleId, f.aisle = a.val → r.configured a = false) :
    r.enterRetrieve l p = r.refuse .noAisle := by
  rw [State.enterRetrieve, if_neg (enterRetrieve_counted hf), hf, State.withField_some, configuredAisle_eq_none h]

variable (ha : f.aisle = a.val) (hc : r.configured a = true)
include ha hc

theorem enterRetrieve_badEnd (h : 2 < f.end_ ∨ (f.end_ = 1 ∧ r.isTandem a = false)) :
    r.enterRetrieve l p = r.refuse .badField := by
  rw [State.enterRetrieve, if_neg (enterRetrieve_counted hf), hf, State.withField_some, configuredAisle_eq_some ha hc]
  dsimp only
  rw [retrieveEndOf_eq_none h, State.withField_none]

variable (he : f.end_ = 0 ∨ f.end_ = 2 ∨ (f.end_ = 1 ∧ r.isTandem a = true))
include he

/-- Past the checks of its aisle and of its end. -/
theorem enterRetrieve_read : r.enterRetrieve l p =
    (r.retrieveRefusal l f a).elim (r.createRetrieve l f a (retrieveEnd f.end_)) r.refuse := by
  rw [State.enterRetrieve, if_neg (enterRetrieve_counted hf), hf, State.withField_some, configuredAisle_eq_some ha hc]
  dsimp only
  rw [retrieveEndOf_eq_some he, State.withField_some]
  cases r.retrieveRefusal l f a <;> rfl

theorem enterRetrieve_refuse {x : Result} (h : r.retrieveRefusal l f a = some x) : r.enterRetrieve l p = r.refuse x := by
  rw [enterRetrieve_read r hf ha hc he, h, Option.elim_some]

theorem enterRetrieve_pool {x : Result} (h : r.poolRefusal l = some x) : r.enterRetrieve l p = r.refuse x :=
  enterRetrieve_refuse r hf ha hc he (by rw [State.retrieveRefusal, h]; rfl)

variable (hp : r.poolRefusal l = none)
include hp

theorem enterRetrieve_badCell (h : ∃ c ∈ f.candidates, r.hasCell a c = false) : r.enterRetrieve l p = r.refuse .badCell := by
  refine enterRetrieve_refuse r hf ha hc he ?_
  have bad : ¬ f.candidates.all (r.hasCell a) = true := fun all => by
    obtain ⟨c, hc, absent⟩ := h
    rw [List.all_eq_true.mp all c hc] at absent
    cases absent
  rw [State.retrieveRefusal, hp, if_neg bad]
  rfl

variable (hall : ∀ c ∈ f.candidates, r.hasCell a c = true)
include hall

theorem enterRetrieve_wave : r.enterRetrieve l p =
    (r.waveRefusal f).elim (r.createRetrieve l f a (retrieveEnd f.end_)) r.refuse := by
  rw [enterRetrieve_read r hf ha hc he, State.retrieveRefusal, hp, if_pos (List.all_eq_true.mpr hall)]
  cases r.waveRefusal f <;> rfl

end Checks

theorem waveRefusal_badWave (hw : f.wave ≠ 0) (h : ∀ w, s.wave? f.wave = some w →
    w.isOpen = false ∨ f.seq < w.firstSeq ∨ 4095 < f.seq ∨ f.seq ≤ w.takenThrough) : s.waveRefusal f = some .badWave := by
  rw [State.waveRefusal, if_neg hw]
  cases hx : s.wave? f.wave with
  | none => rfl
  | some w => exact if_pos (h w hx)

/-- The number is one of an open wave's, not yet passed (R45 check 5). -/
structure Wave.Takes (w : Wave) (seq : Nat) : Prop where
  isOpen : w.isOpen = true
  first : w.firstSeq ≤ seq
  last : seq ≤ 4095
  ahead : w.takenThrough < seq

theorem waveRefusal_taken {w : Wave} (hw : f.wave ≠ 0) (hx : s.wave? f.wave = some w) (hs : w.Takes f.seq) :
    s.waveRefusal f =
      if ∃ j ∈ s.jobs, j.wave = some { id := f.wave, seq := f.seq } then some .dupSeq else none := by
  have open_ := hs.isOpen
  have passes : ¬ (w.isOpen = false ∨ f.seq < w.firstSeq ∨ 4095 < f.seq ∨ f.seq ≤ w.takenThrough) := by
    have h1 := hs.first
    have h2 := hs.last
    have h3 := hs.ahead
    rw [open_]
    simp only [Bool.true_eq_false, false_or]
    omega
  rw [State.waveRefusal, if_neg hw, hx]
  dsimp only
  rw [if_neg passes]
  simp only [List.any_eq_true, decide_eq_true_eq]

/-! ## The creation -/

theorem wave?_updWave {n : Nat} {w : Wave} (hw : s.wave? n = some w) (id : Nat) (y : Wave → Wave) (hy : ∀ x, (y x).id = x.id) :
    (s.updWave id y).wave? n = some (if n = id then y w else w) := by
  have kept : ∀ ws : List Wave, (ws.map fun x => if x.id = id then y x else x).find? (fun x => decide (x.id = n)) =
      (ws.find? fun x => decide (x.id = n)).map fun x => if n = id then y x else x := fun ws => by
    rw [List.find?_map]
    have same : ((fun x : Wave => decide (x.id = n)) ∘ fun x => if x.id = id then y x else x) = fun x => decide (x.id = n) := by
      funext x
      simp only [Function.comp_apply]
      split <;> simp only [hy]
    rw [same]
    cases hx : ws.find? fun x => decide (x.id = n) with
    | none => rfl
    | some x =>
      have named : x.id = n := by simpa using List.find?_some hx
      simp only [Option.map_some, named]
  unfold State.wave? State.updWave at *
  dsimp only
  rw [kept, hw]
  rfl

/-- One more live job of a wave moves no wave's window (R164, R165). -/
theorem inWindow_updWave (s : State) (id n : Nat) (j : Job) :
    (s.updWave id fun x => { x with live := x.live + n }).inWindow j = s.inWindow j := by
  unfold State.inWindow
  cases j.wave with
  | none => rfl
  | some w =>
    dsimp only
    cases hw : s.wave? w.id with
    | some x =>
      rw [wave?_updWave hw id (fun x => { x with live := x.live + n }) fun _ => rfl]
      dsimp only
      split <;> rfl
    | none =>
      have none_ : (s.updWave id fun x => { x with live := x.live + n }).wave? w.id = none := by
        unfold State.wave? State.updWave at *
        rw [List.find?_eq_none] at hw ⊢
        intro x hx
        obtain ⟨y, hy, rfl⟩ := List.mem_map.mp hx
        have := hw y hy
        split <;> exact this
      rw [none_]

/-- The state in which a retrieve has been entered, before its evaluation (R46). -/
def State.retrieveEntered (s : State) (j : Job) : State := (s.createJob j).waveEntered j.wave

theorem waveEntered_inWindow (s : State) (w : Option WaveRef) (j : Job) : (s.waveEntered w).inWindow j = s.inWindow j := by
  cases w with
  | none => rfl
  | some w => exact inWindow_updWave s w.id 1 j

/-- What the entry of a retrieve leaves for its evaluation. -/
structure RetrieveEntered (s t : State) (h : Handle) (j : Job) : Prop where
  own : t.job? h = some { j with entryOrder := s.jpl.entryOrder }
  others : ∀ g : Handle, g.slot ≠ h.slot → t.job? g = s.job? g
  status : ∀ c, t.jobStatus c = s.jobStatus c
  window : ∀ i, t.inWindow i = s.inWindow i
  frame : Frame [.jobs, .pool, .waves] s t
  live : ∀ l, j.origin = .order l → t.jpl.live = s.jpl.live.set l (s.jpl.live.get l + 1)
  wait : t.jpl.closingWait = s.jpl.closingWait
  wave : ∀ w i, j.wave = some w → s.wave? w.id = some i → t.wave? w.id = some { i with live := i.live + 1 }

theorem retrieveEntered_entered (free : FreeLaw s) (hn : s.nextHandle = some h) (hj : j.handle = h) (hk : j.kind = .retrieve) :
    RetrieveEntered s (s.retrieveEntered j) h j := by
  subst hj
  have created : Frame [.jobs, .pool] s (s.createJob j) := (Frame.refl _ s).createJob j (by simp)
  have entered : Frame [.waves] (s.createJob j) (s.retrieveEntered j) := (Frame.refl _ _).waveEntered j.wave (by simp)
  have jpl : (s.retrieveEntered j).jpl = (s.createJob j).jpl := entered.jpl (by simp) (by simp) (by simp) (by simp)
  have swu : (s.createJob j).swu = s.swu := created.swu (by simp) (by simp) (by simp)
  have cmp : (s.retrieveEntered j).cmp = s.cmp :=
    (entered.cmp (by simp) (by simp)).trans (created.cmp (by simp) (by simp))
  have slot : ∀ i, (s.retrieveEntered j).slot i = (s.createJob j).slot i := fun i => by simp only [State.slot, jpl]
  have vacant : (s.slot j.handle.slot).job = none := by
    unfold State.nextHandle at hn
    cases hl : s.jpl.freeList with
    | nil => simp [hl] at hn
    | cons i is =>
      simp only [hl, List.head?_cons, Option.map_some, Option.some.injEq] at hn
      rw [← hn]
      exact (free.2 i).mp (by simp [hl])
  refine {
    own := (job?_congr jpl ▸ createJob_job (s := s) rfl)
    others := fun g hg => (congrFun (job?_congr jpl) g).trans (createJob_job_other hg)
    status := jobStatus_congr (inTransit_of_slot (i := j.handle.slot) (fun n hn => ?_) (fun k hk' => ?_) fun k hk' => ?_) cmp
    window := fun i => (waveEntered_inWindow (s.createJob j) j.wave i).trans (by simp only [State.inWindow, State.wave?, swu])
    frame := (created.mono (by simp)).trans (entered.mono (by simp))
    live := fun l ho => ?_
    wait := ?_
    wave := fun w i hw hi => ?_ }
  · rw [slot, State.createJob_slot, if_neg hn]
  · rw [vacant] at hk'
    cases hk'
  · rw [slot, State.createJob_slot, if_pos rfl] at hk'
    obtain rfl := Option.some.inj hk'
    simp [hk]
  · rw [jpl]
    unfold State.createJob State.countLive
    rw [ho]
    rfl
  · rw [jpl]
    unfold State.createJob State.countLive
    cases j.origin <;> rfl
  · unfold State.retrieveEntered
    rw [hw]
    have first : (s.createJob j).wave? w.id = some i := by simpa only [State.wave?, swu] using hi
    exact (wave?_updWave first w.id (fun x => { x with live := x.live + 1 }) fun _ => rfl).trans (by rw [if_pos rfl])

/-- The record of a retrieve as it is entered. -/
def State.newRetrieve (s : State) (h : Handle) (l : OrderLink) (f : EnterRetrieveFields) (a : AisleId) : Job :=
  { retrieveRecord h l f a (retrieveEnd f.end_) with entryOrder := s.jpl.entryOrder }

theorem createRetrieve_eq (hn : s.nextHandle = some h) (e : JobEnd) : s.createRetrieve l f a e =
    ((s.retrieveEntered (retrieveRecord h l f a e)).evaluate h).okClamped (decide (3 < f.cls))
      (((s.retrieveEntered (retrieveRecord h l f a e)).evaluate h).enteredData h
        (retrieveRecord h l f a e).candidates.length) := by
  rw [State.createRetrieve, hn]
  rfl

theorem wakes_congr (h : t.crt = s.crt) (a : AisleId) : t.wakes a = s.wakes a := by
  have crane : t.crane = s.crane := by
    funext c
    simp only [State.crane, h]
  simp only [State.wakes, State.cranesOf, State.craneAt, crane]

/-- A retrieve that has closed without a candidate and waits for a place has no reason left. -/
theorem evaluate_stockedOut_reason (hj : s.job? h = some j) (hh : j.handle = h) (he : j.isEvaluated = true)
    (hk : s.kept j = []) (hp : j.Unplaced) (ho : j.origin = .order l)
    (lone : (s.keepCandidates h []).cancelledWith { j with candidates := [] } = none) :
    ∀ k, (s.evaluate h).job? h = some k → k.state = .closing ∧ k.reason = none ∧ k.outcome = some .noStock := by
  have form : s.evaluate h = (s.stockless h).offerClosing h := by
    rw [evaluate_stockless hj he hk, closeRetrieve_lone (keepCandidates_own hj []) lone]
    rfl
  obtain ⟨-, record, -, -⟩ := stockless_closes hj hh (isEvaluated_iff.mp he).1 hp ho
  obtain ⟨placed, waits⟩ := offerClosing_one record rfl rfl
  intro k hk
  rw [form] at hk
  cases room : (s.stockless h).hasRoom l with
  | true =>
    rw [(placed room).1] at hk
    cases hk
  | false =>
    rw [(waits room).1] at hk
    obtain rfl := Option.some.inj hk
    exact ⟨rfl, rfl, rfl⟩

/-- What the creation of a retrieve and its one evaluation do (R46, R48). -/
structure RetrieveCreated (s t : State) (h : Handle) (r : Job) (l : OrderLink) : Prop where
  others : ∀ g : Handle, g.slot ≠ h.slot → t.job? g = s.job? g
  frame : Frame [.jobs, .pool, .waves, .queue, .events] s t
  closes : s.kept r = [] → t.enteredData h r.candidates.length = .entered h .closing none (some .noStock) (some r.candidates.length)
    ∧ Closed s t l r .noStock none
  stands : s.kept r ≠ [] → t.enteredData h r.candidates.length =
      .entered h (s.evaluated r (s.kept r)).1 (s.evaluated r (s.kept r)).2.1 none (some r.candidates.length)
    ∧ t.job? h = some { r with
        state := (s.evaluated r (s.kept r)).1, reason := (s.evaluated r (s.kept r)).2.1, candidates := s.kept r }
    ∧ t.jpl.live = s.jpl.live.set l (s.jpl.live.get l + 1)
    ∧ t.events = s.events ++ (s.evaluated r (s.kept r)).2.2
    ∧ ∀ w i, r.wave = some w → s.wave? w.id = some i → t.wave? w.id = some { i with live := i.live + 1 }

theorem createRetrieve_created (free : FreeLaw s) (hn : s.nextHandle = some h) (f : EnterRetrieveFields) (a : AisleId) :
    RetrieveCreated s ((s.retrieveEntered (retrieveRecord h l f a (retrieveEnd f.end_))).evaluate h) h (s.newRetrieve h l f a)
      l := by
  obtain ⟨own, others, status, window, frame, live, wait, wave⟩ :=
    retrieveEntered_entered (j := retrieveRecord h l f a (retrieveEnd f.end_)) free hn rfl rfl
  have record : s.newRetrieve h l f a = { retrieveRecord h l f a (retrieveEnd f.end_) with entryOrder := s.jpl.entryOrder } := rfl
  rw [← record] at own
  have he : (s.newRetrieve h l f a).isEvaluated = true := isEvaluated_iff.mpr ⟨rfl, .inl rfl, rfl⟩
  have ho : (s.newRetrieve h l f a).origin = .order l := rfl
  have hw : (s.newRetrieve h l f a).waitsFor = none := rfl
  have hh : (s.newRetrieve h l f a).handle = h := rfl
  have hp : (s.newRetrieve h l f a).Unplaced := ⟨rfl, rfl, rfl, rfl⟩
  have outcome : (s.newRetrieve h l f a).outcome = none := rfl
  have waves : ∀ w, (s.newRetrieve h l f a).wave = some w → (retrieveRecord h l f a (retrieveEnd f.end_)).wave = some w :=
    fun _ h => h
  have lives := live l rfl
  generalize s.newRetrieve h l f a = r at *
  generalize s.retrieveEntered (retrieveRecord h l f a (retrieveEnd f.end_)) = q at *
  have kept : q.kept r = s.kept r := kept_congr status r
  have queue : ∀ m, q.queue m = s.queue m := fun m => queue_congr frame (by simp) m
  by_cases none_ : s.kept r = []
  · obtain ⟨closed, last, apart, -⟩ := evaluate_stockedOut own hh he (kept.trans none_) hp ho
      (cancelledWith_none (j := { r with candidates := [] }) hw _)
    have closed' : Closed s (q.evaluate h) l r .noStock none :=
      closed.congr (queue l).symm (by rw [wait]) rfl rfl rfl
    refine ⟨fun g hg => (apart g fun e => hg (e ▸ rfl)).trans (others g hg), (frame.mono (by simp)).trans last,
      fun _ => ⟨?_, closed'⟩, fun h => absurd none_ h⟩
    have ends := evaluate_stockedOut_reason own hh he (kept.trans none_) hp ho
      (cancelledWith_none (j := { r with candidates := [] }) hw _)
    unfold State.enteredData
    cases hk : (q.evaluate h).job? h with
    | none => rfl
    | some k =>
      obtain ⟨state, reason, outcome⟩ := ends k hk
      simp only [state, reason, outcome]
  · obtain ⟨whole, mine, apart⟩ := evaluate_kept own hh he (by rw [kept]; exact none_)
    have same : q.evaluated r (s.kept r) = s.evaluated r (s.kept r) := by
      exact evaluated_congr (window r) status (wakes_congr (frame.crt (by simp) (by simp) (by simp)) _) _
    rw [kept, same] at whole mine
    have last : Frame [.jobs, .events] q (q.evaluate h) := by
      have form : q.evaluate h = (q.keepCandidates h (s.kept r)).evaluateKept h r (s.kept r) := by
        simp only [State.evaluate, own, he, if_true, kept, none_, if_false]
      rw [form]
      exact ((Frame.refl _ q).keepCandidates h _ (by simp)).evaluateKept h r _ (by simp)
    generalize q.evaluate h = t at *
    refine ⟨fun g hg => (apart g fun e => hg (e ▸ rfl)).trans (others g hg), (frame.mono (by simp)).trans (last.mono (by simp)),
      fun h => absurd h none_, fun _ => ⟨?_, mine, ?_, ?_, fun w i hw hi => ?_⟩⟩
    · simp only [State.enteredData, mine, outcome]
    · obtain ⟨-, live', -, -⟩ := last .pool (by simp)
      exact live'.trans lives
    · rw [whole]
      show q.events ++ _ = _
      rw [frame .events (by simp)]
    · have same : t.swu.waves = q.swu.waves := last .waves (by simp)
      rw [← wave w i (waves w hw) hi]
      simp only [State.wave?, same]

/-! ## The statement -/

theorem newRetrieve_fields (r : State) :
    (r.newRetrieve h l f a).reference = f.reference ∧ (r.newRetrieve h l f a).cls.val = min f.cls 3
      ∧ (r.newRetrieve h l f a).end_ = (if f.end_ = 0 then .front else if f.end_ = 1 then .rear else .either)
      ∧ (r.newRetrieve h l f a).candidates.Nodup ∧ (r.newRetrieve h l f a).candidates.Sublist f.candidates
      ∧ (∀ c, c ∈ (r.newRetrieve h l f a).candidates ↔ c ∈ f.candidates)
      ∧ (r.newRetrieve h l f a).candidates.Pairwise (fun c d => f.candidates.idxOf c < f.candidates.idxOf d) :=
  ⟨rfl, clampClass_val _, rfl, firstsOnly_nodup [] _, firstsOnly_sublist [] _,
    fun _ => (mem_firstsOnly [] _).trans (by simp), firstsOnly_ordered [] _⟩

/-- Settles O34: the refusals of ENTER RETRIEVE in order, and the one evaluation of the retrieve it creates. -/
theorem enterRetrieveChecksThenEvaluates : Obligations.EnterRetrieveChecksThenEvaluates := by
  intro s l p hears
  let r := s.heard (.enterRetrieve l p) (.order l)
  have refused : ∀ x, r.enterRetrieve l p = r.refuse x →
      exec (.enterRetrieve l p) s = .next (s.refused (.enterRetrieve l p) (.order l) 0x02 x) :=
    fun x h => exec_refuse rfl hears h
  refine ⟨fun len count => ?_, fun h => refused _ (enterRetrieve_unread r h), fun f hf =>
    ⟨fun h => refused _ (enterRetrieve_noAisle r hf h), fun a ha hc =>
      ⟨fun h => refused _ (enterRetrieve_badEnd r hf ha hc h), fun he =>
        ⟨fun h => refused _ (enterRetrieve_pool r hf ha hc he (poolRefusal_full h)),
          fun h hq => refused _ (enterRetrieve_pool r hf ha hc he (poolRefusal_quota h hq)),
          fun hfree hquota => ?_⟩⟩⟩⟩
  · have miscounted := enterRetrieve_miscounted (l := l) r (badCandidateCount_iff.mpr ⟨len, count⟩)
    refine ⟨fun h => refused _ ?_, fun a ha hc => refused _ ?_⟩
    · rw [miscounted, configuredAisle_eq_none (s := r) h]
      rfl
    · rw [miscounted, configuredAisle_eq_some (s := r) ha hc]
      rfl
  have pool : r.poolRefusal l = none := poolRefusal_none hfree hquota
  refine ⟨fun h => refused _ (enterRetrieve_badCell r hf ha hc he pool h), fun hall => ?_⟩
  have waved := enterRetrieve_wave r hf ha hc he pool hall
  refine ⟨fun hw h => refused _ ?_, fun w hw hx open_ first last ahead dup => refused _ ?_, fun admitted laws => ?_⟩
  · rw [waved, waveRefusal_badWave (s := r) hw h]
    rfl
  · have taken : r.waveRefusal f = some .dupSeq :=
      (waveRefusal_taken (s := r) hw hx ⟨open_, first, last, ahead⟩).trans (if_pos dup)
    rw [waved, taken]
    rfl
  · have passes : r.waveRefusal f = none := by
      rcases admitted with none_ | ⟨w, hx, open_, first, last, ahead, fresh⟩
      · exact if_pos none_
      · by_cases hw : f.wave = 0
        · exact if_pos hw
        · refine (waveRefusal_taken (s := r) hw hx ⟨open_, first, last, ahead⟩).trans (if_neg ?_)
          rintro ⟨j, hj, same⟩
          exact fresh j hj same
    obtain ⟨h, hn⟩ := nextHandle_eq_some (s := r) (List.ne_nil_of_length_pos (Nat.zero_lt_of_lt hfree))
    rw [passes] at waved
    have create := waved.trans (createRetrieve_eq hn (retrieveEnd f.end_))
    obtain ⟨others, frame, closes, stands⟩ := createRetrieve_created (l := l) (s := r) laws.free hn f a
    obtain ⟨reference, cls, end_, nodup, sublist, mem, ordered⟩ := newRetrieve_fields (f := f) (h := h) (l := l) (a := a) r
    have tx := frame.tx (.order l) (by simp)
    have answer : ∃ st rs oc, ((r.retrieveEntered (retrieveRecord h l f a (retrieveEnd f.end_))).evaluate h).enteredData h
          (retrieveRecord h l f a (retrieveEnd f.end_)).candidates.length =
            .entered h st rs oc (some (r.newRetrieve h l f a).candidates.length)
        ∧ (r.kept (r.newRetrieve h l f a) = [] → st = .closing ∧ rs = none ∧ oc = some .noStock)
        ∧ (r.kept (r.newRetrieve h l f a) ≠ [] → oc = none
          ∧ (st, rs) = ((r.evaluated (r.newRetrieve h l f a) (r.kept (r.newRetrieve h l f a))).1,
            (r.evaluated (r.newRetrieve h l f a) (r.kept (r.newRetrieve h l f a))).2.1)) := by
      by_cases none_ : r.kept (r.newRetrieve h l f a) = []
      · exact ⟨_, _, _, (closes none_).1, fun _ => ⟨rfl, rfl, rfl⟩, fun h => absurd none_ h⟩
      · exact ⟨_, _, _, (stands none_).1, fun h => absurd h none_, fun _ => ⟨rfl, rfl⟩⟩
    obtain ⟨st, rs, oc, data, closing, standing⟩ := answer
    rw [data] at create
    refine ⟨_, h, r.newRetrieve h l f a, st, rs, oc, exec_done rfl hears create tx, hn, ?_, rfl, rfl, rfl, reference, cls, rfl,
      end_, nodup, sublist, mem, ordered, rfl, rfl, rfl, rfl, rfl, rfl, rfl, rfl, frame.cmp (by simp) (by simp),
      frame.crt (by simp) (by simp) (by simp), frame.ale (by simp) (by simp), frame.aic (by simp) (by simp),
      frame.flg (by simp), others, fun none_ => ?_, fun some_ => ?_⟩
    · exact (State.setTx_tx ..).trans ((if_pos rfl).trans (congrArg (· ++ _) tx))
    · obtain ⟨state, reason, outcome⟩ := closing none_
      exact ⟨state, reason, outcome, (closes none_).2⟩
    · obtain ⟨outcome, same⟩ := standing some_
      obtain ⟨-, own, live, events, wave⟩ := stands some_
      obtain ⟨rfl, rfl⟩ := Prod.mk.inj same
      exact ⟨outcome, rfl, own, live, events, fun w hw hx => wave _ w (if_neg hw) hx⟩

end Sys2Proof.Machine
end
section
/-! A job taken back from its crane by a CANCEL: the WITHDRAW, and the other jobs of the unit left without a step
(R52, R60, R130). -/

namespace Sys2Proof.Machine

variable {s t u : State} {a : AisleId} {c d : CraneId} {e : End} {g h : Handle} {j k : Job} {l : OrderLink} {b : CellAddr}
  {w : WorkUnit} {keep : Nat}

/-! ## Jobs that return to READY, and the cells -/

theorem returnToReady_cells (hw : MapWf s) (hk : s.job? g = some k) (c : CraneId) (b : CellAddr) :
    (s.returnToReady c g).cell b = if k.pickCell = some b then (s.cell b).releasedBy g else s.cell b := by
  have first := returning_frame s k g
  rw [returnToReady_eq hk]
  have last : Frame [.credit, .events] ((s.returning k g).release? k.pickCell g)
      ((((s.returning k g).release? k.pickCell g).updBound c k Credit.unbind).becameReady k) :=
    ((Frame.refl _ _).updBound c k _ (by simp)).becameReady k (by simp)
  rw [last.cell (by simp) (by simp), releaseOpt_cells (mapWf_of_cmp (first.cmp (by simp) (by simp)) hw),
    first.cell (by simp) (by simp)]

/-- A cell that no job of a list holds stands while they return. -/
theorem each_returnToReady_cell (c : CraneId) (gs : List Handle) (hw : MapWf s)
    (hb : ∀ g ∈ gs, (s.cell b).releasedBy g = s.cell b) :
    (s.each gs fun s g => s.returnToReady c g).cell b = s.cell b := by
  induction gs generalizing s with
  | nil => rfl
  | cons g gs ih =>
    have here : (s.returnToReady c g).cell b = s.cell b := by
      cases hk : s.job? g with
      | none =>
        unfold State.returnToReady
        rw [hk]
      | some k =>
        rw [returnToReady_cells hw hk, hb g List.mem_cons_self]
        exact ite_self _
    have wf : MapWf (s.returnToReady c g) := ((Changes.refl s).returnToReady c g).mapWf hw
    refine (ih wf fun i hi => ?_).trans here
    rw [here]
    exact hb i (List.mem_cons_of_mem g hi)

/-- A retrieve among the jobs that return gives up its candidate (R52). -/
theorem each_returnToReady_freed {x : Sys2Proof.Class} (c : CraneId) (gs : List Handle) (hw : MapWf s) (hg : g ∈ gs)
    (hk : s.job? g = some k) (kind : k.kind = .retrieve) (chosen : k.chosen = some b)
    (hb : (s.cell b).state = .outReserved g x) :
    (s.each gs fun s g => s.returnToReady c g).cell b = { s.cell b with state := .full x } := by
  have held : ∀ i, i ≠ g → (s.cell b).releasedBy i = s.cell b := fun i hi => by
    simp [Cell.releasedBy, hb, Ne.symm hi]
  induction gs generalizing s k with
  | nil => cases hg
  | cons i gs ih =>
    show ((s.returnToReady c i).each gs fun s g => s.returnToReady c g).cell b = _
    have wf : MapWf (s.returnToReady c i) := ((Changes.refl s).returnToReady c i).mapWf hw
    by_cases hi : i = g
    · subst hi
      have freed : (s.returnToReady c i).cell b = { s.cell b with state := .full x } := by
        rw [returnToReady_cells hw hk, if_pos (by simp [Job.pickCell, kind, chosen])]
        simp [Cell.releasedBy, hb]
      rw [each_returnToReady_cell c gs wf fun q _ => by rw [freed]; rfl, freed]
    · have stands : (s.returnToReady c i).cell b = s.cell b := by
        have one := each_returnToReady_cell c [i] hw (b := b) fun q hq => by
          rw [List.mem_singleton.mp hq]
          exact held i hi
        exact one
      obtain ⟨-, other⟩ := returnToReady_records s c i g
      have later := other (Ne.symm hi)
      have mem : g ∈ gs := (List.mem_cons.mp hg).resolve_left (Ne.symm hi)
      have state : ((s.returnToReady c i).cell b).state = .outReserved g x := by rw [stands, hb]
      rw [hk] at later
      rw [← stands]
      rcases later with same | same
      · exact ih wf mem same kind chosen state fun q hq => by rw [stands]; exact held q hq
      · exact ih wf mem same kind chosen state fun q hq => by rw [stands]; exact held q hq

/-! ## The withdrawal -/

/-- The other jobs of a unit that no step kept is for. -/
def WorkUnit.leaving (w : WorkUnit) (keep : Nat) (h : Handle) : List Handle :=
  w.jobs.filter fun q => decide (q ≠ h) && !(w.steps.take keep).any fun x => decide (x.job = q)

theorem mem_leaving : g ∈ w.leaving keep h ↔ g ∈ w.jobs ∧ g ≠ h ∧ ∀ x ∈ w.steps.take keep, x.job ≠ g := by
  simp [WorkUnit.leaving]

/-- A cancelled job's crane has been sent WITHDRAW, and the jobs left without a step are READY (R52, R60, R130). -/
structure JobRecalled (s t : State) (c : CraneId) (h : Handle) (w : WorkUnit) (keep : Nat) : Prop where
  frame : Frame [.crane c, .cells, .jobs, .credit, .tx (.crane c), .events] s t
  crane : t.crane c = { s.crane c with
    unit := some (w.keeping keep), deadline := if keep < w.current then none else (s.crane c).deadline }
  tx : t.tx (.crane c) = s.tx (.crane c) ++ [.withdraw w.number keep]
  left : ∀ g ∈ w.leaving keep h, t.job? g = (s.job? g).map Job.returned
  kept : ∀ g, g ∉ w.leaving keep h → PartnerAtMost (s.job? g) (t.job? g)
  cell : MapWf s → ∀ b, (∀ g ∈ w.leaving keep h, (s.cell b).releasedBy g = s.cell b) → t.cell b = s.cell b
  freed : MapWf s → ∀ g ∈ w.leaving keep h, ∀ k b x, s.job? g = some k → k.kind = .retrieve → k.chosen = some b →
    (s.cell b).state = .outReserved g x → t.cell b = { s.cell b with state := .full x }

theorem withdrawJob_recalled (hu : (s.crane c).unit = some w) (h : Handle) :
    JobRecalled s (s.withdrawJob c h) c h w (s.cancelKeep c w h) := by
  have form : s.withdrawJob c h = (s.withdraw c (s.cancelKeep c w h)).each (w.leaving (s.cancelKeep c w h) h)
      fun s q => s.returnToReady c q := by
    unfold State.withdrawJob
    rw [hu]
    rfl
  rw [form]
  generalize s.cancelKeep c w h = keep
  have first := withdraw_withdrawn hu keep
  have changes := (Changes.refl s).withdraw c keep
  generalize s.withdraw c keep = m at *
  obtain ⟨frame, crane, tx⟩ := first
  have last := each_returnToReady_frame c (w.leaving keep h) m
  have cells : ∀ b, m.cell b = s.cell b := fun b => frame.cell (by simp) (by simp) b
  have jobs : ∀ g, m.job? g = s.job? g := fun g => frame.job? (by simp) g
  refine ⟨(frame.mono (by simp)).trans (last.mono (by simp)), (last.crane c (by simp)).trans crane,
    (last.tx _ (by simp)).trans tx, fun g hg => ?_, fun g hg => ?_, fun hw b hb => ?_, fun hw g hg k b x hk kind chosen hb => ?_⟩
  · rw [(each_returnToReady_records c _ m g).1 hg, jobs]
  · rw [← jobs]
    exact (each_returnToReady_records c _ m g).2 hg
  · rw [each_returnToReady_cell c _ (changes.mapWf hw) (fun g hg => by rw [cells]; exact hb g hg), cells]
  · rw [each_returnToReady_freed c _ (changes.mapWf hw) hg ((jobs g).trans hk) kind chosen (by rw [cells]; exact hb), cells]

end Sys2Proof.Machine
end
section
/-! The closing of a cancelled job, with the job that is cancelled with it: what it leaves of the other cranes and of the
other jobs (R56 to R58, R99). -/

namespace Sys2Proof.Machine

variable {s t u : State} {a b : AisleId} {c d : CraneId} {e e' : End} {f : Credit → Credit} {g h : Handle} {j k x : Job}
  {l : OrderLink} {o : JobOutcome}

/-! ## What a crane and a job keep -/

/-- The geometry of the aisles stands. -/
def SameGeometry (s t : State) : Prop := ∀ a, (t.profile? a).map (·.geo) = (s.profile? a).map (·.geo)

theorem Frame.geometry {ps : List Part} (hf : Frame ps s t) (hp : Part.rest ∉ ps) : SameGeometry s t := by
  obtain ⟨-, -, -, -, -, -, -, geo⟩ := hf .rest hp
  exact geo

theorem SameGeometry.parkEnd (hg : SameGeometry s t) : t.parkEnd = s.parkEnd := by
  have read : ∀ (x : State) (a : AisleId) (e : End), x.parkEnd a e = (((x.profile? a).map (·.geo)).map (·.parkEnd e)).getD 0 := by
    intro x a e
    unfold State.parkEnd
    cases x.profile? a <;> rfl
  funext a e
  rw [read, read, hg]

/-- A crane's bay is read from its recorded position, its mapping and the geometry. -/
theorem SameGeometry.craneBay (hg : SameGeometry s t) (hb : (t.crane d).bay = (s.crane d).bay)
    (hl : (t.crane d).level = (s.crane d).level) (hk : (t.crane d).known = (s.crane d).known)
    (hm : (t.crane d).mapping = (s.crane d).mapping) : t.craneBay d = s.craneBay d := by
  have ends : t.stationPoint = s.stationPoint := by
    funext b f
    simp only [State.stationPoint, hg.parkEnd]
  unfold State.craneBay State.cranePoint
  rw [hb, hl, hk, hm, ends]

theorem SameGeometry.stepBays (hg : SameGeometry s t) (xs : List Step) : t.stepBays xs = s.stepBays xs := by
  have place : t.placePoint = s.placePoint := by
    funext q
    unfold State.placePoint
    split
    · rfl
    · simp only [State.stationPoint, hg.parkEnd]
  simp only [State.stepBays, place]

theorem SameGeometry.parkWidened (hg : SameGeometry s t) (hm : (t.crane d).mapping = (s.crane d).mapping) (y : CraneState) :
    t.parkWidened d y = s.parkWidened d y := by
  funext i
  unfold State.parkWidened
  rw [hm, hg.parkEnd]

/-- What an event does not do to a crane. -/
structure SparesCrane (d : CraneId) (s t : State) : Prop where
  crane : t.crane d = s.crane d
  tx : t.tx (.crane d) = s.tx (.crane d)
  owed : t.parkOwed d = s.parkOwed d
  interval : IntervalIs s t d id
  geometry : SameGeometry s t

theorem SparesCrane.refl (s : State) : SparesCrane d s s :=
  ⟨rfl, rfl, rfl, .of_rail rfl fun _ => rfl, fun _ => rfl⟩

theorem SparesCrane.trans (h : SparesCrane d s t) (k : SparesCrane d t u) : SparesCrane d s u :=
  ⟨k.crane.trans h.crane, k.tx.trans h.tx, k.owed.trans h.owed, h.interval.trans k.interval,
    fun a => (k.geometry a).trans (h.geometry a)⟩

theorem SparesCrane.of_frame {ps : List Part} (hf : Frame ps s t) (hc : Part.crane d ∉ ps) (ht : Part.tx (.crane d) ∉ ps)
    (ho : Part.parkOwed ∉ ps) (hr : Part.rail ∉ ps) (hp : Part.rest ∉ ps) : SparesCrane d s t where
  crane := hf.crane d hc
  tx := hf.tx _ ht
  owed := congrArg (fun v : Vector Bool 12 => v[d]) (hf .parkOwed ho)
  interval := .of_rail (by rw [hf.crane d hc]) fun b => congrArg (·[b]) (hf .rail hr)
  geometry := hf.geometry hp

/-- A record that keeps its state and its crane, and at most loses its partner. -/
def SparedJob (y z : Option Job) : Prop :=
  ∃ f : Job → Job, z = y.map f ∧ ∀ i, (f i).state = i.state ∧ (f i).unit = i.unit ∧ ((f i).partner = i.partner ∨ (f i).partner = none)

theorem SparedJob.of_eq {y z : Option Job} (h : z = y) : SparedJob y z :=
  ⟨id, by rw [h, Option.map_id, id], fun _ => ⟨rfl, rfl, .inl rfl⟩⟩

theorem SparedJob.of_map {y z : Option Job} (f : Job → Job) (h : z = y.map f)
    (hf : ∀ i, (f i).state = i.state ∧ (f i).unit = i.unit ∧ ((f i).partner = i.partner ∨ (f i).partner = none)) :
    SparedJob y z := ⟨f, h, hf⟩

theorem SparedJob.trans {y z w : Option Job} (h : SparedJob y z) (k : SparedJob z w) : SparedJob y w := by
  obtain ⟨f, rfl, hf⟩ := h
  obtain ⟨f', rfl, hf'⟩ := k
  refine ⟨f' ∘ f, by rw [Option.map_map], fun i => ?_⟩
  obtain ⟨state, unit, partner⟩ := hf i
  obtain ⟨state', unit', partner'⟩ := hf' (f i)
  refine ⟨state'.trans state, unit'.trans unit, ?_⟩
  rcases partner' with p | p
  · rcases partner with q | q
    · exact .inl (p.trans q)
    · exact .inr (p.trans q)
  · exact .inr p

theorem PartnerAtMost.spared {y z : Option Job} (h : PartnerAtMost y z) : SparedJob y z := by
  rcases h with h | h
  · exact .of_eq h
  · exact .of_map _ h fun _ => ⟨rfl, rfl, .inr rfl⟩

theorem withdrawRedirect_spared (s : State) (c : CraneId) (g : Handle) : SparedJob (s.job? g) ((s.withdrawRedirect c).job? g) := by
  cases hr : (s.crane c).redirect with
  | none =>
    rw [withdrawRedirect_none hr]
    exact .of_eq rfl
  | some y =>
    refine .of_map _ ((withdrawRedirect_withdrawn hr).job g) fun i => ?_
    split <;> exact ⟨rfl, rfl, .inl rfl⟩

/-- A job that enters CLOSING takes its partner's name for it (R42). -/
theorem closeStart_partner (s : State) (o : JobOutcome) (moved : Bool) (f : Credit → Credit) (hg : g ≠ h) :
    PartnerAtMost (s.job? g) ((s.closeStart h o moved f).job? g) := by
  cases hj : s.job? h with
  | none =>
    unfold State.closeStart
    rw [hj]
    exact .inl rfl
  | some j =>
    have last : Frame [.cells, .events] (s.closedRecord j h o moved)
        (((s.closedRecord j h o moved).release? j.chosen h).release? j.target h) :=
      ((Frame.refl _ _).release_q _ h (by simp)).release_q _ h (by simp)
    rw [closeStart_eq hj, (closedCredit_frame _ j f).job? (by simp), last.job? (by simp)]
    exact (dropPartner_job s j g).trans (.inl (updJob_other hg _ _))

theorem clearWaits_spared (s : State) (x : Job) (g : Handle) : SparedJob (s.job? g) ((s.clearWaits x).job? g) := by
  unfold State.clearWaits
  cases x.served with
  | none => exact .of_eq rfl
  | some q =>
    dsimp only
    rw [updJob_job_map]
    by_cases hq : g = q
    · subst hq
      rw [if_pos rfl]
      refine .of_map _ rfl fun i => ?_
      split <;> exact ⟨rfl, rfl, .inl rfl⟩
    · rw [if_neg hq]
      exact .of_eq rfl

theorem cancelRelocation_spared (s : State) (hg : g ≠ x.handle) : SparedJob (s.job? g) ((s.cancelRelocation x).job? g) := by
  have first : SparedJob (s.job? g) ((s.promiseWithdrawn x).job? g) := by
    unfold State.promiseWithdrawn
    cases x.promised with
    | none => exact .of_eq rfl
    | some u => exact withdrawRedirect_spared s u.crane g
  rw [cancelRelocation_eq]
  exact (first.trans (.of_eq ((unitWithdrawn_frame _ x).job? (by simp) g))).trans
    ((closeStart_partner _ _ _ _ hg).spared.trans (clearWaits_spared _ x g))

theorem finishUnit_spared (s : State) (c : CraneId) (g : Handle) : SparedJob (s.job? g) ((s.finishUnit c).job? g) := by
  refine .of_map _ (finishUnit_job s c g) fun i => ?_
  split <;> exact ⟨rfl, rfl, .inl rfl⟩

/-! ## The end of another crane's unit -/

theorem settled_parkOwed (s : State) (a : AisleId) (p q : Prop) [Decidable p] [Decidable q] :
    (s.settled a p q).aic.parkOwed = s.aic.parkOwed := settled_frame s a p q .parkOwed (by simp)

theorem entering_parkOwed (s : State) (target : CraneState) (hd : d ≠ c) :
    (s.entering c target).parkOwed d = s.parkOwed d := by
  have left : Frame [.crane c, .rail, .holdBack, .events] s
      (if (s.crane c).state = .waiting ∧ (s.crane c).destination target ≠ .waiting
        then (s.setCrane c ((s.crane c).entering target)).leaveWaiting c
        else s.setCrane c ((s.crane c).entering target)) := by
    have first : Frame [.crane c, .rail, .holdBack, .events] s (s.setCrane c ((s.crane c).entering target)) :=
      (Frame.refl _ s).setCrane c _ (by simp)
    exact (first.leaveWaiting c (by simp)).ite first
  have owed := congrArg (fun v : Vector Bool 12 => v[d]) (left .parkOwed (by simp))
  unfold State.entering
  dsimp only
  split
  · exact owed
  · exact (Vector.getElem_set_ne c.isLt d.isLt fun e => hd (Fin.ext e.symm)).trans owed

theorem enterState_parkOwed (s : State) (target : CraneState) (hd : d ≠ c) :
    (s.enterState c target).parkOwed d = s.parkOwed d := by
  cases hm : (s.crane c).mapping with
  | none =>
    rw [enterState_unmapped hm]
    exact entering_parkOwed s target hd
  | some m =>
    rw [enterState_mapped (a := m.1) (e := m.2) hm]
    exact (congrArg (fun v : Vector Bool 12 => v[d]) (settled_parkOwed ..)).trans (entering_parkOwed s target hd)

theorem go_parkOwed (s : State) (park : Bool) (hd : d ≠ c) : (s.go c park).parkOwed d = s.parkOwed d := by
  have same : ∀ {ps : List Part} {q : State}, Frame ps s q → Part.parkOwed ∉ ps → q.parkOwed d = s.parkOwed d :=
    fun hf hp => congrArg (fun v : Vector Bool 12 => v[d]) (hf .parkOwed hp)
  have back : Frame [.crane c, .events] s (s.leaveBackoff c) := (Frame.refl _ s).leaveBackoff c (by simp)
  unfold State.go
  split
  · unfold State.sendPark
    dsimp only
    split
    · exact (enterState_parkOwed _ _ hd).trans (same back (by simp))
    · refine (enterState_parkOwed _ _ hd).trans (same (ps := [.crane c, .rail, .tx (.crane c), .events]) ?_ (by simp))
      exact ((back.mono (by simp)).tellPark c (by simp)).startParkTimer c (by simp)
  · exact enterState_parkOwed s .idle hd

theorem finishUnit_parkOwed (s : State) (hd : d ≠ c) : (s.finishUnit c).parkOwed d = s.parkOwed d := by
  have form : s.finishUnit c = (s.endUnit c).go c ((s.endUnit c).parkOwed c) := goIdle_eq _ c
  rw [form, go_parkOwed _ _ hd]
  exact congrArg (fun v : Vector Bool 12 => v[d]) ((endUnit_ended s c).frame .parkOwed (by simp))

theorem finishUnit_spares (hm : (s.crane c).mapping = some (a, e)) (hs : (s.crane c).state ∈ [CraneState.offered, .working])
    (hd : d ≠ c) (hn : (s.crane d).mapping ≠ some (a, e)) : SparesCrane d s (s.finishUnit c) := by
  have goes := finishUnit_over hm hs
  have crane : (s.finishUnit c).crane d = s.crane d := goes.frame.crane d (by simp [hd])
  refine ⟨crane, goes.frame.tx _ (by simp [hd]), finishUnit_parkOwed s hd, ?_, goes.frame.geometry (by simp)⟩
  cases hb : (s.crane d).mapping with
  | none => exact .of_unmapped hb (by rw [crane, hb])
  | some m =>
    refine goes.moves.other (b := m.1) (e' := m.2) hb (by rw [crane, hb]) fun same => hn ?_
    rw [hb, show m = (a, e) from same]

/-! ## The closing -/

/-- The job that is cancelled with one that closes: with a retrieve, the one it waits for (R56 step 4). -/
def State.alsoCancelled (s : State) (k : Job) : Option Job := if k.kind = .retrieve then s.cancelledWith k else none

def State.alsoCancel (s : State) (y : Option Job) : State := y.elim s s.cancelRelocation

/-- A store or a retrieve closes as one. -/
theorem close_eq (hj : s.job? h = some k) (hk : k.kind ≠ .relocate) (o : JobOutcome) (f : Credit → Credit) :
    ∃ f', s.close h o false f = ((s.closeStart h o false f').alsoCancel (s.alsoCancelled k)).closeRetrieveEnd h
      (s.alsoCancelled k) := by
  unfold State.alsoCancelled
  cases kind : k.kind with
  | store => exact ⟨id, by simp only [State.close, hj, kind, reduceCtorEq, if_false]; rfl⟩
  | retrieve =>
    refine ⟨f, ?_⟩
    simp only [State.close, hj, kind, if_true]
    cases hc : s.cancelledWith k with
    | none => exact closeRetrieve_lone hj hc o f
    | some x => exact closeRetrieve_with hj hc o f
  | relocate => exact absurd kind hk

theorem cancelRelocation_crane (s : State) (x : Job) (d : CraneId) :
    ((s.cancelRelocation x).crane d).mapping = (s.crane d).mapping
      ∧ ((s.cancelRelocation x).crane d).state = (s.crane d).state := by
  have first : ((s.promiseWithdrawn x).crane d).mapping = (s.crane d).mapping
      ∧ ((s.promiseWithdrawn x).crane d).state = (s.crane d).state := by
    unfold State.promiseWithdrawn
    cases x.promised with
    | none => exact ⟨rfl, rfl⟩
    | some u =>
      obtain ⟨⟨o, crane⟩, -⟩ := withdrawRedirect_leaves s u.crane
      exact cranes_stand (c := u.crane)
        ((Frame.refl [.crane u.crane, .cells, .jobs, .credit, .tx (.crane u.crane), .events] s).withdrawRedirect u.crane (by simp))
        (by simp) (by rw [crane]) (by rw [crane]) d
  have second : (((s.promiseWithdrawn x).unitWithdrawn x).crane d).mapping = ((s.promiseWithdrawn x).crane d).mapping
      ∧ (((s.promiseWithdrawn x).unitWithdrawn x).crane d).state = ((s.promiseWithdrawn x).crane d).state := by
    unfold State.unitWithdrawn
    cases x.unit with
    | none => exact ⟨rfl, rfl⟩
    | some u =>
      dsimp only
      generalize s.promiseWithdrawn x = m
      cases hu : (m.crane u.crane).unit with
      | none =>
        have stays : m.withdraw u.crane 0 = m := by
          unfold State.withdraw
          rw [hu]
        rw [stays]
        exact ⟨rfl, rfl⟩
      | some w =>
        have done := withdraw_withdrawn hu 0
        exact cranes_stand (c := u.crane) done.frame (by simp) (by rw [done.crane]) (by rw [done.crane]) d
  have last : Frame [.cells, .jobs, .credit, .events] ((s.promiseWithdrawn x).unitWithdrawn x) (s.cancelRelocation x) := by
    rw [cancelRelocation_eq]
    exact ((Frame.refl _ _).closeStart _ _ _ _ (by simp)).clearWaits x (by simp)
  rw [last.crane d (by simp)]
  exact ⟨second.1.trans first.1, second.2.trans first.2⟩

/-- The job cancelled with another is on no crane in the way of `d`. -/
structure ApartFrom (s : State) (d : CraneId) (x : Job) : Prop where
  promised : ∀ u, x.promised = some u → u.crane ≠ d
  unit : ∀ u, x.unit = some u → u.crane ≠ d ∧ (s.crane u.crane).state ∈ [CraneState.offered, .working]
    ∧ ∃ a e, (s.crane u.crane).mapping = some (a, e) ∧ (s.crane d).mapping ≠ some (a, e)

/-- What a closing does not do to another crane. -/
theorem close_sparesCrane (s : State) (h : Handle) (o : JobOutcome) (f : Credit → Credit) (y : Option Job)
    (apart : ∀ x, y = some x → ApartFrom s d x) :
    SparesCrane d s (((s.closeStart h o false f).alsoCancel y).closeRetrieveEnd h y) := by
  have first : SparesCrane d s (s.closeStart h o false f) :=
    .of_frame (ps := [.cells, .jobs, .credit, .events]) ((Frame.refl _ s).closeStart h o false f (by simp)) (by simp) (by simp)
      (by simp) (by simp) (by simp)
  have closes : Frame [.cells, .jobs, .credit, .events] s (s.closeStart h o false f) :=
    (Frame.refl _ s).closeStart h o false f (by simp)
  have offer : ∀ (q : State) (i : Handle), SparesCrane d q (q.offerClosing i) := fun q i =>
    .of_frame (ps := [.jobs, .pool, .waves, .queue, .events]) ((Frame.refl _ q).offerClosing i (by simp)) (by simp) (by simp)
      (by simp) (by simp) (by simp)
  generalize s.closeStart h o false f = m at *
  cases y with
  | none => exact first.trans (offer m h)
  | some x =>
    obtain ⟨promised, unit⟩ := apart x rfl
    have second : SparesCrane d m (m.cancelRelocation x) := by
      refine .of_frame (cancelRelocation_frame m x) ?_ ?_ ?_ ?_ ?_
      · simp only [List.mem_append, mem_craneParts, not_or, not_exists, not_and]
        exact ⟨⟨fun u hu => ⟨by simpa using (promised u hu).symm, by simp⟩, fun u hu => ⟨by simpa using (unit u hu).1.symm, by simp⟩⟩,
          by simp⟩
      · simp only [List.mem_append, mem_craneParts, not_or, not_exists, not_and]
        exact ⟨⟨fun u hu => ⟨by simp, by simpa using (promised u hu).symm⟩, fun u hu => ⟨by simp, by simpa using (unit u hu).1.symm⟩⟩,
          by simp⟩
      · simp
      · simp
      · simp
    have cranes := cancelRelocation_crane m x
    have before := first.trans (second.trans ((offer _ h).trans (offer _ x.handle)))
    have last : Frame [.jobs, .pool, .waves, .queue, .events] (m.cancelRelocation x)
        (((m.cancelRelocation x).offerClosing h).offerClosing x.handle) :=
      ((Frame.refl _ _).offerClosing h (by simp)).offerClosing x.handle (by simp)
    rw [show m.alsoCancel (some x) = m.cancelRelocation x from rfl, closeRetrieveEnd_with]
    unfold State.unitFinished
    cases hu : x.unit with
    | none => exact before
    | some u =>
      obtain ⟨ne, state, b, e, hm, hn⟩ := unit u hu
      refine before.trans (finishUnit_spares (a := b) (e := e) ?_ ?_ ne.symm ?_)
      · rw [last.crane _ (by simp), (cranes _).1, closes.crane _ (by simp)]
        exact hm
      · rw [last.crane _ (by simp), (cranes _).2, closes.crane _ (by simp)]
        exact state
      · rw [last.crane _ (by simp), (cranes _).1, closes.crane _ (by simp)]
        exact hn

/-- What a closing does not do to another job. -/
theorem close_sparedJob (s : State) (o : JobOutcome) (f : Credit → Credit) (y : Option Job) (hg : g ≠ h)
    (apart : ∀ x, y = some x → g ≠ x.handle) :
    SparedJob (s.job? g) ((((s.closeStart h o false f).alsoCancel y).closeRetrieveEnd h y).job? g) := by
  have first := (closeStart_partner s o false f hg).spared
  generalize s.closeStart h o false f = m at *
  cases y with
  | none => exact first.trans (.of_eq (offerClosing_others m hg))
  | some x =>
    have hx := apart x rfl
    have before := first.trans ((cancelRelocation_spared m hx).trans ((SparedJob.of_eq (offerClosing_others _ hg)).trans
      (.of_eq (offerClosing_others _ hx))))
    rw [show m.alsoCancel (some x) = m.cancelRelocation x from rfl, closeRetrieveEnd_with]
    unfold State.unitFinished
    cases x.unit with
    | none => exact before
    | some u => exact before.trans (finishUnit_spared _ u.crane g)

/-- The cells that are free, or that the closing job frees, stay so. -/
theorem close_unwinds (s : State) (h : Handle) (o : JobOutcome) (f : Credit → Credit) (y : Option Job) :
    Unwinds none (s.closeStart h o false f) (((s.closeStart h o false f).alsoCancel y).closeRetrieveEnd h y) := by
  refine Unwinds.trans ?_ (.closeRetrieveEnd _ h y)
  cases y with
  | none => exact .refl _
  | some x => exact .cancelRelocation _ (by simp)

end Sys2Proof.Machine
end
section
/-! CANCEL (O35): its refusals, and what the closing of the job leaves of its crane, of the other jobs of the unit and of the
relocation that serves it. -/

namespace Sys2Proof.Machine

variable {s t m : State} {a : AisleId} {c d : CraneId} {e : End} {g h q : Handle} {j k r x : Job} {l : OrderLink} {b : CellAddr}
  {w : WorkUnit} {u : UnitRef} {keep : Nat}

/-! ## The job to be cancelled -/

/-- A store or a retrieve of an order link that is neither LOADED nor CLOSING and that no redirect stands before (R59). -/
structure Cancelling (s : State) (h : Handle) (j : Job) (l : OrderLink) : Prop where
  laws : Lawful s
  work : WorkLawful s
  job : s.job? h = some j
  handle : j.handle = h
  kind : j.kind ≠ .relocate
  origin : j.origin = .order l
  notClosing : j.state ≠ .closing
  notLoaded : j.state ≠ .loaded
  unpromised : j.promised = none
  unblocked : ∀ u, j.unit = some u → (s.crane u.crane).redirect = none

/-- The state in which the job's crane has been sent WITHDRAW. -/
def State.recalledFrom (s : State) (j : Job) : State :=
  match j.unit with
  | some u => s.withdrawJob u.crane j.handle
  | none => s

/-- What follows the closing at the job's crane. -/
def State.sentOn (s : State) (j : Job) : State :=
  match j.unit with
  | some u => s.afterWithdraw u.crane
  | none => s

/-- The effects of an accepted CANCEL but those on a matched pallet. -/
def State.cancelled (s : State) (j : Job) : State :=
  ((s.recalledFrom j).close j.handle .cancelled false Credit.unbind).sentOn j

theorem cancelJob_eq (s : State) (j : Job) : s.cancelJob j = (s.unmatch j).cancelled j := by
  unfold State.cancelJob State.cancelled State.recalledFrom State.sentOn
  cases j.unit <;> rfl

/-- The units of the laws that a cancelled job's crane is found with (R50, R51). -/
theorem Cancelling.unit (hc : Cancelling s h j l) (hu : j.unit = some u) : ∃ w, (s.crane u.crane).unit = some w
    ∧ h ∈ w.jobs := by
  obtain ⟨w, hw, -, mem⟩ := (hc.work.unit.2 j (mem_jobs_of_job? hc.job)).2 u hu
  rw [hc.handle] at mem
  exact ⟨w, hw, mem⟩

/-- The crane of a job at work that is not LOADED is OFFERED or WORKING, and mapped (R51, R127). -/
theorem crane_of_unit (work : WorkLawful s) (hg : s.job? q = some k) (hh : k.handle = q) (hl : k.state ≠ .loaded)
    (hu : k.unit = some u) : (s.crane u.crane).state ∈ [CraneState.offered, .working]
      ∧ ∃ a e, (s.crane u.crane).mapping = some (a, e) := by
  obtain ⟨w, hw, -, mem⟩ := (work.unit.2 k (mem_jobs_of_job? hg)).2 u hu
  obtain ⟨unmapped, states⟩ := work.crane u.crane
  have state : (s.crane u.crane).state ∈ [CraneState.offered, .working] := by
    cases hc : (s.crane u.crane).state with
    | offered | working => simp
    | faulted =>
      rw [hc] at states
      obtain ⟨i, z, jobs, hi, loaded, -⟩ := states w hw
      rw [jobs, List.mem_singleton, hh] at mem
      rw [← mem] at hi
      obtain rfl := Option.some.inj (hg.symm.trans hi)
      exact absurd loaded hl
    | absent | idle | waiting | parking | parked | clearing | backoff | outOfService =>
      rw [hc] at states
      exact absurd (hw.symm.trans states) (by simp)
  refine ⟨state, ?_⟩
  cases hm : (s.crane u.crane).mapping with
  | none =>
    rw [unmapped hm] at state
    simp at state
  | some y => exact ⟨y.1, y.2, rfl⟩

/-! ## The crane's part of it -/

/-- What the WITHDRAW, where there is one, leaves of the job's record, of the cells and of the rest. -/
structure RecalledFrom (s t : State) (h : Handle) (j : Job) : Prop where
  frame : Frame (craneParts j.unit ++ [.cells, .jobs, .credit, .events]) s t
  own : ∃ y, t.job? h = some { j with partner := y }
  other : ∀ g, (∀ u, j.unit = some u → g ∉ (s.crane u.crane).jobs) → PartnerAtMost (s.job? g) (t.job? g)
  cell : ∀ b, (∀ u, j.unit = some u → ∀ g ∈ (s.crane u.crane).jobs, g ≠ h → (s.cell b).releasedBy g = s.cell b) →
    t.cell b = s.cell b
  wf : MapWf t

theorem Cancelling.recalled (hc : Cancelling s h j l) : RecalledFrom s (s.recalledFrom j) h j := by
  have wf : MapWf (s.recalledFrom j) := by
    unfold State.recalledFrom
    cases j.unit with
    | none => exact hc.laws.map
    | some u => exact ((Changes.refl s).withdrawJob u.crane j.handle).mapWf hc.laws.map
  cases hu : j.unit with
  | none =>
    have form : s.recalledFrom j = s := by
      unfold State.recalledFrom
      rw [hu]
    rw [form] at wf ⊢
    exact ⟨.refl _ s, ⟨j.partner, hc.job⟩, fun g _ => .inl rfl, fun b _ => rfl, wf⟩
  | some u =>
    obtain ⟨w, hw, mem⟩ := hc.unit hu
    have form : s.recalledFrom j = s.withdrawJob u.crane h := by
      unfold State.recalledFrom
      rw [hu, hc.handle]
    rw [form] at wf ⊢
    have done := withdrawJob_recalled hw h
    have jobs : (s.crane u.crane).jobs = w.jobs := by
      unfold Crane.jobs
      rw [hw]
    refine ⟨?_, ?_, fun g hg => done.kept g fun hm => ?_, fun b hb => done.cell hc.laws.map b fun g hg => ?_, wf⟩
    · rw [hu]
      exact done.frame.mono (by simp [craneParts])
    · rcases done.kept h (fun hm => (mem_leaving.mp hm).2.1 rfl) with same | same
      · exact ⟨j.partner, same.trans hc.job⟩
      · exact ⟨none, by rw [same, hc.job]; rfl⟩
    · exact hg u hu (jobs ▸ (mem_leaving.mp hm).1)
    · obtain ⟨mem, ne, -⟩ := mem_leaving.mp hg
      exact hb u hu g (jobs ▸ mem) ne

/-! ## What follows the closing at the crane -/

theorem Unwinds.sentOn {y : Option Handle} (s : State) (j : Job) : Unwinds y s (s.sentOn j) := by
  unfold State.sentOn
  cases j.unit with
  | none => exact .refl s
  | some u => exact .ite (.finishUnit s u.crane) (.ite (.fall s u.crane _) (.refl s))

theorem sentOn_frame (s : State) (j : Job) : Frame (craneParts j.unit ++ [.rail, .holdBack, .parkOwed, .holds, .profiles,
    .cells, .jobs, .credit, .queue, .events]) s (s.sentOn j) := by
  unfold State.sentOn
  cases j.unit with
  | none => exact .refl _ s
  | some u => exact (Frame.refl _ s).afterWithdraw u.crane (by simp [craneParts])

theorem sentOn_grows (s : State) (j : Job) : QueuesGrow s (s.sentOn j) := by
  unfold State.sentOn
  cases j.unit with
  | none => exact .refl s
  | some u => exact ((Changes.refl s).afterWithdraw u.crane).queue_grows

theorem sentOn_spared (s : State) (j : Job) (g : Handle) : SparedJob (s.job? g) ((s.sentOn j).job? g) := by
  unfold State.sentOn
  cases j.unit with
  | none => exact .of_eq rfl
  | some u =>
    dsimp only
    unfold State.afterWithdraw
    split
    · exact finishUnit_spared s u.crane g
    · split
      · exact .of_eq (((Frame.refl [.rail, .events] s).fall u.crane _ (by simp)).job? (by simp) g)
      · exact .of_eq rfl

theorem ClosedFirst.later {t' : State} {n : Notice} {o : JobOutcome} (hf : ClosedFirst s t h l n o) (unwinds : Unwinds (some h) t t')
    (grows : QueuesGrow t t') (wait : t'.jpl.closingWait = t.jpl.closingWait) (spared : SparedJob (t.job? h) (t'.job? h)) :
    ClosedFirst s t' h l n o := by
  refine ⟨fun room => ?_, fun room => ?_⟩
  · obtain ⟨gone, more, queue⟩ := hf.placed room
    obtain ⟨more', grown⟩ := grows l
    obtain ⟨f, job, -⟩ := spared
    exact ⟨by rw [job, gone]; rfl, more ++ more', by rw [grown, queue, List.append_assoc]; rfl⟩
  · obtain ⟨⟨k, hk, state, outcome⟩, more, waits⟩ := hf.waits room
    obtain ⟨f, job, -⟩ := spared
    have there : t'.job? h = some (f k) := by rw [job, hk]; rfl
    obtain ⟨i, hi, -, closing⟩ := unwinds.job h _ there
    obtain rfl := Option.some.inj (hk.symm.trans hi)
    obtain ⟨state', outcome'⟩ := closing rfl state
    exact ⟨⟨_, there, state', outcome'.trans outcome⟩, more, by rw [wait, waits]⟩

/-! ## The notice of the job -/

theorem close_first (hl : HandleLaw s) (hj : s.job? h = some k) (hk : k.kind ≠ .relocate) (ho : k.origin = .order l)
    (hp : k.promised = none) (f : Credit → Credit) : ClosedFirst s (s.close h .cancelled false f) h l
      (k.closingNotice .cancelled false) .cancelled := by
  cases kind : k.kind with
  | store =>
    have form : s.close h .cancelled false f = (s.closeStart h .cancelled false id).closeRetrieveEnd h none := by
      simp only [State.close, hj, kind]
      rfl
    have closed : Frame [.cells, .jobs, .credit, .events] s (s.closeStart h .cancelled false id) :=
      (Frame.refl _ s).closeStart h .cancelled false id (by simp)
    have own := closeStart_own hj .cancelled false id
    rw [show s.owedLinks k = [l] by simp only [State.owedLinks, ho]] at own
    rw [form]
    exact closedFirst_of_offered (queue_congr closed (by simp) l) (closingWait_congr closed (by simp)) own rfl rfl rfl rfl none
  | retrieve =>
    have form : s.close h .cancelled false f = s.closeRetrieve h .cancelled f := by
      simp only [State.close, hj, kind]
    rw [form]
    exact closeRetrieve_first hl hj kind ho (fun _ _ _ => ⟨hp, rfl⟩) f
  | relocate => exact absurd kind hk

theorem Cancelling.first (hc : Cancelling s h j l) :
    ClosedFirst s (s.cancelled j) h l (j.closingNotice .cancelled false) .cancelled := by
  obtain ⟨frame, ⟨y, own⟩, -, -, -⟩ := hc.recalled
  have law : HandleLaw (s.recalledFrom j) := by
    unfold State.recalledFrom
    cases j.unit with
    | none => exact hc.laws.handle
    | some u => exact ((Changes.refl s).withdrawJob u.crane j.handle).handleLaw hc.laws.handle
  have closed := close_first (l := l) law own hc.kind hc.origin hc.unpromised Credit.unbind
  have first : ClosedFirst s ((s.recalledFrom j).close h .cancelled false Credit.unbind) h l (j.closingNotice .cancelled false)
      .cancelled := by
    have queue := queue_congr frame (by simp) l
    have wait := closingWait_congr frame (by simp)
    have room : (s.recalledFrom j).hasRoom l = s.hasRoom l := by simp only [State.hasRoom, queue]
    refine ⟨fun hr => ?_, fun hr => ?_⟩
    · have placed := closed.placed (room.trans hr)
      rwa [queue] at placed
    · have waits := closed.waits (room.trans hr)
      rwa [wait] at waits
  unfold State.cancelled
  rw [hc.handle]
  exact first.later (.sentOn _ j) (sentOn_grows _ j) (closingWait_congr (sentOn_frame _ j) (by simp)) (sentOn_spared _ j h)

theorem alsoCancelled_none (hw : k.waitsFor = none) (s : State) : s.alsoCancelled k = none := by
  unfold State.alsoCancelled
  rw [cancelledWith_none hw, ite_self]

/-- The closing of a job with which no other is cancelled. -/
theorem close_lone (hj : s.job? h = some k) (hk : k.kind ≠ .relocate) (hy : s.alsoCancelled k = none) (o : JobOutcome)
    (f : Credit → Credit) : ∃ f', s.close h o false f = (s.closeStart h o false f').offerClosing h := by
  obtain ⟨f', form⟩ := close_eq hj hk o f
  rw [hy] at form
  exact ⟨f', form⟩

/-- Without a relocation to cancel, the job is the last that waits for a place. -/
theorem Cancelling.waits (hc : Cancelling s h j l) (hw : j.waitsFor = none) (full : s.hasRoom l = false) :
    (s.cancelled j).jpl.closingWait.get l = s.jpl.closingWait.get l ++ [h] := by
  obtain ⟨frame, ⟨y, own⟩, -, -, -⟩ := hc.recalled
  have last := closingWait_congr (sentOn_frame ((s.recalledFrom j).close j.handle .cancelled false Credit.unbind) j) (by simp)
  unfold State.cancelled
  rw [last, hc.handle]
  generalize s.recalledFrom j = m at *
  obtain ⟨f, form⟩ := close_lone (k := { j with partner := y }) own hc.kind (alsoCancelled_none (k := { j with partner := y }) hw m)
    .cancelled Credit.unbind
  have closed : Frame [.cells, .jobs, .credit, .events] m (m.closeStart h .cancelled false f) :=
    (Frame.refl _ m).closeStart h .cancelled false f (by simp)
  have queue := queue_congr (frame.trans (closed.mono (by simp))) (by simp) l
  have record := closeStart_own own .cancelled false f
  rw [show m.owedLinks { j with partner := y } = [l] by simp only [State.owedLinks, hc.origin]] at record
  obtain ⟨-, unplaced⟩ := offerClosing_one record rfl rfl
  obtain ⟨-, -, wait⟩ := unplaced (by simpa only [State.hasRoom, queue] using full)
  rw [form, wait, closingWait_congr closed (by simp), closingWait_congr frame (by simp)]

/-- A job on no crane that waits for no relocation. -/
theorem Cancelling.idle (hc : Cancelling s h j l) (hu : j.unit = none) (hw : j.waitsFor = none) :
    (s.cancelled j).crt = s.crt ∧ ∀ b, (s.cancelled j).cell b =
      if j.chosen = some b ∨ j.target = some b then (s.cell b).releasedBy h else s.cell b := by
  obtain ⟨f, closed⟩ := close_lone hc.job hc.kind (alsoCancelled_none hw s) .cancelled Credit.unbind
  have form : s.cancelled j = (s.closeStart h .cancelled false f).offerClosing h := by
    unfold State.cancelled State.recalledFrom State.sentOn
    simp only [hu, hc.handle]
    exact closed
  have start : Frame [.cells, .jobs, .credit, .events] s (s.closeStart h .cancelled false f) :=
    (Frame.refl _ s).closeStart h .cancelled false f (by simp)
  have last : Frame [.jobs, .pool, .waves, .queue, .events] (s.closeStart h .cancelled false f)
      ((s.closeStart h .cancelled false f).offerClosing h) := (Frame.refl _ _).offerClosing h (by simp)
  rw [form]
  refine ⟨?_, fun b => ?_⟩
  · rw [last.crt (by simp) (by simp) (by simp), start.crt (by simp) (by simp) (by simp)]
  · rw [last.cell (by simp) (by simp), closeStart_cells hc.laws.map hc.job]

/-! ## The cells -/

/-- What the job's closing finds, and what it leads to. -/
theorem Cancelling.closes (hc : Cancelling s h j l) : ∃ k f, (∃ y, k = { j with partner := y })
    ∧ (s.recalledFrom j).job? h = some k
    ∧ s.cancelled j = ((((s.recalledFrom j).closeStart h .cancelled false f).alsoCancel
        ((s.recalledFrom j).alsoCancelled k)).closeRetrieveEnd h ((s.recalledFrom j).alsoCancelled k)).sentOn j := by
  obtain ⟨-, ⟨y, own⟩, -, -, -⟩ := hc.recalled
  obtain ⟨f, form⟩ := close_eq (k := { j with partner := y }) own hc.kind .cancelled Credit.unbind
  refine ⟨_, f, ⟨y, rfl⟩, own, ?_⟩
  rw [← form]
  unfold State.cancelled
  rw [hc.handle]

/-- A cell that is free once the job has entered CLOSING stays so. -/
theorem Cancelling.stands {k : Job} {f : Credit → Credit} (hc : Cancelling s h j l)
    (form : s.cancelled j = ((((s.recalledFrom j).closeStart h .cancelled false f).alsoCancel
        ((s.recalledFrom j).alsoCancelled k)).closeRetrieveEnd h ((s.recalledFrom j).alsoCancelled k)).sentOn j)
    (hb : (((s.recalledFrom j).closeStart h .cancelled false f).cell b).state.isReserved = false) :
    (s.cancelled j).cell b = ((s.recalledFrom j).closeStart h .cancelled false f).cell b := by
  obtain ⟨-, -, -, -, wf⟩ := hc.recalled
  rw [form]
  generalize s.recalledFrom j = m at *
  have wf' := ((Changes.refl m).closeStart h .cancelled false f).mapWf wf
  exact (((close_unwinds m h .cancelled f _).trans (.sentOn _ j)).cell wf').2 b hb

/-- The cell the job holds is free again (R56). -/
theorem Cancelling.freed (hc : Cancelling s h j l) (hb : j.chosen = some b)
    (held : ∀ g, g ≠ h → (s.cell b).releasedBy g = s.cell b) (free : ((s.cell b).releasedBy h).state.isReserved = false) :
    (s.cancelled j).cell b = (s.cell b).releasedBy h := by
  obtain ⟨k, f, ⟨y, rfl⟩, hk, form⟩ := hc.closes
  obtain ⟨-, -, -, cell, wf⟩ := hc.recalled
  have now : ((s.recalledFrom j).closeStart h .cancelled false f).cell b = (s.cell b).releasedBy h := by
    rw [closeStart_cells wf hk, if_pos (.inl hb), cell b fun u _ g _ hg => held g hg]
  rw [hc.stands form (by rw [now]; exact free), now]

/-- The candidate of a partner left without a step is free again (R52). -/
theorem Cancelling.freedPartner {cls : Sys2Proof.Class} (hc : Cancelling s h j l) (hu : j.unit = some u)
    (hw : (s.crane u.crane).unit = some w) (hg : g ∈ w.leaving (s.cancelKeep u.crane w h) h) (hk : s.job? g = some k)
    (kind : k.kind = .retrieve) (chosen : k.chosen = some b) (hb : (s.cell b).state = .outReserved g cls) :
    (s.cancelled j).cell b = { s.cell b with state := .full cls } := by
  obtain ⟨i, f, ⟨y, rfl⟩, hi, form⟩ := hc.closes
  obtain ⟨-, -, -, -, wf⟩ := hc.recalled
  have back : (s.recalledFrom j).cell b = { s.cell b with state := .full cls } := by
    unfold State.recalledFrom
    rw [hu, hc.handle]
    exact (withdrawJob_recalled hw h).freed hc.laws.map g hg k b cls hk kind chosen hb
  have now : ((s.recalledFrom j).closeStart h .cancelled false f).cell b = { s.cell b with state := .full cls } := by
    rw [closeStart_cells wf hi, back]
    exact ite_self _
  rw [hc.stands form (by rw [now]; rfl), now]

/-! ## The relocation that serves the job -/

theorem cancelledWith_eq (hw : k.waitsFor = some q) (hr : s.job? q = some r) : s.cancelledWith k =
    if r.state ∈ [JobState.ready, .offered, .enRoute] then some r else none := by
  simp only [State.cancelledWith, hw, Option.bind_some, hr, Option.filter, List.mem_cons, List.not_mem_nil, or_false,
    decide_eq_true_eq]

theorem Serves.congr_cranes (hr : Serves s r h)
    (crane : ∀ u, r.unit = some u ∨ r.promised = some u → t.crane u.crane = s.crane u.crane)
    (hj : t.job? r.handle = s.job? r.handle) : Serves t r h := by
  obtain ⟨job, kind, served, origin, apart, partner, promised, unit⟩ := hr
  refine ⟨hj.trans job, kind, served, origin, apart, partner, fun u hu => ?_, fun u hu => ?_⟩
  · rw [crane u (.inr hu)]
    exact promised u hu
  · rw [crane u (.inl hu)]
    exact unit u hu

/-- What has been done to a relocation is read alike before what leaves its crane. -/
theorem RelocationCancelled.later {t' : State} {q : Job} (h : RelocationCancelled s t q r) (wf : MapWf t)
    (unwinds : Unwinds (some r.handle) t t') (grows : QueuesGrow t t')
    (crane : ∀ u, r.unit = some u ∨ r.promised = some u → t'.crane u.crane = t.crane u.crane
      ∧ t'.tx (.crane u.crane) = t.tx (.crane u.crane)) : RelocationCancelled s t' q r := by
  obtain ⟨gone, closing, source, target, unit, promise⟩ := h
  refine ⟨fun short => ?_, fun k hk => ?_, fun c k hc hs => ?_, fun c hc hs => ?_, fun u w hu hw => ?_, fun u x hu hx => ?_⟩
  · obtain ⟨none_, placed⟩ := gone short
    refine ⟨?_, fun l hl => ?_⟩
    · cases hk : t'.job? r.handle with
      | none => rfl
      | some k =>
        obtain ⟨i, hi, -⟩ := unwinds.job _ k hk
        rw [none_] at hi
        cases hi
    · obtain ⟨more, grown⟩ := grows l
      rw [grown]
      exact List.mem_append_left _ (placed l hl)
  · obtain ⟨i, hi, -, stays⟩ := unwinds.job _ k hk
    obtain ⟨state, outcome⟩ := closing i hi
    obtain ⟨state', outcome'⟩ := stays rfl state
    exact ⟨state', outcome'.trans outcome⟩
  · have freed := source c k hc hs
    rw [(unwinds.cell wf).2 c (by rw [freed]; rfl), freed]
  · have freed := target c hc hs
    rw [(unwinds.cell wf).2 c (by rw [freed]; rfl), freed]
  · obtain ⟨own, tx⟩ := crane u (.inl hu)
    rw [own, tx]
    exact unit u w hu hw
  · obtain ⟨own, tx⟩ := crane u (.inr hu)
    rw [own, tx]
    exact promise u x hu hx

theorem eq_of_partnerAtMost {y : Option Job} (h : PartnerAtMost (some r) y) (hp : r.partner = none) : y = some r := by
  rcases h with rfl | rfl
  · rfl
  · show some r.unpartnered = some r
    unfold Job.unpartnered
    rw [← hp]

/-- A relocation that waits on no job of the cancelled one's unit. -/
structure ServesApart (s : State) (j r : Job) (h : Handle) : Prop where
  waits : j.waitsFor = some r.handle
  job : s.job? r.handle = some r
  kind : r.kind = .relocate
  apart : r.handle ≠ h
  far : ∀ u, j.unit = some u → r.handle ∉ (s.crane u.crane).jobs ∧ ∀ v, r.unit = some v → v.crane ≠ u.crane

/-- The relocation stands until the job it serves has entered CLOSING. -/
theorem Cancelling.servedStands (hc : Cancelling s h j l) (hs : ServesApart s j r h) (hp : r.partner = none)
    (f : Credit → Credit) : (s.recalledFrom j).job? r.handle = some r
      ∧ ((s.recalledFrom j).closeStart h .cancelled false f).job? r.handle = some r := by
  obtain ⟨-, -, other, -, -⟩ := hc.recalled
  have first := other r.handle fun u hu => (hs.far u hu).1
  rw [hs.job] at first
  have there := eq_of_partnerAtMost first hp
  have second := closeStart_partner (s.recalledFrom j) .cancelled false f hs.apart
  rw [there] at second
  exact ⟨there, eq_of_partnerAtMost second hp⟩

theorem Cancelling.relocation (hc : Cancelling s h j l) (retrieve : j.kind = .retrieve) (hs : ServesApart s j r h)
    (served : r.served = some h) (origin : r.origin = .internal) (early : r.state ∈ [JobState.ready, .offered, .enRoute]) :
    RelocationCancelled s (s.cancelled j) j r := by
  have serves : Serves s r h := serves_of_laws hc.work hs.job hs.kind served origin hs.apart
    (by rintro e; rw [e] at early; simp at early)
  have clear : ∀ v, r.unit = some v ∨ r.promised = some v → ∀ u, j.unit = some u → v.crane ≠ u.crane := by
    rintro v (hv | hv) u hu
    · exact (hs.far u hu).2 v hv
    · intro same
      obtain ⟨-, y, hy, -⟩ := serves.promised v hv
      rw [same, hc.unblocked u hu] at hy
      cases hy
  obtain ⟨k, f, ⟨y, rfl⟩, hk, form⟩ := hc.closes
  obtain ⟨there, still⟩ := hc.servedStands hs serves.partner f
  obtain ⟨frame, -, -, cell, wf⟩ := hc.recalled
  have found : (s.recalledFrom j).alsoCancelled { j with partner := y } = some r := by
    rw [State.alsoCancelled, if_pos retrieve, cancelledWith_eq (k := { j with partner := y }) hs.waits there, if_pos early]
  rw [found] at form
  have own := closeStart_own hk .cancelled false f
  rw [show (s.recalledFrom j).owedLinks { j with partner := y } = [l] by simp only [State.owedLinks, hc.origin]] at own
  have cells := closeStart_cells wf hk .cancelled false f
  have closed : Frame [.cells, .jobs, .credit, .events] (s.recalledFrom j)
      ((s.recalledFrom j).closeStart h .cancelled false f) := (Frame.refl _ _).closeStart h .cancelled false f (by simp)
  have wf' := ((Changes.refl (s.recalledFrom j)).closeStart h .cancelled false f).mapWf wf
  have unwinds := close_unwinds (s.recalledFrom j) h .cancelled f (some r)
  generalize (s.recalledFrom j).closeStart h .cancelled false f = n at *
  generalize s.recalledFrom j = m at *
  have whole : Frame (craneParts j.unit ++ [.cells, .jobs, .credit, .events]) s n := frame.trans (closed.mono (by simp))
  have parts : ∀ v, r.unit = some v ∨ r.promised = some v → n.crane v.crane = s.crane v.crane
      ∧ n.tx (.crane v.crane) = s.tx (.crane v.crane) ∧ n.parkOwed v.crane = s.parkOwed v.crane := fun v hv => by
    refine ⟨whole.crane _ ?_, whole.tx _ ?_, congrArg (fun p : Vector Bool 12 => p[v.crane]) (whole .parkOwed (by simp))⟩
    · simp only [List.mem_append, mem_craneParts, not_or, not_exists, not_and]
      exact ⟨fun u hu => ⟨by simpa using clear v hv u hu, by simp⟩, by simp⟩
    · simp only [List.mem_append, mem_craneParts, not_or, not_exists, not_and]
      exact ⟨fun u hu => ⟨by simp, by simpa using clear v hv u hu⟩, by simp⟩
  have ended := (serves.congr_cranes (fun v hv => (parts v hv).1) (still.trans hs.job.symm)).ended own rfl rfl wf'
  have sent := sentOn_frame ((n.cancelRelocation r).closeRetrieveEnd h (some r)) j
  rw [form]
  refine ((ended.cancelled j hc.handle).later (unwinds.cell wf').1 (.sentOn _ j) (sentOn_grows _ j) fun v hv => ⟨?_, ?_⟩).earlier
    (fun l => queue_congr whole (by simp) l) (whole.active (by simp)) (fun b hb => ?_) parts
  · refine sent.crane _ ?_
    simp only [List.mem_append, mem_craneParts, not_or, not_exists, not_and]
    exact ⟨fun u hu => ⟨by simpa using clear v hv u hu, by simp⟩, by simp⟩
  · refine sent.tx _ ?_
    simp only [List.mem_append, mem_craneParts, not_or, not_exists, not_and]
    exact ⟨fun u hu => ⟨by simp, by simpa using clear v hv u hu⟩, by simp⟩
  · have held : ∀ g, g ≠ r.handle → (s.cell b).releasedBy g = s.cell b := fun g hg => by
      rcases hb with hb | ⟨x, hb⟩ <;> simp [Cell.releasedBy, hb, Ne.symm hg]
    have back : m.cell b = s.cell b := cell b fun u hu g hg _ => held g fun e => (hs.far u hu).1 (e ▸ hg)
    rw [cells, back, held h (Ne.symm hs.apart)]
    exact ite_self _

theorem sentOn_job (s : State) (j : Job) (g : Handle) :
    (s.sentOn j).job? g = s.job? g ∨ (s.sentOn j).job? g = (s.job? g).map Job.unpromised := by
  unfold State.sentOn
  cases j.unit with
  | none => exact .inl rfl
  | some u =>
    dsimp only
    unfold State.afterWithdraw
    split
    · rw [finishUnit_job]
      by_cases hr : (s.crane u.crane).redirect.map (·.job) = some g
      · exact .inr (by simp only [hr, if_true])
      · exact .inl (by simp only [hr, if_false, Option.map_id'])
    · split
      · exact .inl (((Frame.refl [.rail, .events] s).fall u.crane _ (by simp)).job? (by simp) g)
      · exact .inl rfl

/-- A relocation already LOADED runs on (R99). -/
theorem Cancelling.loadedRelocation (hc : Cancelling s h j l) (hs : ServesApart s j r h) (loaded : r.state = .loaded)
    (hp : r.partner = none) (unpromised : r.promised = none) : (s.cancelled j).job? r.handle = some r := by
  obtain ⟨k, f, ⟨y, rfl⟩, hk, form⟩ := hc.closes
  obtain ⟨there, still⟩ := hc.servedStands hs hp f
  have found : (s.recalledFrom j).alsoCancelled { j with partner := y } = none := by
    have late : r.state ∉ [JobState.ready, .offered, .enRoute] := by simp [loaded]
    rw [State.alsoCancelled, cancelledWith_eq (k := { j with partner := y }) hs.waits there, if_neg late, ite_self]
  rw [found] at form
  have same : r.unpromised = r := by
    have kept : r.keptCell = r.chosen := by simp only [Job.keptCell, hs.kind]
    unfold Job.unpromised
    rw [kept, ← unpromised]
  have offered : ((((s.recalledFrom j).closeStart h .cancelled false f).alsoCancel none).closeRetrieveEnd h none).job? r.handle =
      some r := (offerClosing_others _ hs.apart).trans still
  rw [form]
  rcases sentOn_job ((((s.recalledFrom j).closeStart h .cancelled false f).alsoCancel none).closeRetrieveEnd h none) j r.handle
    with e | e
  · rw [e, offered]
  · rw [e, offered, Option.map_some, same]

/-! ## The crane of the job -/

/-- The job is in the unit of a crane, on which nothing stands that it waits for. -/
structure OnCrane (s : State) (h : Handle) (j : Job) (u : UnitRef) (w : WorkUnit) : Prop where
  unit : j.unit = some u
  work : (s.crane u.crane).unit = some w
  far : ∀ q, j.waitsFor = some q → q ∉ w.jobs ∧ ∀ g v, s.job? q = some g → g.unit = some v → v.crane ≠ u.crane

/-- Behind the WITHDRAW the job's crane keeps so many steps. -/
theorem Cancelling.jobRecalled (hc : Cancelling s h j l) (on : OnCrane s h j u w) :
    JobRecalled s (s.recalledFrom j) u.crane h w (s.cancelKeep u.crane w h) := by
  unfold State.recalledFrom
  rw [on.unit, hc.handle]
  exact withdrawJob_recalled on.work h

/-- The job cancelled with it, as it stood before. -/
theorem Cancelling.alsoCancelled (hc : Cancelling s h j l) (on : OnCrane s h j u w) {y : Option Handle}
    (hx : (s.recalledFrom j).alsoCancelled { j with partner := y } = some x) : ∃ q g, j.waitsFor = some q ∧ s.job? q = some g
      ∧ x.promised = g.promised ∧ x.unit = g.unit ∧ g.state ≠ .loaded ∧ x.handle = q := by
  have law : HandleLaw (s.recalledFrom j) := by
    unfold State.recalledFrom
    rw [on.unit]
    exact ((Changes.refl s).withdrawJob u.crane j.handle).handleLaw hc.laws.handle
  obtain ⟨-, -, other, -, -⟩ := hc.recalled
  have found : (s.recalledFrom j).cancelledWith { j with partner := y } = some x := by
    unfold State.alsoCancelled at hx
    split at hx
    · exact hx
    · cases hx
  obtain ⟨bound, early⟩ := Option.filter_eq_some_iff.mp found
  obtain ⟨q, hq, hxq⟩ := Option.bind_eq_some_iff.mp bound
  have jobs : (s.crane u.crane).jobs = w.jobs := by
    unfold Crane.jobs
    rw [on.work]
  have old := other q fun v hv => by
    obtain rfl := Option.some.inj (on.unit.symm.trans hv)
    exact jobs ▸ (on.far q hq).1
  have state : x.state ≠ .loaded := by
    rintro e
    rw [e] at early
    simp at early
  rw [hxq] at old
  rcases old with same | same
  · exact ⟨q, x, hq, same.symm, rfl, rfl, state, job?_handle law hxq⟩
  · obtain ⟨g, hg, rfl⟩ := Option.map_eq_some_iff.mp same.symm
    exact ⟨q, g, hq, hg, rfl, rfl, state, job?_handle law hxq⟩

/-- The closing does nothing to the job's crane. -/
theorem Cancelling.spares (hc : Cancelling s h j l) (on : OnCrane s h j u w) (y : Option Handle) (f : Credit → Credit) :
    SparesCrane u.crane (s.recalledFrom j) ((((s.recalledFrom j).closeStart h .cancelled false f).alsoCancel
      ((s.recalledFrom j).alsoCancelled { j with partner := y })).closeRetrieveEnd h
        ((s.recalledFrom j).alsoCancelled { j with partner := y })) := by
  have done := hc.jobRecalled on
  refine close_sparesCrane _ h .cancelled f _ fun x hx => ?_
  obtain ⟨q, g, hq, hg, promised, unit, state, -⟩ := hc.alsoCancelled on hx
  have live := mem_jobs_of_job? hg
  refine ⟨fun v hv => ?_, fun v hv => ?_⟩
  · rintro same
    obtain ⟨z, hz, -⟩ := hc.work.redirect.2 g live v (promised ▸ hv)
    rw [same, hc.unblocked u on.unit] at hz
    cases hz
  · have apart := (on.far q hq).2 g v hg (unit ▸ hv)
    obtain ⟨working, a, e, hm⟩ := crane_of_unit hc.work hg (job?_handle hc.laws.handle hg) state (unit ▸ hv)
    have crane : (s.recalledFrom j).crane v.crane = s.crane v.crane := done.frame.crane _ (by simp [apart])
    refine ⟨apart, by rw [crane]; exact working, a, e, by rw [crane]; exact hm, fun same => ?_⟩
    rw [done.crane] at same
    exact apart (Option.some.inj ((hc.laws.role _ a e hm).symm.trans (hc.laws.role _ a e same)))

/-- The closing leaves the other jobs of the unit as the WITHDRAW has. -/
theorem Cancelling.sparedJob (hc : Cancelling s h j l) (on : OnCrane s h j u w) (hg : g ∈ w.jobs) (hne : g ≠ h)
    (y : Option Handle) (f : Credit → Credit) :
    SparedJob ((s.recalledFrom j).job? g) (((((s.recalledFrom j).closeStart h .cancelled false f).alsoCancel
      ((s.recalledFrom j).alsoCancelled { j with partner := y })).closeRetrieveEnd h
        ((s.recalledFrom j).alsoCancelled { j with partner := y })).job? g) := by
  refine close_sparedJob _ .cancelled f _ hne fun x hx same => ?_
  obtain ⟨q, -, hq, -, -, -, -, handle⟩ := hc.alsoCancelled on hx
  rw [← handle, ← same] at hq
  exact (on.far g hq).1 hg

/-- A partner left without a step is READY (R52). -/
theorem Cancelling.partnerReady (hc : Cancelling s h j l) (on : OnCrane s h j u w)
    (hg : g ∈ w.leaving (s.cancelKeep u.crane w h) h) (hk : s.job? g = some k) :
    ∃ k', (s.cancelled j).job? g = some k' ∧ k'.state = .ready ∧ k'.unit = none ∧ k'.partner = none := by
  obtain ⟨i, f, ⟨y, rfl⟩, -, form⟩ := hc.closes
  obtain ⟨mem, ne, -⟩ := mem_leaving.mp hg
  have left := (hc.jobRecalled on).left g hg
  rw [hk] at left
  have spared := (hc.sparedJob on mem ne y f).trans (sentOn_spared _ j g)
  rw [← form] at spared
  obtain ⟨F, job, keeps⟩ := spared
  rw [left] at job
  obtain ⟨state, unit, partner⟩ := keeps k.returned
  exact ⟨_, job, state, unit, partner.elim id id⟩

/-- What the closing leaves of the job's crane. -/
structure CraneBehind (s t : State) (c : CraneId) (w : WorkUnit) (keep : Nat) : Prop where
  crane : ∃ z, t.crane c = { s.crane c with unit := some (w.keeping keep), deadline := z }
  tx : t.tx (.crane c) = s.tx (.crane c) ++ [.withdraw w.number keep]
  owed : t.parkOwed c = s.parkOwed c
  interval : IntervalIs s t c id
  geometry : SameGeometry s t

theorem Cancelling.behind (hc : Cancelling s h j l) (on : OnCrane s h j u w) : ∃ t, s.cancelled j = t.afterWithdraw u.crane
    ∧ CraneBehind s t u.crane w (s.cancelKeep u.crane w h)
    ∧ ∀ g ∈ w.jobs, g ≠ h → g ∉ w.leaving (s.cancelKeep u.crane w h) h → SparedJob (s.job? g) (t.job? g) := by
  obtain ⟨i, f, ⟨y, rfl⟩, -, form⟩ := hc.closes
  have done := hc.jobRecalled on
  have spares := hc.spares on y f
  have spared := fun g hg hne => hc.sparedJob (g := g) on hg hne y f
  unfold State.sentOn at form
  simp only [on.unit] at form
  refine ⟨_, form, ⟨⟨_, spares.crane.trans done.crane⟩, spares.tx.trans done.tx, ?_, ?_, fun a => ?_⟩,
    fun g hg hne left => (done.kept g left).spared.trans (spared g hg hne)⟩
  · exact spares.owed.trans (congrArg (fun p : Vector Bool 12 => p[u.crane]) (done.frame .parkOwed (by simp)))
  · have first : IntervalIs s (s.recalledFrom j) u.crane id :=
      .of_rail (by rw [done.crane]) fun b => congrArg (·[b]) (done.frame .rail (by simp))
    exact first.trans spares.interval
  · exact (spares.geometry a).trans (done.frame.geometry (by simp) a)

theorem CraneBehind.bay (hb : CraneBehind s t c w keep) : t.craneBay c = s.craneBay c := by
  obtain ⟨z, crane⟩ := hb.crane
  exact hb.geometry.craneBay (by rw [crane]) (by rw [crane]) (by rw [crane]) (by rw [crane])

theorem CraneBehind.remaining (hb : CraneBehind s t c w keep) :
    (t.crane c).remaining = (w.steps.take keep).drop (w.current - 1) := by
  obtain ⟨z, crane⟩ := hb.crane
  rw [crane]
  rfl

/-- The crane where no step kept is still to end (R129, R130). -/
structure UnitTakenBack (s t : State) (c : CraneId) : Prop where
  unit : (t.crane c).unit = none
  offerTimer : (t.crane c).offerTimer = none
  state : (t.crane c).state = s.afterWork c
  interval : IntervalIs s t c fun i => s.parkWidened c (s.afterWork c) (i.fallen (s.craneBay c) [])

theorem CraneBehind.takenBack (hb : CraneBehind s t c w keep) (hm : (s.crane c).mapping = some (a, e))
    (hs : (s.crane c).state ∈ [CraneState.offered, .working]) (none_ : (w.steps.take keep).drop (w.current - 1) = []) :
    UnitTakenBack s (t.afterWithdraw c) c := by
  have form : t.afterWithdraw c = t.finishUnit c := by
    unfold State.afterWithdraw
    rw [if_pos (hb.remaining.trans none_)]
  obtain ⟨z, crane⟩ := hb.crane
  have bay := hb.bay
  have goes := finishUnit_over (s := t) (c := c) (a := a) (e := e) (by rw [crane]; exact hm) (by rw [crane]; exact hs)
  have after : t.afterWork c = s.afterWork c := by
    unfold State.afterWork
    rw [hb.owed, crane]
  obtain ⟨mapping, unit, timer, -, state, -⟩ := goes.crane
  rw [form]
  refine ⟨unit, timer, state.trans after, ?_⟩
  have last := goes.moves.interval (c := c) (by rw [crane]; exact hm) (by rw [mapping, crane]; exact hm)
  rw [after, hb.geometry.parkWidened (by rw [crane]), bay] at last
  exact hb.interval.trans last

theorem CraneBehind.sent (hb : CraneBehind s t c w keep) (hm : (s.crane c).mapping = some (a, e))
    (hs : (s.crane c).state ∈ [CraneState.offered, .working]) :
    ∃ more, (t.afterWithdraw c).tx (.crane c) = s.tx (.crane c) ++ .withdraw w.number keep :: more := by
  obtain ⟨z, crane⟩ := hb.crane
  have grows : ∃ more, (t.afterWithdraw c).tx (.crane c) = t.tx (.crane c) ++ more := by
    unfold State.afterWithdraw
    split
    · exact (finishUnit_over (s := t) (a := a) (e := e) (by rw [crane]; exact hm) (by rw [crane]; exact hs)).tx
    · split
      · exact ⟨[], (((Frame.refl [.rail, .events] t).fall c _ (by simp)).tx _ (by simp)).trans (List.append_nil _).symm⟩
      · exact ⟨[], (List.append_nil _).symm⟩
  obtain ⟨more, e⟩ := grows
  exact ⟨more, by rw [e, hb.tx, List.append_assoc]; rfl⟩

/-! ## The LOADED job of the crane -/

theorem loadedOn_isSome (hu : (s.crane c).unit = some w) :
    (s.loadedOn c).isSome = true ↔ ∃ g ∈ w.jobs, ∃ k, s.job? g = some k ∧ k.state = .loaded := by
  unfold State.loadedOn State.loadedJob
  rw [hu]
  dsimp only
  rw [List.find?_isSome]
  refine exists_congr fun g => and_congr_right fun _ => ?_
  cases s.job? g with
  | none => simp
  | some k => simp

/-- The steps before a job's first are none of its own. -/
theorem before_apart (w : WorkUnit) (h : Handle) : ∀ x ∈ w.steps.take (w.before h), x.job ≠ h := by
  unfold WorkUnit.before
  intro x hx
  rw [← List.prefix_iff_eq_take.mp (List.takeWhile_prefix _)] at hx
  simpa using List.mem_takeWhile_imp hx

/-- A LOADED partner's drop is kept where any step still to end is (R50, R129). -/
theorem Cancelling.loadedKept (hc : Cancelling s h j l) (on : OnCrane s h j u w)
    (hm : (s.crane u.crane).mapping = some (a, e)) (hg : g ∈ w.jobs) (hne : g ≠ h) (hk : s.job? g = some k)
    (loaded : k.state = .loaded) (some_ : (w.steps.take keep).drop (w.current - 1) ≠ []) :
    ∃ x ∈ w.steps.take keep, x.job = g := by
  obtain ⟨-, -, whole, each, -, pair⟩ := hc.work.steps u.crane a e w hm on.work
  obtain ⟨w', hw', mem⟩ := hc.unit on.unit
  obtain rfl := Option.some.inj (on.work.symm.trans hw')
  have notAlone : ∀ i, w.jobs ≠ [i] := fun i e => by
    rw [e, List.mem_singleton] at hg mem
    exact hne (hg.trans mem.symm)
  have unstranded : ∀ i ∈ w.jobs, ∀ z, s.job? i = some z → z.stranded = false := fun i hi z hz => by
    obtain ⟨-, stranded⟩ := each i hi z hz
    by_contra yes
    exact notAlone i (stranded (by simpa using yes)).1
  have remaining := whole unstranded
  match hj : w.jobs with
  | [] => simp [hj] at hg
  | [i] => exact absurd hj (notAlone i)
  | p :: q :: more =>
    obtain ⟨rfl, ⟨y, hy, store, -⟩, z, hz, -, -, unloaded⟩ := pair p q more hj
    have first : g = p := by
      rw [hj, List.mem_cons, List.mem_singleton] at hg
      rcases hg with e | e
      · exact e
      · rw [e] at hk
        obtain rfl := Option.some.inj (hk.symm.trans hz)
        exact absurd loaded unloaded
    subst first
    obtain rfl := Option.some.inj (hk.symm.trans hy)
    have handle := job?_handle hc.laws.handle hk
    obtain ⟨x, rest, split_, job⟩ : ∃ x rest, w.steps.drop (w.current - 1) = x :: rest ∧ x.job = g := by
      refine ⟨{ action := .drop, place := .cell (k.chosen.getD absentCell), job := k.handle }, z.stepsLeft a e, ?_, handle⟩
      refine remaining.trans ?_
      rw [hj]
      simp [hk, hz, Job.stepsLeft, loaded, Job.allSteps, store, storeSteps]
    refine ⟨x, ?_, job⟩
    rw [List.drop_take, split_] at some_
    have within : 0 < keep - (w.current - 1) := by
      by_contra none_
      rw [Nat.eq_zero_of_not_pos none_, List.take_zero] at some_
      exact some_ rfl
    refine List.mem_of_mem_drop (i := w.current - 1) ?_
    rw [List.drop_take, split_]
    obtain ⟨n, hn⟩ := Nat.exists_eq_succ_of_ne_zero (Nat.ne_of_gt within)
    rw [hn, List.take_succ_cons]
    exact List.mem_cons_self

/-- The crane where a step kept is still to end (R115, R130; log entry 43). -/
structure UnitKept (s t : State) (c : CraneId) (w : WorkUnit) (keep : Nat) : Prop where
  state : (t.crane c).state = (s.crane c).state
  steps : (t.crane c).unit.map (·.steps) = some (w.steps.take keep)
  interval : IntervalIs s t c fun i => if s.loadedOn c = none then i else
    i.fallen (s.craneBay c) (s.stepBays ((w.steps.take keep).drop (w.current - 1)))

theorem CraneBehind.kept (hb : CraneBehind s t c w keep) (hm : (s.crane c).mapping = some (a, e))
    (some_ : (w.steps.take keep).drop (w.current - 1) ≠ []) (loaded : (t.loadedOn c).isSome = true ↔ s.loadedOn c ≠ none) :
    UnitKept s (t.afterWithdraw c) c w keep := by
  obtain ⟨z, crane⟩ := hb.crane
  have bay := hb.bay
  have remaining := hb.remaining
  have mapped : (t.crane c).mapping = some (a, e) := by rw [crane]; exact hm
  unfold State.afterWithdraw
  rw [if_neg (by rw [remaining]; exact some_)]
  by_cases hl : s.loadedOn c = none
  · rw [if_neg (by rw [loaded]; simpa using hl)]
    refine ⟨by rw [crane], by rw [crane]; rfl, ?_⟩
    simp only [hl, if_true]
    exact hb.interval
  · rw [if_pos (loaded.mpr hl)]
    have fell : Frame [.rail, .events] t (t.fall c (t.stepBays (t.crane c).remaining)) := (Frame.refl _ t).fall c _ (by simp)
    have same := fell.crane c (by simp)
    have last := (fall_moves mapped (t.stepBays (t.crane c).remaining)).interval mapped (by rw [same]; exact mapped)
    rw [bay, remaining, hb.geometry.stepBays] at last
    rw [remaining, hb.geometry.stepBays] at same
    rw [remaining, hb.geometry.stepBays]
    refine ⟨by rw [same, crane], by rw [same, crane]; rfl, ?_⟩
    simp only [hl, if_false]
    exact hb.interval.trans last

/-- The crane has a LOADED job behind the closing where it had one before. -/
theorem Cancelling.loadedOn (hc : Cancelling s h j l) (on : OnCrane s h j u w)
    (hm : (s.crane u.crane).mapping = some (a, e)) (apart : ∀ x ∈ w.steps.take keep, x.job ≠ h)
    (some_ : (w.steps.take keep).drop (w.current - 1) ≠ []) (hb : CraneBehind s t u.crane w keep)
    (spared : ∀ g ∈ w.jobs, g ≠ h → g ∉ w.leaving keep h → SparedJob (s.job? g) (t.job? g)) :
    (t.loadedOn u.crane).isSome = true ↔ s.loadedOn u.crane ≠ none := by
  obtain ⟨z, crane⟩ := hb.crane
  have behind := loadedOn_isSome (s := t) (c := u.crane) (w := w.keeping keep) (by rw [crane])
  have before := loadedOn_isSome on.work
  rw [behind, ← Option.isSome_iff_ne_none, before]
  have kept : ∀ g, g ∈ (w.keeping keep).jobs ↔ g ∈ w.jobs ∧ ∃ x ∈ w.steps.take keep, x.job = g := fun g => by
    simp [WorkUnit.keeping]
  have stays : ∀ g ∈ (w.keeping keep).jobs, g ∈ w.jobs ∧ SparedJob (s.job? g) (t.job? g) := fun g hg => by
    obtain ⟨mem, x, hx, job⟩ := (kept g).mp hg
    exact ⟨mem, spared g mem (fun same => apart x hx (job.trans same)) fun left => (mem_leaving.mp left).2.2 x hx job⟩
  constructor
  · rintro ⟨g, hg, k, hk, loaded⟩
    obtain ⟨mem, F, job, keeps⟩ := stays g hg
    rw [hk] at job
    obtain ⟨i, hi, rfl⟩ := Option.map_eq_some_iff.mp job.symm
    exact ⟨g, mem, i, hi, (keeps i).1.symm.trans loaded⟩
  · rintro ⟨g, hg, k, hk, loaded⟩
    have ne : g ≠ h := fun same => by
      subst same
      obtain rfl := Option.some.inj (hc.job.symm.trans hk)
      exact hc.notLoaded loaded
    have still := (kept g).mpr ⟨hg, hc.loadedKept on hm hg ne hk loaded some_⟩
    obtain ⟨-, F, job, keeps⟩ := stays g still
    exact ⟨g, still, F k, by rw [job, hk]; rfl, (keeps k).1.trans loaded⟩

/-! ## The refusals and the matched pallet -/

section Refusals

variable {p : List Byte} (r : State)

theorem cancel_unread (h : decodeHandle p = none) : r.cancel l p = r.refuse .badField := by
  rw [State.cancel, h, State.withField_none]

variable (hp : decodeHandle p = some h)
include hp

theorem cancel_noSuchJob (hj : ∀ j, r.job? h = some j → j.state = .closing) : r.cancel l p = r.refuse .noSuchJob := by
  have closed : r.openJob? h = none := by
    unfold State.openJob?
    cases hk : r.job? h with
    | none => rfl
    | some k => exact if_pos (hj k hk)
  rw [State.cancel, hp, State.withField_some, closed]

variable (hj : r.job? h = some j) (open_ : j.state ≠ .closing)
include hj open_

theorem cancel_open : r.cancel l p =
    if j.origin ≠ .order l then r.refuse .notOwner
    else if j.state = .loaded then r.refuse .tooLate
    else if r.redirectBlocks j then r.refuse .busy
    else (r.cancelJob j).ok (.cancelled j.state) := by
  have found : r.openJob? h = some j := by
    unfold State.openJob?
    rw [hj]
    exact if_neg open_
  rw [State.cancel, hp, State.withField_some, found]

end Refusals

theorem redirectBlocks_iff : s.redirectBlocks j = true ↔
    j.promised ≠ none ∨ ∃ u, j.unit = some u ∧ (s.crane u.crane).redirect ≠ none := by
  unfold State.redirectBlocks
  cases j.unit with
  | none => simp [Option.isSome_iff_ne_none]
  | some u => simp [Option.isSome_iff_ne_none]

/-- The input records alone may change where a matched pallet stands UNCLAIMED again (R159). -/
theorem unmatch_eq (s : State) (j : Job) : ∃ x, s.unmatch j = { s with swu := { s.swu with inputs := x } } := by
  unfold State.unmatch
  split
  · split
    · exact ⟨_, rfl⟩
    · exact ⟨s.swu.inputs, rfl⟩
  · exact ⟨s.swu.inputs, rfl⟩

theorem unmatch_input {x : Pallet} (hk : j.kind = .store) (he : j.storeEnd = e)
    (hi : s.input j.aisle e = .matched x j.handle) : (s.unmatch j).input j.aisle e = .unclaimed x := by
  subst he
  have form : s.unmatch j = s.setInput j.aisle j.storeEnd (.unclaimed x) := by
    unfold State.unmatch
    rw [hi]
    exact if_pos ⟨rfl, hk⟩
  rw [form]
  simp [State.input, State.setInput, PerEnd.get_set]

theorem cancelled_frame (s : State) (j : Job) : Frame (Part.cranes ++ Part.craneTxs ++ [.rail, .holdBack, .parkOwed, .holds,
    .profiles, .cells, .jobs, .pool, .credit, .waves, .queue, .events]) s (s.cancelled j) := by
  have close : ∀ m : State, Frame (Part.cranes ++ Part.craneTxs ++ [.rail, .holdBack, .parkOwed, .holds, .profiles, .cells,
      .jobs, .pool, .credit, .waves, .queue, .events]) m (m.close j.handle .cancelled false Credit.unbind) :=
    fun m => (Frame.refl _ m).close j.handle .cancelled false Credit.unbind (by simp)
  unfold State.cancelled State.recalledFrom State.sentOn
  cases j.unit with
  | none => exact close s
  | some u => exact (((Frame.refl _ s).withdrawJob u.crane j.handle (by simp)).trans (close _)).afterWithdraw u.crane (by simp)

/-! ## The statement -/

/-- The state in which a CANCEL finds the part, once a matched pallet stands UNCLAIMED, obeys the laws. -/
theorem cancelling_of_laws {i : Instr} (laws : Lawful s) (work : WorkLawful s) (hj : s.job? h = some j)
    (hk : j.kind ≠ .relocate) (ho : j.origin = .order l) (open_ : j.state ≠ .closing) (notLoaded : j.state ≠ .loaded)
    (hp : j.promised = none) (hr : ∀ u, j.unit = some u → (s.crane u.crane).redirect = none) :
    Cancelling ((s.heard i (.order l)).unmatch j) h j l := by
  obtain ⟨x, form⟩ := unmatch_eq (s.heard i (.order l)) j
  rw [form]
  exact {
    laws := ⟨laws.map, laws.pair, laws.gack, laws.queue, laws.strike, laws.wave, laws.age, laws.handle, laws.role⟩
    work := ⟨work.reservation, work.unit, work.crane, work.steps, work.redirect, work.job, work.credit, work.window⟩
    job := hj
    handle := job?_handle laws.handle hj
    kind := hk
    origin := ho
    notClosing := open_
    notLoaded := notLoaded
    unpromised := hp
    unblocked := hr }

theorem cancelKeep_offered (hs : (s.crane c).state = .offered) (w : WorkUnit) (h : Handle) : s.cancelKeep c w h = 0 := by
  simp only [State.cancelKeep, hs]

theorem cancelKeep_working (hs : (s.crane c).state ≠ .offered) (w : WorkUnit) (h : Handle) :
    s.cancelKeep c w h = w.before h := by
  unfold State.cancelKeep
  split
  · next e => exact absurd e hs
  · rfl

/-- The job's notice (R58, R203; log entry 19). -/
theorem cancelled_notice (hk : j.kind ≠ .relocate) (hh : j.handle = h) : j.closingNotice .cancelled false =
    .jobClosed h j.reference j.kind .cancelled j.overdue (if j.kind = .retrieve ∧ j.carried ≠ none then j.chosen else none) := by
  unfold Job.closingNotice Job.closedCell
  cases kind : j.kind with
  | store => simp [hh]
  | retrieve =>
    cases carried : j.carried <;> simp [hh]
  | relocate => exact absurd kind hk

/-- The cell chosen for the job is EMPTY or FULL again (R57). -/
theorem Cancelling.chosenFreed (hc : Cancelling s h j l) (hb : j.chosen = some b) :
    ((s.cell b).state = .inReserved h → (s.cancelled j).cell b = { s.cell b with state := .empty })
      ∧ ∀ k, (s.cell b).state = .outReserved h k → (s.cancelled j).cell b = { s.cell b with state := .full k } := by
  refine ⟨fun hs => ?_, fun k hs => ?_⟩
  · have freed : (s.cell b).releasedBy h = { s.cell b with state := .empty } := by simp [Cell.releasedBy, hs]
    rw [hc.freed hb (fun g hg => by simp [Cell.releasedBy, hs, Ne.symm hg]) (by rw [freed]; rfl), freed]
  · have freed : (s.cell b).releasedBy h = { s.cell b with state := .full k } := by simp [Cell.releasedBy, hs]
    rw [hc.freed hb (fun g hg => by simp [Cell.releasedBy, hs, Ne.symm hg]) (by rw [freed]; rfl), freed]

/-- Who leaves the crane with the job: all where it is OFFERED, else who is left without a step. -/
theorem mem_leaving_cancelKeep (hg : g ∈ w.jobs) (hne : g ≠ h)
    (left : (s.crane c).state = .offered ∨ ∀ x ∈ w.steps.take (w.before h), x.job ≠ g) :
    g ∈ w.leaving (s.cancelKeep c w h) h := by
  refine mem_leaving.mpr ⟨hg, hne, ?_⟩
  by_cases hs : (s.crane c).state = .offered
  · rw [cancelKeep_offered hs]
    simp
  · rw [cancelKeep_working hs]
    exact left.resolve_left hs

/-- An offer is withdrawn whole (R130). -/
theorem Cancelling.offerWithdrawn (hc : Cancelling s h j l) (on : OnCrane s h j u w)
    (hs : (s.crane u.crane).state = .offered) :
    (∃ more, (s.cancelled j).tx (.crane u.crane) = s.tx (.crane u.crane) ++ .withdraw w.number 0 :: more)
      ∧ UnitTakenBack s (s.cancelled j) u.crane := by
  obtain ⟨states, a, e, hm⟩ := crane_of_unit hc.work hc.job hc.handle hc.notLoaded on.unit
  obtain ⟨t, form, behind, -⟩ := hc.behind on
  rw [cancelKeep_offered hs] at behind
  rw [form]
  exact ⟨behind.sent hm states, behind.takenBack hm states (by simp)⟩

/-- A crane at work keeps the steps before the job's own (R130). -/
theorem Cancelling.workCut (hc : Cancelling s h j l) (on : OnCrane s h j u w) (hs : (s.crane u.crane).state ≠ .offered) :
    (∃ more, (s.cancelled j).tx (.crane u.crane) = s.tx (.crane u.crane) ++ .withdraw w.number (w.before h) :: more)
      ∧ ((w.steps.take (w.before h)).drop (w.current - 1) = [] → UnitTakenBack s (s.cancelled j) u.crane)
      ∧ ((w.steps.take (w.before h)).drop (w.current - 1) ≠ [] → UnitKept s (s.cancelled j) u.crane w (w.before h)) := by
  obtain ⟨states, a, e, hm⟩ := crane_of_unit hc.work hc.job hc.handle hc.notLoaded on.unit
  obtain ⟨t, form, behind, spared⟩ := hc.behind on
  rw [cancelKeep_working hs] at behind spared
  rw [form]
  exact ⟨behind.sent hm states, behind.takenBack hm states,
    fun some_ => behind.kept hm some_ (hc.loadedOn on hm (before_apart w h) some_ behind spared)⟩

theorem replied_craneTx (t : State) (l : OrderLink) (x : Reply) (c : CraneId) :
    (t.replied (.order l) x).tx (.crane c) = t.tx (.crane c) :=
  (State.setTx_tx ..).trans (if_neg (by simp))

theorem heard_active {a : OrderLink} (s : State) (i : Instr) (l : OrderLink) (h : s.liu.active.get a = true) :
    (s.heard i (.order l)).liu.active.get a = true := by
  change (s.liu.active.set l true).get a = true
  rw [PerLink.get_set]
  split
  · rfl
  · exact h

/-- Neither the state the command was heard in nor the reply bears on it. -/
theorem RelocationCancelled.answered {i : Instr} {y : Vector (PerEnd InputRecord) 8} {q : Job} {x : Reply}
    (hr : RelocationCancelled { s.heard i (.order l) with swu := { (s.heard i (.order l)).swu with inputs := y } } t q r) :
    RelocationCancelled s (t.replied (.order l) x) q r := by
  obtain ⟨gone, closing, chosen, target, unit, redirect⟩ := hr
  refine ⟨fun room => ?_, closing, chosen, target, fun u w hu hw => ?_, fun u w hu hw => ?_⟩
  · obtain ⟨gone, told⟩ := gone room
    exact ⟨gone, fun a ha => told a (heard_active s i l ha)⟩
  · rw [replied_craneTx]
    exact unit u w hu hw
  · rw [replied_craneTx]
    exact redirect u w hu hw

/-- Settles O35: the refusals of CANCEL in order, and what the closing of the job does, part by part. -/
theorem cancelChecksThenCloses : Obligations.CancelChecksThenCloses := by
  intro s l p hears
  let r := s.heard (.cancel l p) (.order l)
  have refused : ∀ x, r.cancel l p = r.refuse x →
      exec (.cancel l p) s = .next (s.refused (.cancel l p) (.order l) 0x03 x) := fun x h => exec_refuse rfl hears h
  refine ⟨fun h => refused _ (cancel_unread r h), fun h hp => ⟨fun hj => refused _ (cancel_noSuchJob r hp hj),
    fun j hj open_ => ?_⟩⟩
  have form := cancel_open (l := l) r hp hj open_
  refine ⟨fun ho => refused _ ?_, fun ho loaded => refused _ ?_, fun ho notLoaded blocked => refused _ ?_,
    fun ho notLoaded unpromised unblocked hk laws _ work => ?_⟩
  · rw [form, if_pos ho]
  · rw [form, if_neg (not_not_intro ho), if_pos loaded]
  · rw [form, if_neg (not_not_intro ho), if_neg notLoaded, if_pos (redirectBlocks_iff (s := r).mpr blocked)]
  · have unblocks : ¬ r.redirectBlocks j = true := fun yes => by
      rcases redirectBlocks_iff.mp yes with h | ⟨u, hu, h⟩
      · exact h unpromised
      · exact h (unblocked u hu)
    rw [if_neg (not_not_intro ho), if_neg notLoaded, if_neg unblocks, cancelJob_eq] at form
    have hc := cancelling_of_laws (i := .cancel l p) laws work hj hk ho open_ notLoaded unpromised unblocked
    have hh := hc.handle
    have frame := cancelled_frame (r.unmatch j) j
    have tx : ((r.unmatch j).cancelled j).tx (.order l) = r.tx (.order l) := by
      obtain ⟨x, same⟩ := unmatch_eq r j
      rw [frame.tx _ (by simp), same]
      rfl
    have input : ∀ e x, j.kind = .store → j.end_ = jobEnd e → s.input j.aisle e = .matched x h →
        ((r.unmatch j).cancelled j).input j.aisle e = .unclaimed x := fun e x kind he hi => by
      rw [input_congr frame (by simp)]
      exact unmatch_input (s := r) kind (Job.storeEnd_of_end he) (hh ▸ hi)
    obtain ⟨y, same⟩ := unmatch_eq r j
    have first := hc.first
    rw [cancelled_notice hk hh] at first
    rw [same] at hc first form tx input
    refine ⟨_, exec_done rfl hears form tx (b := false), (State.setTx_tx ..).trans ((if_pos rfl).trans (congrArg (· ++ _) tx)),
      first.placed, fun full => ?_, input, hc.idle, fun c => hc.chosenFreed, fun u hu w hw g hg hne left k hkj kind d hd x hx =>
      hc.freedPartner hu hw (mem_leaving_cancelKeep hg hne left) hkj kind hd hx,
      fun q kind waits hq relocate served origin apart far => ⟨fun early => ?_, fun loaded hp un =>
        hc.loadedRelocation ⟨waits, hq, relocate, apart, far⟩ loaded hp un⟩,
      fun u w hu hw hs far => ?_, fun u w hu hw hs far => ?_⟩
    · obtain ⟨⟨k, job, closing, outcome⟩, more⟩ := first.waits full
      exact ⟨k, job, closing, outcome, more, fun none_ => hc.waits none_ full⟩
    · have cancelled := hc.relocation kind ⟨waits, hq, relocate, apart, far⟩ served origin early
      exact cancelled.answered (y := y)
    · have on : OnCrane { r with swu := { r.swu with inputs := y } } h j u w := ⟨hu, hw, far⟩
      obtain ⟨⟨more, sent⟩, unit, timer, state, interval⟩ := hc.offerWithdrawn on hs
      exact ⟨⟨more, (replied_craneTx ..).trans sent⟩, unit, timer, state, interval, fun g hg hne k hk =>
        hc.partnerReady on (mem_leaving_cancelKeep hg hne (.inl hs)) hk⟩
    · have on : OnCrane { r with swu := { r.swu with inputs := y } } h j u w := ⟨hu, hw, far⟩
      obtain ⟨⟨more, sent⟩, done, kept⟩ := hc.workCut on hs
      exact ⟨⟨more, (replied_craneTx ..).trans sent⟩, fun none_ => ⟨(done none_).unit, (done none_).state, (done none_).interval⟩,
        fun some_ => ⟨(kept some_).state, (kept some_).steps, (kept some_).interval⟩, fun g hg hne left k hk =>
        hc.partnerReady on (mem_leaving_cancelKeep hg hne (.inr left)) hk⟩

end Sys2Proof.Machine
end
